-- ==== Sys2Proof/Word.lean ====
section
/-! DEFINITION. The word types of the model: a byte, the 64-bit word of a record (R12) and the widths a register may have. -/
namespace Sys2Proof

/-- One byte of memory. -/
abbrev Byte := BitVec 8

/-- A 64-bit little-endian word of a record (R10, R12), and the width in which an object-dictionary entry is held. -/
abbrev Word := BitVec 64

/-- The A32 internal accumulator form: 1 sign, 8 exponent and 23 fraction bits (R72). -/
abbrev A32 := BitVec 32

end Sys2Proof
end

