-- ==== Sys2Proof/Machine/Wire.lean ====
section
/-! DEFINITION. What crosses the module's connectors: fabric packets (R397), flits (R376), management messages (R784), and what the outside world shows the module at an event. -/
namespace Sys2Proof.Machine

/-- A fabric packet (R397): the header's fields, each as wide as the table gives it, and the data bytes; LEN_M1 is one below their number.
`resv` holds the header's reserved bits as one number, zero in a packet that respects them (R400). -/
structure Packet where
  kind : Nat := 0
  cls : Nat := 0
  vc : Nat := 0
  dst : Nat := 0
  src : Nat := 0
  flow : Nat := 0
  tag : Nat := 0
  xfer : Nat := 0
  pktsM1 : Nat := 0
  pkt : Nat := 0
  addr : Nat := 0
  stamp : Nat := 0
  resv : Nat := 0
  data : List Byte := []
  /-- Not of the packet itself: the die where it came into the module, as Mesh numbers the dies. -/
  die : Nat := 18
  deriving DecidableEq, Repr

/-- A flit as a link receives or sends it (R376): its sixteen words, and for one received the symbols in error, lane by lane, of the codeword that ends with it (R379). -/
structure Flit where
  words : List Word := []
  errs : List Nat := [0, 0, 0, 0, 0]
  deriving DecidableEq, Repr

/-- A Tchioz message (R784) as it arrives: by the mailbox or from the segment, whether its IPv4 source is the manager's address (R786), whether it came inside a secured session (R819), the header's fields and the payload. TYPE is that of the row it stands in. -/
structure MgmtMsg where
  mailbox : Bool := false
  fromManager : Bool := true
  secured : Bool := false
  ver : Nat := 1
  resv : Nat := 0
  src : Nat := 0
  dst : Nat := 0xFF
  seq : Nat := 0
  len : Nat := 0
  payload : List Byte := []
  deriving DecidableEq, Repr

/-- What one training of a link finds (R370, R371, R373, R394): the measured error rate of each lane, the lanes that lock, the neighbour's identity, and the skew against the bond's lead in 1/16 ns. -/
structure Training where
  errs : List Nat := [0, 0, 0, 0, 0]
  lock : List Bool := [true, true, true, true, true]
  serial : Nat := 0
  link : Nat := 0
  addr : Nat := 0xFFFF
  bond : Nat := 0
  skew : Nat := 0
  deriving DecidableEq, Repr

/-- What the data of a TIME packet say (R435, R437): a request, or an answer with the stamps t1 and t2 of the request; and the sender's hop count. t3 is the answer's STAMP (R397). -/
inductive TimeMsg where
  | request (hops : Nat)
  | answer (t1 t2 hops : Nat)
  deriving DecidableEq, Repr

/-- Who executes a TIER_MOVE or ends in CMD.TIME (R158): a core, the hub die by the context whose command it is, an update engine, a reduction engine by context, or the media die by context. -/
inductive Consumer where
  | core (n : Nat)
  | hub (ctx : Nat)
  | update (c : Nat)
  | reduction (ctx : Nat)
  | media (ctx : Nat)
  deriving DecidableEq, Repr

/-- A request presented at an arbiter (R643, R653): the requester's number (0 to 15 a partition, 16 unowned traffic or the fabric, 17 to 19 the classes TC1 to TC3 of a link output, 20 and 21 the parked requesters in rank order), the units it asks for, whether it is spare (R641), its bytes, and the regulator class and instance it passes. -/
structure Request where
  who : Nat
  units : Nat
  spare : Bool := false
  bytes : Nat := 0
  regClass : Option Nat := none
  regInst : Nat := 0
  deriving DecidableEq, Repr

/-- A unit under self-test (R826): UNIT_KIND and instance as R849 numbers them. -/
structure TestUnit where
  kind : Nat
  inst : Nat
  deriving DecidableEq, Repr

/-- What a self-test slice found (R828, R839, R842, R843): the coverage it added, and the failure if any: the repair KIND it calls for, whether it can be corrected or withheld, and the record's address, DETAIL0, DETAIL1 and LOCATION. -/
inductive SliceResult where
  | pass (covered : Nat)
  | fail (covered kind : Nat) (correctable withhold : Bool) (addr detail0 detail1 location : Nat)
  deriving DecidableEq, Repr

/-- What a start-up stage meets (R888, R890): it ends well, or fails with a fault of the list; stage 5 to 7 carry what was found. -/
structure StageResult where
  ok : Bool := true
  /-- Stage 6: physical cores found failed (R845, R847). -/
  badCores : List Nat := []
  /-- Stage 6: a unit that cannot be withheld failed again (R847). -/
  unitFail : Bool := false
  /-- Stage 7: pseudo-channels, as 32 s + j, found failed in training (R261). -/
  badChannels : List Nat := []
  /-- Stage 7: a Cellar package did not train (R315). -/
  cellarBad : Bool := false
  /-- Stage 7: Attic recovery was not completed (R363). -/
  atticLost : Bool := false
  /-- Stage 5: a sensor that took part in a trip still reads 95 °C or above (R882). -/
  stillHot : Bool := false
  deriving DecidableEq, Repr

end Sys2Proof.Machine
end

