-- ==== Sys2Proof/Syntax.lean ====
section
/-! DEFINITION. The commands of the block: one constructor for each row of the operation and event table, with the operands that say what arrives or happens. -/
namespace Sys2Proof

open Machine

/-- One row of the table of operations and events, with its operands. A number that names an object (a core n, a context cc, a partition p, a link l, a cellar die c, an island isl) is the one the object dictionary uses. -/
inductive Instr where
  /-- NOP (R158): A NOP command executes on a core with all words 2 to 7 reserved, and only its completion record is written. -/
  | nop (n : Nat)
  /-- MATMUL (R178): A MATMUL command computes C := A × B over its grid of output tiles, in its loop order, with the epilogue applied as each tile is drained. -/
  | matmul (n : Nat)
  /-- TILE_DRAIN (R178): After a matrix engine has written back a closed output tile, the vector engine drains it through the epilogue into the result and frees its accumulator slot, so that a waiting tile can open. -/
  | tileDrain (n : Nat)
  /-- CONV (R225): A forward CONV computes a stripe of dense convolution on the matrix engines, with padding, flip and epilogue, and optionally sets row-board bits. -/
  | conv (n : Nat)
  /-- CONV_WGRAD (R228): A CONV with WGRAD = 1 computes the weight gradient from X and the output gradient Y. -/
  | convWgrad (n : Nat)
  /-- DWCONV (R238): A DWCONV command computes depthwise or narrow grouped convolution segment by segment on the vector engine's sliding-window path, using the shelf. -/
  | dwconv (n : Nat)
  /-- POOL (R243): A POOL command computes max, average or L2 pooling segment by segment on the sliding-window path. -/
  | pool (n : Nat)
  /-- VOP (R197): A VOP command applies the element-wise vector operation that its SUBOP selects, with broadcasting, and converts the result. -/
  | vop (n : Nat)
  /-- VREDUCE (R199): A VREDUCE command reduces X along dimension 0 by sum, sum of squares, max or min. -/
  | vreduce (n : Nat)
  /-- COPY (R200): A COPY command moves the bits of a tensor unchanged from its source descriptor to its destination descriptor, together with any scale array. -/
  | copy (n : Nat)
  /-- GATHER (R294): A GATHER with SUBOP GATHER checks its list and copies the listed HBM sectors into the scratchpad over the narrow path. -/
  | gather (n : Nat)
  /-- SCATTER (R296): A GATHER with SUBOP SCATTER copies scratchpad sectors to the listed HBM sectors, the later entry taking effect last. -/
  | scatter (n : Nat)
  /-- TIER_MOVE_MOVE (R327): A TIER_MOVE MOVE checks each crate and copies it unchanged between tiers, committing any Attic writes, and stops at the first crate that faults. -/
  | tierMoveMove (c : Consumer)
  /-- TIER_MOVE_SEAL (R323): A TIER_MOVE SEAL copies each crate and writes a freshly computed CRC and HCRC into the destination. -/
  | tierMoveSeal (c : Consumer)
  /-- TIER_MOVE_STAGE (R349): A TIER_MOVE STAGE installs a cached copy of each Attic crate in the named crate cache, taking a slot by the floor and borrowing rules. -/
  | tierMoveStage (c : Consumer)
  /-- TIER_MOVE_DISCARD (R351): A TIER_MOVE DISCARD removes each crate from the Attic and drops every cached copy of it. -/
  | tierMoveDiscard (c : Consumer)
  /-- TIER_MOVE_DROP (R323): A TIER_MOVE DROP drops the cached copies of each crate and keeps the Attic copy. -/
  | tierMoveDrop (c : Consumer)
  /-- FENCE_WAIT (R582): A FENCE WAIT starts waiting until its fence object is at least VALUE, and completes at once when that already holds. -/
  | fenceWait (n : Nat)
  /-- FENCE_ADD (R582): A FENCE ADD adds VALUE to a local or remote fence object, stopping at 2^64 - 1. -/
  | fenceAdd (n : Nat)
  /-- FENCE_MAX (R582): A FENCE MAX sets a local or remote fence object to the larger of itself and VALUE. -/
  | fenceMax (n : Nat)
  /-- FENCE_SET (R582): A FENCE SET sets a local fence object to VALUE. -/
  | fenceSet (n : Nat)
  /-- FENCE_SEND (R584): A FENCE SEND writes a tensor densely to DST, locally or over the fabric, and then adds VALUE to the fence object. -/
  | fenceSend (n : Nat)
  /-- FENCE_WAIT_COMPLETE (R593): After an update of a fence object, a waiting FENCE WAIT whose condition now holds completes. -/
  | fenceWaitComplete (n : Nat)
  /-- CREDIT_TAKE (R907): A CREDIT TAKE joins its counter's order of takers and takes AMOUNT indivisibly when the counter can satisfy it. -/
  | creditTake (n : Nat)
  /-- CREDIT_GIVE (R591): A CREDIT GIVE adds AMOUNT to a local or remote credit counter, saturating and raising COLL.CREDIT_OVF on overflow. -/
  | creditGive (n : Nat)
  /-- CREDIT_SET (R589): A CREDIT SET sets a local credit counter to AMOUNT. -/
  | creditSet (n : Nat)
  /-- CREDIT_TAKE_COMPLETE (R590): After an update of a credit counter, the waiting taker at the head of its order whose amount is now held subtracts it and completes. -/
  | creditTakeComplete (p k : Nat)
  /-- ROW_FENCE_WAIT (R251): A ROW_FENCE WAIT starts waiting until every covered bit of its row board is set. -/
  | rowFenceWait (n : Nat)
  /-- ROW_FENCE_CLEAR (R250): A ROW_FENCE CLEAR sets every covered bit of the row board to zero and completes. -/
  | rowFenceClear (n : Nat)
  /-- ROW_FENCE_WAIT_COMPLETE (R253): When the last covered row bit is set, a waiting ROW_FENCE WAIT completes. -/
  | rowFenceWaitComplete (n : Nat)
  /-- BARRIER_LOCAL (R537): A LOCAL BARRIER completes on arrival and orders the later commands of its context. -/
  | barrierLocal (cc : Nat)
  /-- BARRIER_STEP (R909): A STEP BARRIER acts on its barrier group according to the group's state and step, and completes when the job's release arrives. -/
  | barrierStep (cc : Nat)
  /-- BARRIER_ARRIVE (R540): Once every preceding command on the selected consumers has its completion record, a BARRIER arrives and, for STEP, sends its arrival up the tree. -/
  | barrierArrive (cc : Nat)
  /-- NORM_PART (R460): An UPDATE NORM_PART checks the header step and accumulates the sum of squares and the cause bits of G (and checks R) into its norm slot. -/
  | normPart (c : Nat)
  /-- NORM_REDUCE (R472): An UPDATE NORM_REDUCE contributes its slot to a norm group of the fused reduction and waits for the verdict. -/
  | normReduce (c : Nat)
  /-- APPLY (R480): An UPDATE APPLY runs the update program over its streams on a GO verdict, writes nothing on SKIP, and rewrites the header when FINAL is 1. -/
  | apply (c : Nat)
  /-- NORM_READ (R454): An UPDATE NORM_READ writes the slot's partial as a norm record of KIND PARTIAL and changes nothing. -/
  | normRead (c : Nat)
  /-- NORM_LOAD (R491): An UPDATE NORM_LOAD sets the slot's verdict from a GO or SKIP norm record. -/
  | normLoad (c : Nat)
  /-- REDUCE (R503): A REDUCE command carries one bucket through one module, processing its plan entries in order once the bucket is locally ready. -/
  | reduce (cc slot : Nat)
  /-- REDUCE_LOCALLY_READY (R502): When its credit counter holds READY_CNT, a waiting REDUCE takes those credits and the bucket becomes locally ready. -/
  | reduceLocallyReady (cc slot : Nat)
  /-- REDUCE_UNIT_SEND (R510): When window credit allows, a reduction engine writes a landing unit's meta and mantissas to its output partner and then its header after DONE. -/
  | reduceUnitSend (cc slot entry : Nat)
  /-- REDUCE_UNIT_CONSUME (R514): A reduction engine checks a landed unit, adds its blocks with the local contribution, clears the unit's board bit and sends a credit message. -/
  | reduceUnitConsume (cc slot entry : Nat)
  /-- BROADCAST (R547): A BROADCAST command copies Cellar bytes unchanged in TC1 WRITE packets to every listed module. -/
  | broadcast (cc slot : Nat)
  /-- BROADCAST_SEND_START (R546): A BROADCAST starts sending once every preceding command of its context on the update engine of SRC's cellar die has completed. -/
  | broadcastSendStart (cc slot : Nat)
  /-- MEDIA_OPEN (R660): A MEDIA_SAMPLE OPEN opens a batch under a handle, with every slot EMPTY. -/
  | mediaOpen (cc : Nat)
  /-- MEDIA_ADD (R662): A MEDIA_SAMPLE ADD checks its sample descriptors and admits all of them into slots of an open batch at one instant. -/
  | mediaAdd (cc : Nat)
  /-- MEDIA_CLOSE (R685): A MEDIA_SAMPLE CLOSE resolves LATE every slot of the batch that is not yet resolved. -/
  | mediaClose (cc : Nat)
  /-- SAMPLE_DECODE_START (R678): A free decoder, audio engine or geometry and colour unit takes its next waiting sample by the liveness, priority and deadline order. -/
  | sampleDecodeStart (engine inst : Nat)
  /-- SAMPLE_VALID (R680): When the last write of a sample becomes visible, its slot resolves VALID. -/
  | sampleValid (b sl : Nat)
  /-- SAMPLE_INVALID (R680): A decoding failure, limit breach or failed source read resolves the slot INVALID, abandons the sample and zero-fills the slot. -/
  | sampleInvalid (b sl reason : Nat)
  /-- SLOT_DEADLINE (R680): At a slot's deadline an unresolved MASK slot resolves LATE and is zero-filled, and a WAIT slot gets its PASSED bit and MEDIA.WAIT_PAST. -/
  | slotDeadline (b sl : Nat)
  /-- BATCH_COMPLETE (R686): When every slot is resolved and every tensor write is visible, the assembler writes the mask arrays and header and adds FENCE_ADD to the fence object. -/
  | batchComplete (b : Nat)
  /-- SOPEN (R700): A MEDIA_STREAM SOPEN opens a decode stream context with its reference area. -/
  | sopen (cc : Nat)
  /-- STREAM_DATA (R703): A MEDIA_STREAM DATA supplies bitstream bytes that the context parses as one stream. -/
  | streamData (cc : Nat)
  /-- ROUTE (R708): A MEDIA_STREAM ROUTE checks its route entries and admits output pictures into slots of image batches. -/
  | route (cc : Nat)
  /-- SCLOSE (R724): A MEDIA_STREAM SCLOSE aborts the context's DATA commands, resolves unprocessed routed slots LATE and frees the context. -/
  | sclose (cc : Nat)
  /-- PICTURE_ENTROPY_START (R716): A free entropy engine takes its next complete picture by liveness, priority and deadline. -/
  | pictureEntropyStart (engine : Nat)
  /-- PICTURE_RECONSTRUCT (R718): Once its entropy decoding has ended and its references are reconstructed, a picture is reconstructed on up to 8 pixel engines. -/
  | pictureReconstruct (sc pic : Nat)
  /-- ROUTED_PICTURE_SHAPE (R709): The geometry and colour unit converts a routed output picture and writes it into its batch slot. -/
  | routedPictureShape (sc pic : Nat)
  /-- LIVE_PICTURE_DEADLINE (R715): When a live picture's deadline passes before it reaches the geometry unit, its slots resolve LATE and a skippable picture is dropped. -/
  | livePictureDeadline (sc pic : Nat)
  /-- EOPEN (R729): A MEDIA_ENCODE EOPEN opens an HEVC encode context. -/
  | eopen (cc : Nat)
  /-- ENCODE_PICTURE (R732): A MEDIA_ENCODE PICTURE codes one picture as IDR or P at its QP and writes the bitstream and a result record. -/
  | encodePicture (cc : Nat)
  /-- ECLOSE (R727): A MEDIA_ENCODE ECLOSE closes an encode context. -/
  | eclose (cc : Nat)
  /-- CMD_TIME (R205): When a command's time limit expires, the core raises CMD.TIME, drains the closed tiles and ends the command FAULTED. -/
  | cmdTime (c : Consumer) (closed : Nat)
  /-- DOORBELL_SQ_TAIL (R753): A doorbell write of SQ_TAIL makes commands available, or is dropped with HOST.DOORBELL when out of range. -/
  | doorbellSqTail (cc v : Nat)
  /-- DOORBELL_CQ_HEAD (R753): A doorbell write of CQ_HEAD returns consumed completion entries, or is dropped with HOST.DOORBELL when out of range. -/
  | doorbellCqHead (cc v : Nat)
  /-- COMMAND_FETCH (R758): The front end reads command slots and target entries while completion entries remain reserved, rejecting bad targets under R751. -/
  | commandFetch (cc : Nat)
  /-- COMMAND_DISPATCH (R757): The front end dispatches a context's command to its target in slot order, when the consumer's pool room allows. -/
  | commandDispatch (cc : Nat)
  /-- CORE_SCHEDULE (R626): A core that can start a command chooses a context by priority, slice and rotation and switches to it when needed. -/
  | coreSchedule (n : Nat)
  /-- CONTEXT_SWAP (R632): When a swapped context becomes READY at the resident limit, the scheduler swaps out a victim and loads the incoming queue pointers. -/
  | contextSwap (p : Nat)
  /-- INTERRUPT_HOLDOFF_END (R761): At the end of a context's holdoff interval, one MSI-X message is sent for the triggers it held. -/
  | interruptHoldoffEnd (cc : Nat)
  /-- PARTITION_CREATE (R611): A write of CREATE to a partition's CONTROL takes it to CREATING and starts the clearing of its quarter-dies and objects. -/
  | partitionCreate (p : Nat)
  /-- PARTITION_CREATE_DONE (R611): When its clearing ends, a CREATING partition becomes ACTIVE. -/
  | partitionCreateDone (p : Nat)
  /-- PARTITION_STOP (R615): A write of STOP takes an ACTIVE partition to STOPPING, aborting its executing and held commands and halting its contexts. -/
  | partitionStop (p : Nat)
  /-- PARTITION_STOP_DONE (R616): When nothing of the partition executes any more, it becomes STOPPED. -/
  | partitionStopDone (p : Nat)
  /-- PARTITION_START (R617): A write of START takes a STOPPED partition to ACTIVE with its contexts still HALTED. -/
  | partitionStart (p : Nat)
  /-- PARTITION_REMOVE (R618): A write of REMOVE frees a STOPPED partition's quarter-dies, cached crates, tag, shares and buckets and makes it ABSENT. -/
  | partitionRemove (p : Nat)
  /-- CONTEXT_ADD (R623): A write of ADD makes an ABSENT context IDLE, resident or swapped. -/
  | contextAdd (cc : Nat)
  /-- CONTEXT_RESUME (R634): A write of RESUME restarts fetching for a HALTED context at its first command not started. -/
  | contextResume (cc : Nat)
  /-- CONTEXT_ABORT (R635): A write of ABORT makes a HALTED context ABORTING, ending its in-flight commands ABORTED and skipping its queue. -/
  | contextAbort (cc : Nat)
  /-- CONTEXT_ABORT_DONE (R635): When its abort ends, an ABORTING context becomes IDLE. -/
  | contextAbortDone (cc : Nat)
  /-- CONTEXT_REMOVE (R624): A write of REMOVE makes an IDLE or HALTED context with nothing in flight ABSENT. -/
  | contextRemove (cc : Nat)
  /-- LINK_DISABLE (R369): A write of DISABLED to a link's CONTROL drives its lanes to electrical idle. -/
  | linkDisable (l : Nat)
  /-- LINK_ENABLE (R370): A write of ENABLED to a link's CONTROL starts its training. -/
  | linkEnable (l : Nat)
  /-- LINK_ISOLATE (R375): A write of ISOLATED stops the link within 10 ms, handling its queued packets as for a link that goes DOWN. -/
  | linkIsolate (l : Nat)
  /-- LINK_HELD_RELEASE (R374): A write of 1 to 0x41ll/0A releases a HELD link to UP, NARROW or MEMBER. -/
  | linkHeldRelease (l : Nat)
  /-- LINK_TRAINED (R371): A link completes training, picks its four best lanes, records the neighbour's identity and enters UP, NARROW, MEMBER or HELD. -/
  | linkTrained (l : Nat) (tr : Training)
  /-- LINK_TRAIN_RETRY (R370): An enabled link with no neighbour answering repeats training once a second. -/
  | linkTrainRetry (l : Nat)
  /-- ROUTING_COMMIT (R417): A write of fabric time T to 0x4210/01 schedules the copy of the shadow routing table. -/
  | routingCommit (t : Nat)
  /-- ROUTING_TABLE_COPY (R417): At fabric time T the whole shadow routing table is copied into the active table of every port die. -/
  | routingTableCopy
  /-- ARBITER_COMMIT (R651): A write of a class mask to 0x2AF0/01 copies the shadow arbiter settings of each selected class into its pending set. -/
  | arbiterCommit (mask : Nat)
  /-- KEEP_LINE_CLEAR (R281): A write of 1 to 0x2F1p/0A turns every KEEP line of the partition, on every die, into an ordinary line. -/
  | keepLineClear (p : Nat)
  /-- LANDING_BOARD_CLEAR (R535): A write of 1 to 0x371p/03 clears every landing-board bit of the partition's range. -/
  | landingBoardClear (p : Nat)
  /-- FIRMWARE_COMMIT (R814): A write of COMMIT verifies the staging slot and makes it preferred from the next reset, or marks it failed. -/
  | firmwareCommit (t : Nat)
  /-- FIRMWARE_ADVANCE (R814): A write of ADVANCE burns the fuse counter up to the running image's SVN. -/
  | firmwareAdvance (t : Nat)
  /-- DEBUG_TOKEN_SUBMIT (R821): A write of 1 to 0x9300/02 checks the token in BLOB target 8, unlocks its levels or refuses it, and draws a new nonce. -/
  | debugTokenSubmit
  /-- MODULE_RESET (R864): A write of 0xA5 to 0x8000/05 stops every die and restarts start-up at stage 3. -/
  | moduleReset
  /-- RESET_IN (R864): An assertion of RESET_IN_N stops every die and restarts start-up at stage 3. -/
  | resetIn
  /-- ALERT_CLEAR (R894): A write of a mask to 0xA000/0A clears the selected alert causes whose conditions no longer hold. -/
  | alertClear (mask : Nat)
  /-- PERFORMANCE_STATE_WRITE (R875): A write of a performance-state voltage to an island's entry sets the voltage the island moves to. -/
  | performanceStateWrite (isl mv : Nat)
  /-- ISLAND_VOLTAGE_STEP (R871): An island moves toward its target voltage by one 25 mV step per 10 µs, with commands continuing. -/
  | islandVoltageStep (isl : Nat)
  /-- QUIESCE (R777): A write of 1 to QUIESCE stops every partition, writes back the device cache, back-invalidates the snoop filter and drains CXL requests. -/
  | quiesce
  /-- QUIESCE_DONE (R777): When managed removal has finished, QUIESCED becomes 1 and the module starts no further CXL request. -/
  | quiesceDone
  /-- OD_WRITE (R801): A write to an object-dictionary entry without a row of its own is checked and applied, or refused with a status, and stored when persistent. -/
  | odWrite (ix sub v : Nat)
  /-- BAR_ACCESS_BAD (R746): A BAR access of bad size, alignment or range is counted and returns zero, Unsupported Request, or is dropped. -/
  | barAccessBad (write badSize : Bool)
  /-- MAILBOX_GO (R803): A write of 1 to GO submits the mailbox request, whose reply is written before DONE is set and vector 1 signalled. -/
  | mailboxGo (v : Nat) (bytes : List Byte)
  /-- HOST_WINDOW_READ (R769): A host CXL.mem read of the HBM or Cellar window is served, with poison for an uncorrectable sector. -/
  | hostWindowRead (dpa : Nat)
  /-- HOST_WINDOW_WRITE (R772): A host CXL.mem write to a window is served, dropped for part of an uncorrectable sector, or restores a whole sector. -/
  | hostWindowWrite (dpa : Nat) (bytes : List (Option Byte))
  /-- BI_TIMEOUT (R771): When the host does not answer a back-invalidate snoop in time, the waiting access fails as uncorrectable and HOST.BI_TIMEOUT is raised. -/
  | biTimeout (line : Nat) (by_ : Consumer) (closed : Nat)
  /-- CXL_LINK_TRAIN (R742): The CXL link trains, and a link narrower than x8 or slower than 32 GT/s enables no CXL protocol. -/
  | cxlLinkTrain (lanes rate : Nat)
  /-- PERST (R775): Assertion of PERST_N resets the CXL endpoint and has the effect of a host link loss on the rest of the module. -/
  | perst (asserted : Bool)
  /-- HOST_LINK_LOSS (R776): When the host link goes down without a completed removal, the device cache is dropped and contexts with host rings halt. -/
  | hostLinkLoss
  /-- IDE_FAIL (R774): An IDE integrity failure discards the failing traffic, makes every stream insecure and raises HOST.IDE_FAIL. -/
  | ideFail
  /-- SPDM_MESSAGE (R816): An SPDM or secured SPDM request arriving over DOE or Tchioz is answered by the security engine. -/
  | spdmMessage (tchioz secured : Bool) (msg : List Byte)
  /-- LARDER_READ (R282): A read of an HBM address at its home Larder is served by its hint, allocating, fetching or dropping sectors. -/
  | larderRead (addr hint : Nat) (part : Option Nat)
  /-- LARDER_WRITE (R282): A write of an HBM address at its home Larder is served by its hint, allocating, dirtying or writing through. -/
  | larderWrite (addr hint : Nat) (part : Option Nat) (bytes : List (Option Byte))
  /-- IMBALANCE_WINDOW_END (R270): At the end of each monitor window a compute die computes its pseudo-channel imbalance ratio and may raise MEM.IMBALANCE. -/
  | imbalanceWindowEnd (d : Nat)
  /-- ARBITER_DECISION (R647): When a resource can take a unit and requests are presented, its arbiter grants one by parking, priority, credit and rotation. -/
  | arbiterDecision (k inst : Nat) (reqs : List Request)
  /-- ARBITER_WINDOW_BOUNDARY (R645): At each window boundary an arbiter adopts any pending commit and refills every requester's credit counter. -/
  | arbiterWindowBoundary (k : Nat)
  /-- ARBITER_BACKOFF_END (R649): A requester that lost a decision presents again when its back-off ends. -/
  | arbiterBackoffEnd (k inst who : Nat)
  /-- REGULATOR_BOUNDARY (R638): Every 10 µs each regulator bucket gains its share of tokens up to its depth. -/
  | regulatorBoundary
  /-- FLIT_RECEIVE (R382): A receiver accepts an in-order DATA flit that passes FEC and CRC, or sends NAK and discards until the expected SEQ. -/
  | flitReceive (l : Nat) (f : Flit)
  /-- NAK_RECEIVE (R383): On NAK the sender resends every unacknowledged flit from ACK + 1 before any new flit. -/
  | nakReceive (l ack : Nat)
  /-- REPLAY_TIMEOUT (R384): When ACK has not advanced for the replay timeout, the sender resends from the oldest unacknowledged flit, taking the link DOWN after 16 replays. -/
  | replayTimeout (l : Nat)
  /-- LINK_SIGNAL_LOSS (R386): An UP link that goes DOWN loses its unacknowledged flits, reroutes its queued packets and raises FAB.LINK_DOWN. -/
  | linkSignalLoss (l : Nat)
  /-- LANE_SUBSTITUTE (R388): A lane whose corrected symbols in one second exceed the limit is replaced by the spare at an agreed SEQ without losing a flit. -/
  | laneSubstitute (l lane symbols : Nat)
  /-- LANE_LOCK_LOSS (R389): A lane that loses lock is replaced by the spare, or the link narrows or goes DOWN when no spare is left. -/
  | laneLockLoss (l lane : Nat)
  /-- PACKET_ROUTE (R414): A port die looks up DST of an arriving header flit and delivers the packet locally or forwards it through a live slot. -/
  | packetRoute (l cls vc : Nat)
  /-- WRITE_RECEIVE (R403): A WRITE packet addressed to the module is accepted and written, or rejected and reported in DONE. -/
  | writeReceive
  /-- DONE_SEND (R405): The receiving module sends one coalesced DONE to the source within 200 ns of its oldest packet becoming visible. -/
  | doneSend (src xfer : Nat)
  /-- DONE_RECEIVE (R407): A DONE covers packets of a transfer, letting the injecting command complete or ending it with FAB.REMOTE. -/
  | doneReceive
  /-- NORM_MESSAGE_RECEIVE (R469): A norm message delivers a child partial or a verdict to a norm group, which combines, forwards or delivers it. -/
  | normMessageReceive
  /-- BARRIER_MESSAGE_RECEIVE (R542): A barrier message delivers a child arrival or a release to a barrier group. -/
  | barrierMessageReceive
  /-- REDUCE_CREDIT_RECEIVE (R517): A REDUCE credit message is delivered to the matching executing REDUCE, or discarded as stray. -/
  | reduceCreditReceive
  /-- FENCE_MESSAGE_RECEIVE (R596): A fence message applies ADD or MAX to a fence object of the named partition, or is discarded. -/
  | fenceMessageReceive
  /-- CREDIT_MESSAGE_RECEIVE (R596): A credit message applies GIVE to a credit counter of the named partition, or is discarded. -/
  | creditMessageReceive
  /-- TC0_TOKEN_GAIN (R430): Every 32 flit slots each output's TC0 bucket gains one token, up to a depth of 4. -/
  | tc0TokenGain (l : Nat)
  /-- FAB_STALL (R425): A header flit that has waited at an input past the stall limit raises FAB.STALL once for that input and class. -/
  | fabStall (l cls : Nat)
  /-- TIME_EXCHANGE_START (R435): At each exchange interval each end of every UP link sends a TIME request, and a module whose upstream has been lost enters HOLDOVER. -/
  | timeExchangeStart
  /-- TIME_RECEIVE (R436): A TIME packet is answered or yields delay and offset, and fabric time is stepped or slewed toward upstream. It is the oldest that came in on the link from the module `src`. -/
  | timeReceive (l src : Nat)
  /-- TPULSE_EDGE (R440): At the time root, a rising TPULSE edge aligns fabric time to a whole second. -/
  | tpulseEdge
  /-- FREF_LOSS (R368): When FREF is absent or out of tolerance, every link goes DOWN and fabric time enters holdover. -/
  | frefLoss
  /-- ATTIC_RELOCATE (R337): The translation layer relocates a queued block's valid units, commits new records and erases the old block. -/
  | atticRelocate (block : Nat)
  /-- WEAR_LEVEL_RELOCATE (R340): When a stack's erase counts differ by more than 256, the block with the lowest count is relocated. -/
  | wearLevelRelocate
  /-- SLICE_START (R827): The self-test planner starts a slice on an idle unit, taking a core to STATE 5. -/
  | sliceStart (u : TestUnit)
  /-- SLICE_END (R828): A self-test slice ends at 2 ms or on completion, recording failures and fencing failed units. -/
  | sliceEnd (u : TestUnit) (r : SliceResult)
  /-- SLICE_ABANDON (R830): A core in a slice abandons it for higher-priority work within 10 µs, and the slice is counted for repetition. -/
  | sliceAbandon (n : Nat)
  /-- HBM_WINDOW_MOVE (R838): The planner moves the next 2 MiB window of a pseudo-channel into its reserve and march-tests the vacated window. -/
  | hbmWindowMove (pc : Nat) (r : SliceResult)
  /-- LANE_LOOPBACK (R835): A link's spare lane is switched to near-end loopback for at most 2 ms once per analogue interval. -/
  | laneLoopback (l : Nat)
  /-- REPAIR_ENTRY_COMMIT (R840): A repair-table entry is written to configuration flash with its commit word last. -/
  | repairEntryCommit
  /-- QUARTER_RETENTION_ENTRY (R876): A quarter-die whose cores have been idle for the retention delay drops to retention voltage. -/
  | quarterRetentionEntry (q : Nat)
  /-- JUNCTION_SAMPLE (R879): Every 50 µs an island's junction temperature is sampled and its junction ceiling lowered, held, raised or lifted. -/
  | junctionSample (isl : Nat) (t twin : Int)
  /-- STACK_SAMPLE (R306): Every 50 µs an HBM stack's temperature is sampled and its refresh and quarter-die voltage ceiling adjusted. -/
  | stackSample (st : Nat) (t twin : Int)
  /-- THERMAL_TRIP (R880): A hardware thermal trip outside the hub die switches off every non-hub stage and halts every context until reset. -/
  | thermalTrip (sensor : Nat)
  /-- HUB_THERMAL_TRIP (R881): A thermal trip of the hub die switches off every stage and the module behaves as OFF. -/
  | hubThermalTrip
  /-- COOLANT_SAMPLE (R884): Every 100 ms the coolant temperatures are measured and PWR.COOLANT raised when out of limits for 1 s. -/
  | coolantSample (tin tout : Int)
  /-- POWER_CONTROLLER_TICK (R885): At the end of each 1 ms the power controller compares average input power with the limit and moves the module ceiling. -/
  | powerControllerTick (avgMw ma : Nat)
  /-- P50V_ON (R866): P50V rising through 38 V turns the module ON and begins start-up. -/
  | p50vOn (mv : Nat)
  /-- P50V_OUT_OF_RANGE (R868): An input outside 40 V to 60 V but within 38 V to 62 V raises PWR.INPUT_RANGE while the module runs on. -/
  | p50vOutOfRange (mv : Nat)
  /-- P50V_INPUT_LOSS (R869): P50V below 38 V for 100 µs or above 62 V raises PWR.INPUT_LOSS and lowers every island to retention. -/
  | p50vInputLoss (mv : Nat)
  /-- P50V_OFF (R866): P50V falling through 36 V turns the module OFF. -/
  | p50vOff
  /-- STAGE_FAULT (R897): A stage reporting over-current, over-voltage, under-voltage or over-temperature is switched off with its dependants and raises PWR.STAGE. -/
  | stageFault (stage : Nat)
  /-- STARTUP_STAGE_END (R888): A start-up stage completes and start-up advances to the next stage, or stops at 0xFF on failure. -/
  | startupStageEnd (r : StageResult)
  /-- WATCHDOG_EXPIRY (R863): The management controller's watchdog expires after 500 ms and restarts the controller alone. -/
  | watchdogExpiry
  /-- ADDR_IN_CHANGE (R796): A change of ADDR_IN held for 1 ms updates ADDR_OUT and, on deassertion with an ID held, raises MGMT.CHAIN_BREAK. -/
  | addrInChange (level : Bool)
  /-- ASSIGN (R793): A Tchioz ASSIGN gives an unassigned module with ADDR_IN asserted an unconfirmed node ID, answered with ASSIGN_ACK. -/
  | assign (m : MgmtMsg)
  /-- CONFIRM (R794): A Tchioz CONFIRM with the module's ID and serial number confirms the ID and enables ADDR_OUT. -/
  | confirm (m : MgmtMsg)
  /-- RELEASE (R797): A Tchioz RELEASE makes every module in the named ID range drop its ID and deassert ADDR_OUT. -/
  | release (m : MgmtMsg)
  /-- READ (R790): A Tchioz or mailbox READ returns the named entries read at one fabric time, clearing RC entries. -/
  | read (m : MgmtMsg)
  /-- WRITE (R801): A Tchioz or mailbox WRITE applies its items in list order and returns a status for each. -/
  | write (m : MgmtMsg)
  /-- BLOB (R814): A BLOB writes data at an offset of a firmware staging slot or of the debug token buffer. -/
  | blob (m : MgmtMsg)
  /-- DUMP_REQ (R857): A DUMP_REQ reads flight-recorder entries, and may freeze or unfreeze the ring. -/
  | dumpReq (m : MgmtMsg)
  /-- EVENT_ACK (R825): A Tchioz EVENT_ACK stops the resending of the EVENTs it covers. -/
  | eventAck (m : MgmtMsg)
  /-- EVENT_RESEND (R825): Every 100 ms the module resends each unacknowledged EVENT. -/
  | eventResend
  /-- HEARTBEAT (R804): At each heartbeat interval the module sends a HEARTBEAT with its serial number, stage and fault count. -/
  | heartbeat
  /-- ARP_REQUEST (R783): An ARP request for the module's address is answered, and other non-Tchioz frames are discarded. -/
  | arpRequest (arp : Bool) (ip mac src : Nat)
  /-- HOST_COMPLETION_TIMEOUT (R765): A host read, or the CXL.cache write of a completion record or status word, that gets no completion within the host's completion timeout fails with HOST.ACCESS or HOST.QUEUE. -/
  | hostCompletionTimeout (cc : Nat) (by_ : Option Consumer) (closed addr : Nat)
  /-- HOST_SNOOP (R763): A CXL.cache snoop from the host invalidates or downgrades a host line held in the module's device cache, such as a command slot the host is about to rewrite. -/
  | hostSnoop (line : Nat) (inv : Bool) (bytes : List Byte)
  /-- MSIX_TABLE_WRITE (R761): A host write to the MSI-X table in BAR2 masks or unmasks a vector, and unmasking a vector whose pending bit is set sends its message. -/
  | msixTableWrite (v : Nat) (masked : Bool)
  /-- FREF_RESTORE (R368): When FREF returns within 156.25 MHz ± 50 ppm, the lane PLLs and time base run from it again, so links can retrain and fabric time can leave holdover. -/
  | frefRestore
  /-- RESET_IN_RELEASE (R893): Release of RESET_IN_N lets a start-up that waits at the beginning of stage 3 proceed. -/
  | resetInRelease
  /-- P50V_RETURN_TO_RANGE (R868): P50V returning inside 40 V to 60 V ends an input-range or input-loss condition, re-arms PWR.INPUT_RANGE after 1 s and leaves the module ON with its partitions stopped. -/
  | p50vReturnToRange (mv : Nat)
  deriving DecidableEq, Repr

end Sys2Proof
end

