-- ==== Sys2Proof/Decode.lean ====
section
/-! DEFINITION. Reading a command from a table word. The table of operations and events gives no row any bits, so no word spells a command. -/
namespace Sys2Proof

/-- The command that a word of the operation table's bits spells: the table gives no bits to any row. -/
def decodeTableWord (_nbits _w : Nat) : Option Instr := none

end Sys2Proof
end

