-- ==== Sys2Proof/Machine/Codes.lean ====
section
/-! DEFINITION. The fault codes of the module, with their numbers and scopes (R854, R852). -/
namespace Sys2Proof.Machine

/-- The scope of a fault (R852). -/
inductive Scope where
  | info | degraded | context | partition | module
  deriving DecidableEq, Repr

/-- Every fault code the module raises (R854): DOMAIN.NAME as domainName. -/
inductive Code where
  | cmdOpcode | cmdReserved | cmdField | cmdDesc | cmdAlign | cmdFormat | cmdFormatMix | cmdScaleAxis | cmdShape | cmdTime
  | tileAccOvf | tileSpadOvf | tileDescRange | tileGatherOvf | tileShelfOvf
  | numZeroShare | numSatShare | numFlushShare | numNonfiniteShare | numSkipRun | numLscaleMin | numMonLost
  | memUnmapped | memWindowClosed | memUncorrectable | memDirtyLost | memImbalance | memMapout | memMapoutLimit | memStackHot | memCellarTrain
  | tierReserved | tierHeader | tierCrc | tierAbsent | tierSeq | tierPoolFull | tierUncorrectable | tierReadOnly | tierDisturbLag | tierWorn | tierRecovered | tierAtticOffline
  | fabLinkDown | fabLaneSpared | fabLinkNarrow | fabBondMember | fabNeighbourChanged | fabFrefLost | fabAddrUnset | fabUnreachable | fabRemote | fabTagReject | fabBadPacket | fabStall | fabTc0Excess | fabTimeStep | fabTimeHoldover
  | collReserved | collPlan | collLandHeader | collLandMismatch | collCrc | collSparseOrder | collLandReject | collStray | collSaturated | collCreditOvf
  | updReserved | updProgram | updHeader | updScalarStep | updStepSkew | updSlotState | updNormAbandoned | updNormStray | updStateNonfinite | updTree
  | mediaReserved | mediaBatchState | mediaSlotTaken | mediaSampleInvalid | mediaSampleLate | mediaWaitPast | mediaStreamState | mediaRefArea | mediaStreamError | mediaStreamLimit | mediaFrameDropped | mediaEncOverflow
  | hostDoorbell | hostQueue | hostAccess | hostBiTimeout | hostMemPoison | hostHdmShrunk | hostIdeFail | hostLinkLost | hostLinkReduced
  | mgmtChainBreak | mgmtNodeConflict | mgmtStoreFail | mgmtEventLost | mgmtWatchdog
  | bistSram | bistFenced | bistCoreOut | bistUnitFail | bistHbm | bistLane | bistSensor | bistPll | bistSpareShort | bistRepairFull | bistOverdue | bistStartup
  | pwrInputRange | pwrInputLoss | pwrStage | pwrCurrentLimit | pwrJunctionHot | pwrThermalTrip | pwrCoolant
  | secImageVerify | secImageFallback | secNoImage | secTokenReject | secDebugUnlocked | secSessionFail
  deriving DecidableEq, Repr

/-- The 16-bit number of a fault code (R27, R854). -/
def codeNum : Code → Nat
  | .cmdOpcode => 0x0101
  | .cmdReserved => 0x0102
  | .cmdField => 0x0103
  | .cmdDesc => 0x0104
  | .cmdAlign => 0x0105
  | .cmdFormat => 0x0106
  | .cmdFormatMix => 0x0107
  | .cmdScaleAxis => 0x0108
  | .cmdShape => 0x0109
  | .cmdTime => 0x010A
  | .tileAccOvf => 0x0201
  | .tileSpadOvf => 0x0202
  | .tileDescRange => 0x0203
  | .tileGatherOvf => 0x0204
  | .tileShelfOvf => 0x0205
  | .numZeroShare => 0x0301
  | .numSatShare => 0x0302
  | .numFlushShare => 0x0303
  | .numNonfiniteShare => 0x0304
  | .numSkipRun => 0x0305
  | .numLscaleMin => 0x0306
  | .numMonLost => 0x0307
  | .memUnmapped => 0x0401
  | .memWindowClosed => 0x0402
  | .memUncorrectable => 0x0403
  | .memDirtyLost => 0x0404
  | .memImbalance => 0x0405
  | .memMapout => 0x0406
  | .memMapoutLimit => 0x0407
  | .memStackHot => 0x0408
  | .memCellarTrain => 0x0409
  | .tierReserved => 0x0501
  | .tierHeader => 0x0502
  | .tierCrc => 0x0503
  | .tierAbsent => 0x0504
  | .tierSeq => 0x0505
  | .tierPoolFull => 0x0506
  | .tierUncorrectable => 0x0507
  | .tierReadOnly => 0x0508
  | .tierDisturbLag => 0x0509
  | .tierWorn => 0x050A
  | .tierRecovered => 0x050B
  | .tierAtticOffline => 0x050C
  | .fabLinkDown => 0x0601
  | .fabLaneSpared => 0x0602
  | .fabLinkNarrow => 0x0603
  | .fabBondMember => 0x0604
  | .fabNeighbourChanged => 0x0605
  | .fabFrefLost => 0x0606
  | .fabAddrUnset => 0x0607
  | .fabUnreachable => 0x0608
  | .fabRemote => 0x0609
  | .fabTagReject => 0x060A
  | .fabBadPacket => 0x060B
  | .fabStall => 0x060C
  | .fabTc0Excess => 0x060D
  | .fabTimeStep => 0x060E
  | .fabTimeHoldover => 0x060F
  | .collReserved => 0x0701
  | .collPlan => 0x0702
  | .collLandHeader => 0x0703
  | .collLandMismatch => 0x0704
  | .collCrc => 0x0705
  | .collSparseOrder => 0x0706
  | .collLandReject => 0x0707
  | .collStray => 0x0708
  | .collSaturated => 0x0709
  | .collCreditOvf => 0x070A
  | .updReserved => 0x0801
  | .updProgram => 0x0802
  | .updHeader => 0x0803
  | .updScalarStep => 0x0804
  | .updStepSkew => 0x0805
  | .updSlotState => 0x0806
  | .updNormAbandoned => 0x0807
  | .updNormStray => 0x0808
  | .updStateNonfinite => 0x0809
  | .updTree => 0x080A
  | .mediaReserved => 0x0901
  | .mediaBatchState => 0x0902
  | .mediaSlotTaken => 0x0903
  | .mediaSampleInvalid => 0x0904
  | .mediaSampleLate => 0x0905
  | .mediaWaitPast => 0x0906
  | .mediaStreamState => 0x0907
  | .mediaRefArea => 0x0908
  | .mediaStreamError => 0x0909
  | .mediaStreamLimit => 0x090A
  | .mediaFrameDropped => 0x090B
  | .mediaEncOverflow => 0x090C
  | .hostDoorbell => 0x0A01
  | .hostQueue => 0x0A02
  | .hostAccess => 0x0A03
  | .hostBiTimeout => 0x0A04
  | .hostMemPoison => 0x0A05
  | .hostHdmShrunk => 0x0A06
  | .hostIdeFail => 0x0A07
  | .hostLinkLost => 0x0A08
  | .hostLinkReduced => 0x0A09
  | .mgmtChainBreak => 0x0B01
  | .mgmtNodeConflict => 0x0B02
  | .mgmtStoreFail => 0x0B03
  | .mgmtEventLost => 0x0B04
  | .mgmtWatchdog => 0x0B05
  | .bistSram => 0x0C01
  | .bistFenced => 0x0C02
  | .bistCoreOut => 0x0C03
  | .bistUnitFail => 0x0C04
  | .bistHbm => 0x0C05
  | .bistLane => 0x0C06
  | .bistSensor => 0x0C07
  | .bistPll => 0x0C08
  | .bistSpareShort => 0x0C09
  | .bistRepairFull => 0x0C0A
  | .bistOverdue => 0x0C0B
  | .bistStartup => 0x0C0C
  | .pwrInputRange => 0x0D01
  | .pwrInputLoss => 0x0D02
  | .pwrStage => 0x0D03
  | .pwrCurrentLimit => 0x0D04
  | .pwrJunctionHot => 0x0D05
  | .pwrThermalTrip => 0x0D06
  | .pwrCoolant => 0x0D07
  | .secImageVerify => 0x0E01
  | .secImageFallback => 0x0E02
  | .secNoImage => 0x0E03
  | .secTokenReject => 0x0E04
  | .secDebugUnlocked => 0x0E05
  | .secSessionFail => 0x0E06

/-- The scope of a fault code (R854). -/
def codeScope : Code → Scope
  | .cmdOpcode | .cmdReserved | .cmdField | .cmdDesc | .cmdAlign | .cmdFormat | .cmdFormatMix | .cmdScaleAxis => .context
  | .cmdShape | .cmdTime | .tileAccOvf | .tileSpadOvf | .tileDescRange | .tileGatherOvf | .tileShelfOvf | .memUnmapped => .context
  | .memWindowClosed | .memUncorrectable | .tierReserved | .tierHeader | .tierCrc | .tierAbsent | .tierSeq | .tierPoolFull => .context
  | .tierUncorrectable | .tierReadOnly | .fabAddrUnset | .fabUnreachable | .fabRemote | .collReserved | .collPlan | .collLandHeader => .context
  | .collLandMismatch | .collCrc | .collSparseOrder | .updReserved | .updProgram | .updHeader | .updScalarStep | .updStepSkew => .context
  | .updSlotState | .updNormAbandoned | .updTree | .mediaReserved | .mediaBatchState | .mediaSlotTaken | .mediaStreamState | .mediaRefArea => .context
  | .hostQueue | .hostAccess | .hostBiTimeout | .bistCoreOut => .context
  | .numZeroShare | .numSatShare | .numFlushShare | .numNonfiniteShare | .numSkipRun | .numLscaleMin | .numMonLost | .memImbalance => .info
  | .tierDisturbLag | .tierRecovered | .fabNeighbourChanged | .fabTagReject | .fabBadPacket | .fabStall | .fabTc0Excess | .fabTimeStep => .info
  | .collLandReject | .collStray | .collSaturated | .updNormStray | .updStateNonfinite | .mediaSampleInvalid | .mediaSampleLate | .mediaWaitPast => .info
  | .mediaStreamError | .mediaStreamLimit | .mediaFrameDropped | .mediaEncOverflow | .hostDoorbell | .hostMemPoison | .mgmtChainBreak | .mgmtNodeConflict => .info
  | .mgmtEventLost | .bistOverdue | .secImageVerify | .secTokenReject | .secSessionFail => .info
  | .memDirtyLost | .collCreditOvf => .partition
  | .memMapout | .memStackHot | .tierWorn | .tierAtticOffline | .fabLinkDown | .fabLaneSpared | .fabLinkNarrow | .fabBondMember => .degraded
  | .fabFrefLost | .fabTimeHoldover | .hostHdmShrunk | .hostIdeFail | .hostLinkLost | .hostLinkReduced | .mgmtStoreFail | .mgmtWatchdog => .degraded
  | .bistSram | .bistFenced | .bistHbm | .bistLane | .bistSensor | .bistPll | .bistSpareShort | .bistRepairFull => .degraded
  | .pwrInputRange | .pwrCurrentLimit | .pwrJunctionHot | .pwrCoolant | .secImageFallback | .secDebugUnlocked => .degraded
  | .memMapoutLimit | .memCellarTrain | .bistUnitFail | .bistStartup | .pwrInputLoss | .pwrStage | .pwrThermalTrip | .secNoImage => .module

/-- The value of a scope in a fault record (R852). -/
def scopeNum : Scope → Nat
  | .info => 0 | .degraded => 1 | .context => 2 | .partition => 3 | .module => 4

end Sys2Proof.Machine
end

