-- ==== Sys2Proof/Machine/Types.lean ====
section
/-! DEFINITION. The value types the engines compute with: the storable formats (R48), an exact value, the class a counter counts an element in (R102, R103) and the rounding modes (R97). -/
namespace Sys2Proof.Machine

/-- The eight storable formats, in the order of their codes (R48). -/
inductive Fmt where
  | l4 | l8 | l16 | e4m3 | e5m2 | bf16 | fp16 | b16
  deriving DecidableEq, Repr

/-- An exact value: NaN, or a sign and the magnitude `m * 2^(k/256)`.
Every element of every format, every A32 value and every product of them is one of these exactly:
a floating or block-scaled value has `k` a multiple of 256, a logarithmic one has `m = 1`. Zero is `m = 0` and keeps its sign. -/
inductive Val where
  | nan
  | num (neg : Bool) (m : Nat) (k : Int)
  deriving DecidableEq, Repr

/-- Which of the four counters of R102 an element is counted in. -/
inductive Kind where
  | none | saturated | flushed | zero | nonfinite
  deriving DecidableEq, Repr

/-- The four counters of one operand or result (R102); they are exact here and stop at 0xFFFF_FFFF where they are reported (R106). -/
structure Ctr where
  sat : Nat := 0
  flush : Nat := 0
  zero : Nat := 0
  nonfin : Nat := 0
  deriving DecidableEq, Repr

/-- The rounding of a site (R97). -/
inductive Mode where
  | nearest | stochastic
  deriving DecidableEq, Repr

/-- A random generator as a site has it (R96): the start-up that seeded it, the engine it belongs to (`matUnit` and the others of Ops) and how many numbers it has drawn. -/
structure Gen where
  seed : Nat := 0
  unit : Nat := 0
  drawn : Nat := 0
  deriving DecidableEq, Repr

/-- An inter block of a coded picture: its luma position and size, and its motion vector in quarter luma samples (R734, R735). -/
structure InterBlock where
  x : Nat
  y : Nat
  w : Nat
  h : Nat
  mvx : Int
  mvy : Int
  deriving DecidableEq, Repr

/-- A hardware error that befalls a memory: a sector of HBM or of the Cellar or its copy in a Larder (by its local address / 32), a 64-bit word of a scratchpad (by its local address / 8), a slot of a core's accumulator memory, a core's shelf, each with whether it is beyond correction; a crate's units in the Attic (by the generation of its record); a block of the Attic that will not program or erase; and a commit of the persistent store that will fail (R800). -/
inductive Upset where
  | sector (k : Nat) (worse : Bool)
  | copy (k : Nat) (worse : Bool)
  | word (k : Nat) (worse : Bool)
  | slot (core slot : Nat) (worse : Bool)
  | shelf (core : Nat) (worse : Bool)
  | units (gen : Nat)
  | block (b : Nat)
  | store
  deriving DecidableEq, Repr

/-- Access of an object-dictionary entry (R13, R799). -/
inductive Acc where
  | ro | rw | wo | rc | sh
  deriving DecidableEq, Repr

/-- A family of object-dictionary entries (R799): indexes `ix` to `ix + n - 1`, sub-indexes `lo` to `hi` in steps, width and sign of the type, access, default, range of a write and whether it is persistent. -/
structure OdRow where
  ix : Nat
  n : Nat
  lo : Nat
  hi : Nat
  step : Nat
  bits : Nat
  signed : Bool
  acc : Acc
  dflt : Nat
  mn : Int
  mx : Int
  pers : Bool
  deriving DecidableEq, Repr

end Sys2Proof.Machine
end

