-- ==== Sys2Proof/Config.lean ====
section
/-! DEFINITION. What one module fixes and what the manual leaves open: opaque constants with no body, so that nothing can be proved of the values they take. -/
namespace Sys2Proof

/-- The fresh 16-bit uniform random number of an engine's n-th draw since the start-up that seeded its generator (R95, R96): start-up, engine, draw. Free value: log entry 7. -/
opaque Config.random : Nat → Nat → Nat → BitVec 16

/-- The keyed interleave (R266, R268): start-up number, die, group and place give a position among the die's active pseudo-channels. Free value: log entry 17. -/
opaque Config.interleave : Nat → Nat → Nat → Nat → Nat

/-- The keyed hash by which a port die chooses among live slots (R420): start-up number, SRC, DST, CLASS, FLOW. Free value: log entry 17. -/
opaque Config.flowHash : Nat → Nat → Nat → Nat → Nat → Nat

/-- The hardware errors of a nanosecond, by start-up number and fabric time (R298 to R303, R313, R341, R833): when and where they happen is free. Log entry 60. -/
opaque Config.upsets : Nat → Nat → List Machine.Upset

/-- The lane that a LANE flit concerns and the SEQ it agrees, as the sender chose them (R388). Free value: log entry 77. -/
opaque Config.sparedLane : List (BitVec 64) → Nat

/-- How many of its three program operations an Attic write has made when loss of power or a reset cuts it off, by the generation it would have had (R358). Free value: log entry 75. -/
opaque Config.cutShort : Nat → Nat

/-- What the module's approximation circuits give for function number `f` of two A32 inputs; used only where it lies within the error limit of R127 or R910. Free value: log entry 8. -/
opaque Config.approx : Nat → A32 → A32 → A32

/-- The energy in microjoules measured on a supply domain over the regulator window that ends at a fabric time (R806): domains 0 to 31 quarter-dies, 32 to 47 HBM stacks, 48 to 51 cellar dies, 52 attic, 53 media, 54 to 57 port dies, 58 hub. Free value: log entry 19. -/
opaque Config.energy : Nat → Nat → Nat

/-! The media die's codecs and the arithmetic of its resampling are other standards' or are not given to the bit: what they yield is free. Log entries 9 and 10. -/

/-- Of a compressed sample: codec, its bytes and a field number (0 limits of R667 kept when 1; images: 1 width, 2 height, 3 components with alpha as 10 more, 4 bit depth, 5 width and 6 height of the second and third planes; sound: 1 channels, 2 rate, 3 samples, 4 bit depth, 0 for floating point). -/
opaque Config.sampleInfo : Nat → List Byte → Nat → Nat

/-- Of a compressed image: codec, bytes, plane, column and row: the decoded sample value. -/
opaque Config.imageSample : Nat → List Byte → Nat → Nat → Nat → Nat

/-- Of a compressed clip: codec, bytes, channel and sample number: the decoded sample as A32. -/
opaque Config.soundSample : Nat → List Byte → Nat → Int → A32

/-- The weighted sum of taps: a value, inside the picture or not, its weight's numerator and its denominator; the order and the roundings of the sum are not given (R672). -/
opaque Config.blend : List (A32 × Bool × Int × Nat) → A32

/-- The bilinear sampling of a rotated crop (R673): FILL and the crop's samples row by row; then its width and height, ANGLE, the output's width and height, the column and the row. -/
opaque Config.rotated : List A32 → List Nat → A32

/-- A colour matrix's coefficient (R709): matrix and place. -/
opaque Config.colour : Nat → Nat → A32

/-- A mean of channels (R677). -/
opaque Config.mean : List A32 → A32

/-- A resampled sample (R677): the channel's samples, the two rates and the sample number. -/
opaque Config.resampled : (Int → A32) → Nat → Nat → Int → A32

/-- A bin of a windowed frame's Fourier transform (R677): the frame, WINDOW, POWER and the bin. -/
opaque Config.spectrum : List A32 → Nat → Nat → Nat → A32

/-- A mel band of a frame's bins (R677): the bins, FMIN, FMAX, RATE, the number of bands and the band. -/
opaque Config.melBand : List A32 → List Nat → A32

/-- Of a bitstream read so far: codec, bytes, the places that END or AU_END closed, a picture in decode order and a field number. Picture 0 field 0: how many pictures are complete. Of a picture: 1 its output index plus 1, 0 if it is never output; 2 another picture references it; 3 a random-access point; 4 the picture that signalled the recovery complete here, plus 1; 5 an error; 6 first byte; 7 byte after the last; 8 breaks R694; 9 width; 10 height; 11 ten bits; 12 reference pictures needed; 13 matrix; 14 full range; 15 bit depth; 16 monochrome; 17 syntax bytes; 18 number of references; from 19 on, the references. -/
opaque Config.streamInfo : Nat → List Byte → List Nat → Nat → Nat → Nat

/-- A reconstructed sample: codec, bytes, the closed places, and a list of picture, plane, column and row. -/
opaque Config.pictureSample : Nat → List Byte → List Nat → List Nat → Nat

/-- The inter blocks the encoder's search proposes for a picture (R735): the words of EOPEN, the input pictures since the last IDR with this one last, and QP with the position in the refresh period; those that R733 to R735 forbid are not chosen. -/
opaque Config.proposed : List Word → List (List Byte) → List Nat → List Machine.InterBlock

/-- The bytes of a coded access unit (R732 to R735): the words of EOPEN, the input pictures since the last IDR with this one last, the parameters of `codingRules`, and the inter blocks chosen. -/
opaque Config.accessUnit : List Word → List (List Byte) → List Nat → List Machine.InterBlock → List Byte

/-- The compressed samples of a picture in a reference area (R719): of a decoded one by codec, bitstream, closed places and number, of a coded one by its access unit; and in which of the area's places a decoded picture is put. -/
opaque Config.keptPicture : Nat → List Byte → List Nat → Nat → List Byte
opaque Config.keptPlace : Nat → List Byte → List Nat → Nat → Nat

/-- What a picture that does not fit leaves at OUT (R738): the access unit and the byte's place. -/
opaque Config.spilt : List Byte → Nat → Byte

/-! Cryptography is other standards', and what manufacture put into a module is that module's own. Log entries 5 and 11. -/

/-- SHA3-256 of some bytes (R811, R812, R818, R820). -/
opaque Config.sha3 : List Byte → List Byte

/-- Whether an ML-DSA-44 signature verifies: key, signature and the bytes signed (R812, R821). -/
opaque Config.mlDsa : List Byte → List Byte → List Byte → Bool

/-- The firmware-key digest and the debug-authority digest fused in the hub die (R812, R821). -/
opaque Config.firmwareKey : List Byte
opaque Config.debugKey : List Byte

/-- VERSION, SVN and the 64-byte header of the image of a type that slot A holds from manufacture (R811). -/
opaque Config.factoryVersion : Nat → BitVec 32
opaque Config.factorySvn : Nat → BitVec 6
opaque Config.factoryHeader : Nat → List Byte

/-- The boot ROM's bytes (R818). -/
opaque Config.bootRom : List Byte

/-- The n-th debug nonce (R821). -/
opaque Config.nonce : Nat → Word

/-- SPDM extended asymmetric algorithm of the identity key (0x9200/01). -/
opaque Config.spdmAlgorithm : Word

/-- The SPDM responder (R816): what it makes of a message, by the messages before it, the path and whether it is secured, the measurement blocks of R818 and the message. Whether a secured message is intact, the reply, the secured sessions then open on the path, the IDE state its key messages leave (0 to 3, anything else leaves it as it was), and the owner chain that a SET_CERTIFICATE installs. -/
opaque Config.spdmIntact : List Nat → List Byte → Bool
opaque Config.spdmReply : List Nat → List (List Byte) → List Byte → List Byte
opaque Config.spdmSessions : List Nat → List Byte → Nat
opaque Config.spdmIde : List Nat → List Byte → Nat
opaque Config.spdmCertificate : List Nat → List Byte → Option (List Byte)

end Sys2Proof
end

