-- ==== Sys2Proof/Machine/Exact.lean ====
section
/-! DEFINITION. Exact arithmetic on values: magnitudes `m * 2^(k/256)`, their floors and comparisons, sums and products. -/
namespace Sys2Proof.Machine

/-- The largest `r < acc + 2^bits` with `r^n <= N`, found bit by bit from `acc`. -/
def iroot (n : Nat) : Nat → Nat → Nat → Nat
  | 0, acc, _ => acc
  | b + 1, acc, N => if (acc + 2 ^ b) ^ n ≤ N then iroot n b (acc + 2 ^ b) N else iroot n b acc N

/-- `x * 2^e`, rounded down. -/
def shiftInt (x : Nat) (e : Int) : Nat :=
  if 0 ≤ e then x * 2 ^ e.toNat else x / 2 ^ (-e).toNat

/-- The floor of `m * 2^(k/256) / 2^q`. -/
def floorAt (m : Nat) (k q : Int) : Nat :=
  if k % 256 = 0 then shiftInt m (k / 256 - q)
  else iroot 256 (Nat.log2 m + (k / 256 - q).toNat + 2) 0 (shiftInt (m ^ 256) (k - 256 * q))

/-- Whether `m * 2^(k/256)` is exactly `n * 2^q`. -/
def isAt (m : Nat) (k : Int) (n : Nat) (q : Int) : Bool :=
  if k % 256 = 0 then
    let e := k / 256 - q
    if 0 ≤ e then m * 2 ^ e.toNat == n else m == n * 2 ^ (-e).toNat
  else m == 0 && n == 0

/-- The floor of the base-2 logarithm of `m * 2^(k/256)`, for `m > 0`. -/
def floorLog2 (m : Nat) (k : Int) : Int :=
  if m = 1 then k / 256
  else if k % 256 = 0 then (Nat.log2 m : Int) + k / 256
  else ((Nat.log2 (m ^ 256) : Int) + k) / 256

/-- The floor of `d * log2 (m * 2^(k/256))`, for `m > 0`. -/
def floorLog2Times (d : Nat) (m : Nat) (k : Int) : Int :=
  if m = 1 then (d : Int) * k / 256
  else if k % 256 = 0 then (Nat.log2 (m ^ d) : Int) + d * (k / 256)
  else ((Nat.log2 (m ^ (256 * d)) : Int) + d * k) / 256

/-- `m1 * 2^(k1/256) <= m2 * 2^(k2/256)`. -/
def magLe (m1 : Nat) (k1 : Int) (m2 : Nat) (k2 : Int) : Bool :=
  let d := k1 - k2
  if d % 256 = 0 then
    if 0 ≤ d then decide (m1 * 2 ^ (d / 256).toNat ≤ m2) else decide (m1 ≤ m2 * 2 ^ (-d / 256).toNat)
  else
    if 0 ≤ d then decide (m1 ^ 256 * 2 ^ d.toNat ≤ m2 ^ 256) else decide (m1 ^ 256 ≤ m2 ^ 256 * 2 ^ (-d).toNat)

/-- The value +0. -/
def Val.pos0 : Val := .num false 0 0

/-- The whole number `i` as a value. -/
def valOfInt (i : Int) : Val := .num (i < 0) i.natAbs 0

/-- A value of NaN or not. -/
def Val.isNan : Val → Bool
  | .nan => true
  | .num _ _ _ => false

/-- A value that is a zero of either sign. -/
def Val.isZero : Val → Bool
  | .nan => false
  | .num _ m _ => m == 0

/-- The sign bit of a value; a NaN has none. -/
def Val.isNeg : Val → Bool
  | .nan => false
  | .num n _ _ => n

/-- The value with its sign turned over. -/
def Val.neg : Val → Val
  | .nan => .nan
  | .num n m k => .num (!n) m k

/-- The magnitude of a value. -/
def Val.abs : Val → Val
  | .nan => .nan
  | .num _ m k => .num false m k

/-- The value times `2^e`. -/
def Val.scale (e : Int) : Val → Val
  | .nan => .nan
  | .num n m k => .num n m (k + 256 * e)

/-- The exact product of two values; NaN if either is (R75, R80). -/
def Val.mul : Val → Val → Val
  | .num n1 m1 k1, .num n2 m2 k2 => .num (n1 != n2) (m1 * m2) (k1 + k2)
  | _, _ => .nan

/-- The exact sum of two values whose magnitudes are dyadic (`k` a multiple of 256), as every A32 value is.
A sum that is exactly zero is +0 unless both are negative zeros, as in IEEE 754 (log entry 21). -/
def Val.add : Val → Val → Val
  | .num n1 m1 k1, .num n2 m2 k2 =>
    let e := min (k1 / 256) (k2 / 256)
    let a : Int := (m1 * 2 ^ (k1 / 256 - e).toNat : Nat)
    let b : Int := (m2 * 2 ^ (k2 / 256 - e).toNat : Nat)
    let s := (if n1 then -a else a) + (if n2 then -b else b)
    if s = 0 then .num (n1 && n2) 0 0 else .num (s < 0) s.natAbs (256 * e)
  | _, _ => .nan

/-- The exact difference of two dyadic values. -/
def Val.sub (x y : Val) : Val := x.add y.neg

/-- `x <= y` for two numbers; false when either is NaN. The two zeros are equal. -/
def Val.le : Val → Val → Bool
  | .num n1 m1 k1, .num n2 m2 k2 =>
    if m1 = 0 && m2 = 0 then true
    else if m1 = 0 then !n2
    else if m2 = 0 then n1
    else match n1, n2 with
      | false, false => magLe m1 k1 m2 k2
      | true, true => magLe m2 k2 m1 k1
      | true, false => true
      | false, true => false
  | _, _ => false

/-- `x < y` for two numbers. -/
def Val.lt (x y : Val) : Bool := x.le y && !(y.le x)

/-- Two numbers of the same value (the zeros are equal); false when either is NaN. -/
def Val.eqv (x y : Val) : Bool := x.le y && y.le x

end Sys2Proof.Machine
end

