-- ==== Sys2Proof/Machine/Formats.lean ====
section
/-! DEFINITION. What the bits of each storable format and of A32 mean, and the class a read element is counted in (R48 to R72, R103). -/
namespace Sys2Proof.Machine

/-- The format a 3-bit code names (R48). -/
def fmtOfCode (c : Nat) : Fmt :=
  match c with
  | 0 => .l4 | 1 => .l8 | 2 => .l16 | 3 => .e4m3 | 4 => .e5m2 | 5 => .bf16 | 6 => .fp16 | _ => .b16

/-- The code of a format (R48). -/
def fmtCode : Fmt → Nat
  | .l4 => 0 | .l8 => 1 | .l16 => 2 | .e4m3 => 3 | .e5m2 => 4 | .bf16 => 5 | .fp16 => 6 | .b16 => 7

/-- Bits per element (R48). -/
def fmtBits : Fmt → Nat
  | .l4 => 4 | .l8 | .e4m3 | .e5m2 => 8 | .l16 | .bf16 | .fp16 | .b16 => 16

/-- The logarithmic formats. -/
def fmtIsLog : Fmt → Bool
  | .l4 | .l8 | .l16 => true
  | .e4m3 | .e5m2 | .bf16 | .fp16 | .b16 => false

/-- The formats that may carry a block scale (R68). -/
def fmtMayScale : Fmt → Bool
  | .l4 | .l8 | .e4m3 | .e5m2 => true
  | .l16 | .bf16 | .fp16 | .b16 => false

/-- Code steps per factor of two of a logarithmic format: 1, 8 and 256 (R51, R54, R55). -/
def logSteps : Fmt → Nat
  | .l4 => 1 | .l8 => 8 | _ => 256

/-- The CODE that stands for magnitude 1 (R51, R54, R55). -/
def logOne : Fmt → Nat
  | .l4 => 4 | .l8 => 64 | _ => 16384

/-- The largest CODE of a logarithmic format. -/
def logMax : Fmt → Nat
  | .l4 => 7 | .l8 => 127 | _ => 32767

/-- Fraction bits of a floating-point format (R56). -/
def fracBits : Fmt → Nat
  | .e4m3 => 3 | .e5m2 => 2 | .bf16 => 7 | _ => 10

/-- Exponent bias of a floating-point format (R56). -/
def expBias : Fmt → Nat
  | .e4m3 => 7 | .e5m2 => 15 | .bf16 => 127 | _ => 15

/-- The encoding, without sign, of the largest finite value of a floating-point format (R56). -/
def maxFinite : Fmt → Nat
  | .e4m3 => 0x7E | .e5m2 => 0x7B | .bf16 => 0x7F7F | _ => 0x7BFF

/-- The largest exponent field that holds finite values. -/
def maxExpField : Fmt → Nat
  | .e4m3 => 15 | .e5m2 => 30 | .bf16 => 254 | _ => 30

/-- The NaN a format is written with (R60). -/
def nanCode : Fmt → Nat
  | .l4 => 0x8 | .l8 => 0x80 | .l16 => 0x8000 | .e4m3 => 0x7F | .e5m2 => 0x7F | .bf16 => 0x7FC0 | .fp16 => 0x7E00 | .b16 => 0x8000

/-- The magnitude of CODE `c` of a logarithmic format, as `2^(k/256)`: this is `k`. -/
def logExp (f : Fmt) (c : Nat) : Int := ((c : Int) - logOne f) * (256 / logSteps f : Nat)

/-- The value of an element's bits before any scale, and whether it is an infinity encoding or a subnormal (R52 to R58). -/
def elemRaw (f : Fmt) (b : Nat) : Val × Kind :=
  match f with
  | .l4 | .l8 | .l16 =>
    let sgn : Bool := b / 2 ^ (fmtBits f - 1) % 2 == 1
    let c := b % 2 ^ (fmtBits f - 1)
    if c = 0 then (if sgn then (.nan, .nonfinite) else (.num false 0 0, .zero))
    else (.num sgn 1 (logExp f c), .none)
  | .b16 =>
    if b % 65536 = 0x8000 then (.nan, .nonfinite)
    else if b % 65536 = 0 then (.num false 0 0, .zero)
    else if b % 65536 < 0x8000 then (.num false (b % 65536) 0, .none)
    else (.num true (65536 - b % 65536) 0, .none)
  | .e4m3 | .e5m2 | .bf16 | .fp16 =>
    let fb := fracBits f
    let sgn : Bool := b / 2 ^ (fmtBits f - 1) % 2 == 1
    let mag := b % 2 ^ (fmtBits f - 1)
    let e : Nat := mag / 2 ^ fb
    let m := mag % 2 ^ fb
    if maxFinite f < mag then (.nan, .nonfinite)
    else if e = 0 then (.num sgn 0 0, if m = 0 then .zero else .flushed)
    else (.num sgn (2 ^ fb + m) (256 * ((e : Int) - expBias f - fb)), .none)

/-- Whether an element's bits, sign apart, are the largest finite magnitude of its format. -/
def elemAtMax (f : Fmt) (b : Nat) : Bool :=
  match f with
  | .l4 | .l8 | .l16 => b % 2 ^ (fmtBits f - 1) == logMax f
  | .b16 => b % 65536 == 0x7FFF || b % 65536 == 0x8001
  | .e4m3 | .e5m2 | .bf16 | .fp16 => b % 2 ^ (fmtBits f - 1) == maxFinite f

/-- The power of two a scale or exponent byte stands for (R63, R68): 142 is one for B16, 127 for a block scale. -/
def scaleExp (f : Fmt) (s : Nat) : Int := if f = .b16 then (s : Int) - 142 else (s : Int) - 127

/-- An element as an engine reads it: its value under scale byte `s` (`none` where the tensor has no scale array, R70) and the counter it is counted in (R57, R58, R64, R69, R103). -/
def readElem (f : Fmt) (b : Nat) (s : Option Nat) : Val × Kind :=
  match s with
  | some 255 => (.nan, .nonfinite)
  | _ =>
    let (v, kd) := elemRaw f b
    let v' := match s with
      | some c => v.scale (scaleExp f c)
      | none => v
    let kd' :=
      if kd != .none then kd
      else if !(magLe 1 (-126 * 256) (match v' with | .num _ m _ => m | .nan => 1) (match v' with | .num _ _ k => k | .nan => 0)) then .flushed
      else if elemAtMax f b && (s = none || s = some 254) then .saturated
      else .none
    (v', kd')

/-- The value an A32 pattern holds (R72): EXP 0 is zero, EXP 255 is NaN. -/
def a32Val (a : A32) : Val :=
  let e : Nat := a.toNat / 2 ^ 23 % 256
  let sgn : Bool := a.toNat / 2 ^ 31 % 2 == 1
  if e = 0 then .num sgn 0 0
  else if e = 255 then .nan
  else .num sgn (2 ^ 23 + a.toNat % 2 ^ 23) (256 * ((e : Int) - 127 - 23))

/-- The A32 NaN the model holds; its payload is never visible (R60, R72). -/
def a32Nan : A32 := 0x7FC00000#32

/-- A32 plus zero. -/
def a32Zero : A32 := 0#32

end Sys2Proof.Machine
end

