-- ==== Sys2Proof/Machine/Convert.lean ====
section
/-! DEFINITION. Rounding and conversion (R73, R74, R87 to R95), the choice of block scales (R89 to R91) and A32 arithmetic. -/
namespace Sys2Proof.Machine

/-- The k-th number a generator draws next, and the generator after it has drawn `k`. -/
def Gen.at (g : Gen) (k : Nat) : Nat := (Config.random g.seed g.unit (g.drawn + k)).toNat
def Gen.skip (g : Gen) (k : Nat) : Gen := { g with drawn := g.drawn + k }

/-- A magnitude `m * 2^(k/256)` rounded to a multiple of `2^q`, in units of `2^q`: nearest-even (R93), or stochastic with the draw `u` (R95). R95 takes the upper neighbour b of the signed value where u lies below its position, so for a negative value `u` decides on the neighbour nearer zero. -/
def roundAt (mode : Mode) (u : Nat) (neg : Bool) (m : Nat) (k q : Int) : Nat :=
  let n := floorAt m k q
  match mode with
  | .nearest =>
    if floorAt m k (q - 1) = 2 * n then n
    else if isAt m k (2 * n + 1) (q - 1) && n % 2 == 0 then n
    else n + 1
  | .stochastic =>
    let x := floorAt m k (q - 16)
    if neg then (if u < (n + 1) * 2 ^ 16 - (if isAt m k x (q - 16) then x else x + 1) then n else n + 1)
    else if u < x - n * 2 ^ 16 then n + 1 else n

/-- The largest A32 pattern of a sign (R73). -/
def a32Max (neg : Bool) : A32 := if neg then 0xFF7FFFFF#32 else 0x7F7FFFFF#32

/-- A value rounded into A32 with the draw `u`: the largest finite magnitude beyond the range (R73), a zero of its sign below it (R74). -/
def a32Round (mode : Mode) (u : Nat) : Val → A32
  | .nan => a32Nan
  | .num neg m k =>
    let sgn := if neg then 2 ^ 31 else 0
    if m = 0 then BitVec.ofNat 32 sgn
    else if !(magLe m k (2 ^ 24 - 1) (256 * 104)) then a32Max neg
    else
      let e := floorLog2 m k
      if e < -126 then BitVec.ofNat 32 sgn
      else
        let n := roundAt mode u neg m k (e - 23)
        BitVec.ofNat 32 (sgn + ((e + 127).toNat * 2 ^ 23 + (n - 2 ^ 23)))

/-- A value widened to A32, nearest-even (R92, R97). -/
def toA32 (v : Val) : A32 := a32Round .nearest 0 v

/-- A value carried at A32's precision: what the value becomes by widening. -/
def widen (v : Val) : Val := a32Val (toA32 v)

/-- Nearest CODE of a logarithmic format to a magnitude in its range (R94): logarithms are compared, a tie goes to the even CODE. -/
def logNearest (f : Fmt) (m : Nat) (k : Int) : Nat :=
  let d := logSteps f
  let j := floorLog2Times d m k
  let c := (j + logOne f).toNat
  let h := floorLog2Times (2 * d) m k
  if h = 2 * j then c
  else if m == 2 ^ Nat.log2 m && decide ((2 * d : Nat) * (256 * (Nat.log2 m : Int) + k) = 256 * (2 * j + 1)) && c % 2 == 0 then c
  else c + 1

/-- Stochastic choice of CODE (R95): the linear position of the magnitude between the two neighbours, taken with 128 bits of each (log entry 22). -/
def logStochastic (f : Fmt) (u : Nat) (neg : Bool) (m : Nat) (k : Int) : Nat :=
  let d := logSteps f
  let j := floorLog2Times d m k
  let c := (j + logOne f).toNat
  let step : Int := (256 / d : Nat)
  let q := floorLog2 m k - 128
  let a := floorAt 1 (j * step) q
  let b := floorAt 1 ((j + 1) * step) q
  let x := floorAt m k q
  if neg then (if u < (b - x) * 2 ^ 16 / (b - a) then c else c + 1)
  else if u < (x - a) * 2 ^ 16 / (b - a) then c + 1 else c

/-- The zero of a target; the sign is kept where the format has a signed zero (R61). -/
def zeroCode (f : Fmt) (neg : Bool) : Nat :=
  match f with
  | .e4m3 | .e5m2 | .bf16 | .fp16 => if neg then 2 ^ (fmtBits f - 1) else 0
  | .l4 | .l8 | .l16 | .b16 => 0

/-- A non-zero magnitude code with the sign put to it. -/
def signedCode (f : Fmt) (neg : Bool) (c : Nat) : Nat :=
  match f with
  | .b16 => if neg then 65536 - c else c
  | _ => if neg then 2 ^ (fmtBits f - 1) + c else c

/-- The conversion of R87 to an element of `f` whose block stands for `2^se` (0 where there is no scale), with the draw `u`. -/
def convElem (f : Fmt) (se : Int) (mode : Mode) (u : Nat) : Val → Nat × Kind
  | .nan => (nanCode f, .nonfinite)
  | .num neg m k0 =>
    if m = 0 then (zeroCode f neg, .zero)
    else
      let k := k0 - 256 * se
      match f with
      | .l4 | .l8 | .l16 =>
        if !(magLe m k 1 (logExp f (logMax f))) then (signedCode f neg (logMax f), .saturated)
        else if !(magLe 1 (logExp f 1) m k) then (zeroCode f neg, .flushed)
        else (signedCode f neg (match mode with | .nearest => logNearest f m k | .stochastic => logStochastic f u neg m k), .none)
      | .b16 =>
        if !(magLe m k 32767 0) then (signedCode f neg 32767, .saturated)
        else if !(magLe 1 0 m k) then (0, .flushed)
        else (signedCode f neg (roundAt mode u neg m k 0), .none)
      | .e4m3 | .e5m2 | .bf16 | .fp16 =>
        let fb := fracBits f
        let mx := maxFinite f
        let mxE : Int := (mx / 2 ^ fb : Nat) - (expBias f : Int) - fb
        if !(magLe m k (2 ^ fb + mx % 2 ^ fb) (256 * mxE)) then (signedCode f neg mx, .saturated)
        else
          let e := floorLog2 m k
          if e + expBias f < 1 then (zeroCode f neg, .flushed)
          else
            let n := roundAt mode u neg m k (e - fb)
            (signedCode f neg ((e + expBias f).toNat * 2 ^ fb + (n - 2 ^ fb)), .none)

/-- The largest finite magnitude of a block's element format, as (m, k): 32,767 for B16 (R89, R90). -/
def blockMax (f : Fmt) : Nat × Int :=
  match f with
  | .l4 | .l8 | .l16 => (1, logExp f (logMax f))
  | .b16 => (32767, 0)
  | .e4m3 | .e5m2 | .bf16 | .fp16 =>
    (2 ^ fracBits f + maxFinite f % 2 ^ fracBits f, 256 * ((maxFinite f / 2 ^ fracBits f : Nat) - (expBias f : Int) - fracBits f))

/-- Whether every finite value of a block is within the block's largest magnitude under scale byte `s`. -/
def blockFits (f : Fmt) (vs : List Val) (s : Nat) : Bool :=
  vs.all fun v => match v with
    | .nan => true
    | .num _ m k => magLe m k (blockMax f).1 ((blockMax f).2 + 256 * scaleExp f s)

/-- The scale or exponent byte a block is written with: the smallest that fits every finite value, or 254 (R89, R90, R91). -/
def blockScale (f : Fmt) (vs : List Val) : Nat :=
  ((List.range 255).find? (blockFits f vs)).getD 254

/-- One counter counted up. -/
def Ctr.bump (c : Ctr) : Kind → Ctr
  | .none => c
  | .saturated => { c with sat := c.sat + 1 }
  | .flushed => { c with flush := c.flush + 1 }
  | .zero => { c with zero := c.zero + 1 }
  | .nonfinite => { c with nonfin := c.nonfin + 1 }

/-- The counters of two parts of a command, added. -/
def Ctr.plus (a b : Ctr) : Ctr :=
  { sat := a.sat + b.sat, flush := a.flush + b.flush, zero := a.zero + b.zero, nonfin := a.nonfin + b.nonfin }

/-- A 32-bit saturating counter's value (R106). -/
def sat32 (n : Nat) : Nat := min n 0xFFFFFFFF

/-- A32 addition: the exact sum, rounded (R73 to R75). -/
def a32Add (mode : Mode) (u : Nat) (a b : A32) : A32 := a32Round mode u ((a32Val a).add (a32Val b))

/-- A32 multiplication, nearest-even (R73 to R75). -/
def a32Mul (a b : A32) : A32 := toA32 ((a32Val a).mul (a32Val b))

/-- The product of A32 with a power of two: exact apart from saturation and flush (R79). -/
def a32Scale (e : Int) (a : A32) : A32 := toA32 ((a32Val a).scale e)

/-- A running sum: each addition takes a fresh draw where the site rounds stochastically (R95, R97). The second component is the generator after it. -/
def a32Sum (mode : Mode) (start : A32) (xs : List A32) (d : Gen) : A32 × Gen :=
  xs.foldl (fun acc x =>
    match mode with
    | .nearest => (a32Add .nearest 0 acc.1 x, acc.2)
    | .stochastic => (a32Add .stochastic (acc.2.at 0) acc.1 x, acc.2.skip 1)) (start, d)

end Sys2Proof.Machine
end

