-- ==== Sys2Proof/Machine/Parts.lean ====
section
/-! DEFINITION. The parts of the machine's state, each a structure of plain data: what a queue, a core, a context, a link and the rest hold. -/
namespace Sys2Proof.Machine

/-- A command a context's ring has delivered: the context, the slot's free-running count (R749), the target (R750) and the record's eight words (R157). -/
structure CmdInst where
  ctx : Nat
  slot : Nat
  target : Nat
  words : List Word
  /-- Whether 0x6020/03 has counted that it was held back (R150). -/
  held : Bool := false
  deriving DecidableEq, Repr

/-- A record a command read when it started (R161, R902): its words, or the fault that reading it met with the global address; `beyond` is a descriptor index outside the table (R169). -/
inductive RecRead where
  | words (ws : List Word)
  | failed (c : Code) (addr : Nat)
  | beyond
  deriving DecidableEq, Repr

/-- A WRITE transfer that awaits DONE (R407, R411): the destination module, the XFER number, the packets still to be covered, and the fault a DONE brought. -/
structure Xfer where
  dst : Nat
  xfer : Nat
  left : Nat
  fault : Option (Nat × Nat)
  deriving DecidableEq, Repr

/-- How a command ended (R209, R210): STATUS, the fault, FAIL_B/M/N/K, FAIL_INFO, TILES_WRITTEN, FAIL_ADDR (a local or, from a DONE, a whole global address) and the five counter sets. -/
structure Fin where
  status : Nat := 0
  fault : Option Code := none
  failB : Nat := 0xFFFF
  failM : Nat := 0xFFFF
  failN : Nat := 0xFFFF
  failK : Nat := 0xFFFF
  failInfo : Nat := 0
  tiles : Nat := 0
  failAddr : Nat := 0
  ctrs : List Ctr := []
  /-- Element writes of set 0 and the largest finite magnitude written, for the numerics monitor (R557). -/
  written : Nat := 0
  maxAbs : A32 := 0#32
  deriving DecidableEq, Repr

/-- A command a consumer executes: when it started (R204), the descriptors it read then (R161), how many output tiles it has drained so far (R187) with their result counters, the elements written and the largest magnitude among them (R557), whether it waits (R155), its transfers (R407), the phase of a command that runs in several steps, and how it ends once DONE has covered its packets. -/
structure Exec where
  cmd : CmdInst
  start : Nat
  /-- Its time limit in µs, as it stood when it started (R202, R203). -/
  limit : Nat := 0
  /-- The long-sum threshold of its partition when it started (R100, R101). -/
  sumLimit : Nat := 8192
  /-- The accumulator limit of its partition when it started (R122). -/
  accLimit : Nat := 96
  /-- Whether the fields every command has broke a rule when it started (R162, R203). -/
  bad : Bool := false
  recs : List RecRead := []
  drained : Nat := 0
  /-- Visits it has made in loop order (R115, R177). -/
  made : Nat := 0
  ctrs : List Ctr := List.replicate 5 {}
  written : Nat := 0
  maxAbs : A32 := 0#32
  waiting : Bool := false
  xfers : List Xfer := []
  phase : Nat := 0
  ending : Option Fin := none
  /-- Its open range is open (R195): it has started, and no check rejects it (R162). -/
  opened : Bool := false
  deriving DecidableEq, Repr

/-- STATE of a core (R155). -/
inductive CoreSt where
  | retention | idle | running | waiting | stopping | selfTest | faulted | unavailable
  deriving DecidableEq, Repr

/-- An output tile: the failure fields that name it (R209), and its valid rows and columns (R174). -/
structure Tile where
  b : Nat
  m : Nat
  n : Nat
  mv : Nat
  nv : Nat
  deriving DecidableEq, Repr

/-- An accumulator slot allocated to an output tile (R121): its number, the tile, the matrix engine the tile belongs to (R117) and its A32 elements row by row. -/
structure AccSlot where
  slot : Nat
  tile : Tile
  engine : Nat
  elems : List A32
  deriving DecidableEq, Repr

/-- A weight tile in the operand buffer (R224): the sample, row, K tile and channel tile it is for, and its elements: bits, scale byte and the address of the scale byte. -/
structure HeldTile where
  key : Nat × Nat × Nat × Nat
  elems : List ((Nat × Option Nat) × Option Nat)
  deriving DecidableEq, Repr

/-- The engines' memory in a core (R108): the elements of the output tile in each of the four 64 x 64 arrays (a short list is zero beyond its end), the allocated slots of the 96 of accumulator memory (a free one holds nothing, R125), how many tiles the executing command has opened, the weights in the operand buffer, and the 16-bit cells staged on the shelf (R239). Reset: all empty. -/
structure MatUnit where
  arrays : List (List A32) := List.replicate 4 []
  slots : List AccSlot := []
  opened : Nat := 0
  held : List HeldTile := []
  shelf : List Nat := []
  /-- Slots of accumulator memory with an error of one bit, and with one that cannot be corrected; the same of the shelf (R833). -/
  accWeak : List Nat := []
  accBad : List Nat := []
  shelfWeak : Bool := false
  shelfBad : Bool := false
  deriving DecidableEq, Repr

/-- One logical core: its sequencer (R141), current context and slice (R626, R627), status (R154) and idle-time counters (R603). -/
structure Core where
  /-- Commands decoded and not started, oldest first (R141): 7 at most; reset empty. -/
  window : List CmdInst := []
  /-- The executing command; reset none. -/
  exec : Option Exec := none
  /-- The tiles, accumulators and shelf of its engines (R108). -/
  mx : MatUnit := {}
  /-- The context that is current on the core (R626): 8 bits, reset 0. -/
  cur : Nat := 0
  /-- The last context whose commands were in the window (CONTEXT of R154): 8 bits, reset 0. -/
  last : Nat := 0
  /-- STATE of CORE_STATUS (R155): reset 0, Retention. -/
  st : CoreSt := .retention
  /-- Fabric time at which the current context's slice on this core started (R627): 64 bits, reset 0. -/
  sliceStart : Nat := 0
  /-- A context switch is under way: from the switch until the incoming context's first command starts (R601); reset false. -/
  switching : Bool := false
  /-- PHYS (R154): 9 bits, loaded from the repair table. -/
  phys : Nat := 0
  /-- SPARE (R154): 1 bit, loaded. -/
  spare : Bool := false
  /-- BUSY, ns (R603): 64 bits, reset 0. -/
  busy : Nat := 0
  /-- UNSCHEDULED, ns (R603): 64 bits, reset 0. -/
  unsched : Nat := 0
  /-- IDLE_0 to IDLE_8, ns (R603): 9 x 64 bits, reset 0. -/
  idle : List Nat := List.replicate 9 0
  /-- VS_UP_0 to VS_UP_7, ns (R603): 8 x 64 bits, reset 0. -/
  vsUp : List Nat := List.replicate 8 0
  /-- VS_DOWN_0 to VS_DOWN_7, ns (R603): 8 x 64 bits, reset 0. -/
  vsDown : List Nat := List.replicate 8 0
  /-- Fabric time at which the core last ended a command (R876): 64 bits, reset 0. -/
  lastExec : Nat := 0
  deriving DecidableEq, Repr

/-- STATE of a partition (R609). -/
inductive PartSt where
  | absent | creating | active | stopping | stopped
  deriving DecidableEq, Repr

/-- One partition: its STATE (R609), its row boards (R245), and the idle totals of cores that have left it (R605). -/
structure Partition where
  /-- STATE (R609): reset 0 ABSENT. -/
  st : PartSt := .absent
  /-- CREATING that must end STOPPED, because a MODULE fault arose meanwhile (R852). -/
  toStopped : Bool := false
  /-- Quarter-dies added while STOPPED, to be cleared before START completes (R611): 32 bits, reset 0. -/
  added : Nat := 0
  /-- Set bits of the 64 row boards, as board * 16384 + bit, ascending (R245): reset none. -/
  rows : List Nat := []
  /-- The eleven totals of R605 left by cores that have since left: 11 x 64 bits, reset 0. -/
  left : List Nat := List.replicate 11 0
  deriving DecidableEq, Repr

/-- Condition of a context (R621). -/
inductive Cond where
  | absent | idle | ready | running | blocked | halted | aborting
  deriving DecidableEq, Repr

/-- One context: its scheduling state (R621) and its queue counts (R749, R755, R758). -/
structure Context where
  /-- The condition (R621), apart from IDLE, READY, RUNNING and BLOCKED being told apart: reset ABSENT. -/
  cond : Cond := .absent
  /-- RESIDENT (R621): reset 0. -/
  resident : Bool := false
  /-- SQ_TAIL (R749): 32 bits, reset 0. Counts are held whole and shown modulo 2^32. -/
  sqTail : Nat := 0
  /-- SQ_HEAD (R755): 32 bits, reset 0. -/
  sqHead : Nat := 0
  /-- CQ_TAIL (R749): 32 bits, reset 0. -/
  cqTail : Nat := 0
  /-- CQ_HEAD (R749): 32 bits, reset 0. -/
  cqHead : Nat := 0
  /-- Count of the next slot the front end has never read; reset 0. -/
  next : Nat := 0
  /-- Slots discarded or withdrawn, to be read again (R143, R631), ascending; reset empty. -/
  again : List Nat := []
  /-- Commands read and not yet accepted by a consumer (R758), in slot order; reset empty. -/
  fetched : List CmdInst := []
  /-- Slots freed beyond SQ_HEAD (R755); reset empty. -/
  freed : List Nat := []
  /-- Fabric time at which the context last became BLOCKED (0x22cc/08); 0 when it is not. -/
  blockedAt : Nat := 0
  /-- Fabric time at which the context last became IDLE, HALTED or READY, which R632 compares; reset 0. -/
  since : Nat := 0
  /-- Fabric time at which the context was last current on a core (R632); reset 0. -/
  lastCurrent : Nat := 0
  /-- A held interrupt trigger (R761); reset false. -/
  trigger : Bool := false
  /-- Fabric time of the last MSI-X message sent for the context (R761); reset none. -/
  lastMsg : Option Nat := none
  deriving DecidableEq, Repr

/-- Who makes an access (R37): the partition and the context it is charged to, and the core whose command it is. -/
structure Who where
  part : Option Nat := none
  ctx : Option Nat := none
  core : Option Nat := none
  /-- A reduction engine, which reaches the landing area (R506). -/
  red : Bool := false
  /-- The die the access comes from, as Mesh numbers the dies (R32). -/
  die : Nat := 18
  /-- A read of LSCALE_BF16 in the form R574 opens: a one-element BF16 tensor with BASE at byte 12 of a scale record. -/
  lscale : Bool := false
  deriving DecidableEq, Repr

/-- The unit a fault concerns: UNIT_KIND and UNIT (R848, R849). -/
structure FaultUnit where
  kind : Nat := 0
  inst : Nat := 0
  deriving DecidableEq, Repr

/-- A fault record (R848), with the fields that vary. -/
structure FaultRec where
  time : Nat := 0
  code : Code := .cmdOpcode
  part : Option Nat := none
  ctx : Option Nat := none
  unit : FaultUnit := {}
  addr : Nat := 0
  detail0 : Nat := 0
  detail1 : Nat := 0
  seq : Nat := 0
  suppressed : Nat := 0
  deriving DecidableEq, Repr

/-- One rate limit (R900): the fault code, the unit, partition or context it is kept for, the time of its last record and the raises folded since (R850). -/
structure RateLimit where
  code : Code
  key : Nat
  last : Nat
  suppressed : Nat
  deriving DecidableEq, Repr

/-- A flight-recorder entry (R856). -/
structure FlightEntry where
  time : Nat := 0
  seq : Nat := 0
  kind : Nat := 0
  object : Nat := 0
  old : Nat := 0
  new : Nat := 0
  body : Option FaultRec := none
  deriving DecidableEq, Repr

end Sys2Proof.Machine
end

