-- ==== Sys2Proof/Machine/PartsIo.lean ====
section
/-! DEFINITION. The parts of the state outside the cores: links and fabric time, the host endpoint, arbiters, management, security, self-test and power. -/
namespace Sys2Proof.Machine

/-- STATE of a link (R372). -/
inductive LinkSt where
  | disabled | training | up | narrow | held | down | isolated | member
  deriving DecidableEq, Repr

/-- An accepted DATA flit in an input buffer (R427): class * 2 + vc, the fabric time of its arrival, and for a header flit in transit the output link that the lookup gave its packet and whether it moves to VC1 there (R414, R423); none where no slot was live (R419). -/
structure RxFlit where
  key : Nat
  time : Nat
  flit : Flit
  out : Option (Nat × Bool) := none
  deriving DecidableEq, Repr

/-- One fabric link. -/
structure Link where
  /-- STATE (R372): reset DISABLED. -/
  st : LinkSt := .disabled
  /-- Active lanes (0x41ll/03): 5 bits, reset 0. -/
  active : Nat := 0
  /-- Lanes that have kept lock since the last training (R390): 5 bits, reset 0. -/
  good : Nat := 0
  /-- The spare lane, while one is trained and not in use (R371, R387); reset none. -/
  spareLane : Option Nat := none
  /-- Neighbour serial number (0x41ll/04): 64 bits, reset 0. -/
  nbSerial : Nat := 0
  /-- Neighbour link number (0x41ll/05): 8 bits, reset 0xFF. -/
  nbLink : Nat := 0xFF
  /-- Neighbour fabric address (0x41ll/06): 16 bits, reset 0xFFFF. -/
  nbAddr : Nat := 0xFFFF
  /-- Neighbour BOND value (0x41ll/07): 8 bits, reset 0. -/
  nbBond : Nat := 0
  /-- Whether the link has trained since reset (R374). -/
  trained : Bool := false
  /-- BOND adopted at the last enable (R396); reset 0. -/
  bond : Nat := 0
  /-- Lead of the bond the link is a member of (R392, R396); reset none. -/
  lead : Option Nat := none
  /-- Link delay of the last exchange, ns (0x41ll/0B): 32 bits, reset 0. -/
  delay : Nat := 0
  /-- Skew against the bond's lead that the last training measured, 1/16 ns (R394): 16 bits, reset 0. -/
  skew : Nat := 0
  /-- SEQ of the next DATA flit to send (R381): 12 bits, reset 0. -/
  txSeq : Nat := 0
  /-- Replay buffer: DATA flits sent and not acknowledged, oldest first (R381): at most 1,024; reset empty. -/
  replay : List Flit := []
  /-- Replays since ACK last advanced (R385); reset 0. -/
  replayRun : Nat := 0
  /-- Fabric time at which ACK last advanced or the buffer became non-empty (R384); reset 0. -/
  ackAt : Nat := 0
  /-- SEQ expected next (R382): 12 bits, reset 0. -/
  rxNext : Nat := 0
  /-- A NAK is outstanding: flits are discarded until SEQ = rxNext (R382); reset false. -/
  nakOut : Bool := false
  /-- Credits the next hop has granted, class * 2 + vc, in flits (R427): 8 counters; reset to half the input buffer of R426. -/
  credit : List Nat := [8, 8, 256, 256, 256, 256, 512, 512]
  /-- Flits freed and not yet returned, class * 2 + vc (R427): 8 counters, reset 0. -/
  freed : List Nat := List.replicate 8 0
  /-- TC0 tokens (R430): 0 to 4; reset 4. -/
  tokens : Nat := 4
  /-- Input buffer: accepted DATA flits, oldest first (R427); reset empty. -/
  rx : List RxFlit := []
  /-- TIME packets that came in and have not been taken, each with its arrival (R435), oldest first; reset empty. -/
  timeIn : List (Packet × Nat) := []
  /-- Corrected symbols of each lane in the present second (R379, R387); reset 0. -/
  second : List Nat := [0, 0, 0, 0, 0]
  /-- Classes whose stall has been raised at this input since it last moved a flit (R425); reset none. -/
  stalled : List Nat := []
  /-- Packets waiting at this output, oldest first, each with the flits of it already sent (R380); reset empty. -/
  outq : List (Packet × Nat) := []
  /-- Hop count and fabric address the neighbour's last TIME packet carried (R437); reset none. -/
  nbHops : Option (Nat × Nat) := none
  /-- A TIME request is outstanding (R435); reset false. -/
  timeOut : Bool := false
  /-- The TC0 flit at the head of the output has been counted as waiting for a token (R430); reset false. -/
  tc0Waited : Bool := false
  /-- The spare lane is in near-end loopback (R835); reset false. -/
  loopback : Bool := false
  deriving DecidableEq, Repr

/-- Time state (R441). -/
inductive TimeSt where
  | free | acquiring | locked | holdover
  deriving DecidableEq, Repr

/-- The package's fabric time (R42, R434 to R447). -/
structure TimeBase where
  /-- Fabric time, ns (R28): 64 bits, reset 0 (R441 counts from 0 at reset). -/
  now : Nat := 0
  /-- Time state (0x4300/02): reset FREE. -/
  st : TimeSt := .free
  /-- Upstream link (0x4300/03): reset none, shown as 0xFF. -/
  upstream : Option Nat := none
  /-- Own hop count (0x4300/04): reset unknown, shown as 0xFF. -/
  hops : Option Nat := none
  /-- Last offset to upstream (0x4300/05): signed 32 bits, reset 0. -/
  offset : Int := 0
  /-- Offset still to be removed by slewing (R438), ns; reset 0. -/
  slew : Int := 0
  /-- Consecutive offsets within ±4 ns (R441); reset 0. -/
  good : Nat := 0
  /-- Intervals since upstream last answered (R441); reset 0. -/
  missed : Nat := 0
  /-- FREF within tolerance (R368); reset true. -/
  frefOk : Bool := true
  /-- A TPULSE edge has stepped time since reset (R440); reset false. -/
  pulsed : Bool := false
  /-- Fabric time of the last TPULSE edge (0x4300/07); reset none. -/
  lastPulse : Option Nat := none
  /-- Times of the scheduled routing commits, earliest first (R417); reset none. -/
  commits : List Nat := []
  /-- Fabric time of the last start of time exchanges (R435); reset 0. -/
  lastExchange : Nat := 0
  deriving DecidableEq, Repr

/-- Packets of a transfer received and not yet acknowledged (R405, R406): source, XFER, FLOW, their number, when the oldest became visible, and the first rejected packet's fault number and address. -/
structure PendingDone where
  src : Nat
  xfer : Nat
  flow : Nat
  count : Nat
  since : Nat
  fault : Option (Nat × Nat)
  deriving DecidableEq, Repr

/-- One requester at one arbiter (R645, R646, R649): class, instance, requester; its credit counter; back-off count m and the time until which it does not present. -/
structure ReqState where
  cls : Nat
  inst : Nat
  who : Nat
  credit : Int
  losses : Nat := 0
  quietUntil : Nat := 0
  deriving DecidableEq, Repr

/-- The adopted settings of an arbiter class (R643, R644): WINDOW, BURST, the 17 weights and priorities (16 partitions, then unowned; at class 3 the first three weights are TC1 to TC3). -/
structure ArbSet where
  window : Nat
  burst : Nat
  weights : List Nat
  prios : List Nat
  deriving DecidableEq, Repr

/-- One regulator bucket (R638, R640): partition, class, instance, level in 1/1024 token, and the SPARE mode adopted at the last boundary (R637, R641). -/
structure Bucket where
  part : Nat
  cls : Nat
  inst : Nat
  level : Int
  spare : Bool := false
  deriving DecidableEq, Repr

/-- A record of the persistent object store (R364): index * 256 + sub-index, value, generation, and the CRC-32C of its body and the commit word as they stand in flash. -/
structure NvRec where
  key : Nat
  value : Word
  gen : Nat
  crc : Nat
  commit : Nat
  deriving DecidableEq, Repr

/-- A served request and the reply stored for it (R787): TYPE, SEQ, the reply's TIME and its payload. -/
structure StoredReply where
  typ : Nat
  seq : Nat
  time : Nat
  bytes : List Byte
  deriving DecidableEq, Repr

/-- An EVENT that awaits acknowledgement (R825). -/
structure EventRec where
  num : Nat
  record : FaultRec
  deriving DecidableEq, Repr

/-- The management controller (R781 to R803). -/
structure Mgmt where
  /-- Node ID (0x1100/01): 0 none; reset 0. -/
  node : Nat := 0
  /-- The ID is confirmed (R794); reset false. -/
  confirmed : Bool := false
  /-- ADDR_IN as taken into account (R792); reset deasserted. -/
  addrIn : Bool := false
  /-- ADDR_OUT (R794): reset deasserted (R792). -/
  addrOut : Bool := false
  /-- The last 16 requests served with their replies, newest first (R787); reset empty (R788). -/
  replies : List StoredReply := []
  /-- Mailbox GO (R802): reset 0. -/
  go : Bool := false
  /-- Mailbox DONE (R802): reset 0. -/
  done : Bool := false
  /-- Mailbox reply bytes; their number is REP_LEN (R802), reset 0. -/
  reply : List Byte := []
  /-- Mailbox request buffer, 1,472 bytes (R802). -/
  request : List Byte := []
  /-- Number of the next EVENT (R825). -/
  nextEvent : Nat := 1
  /-- EVENTs awaiting acknowledgement, oldest first (R825): at most 64; reset empty. -/
  events : List EventRec := []
  /-- Address base, manager address and UDP port in effect since reset (R783, R804). -/
  base : Nat := 0xA9FE4D00
  manager : Nat := 0xA9FE4D64
  port : Nat := 40870
  plca : Nat := 32
  /-- Fabric time of the last HEARTBEAT; reset 0. -/
  lastBeat : Nat := 0
  deriving DecidableEq, Repr

/-- Staging state of a firmware type's other slot (R814). -/
inductive Staging where
  | empty | receiving | committed | failed
  deriving DecidableEq, Repr

/-- One firmware type (R811 to R814): the two slots' bytes as sorted cells, the running slot and its image's VERSION and SVN, the preferred slot, the fuse counter and the staging state. -/
structure Firmware where
  /-- Slot A holds the image put there at manufacture, which is not shown as bytes (log entry 5); slot A then lists none. -/
  factoryA : Bool := true
  slotA : List (Nat × BitVec 8) := []
  slotB : List (Nat × BitVec 8) := []
  runningB : Bool := false
  preferB : Bool := false
  version : Nat := 0
  svn : Nat := 0
  fuse : Nat := 0
  staging : Staging := .empty
  deriving DecidableEq, Repr

/-- The security engine (R815 to R823). -/
structure Sec where
  /-- Firmware types 1 to 5 (R811). -/
  fw : List Firmware := List.replicate 5 {}
  /-- Token data in BLOB target 8, as sorted cells (R821); reset empty. -/
  token : List (Nat × BitVec 8) := []
  /-- Start-ups so far: each draws new keys for the interleave and the flow hash and a new seed (R96, R268, R420). -/
  startups : Nat := 0
  /-- How many nonces have been drawn (R821). -/
  nonces : Nat := 0
  /-- Unlocked debug levels (0x9300/03): 3 bits, reset 0. -/
  levels : Nat := 0
  /-- Outcome of the last submission (0x9300/04): 0, 1, 2; reset 0. -/
  outcome : Nat := 0
  /-- The accepted token's bytes, whose digest measurement block 8 shows (R818); reset none. -/
  accepted : List (Nat × BitVec 8) := []
  /-- Secured sessions open on the DOE and the Tchioz path (0x9200/03); reset 0. -/
  doeSessions : Nat := 0
  tchSessions : Nat := 0
  /-- Owner certificate chain of slot 1 (R817): persistent, empty by default. -/
  ownerCert : List Byte := []
  /-- SPDM messages seen since reset, which the responder's replies depend on (log entry 11). -/
  spdmSeen : Nat := 0
  deriving DecidableEq, Repr

/-- Self-test, faults and the flight recorder (R826 to R865). -/
structure Diag where
  /-- The fault ring, newest first: the last 4,096 records (R853); reset empty. -/
  ring : List FaultRec := []
  /-- Records made since reset (0x8000/01, /02): 32 bits, reset 0. -/
  raised : Nat := 0
  /-- Rate limits in force (R900); reset empty. -/
  limits : List RateLimit := []
  /-- The flight recorder, newest first: 524,288 entries (R855); kept across reset, empty at power-on. -/
  recorder : List FlightEntry := []
  /-- SEQ of the next entry (R855); 0 at power-on. -/
  recSeq : Nat := 0
  /-- The recorder is frozen (R859); kept across reset. -/
  frozen : Bool := false
  /-- Repair-table entries, oldest first (R840): persistent, empty as made. -/
  repair : List Word := []
  /-- Entries found and not yet committed to flash (R840). -/
  repairNew : List Word := []
  /-- Dies that did not answer the bridge when last read (0x8000/04): 18 bits, reset 0. -/
  silent : Nat := 0
  /-- Values that the dies last delivered over the bridge (R862): index * 256 + sub-index and value; reset none. -/
  delivered : List (Nat × Nat) := []
  /-- Cause of the last module reset (0x8000/06): reset 0. -/
  cause : Nat := 0
  /-- Slices under way: unit and start (R828); reset empty. -/
  slices : List (TestUnit × Nat) := []
  /-- Coverage of each unit in its pass, and when the pass began (R828, R831); reset empty. -/
  passes : List (TestUnit × Nat × Nat) := []
  /-- Units whose overdue pass has been raised (R831); reset empty. -/
  overdue : List TestUnit := []
  /-- Engines and Larder ways withheld (R842, R843); reset from the repair table. -/
  withheld : List TestUnit := []
  /-- Twin disagreements counted per sensor, and sensors in BIST.SENSOR (R836); reset empty. -/
  twin : List (Nat × Nat) := []
  badSensors : List Nat := []
  /-- The reserve window of each pseudo-channel that has moved (R838): channel and window; reset none, the reserve of R257. -/
  windows : List (Nat × Nat) := []
  /-- 64-bit words of scratchpads (local address / 8) with an error of one bit that the next whole write clears, with one of one bit that stays (a failed cell), and with one that the check code cannot correct (R833); reset none. -/
  sramWeak : List Nat := []
  sramStuck : List Nat := []
  sramBad : List Nat := []
  /-- A MODULE-scope fault has stopped the module until reset (R852). -/
  moduleFault : Bool := false
  /-- Partitions that a fault of scope PARTITION met inside a command's end must still stop (R852); empty between commands. -/
  owed : List Nat := []
  deriving DecidableEq, Repr

/-- A voltage island (R870, R896): 0 to 31 quarter-dies, 32 to 42 the other islands n = 0 to 10. -/
structure Island where
  /-- Present voltage, mV (/02); 0 while unpowered. -/
  mv : Nat := 0
  /-- Junction temperature in 1/16 °C (/03): signed 16 bits, reset 0 (R911). -/
  temp : Int := 0
  /-- Junction ceiling, mV (/05): 0 none; reset 0. -/
  ceiling : Nat := 0
  /-- Fabric time of the last change of the ceiling (R879); reset none. -/
  ceilAt : Option Nat := none
  /-- 0 unpowered, 1 retention, 2 active (/06). -/
  power : Nat := 0
  /-- The first sample since the stage was powered has been taken (R911). -/
  sampled : Bool := false
  /-- Fabric time of the last voltage step (R871). -/
  stepAt : Nat := 0
  deriving DecidableEq, Repr

/-- An HBM stack's thermal state (R305 to R309). -/
structure Stack where
  /-- Temperature in 1/16 °C (0xA01s/01). -/
  temp : Int := 0
  /-- The refresh rate is doubled (R306): reset false. -/
  doubled : Bool := false
  /-- Voltage ceiling, mV (0xA01s/03): 0 none; reset 0. -/
  ceiling : Nat := 0
  /-- Fabric time of the last change of the ceiling (R307); reset none. -/
  ceilAt : Option Nat := none
  deriving DecidableEq, Repr

/-- Power and start-up (R866 to R897). -/
structure Pwr where
  /-- Module state ON (R866). -/
  on : Bool := true
  /-- P50V in mV (0xA000/01). -/
  mv : Nat := 50000
  /-- Start-up stage reached (0x1000/06); 0xFF stopped. -/
  stage : Nat := 3
  /-- Input current and power, averaged over 1 ms (0xA000/02, /03). -/
  ma : Nat := 0
  watts : Nat := 0
  /-- Power limit in effect since the last 1 ms boundary (0xA000/04). -/
  limit : Nat := 5000
  /-- Module power ceiling, mV (0xA000/05): 0 none; reset 0. -/
  ceiling : Nat := 0
  /-- Fabric time of the last PWR.CURRENT_LIMIT (R886). -/
  limitAt : Nat := 0
  /-- Islands (R896): 43. -/
  islands : List Island := List.replicate 42 ({} : Island) ++ [({ mv := 750, power := 2 } : Island)]
  /-- HBM stacks: 16. -/
  heats : List Stack := List.replicate 16 {}
  /-- Coolant inlet and outlet, 1/16 °C (0xA000/07, /08). -/
  coolIn : Int := 0
  coolOut : Int := 0
  /-- Since when the coolant has been out of, or back within, its limits, and whether PWR.COOLANT may be raised (R884). -/
  coolBad : Option Nat := none
  coolGood : Option Nat := none
  coolArmed : Bool := true
  /-- Alert causes (0xA000/09): 6 bits, reset 0. -/
  alert : Nat := 0
  /-- A hardware thermal trip holds until reset (R880). -/
  tripped : Bool := false
  /-- The hub die tripped: OFF until P50V falls and rises again (R881). -/
  hubTrip : Bool := false
  /-- Sensors that took part in a trip (R882). -/
  tripSensors : List Nat := []
  /-- Stages switched off (R897). -/
  stagesOff : List Nat := []
  /-- Physical cores that stage 5 powered (R152): every spare that is not substituted stays out; reset none. -/
  corePower : List Nat := []
  /-- PWR.INPUT_RANGE may be raised (R868), and since when P50V has been inside 40 V to 60 V. -/
  rangeArmed : Bool := true
  inRangeSince : Option Nat := some 0
  /-- An input loss has lowered the islands (R869). -/
  inputLost : Bool := false
  /-- RESET_IN_N is held low (R893). -/
  resetHeld : Bool := false
  deriving DecidableEq, Repr

/-- The host endpoint (R741 to R778). -/
structure HostPort where
  /-- LINK of HOST_STATUS (R745): 4 bits, reset 0. -/
  link : Nat := 0
  /-- The CXL link is up (R742, R776); reset false. -/
  up : Bool := false
  /-- The link trained too narrow or too slow for CXL: no queue is fetched (R742); reset false. -/
  pcieOnly : Bool := false
  /-- QUIESCE and QUIESCED (R745): reset 0. -/
  quiesce : Bool := false
  quiesced : Bool := false
  /-- IDE state (0x9100/02): 0 to 3; reset 0. -/
  ide : Nat := 0
  /-- PERST_N asserted (R775); reset false. -/
  perst : Bool := false
  /-- Host lines in the device cache, newest first: line address and dirty (R741): at most 16,384; reset empty. -/
  cache : List (Nat × Bool) := []
  /-- Window lines in the snoop filter, oldest first (R770): at most 2,097,152; reset empty. -/
  snoop : List Nat := []
  /-- MSI-X vectors the host has unmasked; every vector is masked after reset, as MSI-X has it (R761). -/
  unmasked : List Nat := []
  /-- MSI-X pending bits (R761); reset none. -/
  pendingBits : List Nat := []
  /-- Host lines for which the host gives no completion when a record or status word is next written there (R899): the model's own; reset none. -/
  dead : List Nat := []
  /-- Windows in effect (R767, R768): Cellar and HBM lengths. -/
  winCellar : Nat := 0
  winHbm : Nat := 0
  /-- Cellar and HBM offsets in effect since reset. -/
  offCellar : Nat := 0
  offHbm : Nat := 0
  deriving DecidableEq, Repr

/-- What the module sends or shows outside, in order: the model's own record of it. -/
inductive Out where
  /-- A flit put on link l (R376). -/
  | flit (l : Nat) (f : Flit)
  /-- The identity sent on link l during training: serial number, link number, fabric address and BOND (R373). -/
  | train (l serial link addr bond : Nat)
  /-- An MSI-X message (R761, R762). -/
  | msix (vector : Nat)
  /-- A Tchioz message: TYPE, SEQ, destination node, TIME and payload (R784). -/
  | mgmt (typ seq : Nat) (time : Nat) (payload : List Byte)
  /-- An ARP answer (R783). -/
  | arp (ip : Nat)
  /-- The status an object-dictionary write was answered with (R791). -/
  | status (ix sub st : Nat)
  /-- The answer of a BAR access: Unsupported Request, or zero (R746). -/
  | barBad (ur : Bool)
  /-- A back-invalidate snoop of a window line, leaving the host a shared copy or none (R770). -/
  | snoop (line : Nat) (inv : Bool)
  /-- The data of a host window read with its poison flag (R769, R772). -/
  | hostData (dpa : Nat) (bytes : List Byte) (poison : Bool)
  /-- An SPDM answer on the Tchioz or the DOE path (R816). -/
  | spdm (tchioz : Bool) (msg : List Byte)
  /-- The bytes a Larder read answered with (R282). -/
  | sector (addr : Nat) (bytes : List Byte)
  /-- A grant of an arbiter: class, instance, requester, units (R648). -/
  | grant (k inst who units : Nat)
  deriving DecidableEq, Repr

end Sys2Proof.Machine
end

