-- ==== Sys2Proof/Machine/Flags.lean ====
section
/-! DEFINITION. Flags: the warning flags of a numerics monitor record (R556, R561) and the bits of HOST_STATUS (R745). -/
namespace Sys2Proof.Machine

/-- The four share counters of a monitor record, each with its threshold's sub-index and its warning, in the order of FLAGS (R556, R561). -/
def monTests (z sa fl nf : Nat) : List (Nat × Nat × Nat × Code) :=
  [(0, z, 5, .numZeroShare), (1, sa, 6, .numSatShare), (2, fl, 7, .numFlushShare), (3, nf, 8, .numNonfiniteShare)]

/-- Whether threshold h of a monitor is crossed (R561). -/
def crossed (n h written : Nat) : Bool := h != 0xFFFFFFFF && decide (h * written < n * 65536)

/-- The larger magnitude of two A32 patterns without sign. -/
def a32MaxAbs (a b : A32) : A32 := if a.toNat < b.toNat then b else a

/-- A flag as a bit. -/
def flagNum (b : Bool) : Nat := if b then 1 else 0

/-- HOST_STATUS (R745): LINK, READY, IDE and QUIESCED. -/
def hostStatus (h : HostPort) (ready : Bool) : Nat := h.link * 16 + flagNum ready * 4 + flagNum (h.ide == 2) * 2 + flagNum h.quiesced

end Sys2Proof.Machine
end

