-- ==== Sys2Proof/Machine/Maps.lean ====
section
/-! DEFINITION. The sorted map that memory and the object dictionary are kept in, list access by number, and bytes and bit fields. -/
namespace Sys2Proof.Machine

/-- What a sorted map holds at `k`; `d k` where it lists nothing. -/
def mapGet {β : Type} (d : Nat → β) : List (Nat × β) → Nat → β
  | [], k => d k
  | (a, v) :: m, k => if k = a then v else if k < a then d k else mapGet d m k

/-- The map with `k` holding `v`: an entry equal to what an unlisted key reads as is not listed. -/
def mapPut {β : Type} [DecidableEq β] (d : Nat → β) : List (Nat × β) → Nat → β → List (Nat × β)
  | [], k, v => if v = d k then [] else [(k, v)]
  | (a, w) :: m, k, v =>
    if k = a then (if v = d k then m else (k, v) :: m)
    else if k < a then (if v = d k then (a, w) :: m else (k, v) :: (a, w) :: m)
    else (a, w) :: mapPut d m k v

/-- The canonical form: keys strictly rising from `lo`, no entry equal to what an unlisted key reads as. -/
def mapWfFrom {β : Type} [DecidableEq β] (d : Nat → β) : Nat → List (Nat × β) → Bool
  | _, [] => true
  | lo, (a, v) :: m => decide (lo ≤ a) && decide (v ≠ d a) && mapWfFrom d (a + 1) m

/-- A map in canonical form. -/
abbrev mapWf {β : Type} [DecidableEq β] (d : Nat → β) (m : List (Nat × β)) : Bool := mapWfFrom d 0 m

/-- Element `i` of a list, or `d` past its end. -/
def nth {α : Type} (l : List α) (i : Nat) (d : α) : α := l.getD i d

/-- The list with element `i` changed by `f`; unchanged past its end. -/
def modAt {α : Type} : List α → Nat → (α → α) → List α
  | [], _, _ => []
  | a :: l, 0, f => f a :: l
  | a :: l, i + 1, f => a :: modAt l i f

/-- What an unlisted byte of memory reads as (log entry 3). -/
def memDefault (_ : Nat) : Byte := 0#8

/-- The form every memory of the model has. -/
abbrev memWf (m : List Host.Cell) : Bool := mapWf memDefault m

/-- One byte of memory. -/
def memGet (m : List Host.Cell) (a : Nat) : Byte := mapGet memDefault m a

/-- Memory with one byte written. -/
def memPut (m : List Host.Cell) (a : Nat) (b : Byte) : List Host.Cell := mapPut memDefault m a b

/-- `n` bytes from `a`. -/
def memBytes (m : List Host.Cell) (a n : Nat) : List Byte := (List.range n).map fun i => memGet m (a + i)

/-- Memory with a run of bytes written from `a`. -/
def memPutBytes (m : List Host.Cell) (a : Nat) (bs : List Byte) : List Host.Cell :=
  (bs.foldl (fun acc b => (memPut acc.1 acc.2 b, acc.2 + 1)) (m, a)).1

/-- Memory with a run of bytes written from `a`, `none` leaving a byte as it is. -/
def memPutSome (m : List Host.Cell) (a : Nat) (bs : List (Option Byte)) : List Host.Cell :=
  (bs.foldl (fun acc b => (match b with | some v => memPut acc.1 acc.2 v | none => acc.1, acc.2 + 1)) (m, a)).1

/-- A little-endian number from bytes (R10). -/
def leNat : List Byte → Nat
  | [] => 0
  | b :: bs => b.toNat + 256 * leNat bs

/-- A number as `n` little-endian bytes. -/
def leBytes : Nat → Nat → List Byte
  | 0, _ => []
  | n + 1, x => BitVec.ofNat 8 (x % 256) :: leBytes n (x / 256)

/-- The 64-bit words of a run of bytes (R12). -/
def wordsOf : Nat → List Byte → List Word
  | 0, _ => []
  | n + 1, bs => BitVec.ofNat 64 (leNat (bs.take 8)) :: wordsOf n (bs.drop 8)

/-- The bytes of 64-bit words. -/
def bytesOfWords (ws : List Word) : List Byte := ws.flatMap fun w => leBytes 8 w.toNat

/-- Bits `hi` to `lo` of a number (R11). -/
def bits (x hi lo : Nat) : Nat := x / 2 ^ lo % 2 ^ (hi + 1 - lo)

/-- One bit of a number. -/
def bit (x i : Nat) : Bool := x / 2 ^ i % 2 == 1

/-- Bits `hi` to `lo` of word `w` of a record (R12). -/
def fld (ws : List Word) (w hi lo : Nat) : Nat := bits (nth ws w 0#64).toNat hi lo

/-- A number below `2^n` read as two's complement. -/
def toSigned (n x : Nat) : Int := if x < 2 ^ (n - 1) then (x : Int) else (x : Int) - 2 ^ n

/-- An integer as an `n`-bit two's-complement number. -/
def ofSigned (n : Nat) (x : Int) : Nat := (x % (2 ^ n : Nat)).toNat

/-- The quotient rounded up. -/
def ceilDiv (a b : Nat) : Nat := (a + b - 1) / b

/-- The number with bit `i` set to `v`. -/
def setBit (x i : Nat) (v : Bool) : Nat :=
  if bit x i = v then x else if v then x + 2 ^ i else x - 2 ^ i

/-- One step of CRC-32C over a byte: the reflected polynomial 0x82F6_3B78 (R319). -/
def crcByte (c : Nat) (b : Nat) : Nat :=
  (List.range 8).foldl (fun x _ => if x % 2 = 1 then (x / 2) ^^^ 0x82F63B78 else x / 2) (c ^^^ b)

/-- CRC-32C: initial and final value all ones (R319). -/
def crc32c (bs : List Byte) : Nat := (bs.foldl (fun c b => crcByte c b.toNat) 0xFFFFFFFF) ^^^ 0xFFFFFFFF

end Sys2Proof.Machine
end

