-- ==== Sys2Proof/Machine/PartsMem.lean ====
section
/-! DEFINITION. The parts of the state on the memory side: the Larder, HBM, the tiers, the update and reduction engines and the media die. -/
namespace Sys2Proof.Machine

/-- State of a sector of a Larder line (R275). -/
inductive SectorSt where
  | invalid | clean | dirty
  deriving DecidableEq, Repr

/-- A Larder line that holds something (R275, R276): home die, set, way, HBM line number, four sector states, the partition it was allocated for, the KEEP flag and its recency stamp. -/
structure LarderLine where
  die : Nat
  set : Nat
  way : Nat
  line : Nat
  sectors : List SectorSt
  owner : Option Nat
  keep : Bool
  stamp : Nat
  deriving DecidableEq, Repr

/-- The eight Larders (R275 to R289): the lines that hold something; the next recency stamp; and for each dirty sector the bytes HBM holds beneath it, so that dropping it shows them again (R285). -/
structure Larder where
  lines : List LarderLine := []
  clock : Nat := 0
  /-- Sector number and the 32 bytes HBM holds beneath (R285). -/
  stale : List (Nat × List Byte) := []
  /-- Sectors (address / 32) whose copy in a Larder has an error that its check code corrects, and those with one it cannot correct (R302, R303); reset empty. -/
  weak : List Nat := []
  bad : List Nat := []
  deriving DecidableEq, Repr

/-- The HBM map and its monitor (R258 to R273). -/
structure Hbm where
  /-- Active pseudo-channels of each stack, 32 bits each (R258, R265): loaded; every channel in a module with no repair entry. -/
  active : List Nat := List.replicate 16 0xFFFFFFFF
  /-- Sectors served by each pseudo-channel 0 to 511 in the present monitor window (R270). -/
  served : List (Nat × Nat) := []
  /-- Consecutive windows above the threshold of each die, and whether MEM.IMBALANCE may be raised (R271, R272). -/
  run : List Nat := List.replicate 8 0
  armed : List Bool := List.replicate 8 true
  /-- Window length in µs, threshold and consecutive windows that each die's monitor adopted at its last window boundary (R273): reset the defaults. -/
  adopted : List (Nat × Nat × Nat) := List.replicate 8 (1000, 1024, 100)
  /-- Fabric time at which each die's present window began (R270): reset 0. -/
  began : List Nat := List.replicate 8 0
  /-- Sectors (address / 32) of HBM and of the Cellar with an uncorrectable error (R300, R313, R898); reset empty. -/
  bad : List Nat := []
  /-- Sectors of HBM and of the Cellar with an error within one symbol, which their check code corrects (R298, R313); reset empty. -/
  weak : List Nat := []
  deriving DecidableEq, Repr

/-- A map record of the Attic (R358), with the crate it names: the crate's index; its 64-byte header and payload as bytes; the owning partition and the context that moved it; the generation; whether it has units, which a DISCARD has not (R362); the block (block modulo 8 is its stack) and the page that hold them; the CRC-32C of the body and the commit word as they stand in flash; and whether a unit of it cannot be corrected or has been erased (R341). -/
structure AtticCrate where
  index : Nat
  bytes : List Byte
  part : Nat
  ctx : Option Nat
  gen : Nat
  units : Bool := true
  block : Nat := 0
  page : Nat := 0
  crc : Nat := 0
  commit : Nat := 0xFFFFFFFF
  bad : Bool := false
  deriving DecidableEq, Repr

/-- A crate-cache slot in use (R344 to R353): tier, die, slot number, whose crate it holds and its last use. The crate's bytes lie in memory at the slot's address (R345). -/
structure CacheSlot where
  cellar : Bool
  die : Nat
  slot : Nat
  index : Nat
  part : Nat
  ctx : Option Nat
  lastUse : Nat
  deriving DecidableEq, Repr

/-- A NAND block the model has to say something of (R331, R336 to R341): page reads since its last erase, erase count, whether its lag has been raised (R339), pages taken since the last erase and the units still free in the last of them; whether its next program or erase fails, whether it is to be retired once its valid units have left it, and whether it is retired. -/
structure AtticBlock where
  block : Nat
  reads : Nat := 0
  erases : Nat := 0
  lagged : Bool := false
  pages : Nat := 0
  room : Nat := 0
  failing : Bool := false
  leaving : Bool := false
  retired : Bool := false
  deriving DecidableEq, Repr

/-- The Attic and the crate caches (R331 to R364). -/
structure Tier where
  /-- The map in use: the newest applied record of each index that holds a crate (R334, R362); rebuilt from the records at start-up. -/
  crates : List AtticCrate := []
  /-- The map records in flash, newest first (R358): kept across reset and loss of power. -/
  records : List AtticCrate := []
  /-- Generation of the next map record (R358, R362): 64 bits. -/
  gen : Nat := 0
  /-- The stack whose turn is next for a newly committed crate (R333): 0 to 7; reset 0. -/
  turn : Nat := 0
  /-- Blocks with a count or a mark; every other block is erased and as made. -/
  blocks : List AtticBlock := []
  /-- The block of each stack whose pages are being taken (R340); reset none. -/
  opens : List (Option Nat) := List.replicate 8 none
  /-- Relocation queue, oldest first (R336). -/
  queue : List Nat := []
  /-- Spare blocks remaining of each stack (0x3300/04 shows their sum): log entry 5. -/
  spares : List Nat := List.replicate 8 12500
  /-- The Attic is offline (R363): reset false. -/
  offline : Bool := false
  /-- Map records ignored at the last recovery (0x3300/06). -/
  ignored : Nat := 0
  /-- NAND stacks whose Attic writes are paused (R879). -/
  paused : List Nat := []
  /-- Crate-cache slots in use: reset none (R357). -/
  slots : List CacheSlot := []
  /-- H and K in effect since start-up (R344). -/
  cacheH : Nat := 0
  cacheK : Nat := 0
  deriving DecidableEq, Repr

/-- State of a norm slot (R464), with the state it has before any NORM_PART. -/
inductive SlotSt where
  | empty | gathering | waiting | go | skip
  deriving DecidableEq, Repr

/-- A norm slot of an update engine (R464, R491). -/
structure NormSlot where
  st : SlotSt := .empty
  step : Nat := 0
  sumsq : A32 := 0#32
  elems : Nat := 0
  cause : Nat := 0
  gnorm : A32 := 0#32
  clip : A32 := 0#32
  lscale : A32 := 0#32
  deriving DecidableEq, Repr

/-- An update engine: its queue (R455), executing command and 16 x 4 norm slots. -/
structure UpdEngine where
  queue : List CmdInst := []
  exec : Option Exec := none
  slots : List NormSlot := List.replicate 64 {}
  deriving DecidableEq, Repr

/-- State of a norm group (R468, R908). -/
inductive GroupSt where
  | idle | gathering | sent | go | skip | abandoned
  deriving DecidableEq, Repr

/-- A contribution to a norm group (R465): from a local update engine by its die, or from a child by its fabric address. -/
structure NormPartial where
  from_ : Nat
  step : Nat
  sumsq : A32
  elems : Nat
  cause : Nat
  contrib : Nat
  lscale : A32
  deriving DecidableEq, Repr

/-- A norm group of a partition (R468 to R475, R564 to R573, R908). -/
structure NormGroup where
  /-- State and current step (0x362p): reset idle. -/
  st : GroupSt := .idle
  step : Nat := 0
  /-- The eight words of the tree record fixed for the step (R468); empty while none is. -/
  tree : List Word := []
  /-- Local contributions and child partials held for the step (R469). -/
  locals : List NormPartial := []
  children : List NormPartial := []
  /-- Child partials held for a later step (R474). -/
  next : List NormPartial := []
  /-- CLEAN, SKIPS, OVERFLOWS and the step of the last verdict (R567, R572): reset 0. -/
  clean : Nat := 0
  skips : Nat := 0
  overflows : Nat := 0
  lastStep : Nat := 0
  /-- NUM.LSCALE_MIN and NUM.SKIP_RUN raised and not re-armed (R570, R571). -/
  minOnce : Bool := false
  runOnce : Bool := false
  deriving DecidableEq, Repr

/-- State of a barrier group (R539, R909). -/
inductive BarSt where
  | idle | gathering | sent | released
  deriving DecidableEq, Repr

/-- An arrival of a child at a barrier group (R542): the child's fabric address, the step and its CONTRIB. -/
structure BarArrival where
  from_ : Nat
  step : Nat
  contrib : Nat
  deriving DecidableEq, Repr

/-- A barrier group of a partition (R539, R542, R909). -/
structure BarGroup where
  /-- State and current step (0x372p): reset idle. -/
  st : BarSt := .idle
  step : Nat := 0
  /-- The tree record of the local arrival (R538); empty while there is none. -/
  tree : List Word := []
  /-- Child arrivals of the current step, and those held for another (R474, R909). -/
  arrivals : List BarArrival := []
  next : List BarArrival := []
  /-- The local arrival of the step: the BARRIER's context and slot (R539). -/
  localIn : Option (Nat × Nat) := none
  /-- Whether that BARRIER was withdrawn after it had arrived and is still to be read again (R631): reset no. -/
  withdrawn : Bool := false
  deriving DecidableEq, Repr

/-- A B16 block on its way through a reduction engine (R507, R521): its block number in the bucket, exponent, raised bit and 32 mantissas. -/
structure RedBlock where
  idx : Nat
  exp : Nat
  raised : Bool
  mants : List Nat
  deriving DecidableEq, Repr

/-- A landing unit sent and not yet covered by DONE (R511): its transfer, its plan entry, and its header with the header's address while the header waits for the rest of the unit. -/
structure RedUnit where
  xfer : Xfer
  entry : Nat := 0
  header : Option (Nat × List (BitVec 8)) := none
  deriving DecidableEq, Repr

/-- What a REDUCE knows of one input (R510, R514): units consumed, whether the present unit has passed its checks, its blocks added, and whether the last unit of the chunk is consumed. -/
structure RedInput where
  used : Nat := 0
  checked : Bool := false
  pos : Nat := 0
  last : Bool := false
  deriving DecidableEq, Repr

/-- An executing REDUCE (R494 to R534). -/
structure RedRun where
  exec : Exec
  /-- The plan record as read (R499). -/
  plan : List Word
  /-- Locally ready (R502). -/
  ready : Bool := false
  /-- Plan entry under way, and how many of its blocks have been added or passed over (R503). -/
  entry : Nat := 0
  at_ : Nat := 0
  /-- Every block of the entry has been added. -/
  full : Bool := false
  inputs : List RedInput := List.replicate 8 {}
  /-- Local blocks of a sparse entry still to be added (R529, R531). -/
  sel : List RedBlock := []
  /-- Non-finite flag of the chunk (R524). -/
  flag : Bool := false
  /-- COLL.SATURATED has been raised by the command (R521). -/
  sat : Bool := false
  /-- Next agreed scales of the chunk's OWN blocks, block and byte (R527). -/
  scales : List (Nat × Nat) := []
  /-- Blocks added and not yet sent in a unit. -/
  out : List RedBlock := []
  /-- Units sent to the window, and the consumed count last received for it (R510). -/
  sent : Nat := 0
  credit : Nat := 0
  units : List RedUnit := []
  deriving DecidableEq, Repr

/-- Reduction, barriers and the landing area (R494 to R551). -/
structure Coll where
  /-- Commands accepted and not started, oldest first (R498). -/
  queue : List CmdInst := []
  /-- Executing REDUCE and BROADCAST commands. -/
  runs : List RedRun := []
  broadcasts : List Exec := []
  barriers : List BarGroup := List.replicate 256 {}
  /-- Landing-board bits set, ascending (R513). -/
  board : List Nat := []
  /-- U in effect (R505). -/
  units : Nat := 0
  deriving DecidableEq, Repr

/-- How a slot of a batch stands (R656): EMPTY, admitted, or resolved as VALID, INVALID or LATE. -/
inductive SlotRes where
  | empty | admitted | valid | invalid | late
  deriving DecidableEq, Repr

/-- A slot of an open batch (R660, R668, R680, R690). -/
structure BatchSlot where
  res : SlotRes := .empty
  passed : Bool := false
  reason : Nat := 0
  /-- Deadline, fabric time (R668, R714). -/
  deadline : Nat := 0
  /-- POLICY is WAIT (R665). -/
  wait : Bool := false
  /-- The eight words of the sample descriptor or route entry admitted (R665, R707). -/
  words : List Word := []
  /-- The stream context whose picture fills the slot, for a route (R707). -/
  stream : Option Nat := none
  /-- Admission number, by which the work is ordered (R678). -/
  order : Nat := 0
  /-- 0 waits, 1 in a decoder, 2 in an audio engine or the geometry and colour unit (R678). -/
  phase : Nat := 0
  /-- The decoder or engine at work on it. -/
  engine : Nat := 0
  deriving DecidableEq, Repr

/-- An open batch (R656 to R688). -/
structure Batch where
  handle : Nat
  part : Nat
  ctx : Nat
  /-- The eight words of its OPEN (R657). -/
  words : List Word
  /-- The four words of the batch tensor's descriptor, as OPEN read it. -/
  tensor : List Word
  opened : Nat
  /-- Fabric time at which the last slot resolved (R689); 0 before. -/
  resolvedAt : Nat := 0
  slots : List BatchSlot
  /-- Conversions of the elements written (R689). -/
  ctr : Ctr := {}
  deriving DecidableEq, Repr

/-- State of a stream context (R739), but for FREE, which has no entry. -/
inductive StreamSt where
  | decoding | ended | failed | encoding
  deriving DecidableEq, Repr

/-- A picture of a decode context whose bytes are complete (R705, R713). -/
structure Pic where
  /-- Its number in decode order. -/
  n : Nat
  /-- What the bitstream says of it, by field number (log entry 9). -/
  info : List Nat
  arrival : Nat
  /-- 0 waits for an entropy engine, 1 entropy-decoded, 2 reconstructed, 3 skipped. -/
  phase : Nat := 0
  /-- 0 whole, or the REASON for which it is broken (R720, R722). -/
  broken : Nat := 0
  /-- Output (R706), or passed over in output order. -/
  out : Bool := false
  /-- Taken by the geometry and colour unit (R709). -/
  shaped : Bool := false
  /-- Where its compressed samples lie in the reference area, and how many bytes they are (R719). -/
  area : Nat × Nat := (0, 0)
  deriving DecidableEq, Repr

/-- A stream context that is held (R697 to R740). -/
structure Stream where
  num : Nat
  part : Nat
  ctx : Nat
  st : StreamSt
  /-- The eight words of its SOPEN or EOPEN (R698, R728). -/
  words : List Word
  /-- The bitstream read so far (R703). -/
  fed : List Byte := []
  /-- Byte counts at which AU_END or END closed a picture (R702, R705). -/
  ends : List Nat := []
  /-- Runs of the bitstream whose bytes could not be read: first byte and length (R720). -/
  bad : List (Nat × Nat) := []
  pics : List Pic := []
  /-- Next output index, or the next POC of an encode context (0x53cc/03). -/
  next : Nat := 0
  /-- The last picture that failed of itself (R721). -/
  lastFail : Option Nat := none
  /-- Encode: the input pictures coded since the last IDR, oldest first; pictures since the last IDR; whether the next must be IDR (R732, R738). -/
  coded : List (List Byte) := []
  sinceIdr : Nat := 0
  needIdr : Bool := true
  /-- Encode: where the last coded picture lies in the reference area, with its bytes (R719), and its inter blocks (R734, R735). -/
  area : Nat × Nat := (0, 0)
  blocks : List InterBlock := []
  deriving DecidableEq, Repr

/-- The media die (R656 to R740). -/
structure Media where
  /-- Commands accepted, oldest first. -/
  queue : List Exec := []
  /-- Open batches (R660): at most one for each of 256 handles; reset none. -/
  batches : List Batch := []
  /-- Samples and routes admitted so far: the number of the next admission; reset 0. -/
  admitted : Nat := 0
  /-- Stream contexts that are not FREE (R739): at most 256; reset none. -/
  streams : List Stream := []
  deriving DecidableEq, Repr

end Sys2Proof.Machine
end

