-- ==== Sys2Proof/Machine/State.lean ====
section
/-! DEFINITION. The whole state of the module as plain data, the reasons a step can stop, and the state after reset. -/
namespace Sys2Proof.Machine

/-- The machine: every piece of state the manual gives the module, and the queue of commands that wait. -/
structure State where
  /-- Commands waiting, first in, first out; reset empty. -/
  pending : List Instr := []
  /-- Memory by local address (R17): sorted, nothing listed that reads 0 (log entry 3). -/
  mem : List Host.Cell := []
  /-- Object-dictionary entries away from their defaults: index * 256 + sub-index and value (R799), signed values in two's complement; sorted. -/
  od : List (Nat × Word) := []
  /-- Persistent entries as the store's records give them (R364, R800): sorted; kept across reset. -/
  nv : List (Nat × Word) := []
  /-- The records of the persistent store in configuration flash, newest first, their generations falling (R364): kept across reset and loss of power; none as made. -/
  flash : List NvRec := []
  /-- Commits of the persistent store that will fail next (R800): the model's own, by Config.upsets; reset none. -/
  storeFails : Nat := 0
  /-- Fabric time (R28). -/
  time : TimeBase := {}
  /-- Partitions 0 to 15 (R608). -/
  parts : List Partition := List.replicate 16 {}
  /-- Contexts 0 to 255 (R619). -/
  ctxs : List Context := List.replicate 256 {}
  /-- Logical cores 0 to 383 (R33). -/
  cores : List Core := (List.range 384).map fun n => { phys := n / 24 * 25 + n % 24 }
  /-- Hub-die commands accepted, oldest first, with those started (R903). -/
  hub : List Exec := []
  /-- Context from which each consumer other than a core last accepted a command, consumers 384 to 390 (R903); reset 255, so that context 0 comes first. -/
  lastAccept : List Nat := List.replicate 7 255
  /-- Credit-counter takers in the order they began to wait: partition * 256 + counter, then the core, or 1000 + the slot of a REDUCE with its context (R590). -/
  takers : List (Nat × Consumer × Nat) := []
  /-- Update engines of cellar dies 0 to 3. -/
  upd : List UpdEngine := List.replicate 4 {}
  /-- Norm groups, partition * 16 + group (R468). -/
  groups : List NormGroup := List.replicate 256 {}
  coll : Coll := {}
  larder : Larder := {}
  hbm : Hbm := {}
  tier : Tier := {}
  media : Media := {}
  links : List Link := List.replicate 36 {}
  /-- Packets delivered within the module and not yet taken by their receivers (R414). -/
  inbox : List Packet := []
  /-- Packets awaiting DONE to be sent (R405). -/
  dones : List PendingDone := []
  /-- XFER number the module gives next (R411). -/
  nextXfer : Nat := 0
  arbs : List ArbSet := []
  /-- Pending sets by class (R651). -/
  arbPending : List (Nat × ArbSet) := []
  arbReqs : List ReqState := []
  /-- Parked or owning requester of each arbiter: class, instance, requester last granted (R647, R648). -/
  arbLast : List (Nat × Nat × Nat) := []
  buckets : List Bucket := []
  /-- Units each die's arbiters charged in the present regulator window (R806): domain * 17 + partition, 16 for none; domains 0 to 7 compute dies, 8 to 11 cellar dies, 12 attic, 13 media, 14 to 17 port dies, 18 hub; reset none. -/
  charged : List (Nat × Nat) := []
  mgmt : Mgmt := {}
  sec : Sec := {}
  diag : Diag := {}
  pwr : Pwr := {}
  host : HostPort := {}
  /-- Random numbers each engine has drawn since start-up seeded its generator (R96): engine and count, sorted; the model's own counters over the free values of Config. -/
  draws : List (Nat × Nat) := []
  /-- What the module has sent, oldest first: the model's own record. -/
  out : List Out := []
  deriving DecidableEq, Repr

/-- Why a step could stop with a fault: no command of the table does. An event that cannot happen in the present state leaves the state as it is (log entry 2), and what the manual calls a fault is a record of the fault ring and a next state (R848).
The one constructor is raised by nothing: safe. -/
inductive Fault where
  | none
  deriving DecidableEq, Repr

/-- Why a step could refuse: only a row that the model gives no meaning (raised by Dispatch; safe). -/
inductive Refusal where
  | notModelled (mnemonic : String)
  deriving DecidableEq, Repr

/-- An arbiter class's settings after reset (R643, R644). -/
def arbReset (window burst : Nat) : ArbSet :=
  { window := window, burst := burst, weights := List.replicate 17 64, prios := List.replicate 17 1 }

/-- Instances of an arbiter class (R643). -/
def arbCount (k : Nat) : Nat := if k = 0 then 8 else if k = 1 then 512 else if k = 2 then 62 else if k = 3 then 36 else if k = 4 then 32 else 1

/-- A requester come into being at every instance of a class, its counter at WEIGHT (R646). -/
def arbFresh (k who weight : Nat) : List ReqState := (List.range (arbCount k)).map fun i => { cls := k, inst := i, who := who, credit := weight }

/-- The requesters that exist from module reset: unowned traffic, and the traffic classes at link outputs (R646). -/
def arbAtReset : List ReqState :=
  ([0, 1, 2, 4, 5].flatMap fun k => arbFresh k 16 64) ++ [17, 18, 19].flatMap fun w => arbFresh 3 w 256

/-- The machine right after reset: start-up stands at stage 3 (R891; log entry 6), no partition, context or link exists, every entry has its default. -/
def State.reset : State :=
  { arbs := [arbReset 1024 16, arbReset 4096 8, arbReset 1024 16,
      { window := 256, burst := 8, weights := [256, 256, 256], prios := [1, 1, 1] }, arbReset 4096 24, arbReset 1024 16],
    arbReqs := arbAtReset }

end Sys2Proof.Machine
end

