-- ==== Sys2Proof/Machine/Od.lean ====
section
/-! DEFINITION. The object dictionary as a table (R799): every entry with its type, access, default and range, as the manual's chapters list them. -/
namespace Sys2Proof.Machine

/-- A row for a family of entries: indexes `ix` to `ix + n - 1`, sub-indexes `lo` to `hi` in steps of `step`. -/
def odR (ix n lo hi step bits : Nat) (signed : Bool) (acc : Acc) (dflt : Nat) (mn mx : Int) (pers : Bool) : OdRow :=
  { ix := ix, n := n, lo := lo, hi := hi, step := step, bits := bits, signed := signed, acc := acc, dflt := dflt, mn := mn, mx := mx, pers := pers }

/-- Part 1 of the table of entries. -/
def odPart1 : List OdRow :=
  [ odR 0x1000 1 1 1 1 16 false .ro 0 0 0 false /- vendorId: 17 R804 -/,
    odR 0x1000 1 2 2 1 16 false .ro 0x4800 0 0 false /- deviceId: 17 R804 -/,
    odR 0x1000 1 3 3 1 8 false .ro 0 0 0 false /- revisionId: 17 R804 -/,
    odR 0x1000 1 4 4 1 64 false .ro 0 0 0 false /- serial: 17 R804 -/,
    odR 0x1000 1 5 5 1 64 false .ro 0x303038342d395147 0 0 false /- partNumber: 17 R804 -/,
    odR 0x1000 1 6 6 1 8 false .ro 0 0 0 false /- startupStage: 17 R804, 19 R888 -/,
    odR 0x1100 1 1 1 1 8 false .ro 0 0 0 false /- nodeId: 17 R804 R792 -/,
    odR 0x1100 1 2 2 1 32 false .rw 0xa9fe4d00 0 4294967295 true /- mgmtBase: 17 R804 -/,
    odR 0x1100 1 3 3 1 32 false .rw 0xa9fe4d64 0 4294967295 true /- mgmtManager: 17 R804 -/,
    odR 0x1100 1 4 4 1 16 false .rw 0x9fa6 1024 65535 true /- mgmtPort: 17 R804 -/,
    odR 0x1100 1 5 5 1 8 false .rw 0x20 1 255 true /- plcaTimer: 17 R804 -/,
    odR 0x1100 1 6 6 1 16 false .rw 0x3e8 0 60000 false /- heartbeatMs: 17 R804 -/,
    odR 0x1100 1 7 7 1 8 false .rw 1 0 4 false /- eventScope: 17 R804 -/,
    odR 0x1100 1 8 8 1 8 false .ro 0 0 0 false /- chain: 17 R804 -/,
    odR 0x1100 1 9 9 1 32 false .rc 0 0 0 false /- mgmtDiscards: 17 R804 R786 -/,
    odR 0x2000 16 1 1 1 32 false .rw 0 0 4294967295 false /- partQuarters: 13 R608 R610 -/,
    odR 0x2000 16 2 2 1 8 false .ro 0 0 0 false /- partState: 13 R608 R609 -/,
    odR 0x2000 16 3 3 1 8 false .wo 0 1 4 false /- partControl: 13 R608 -/,
    odR 0x2000 16 4 4 1 32 false .rw 0x3e8 100 1000000 false /- partSlice: 13 R608 -/,
    odR 0x2000 16 5 5 1 8 false .rw 0x10 1 16 false /- partResident: 13 R608 -/,
    odR 0x2000 16 6 6 1 8 false .rw 0 0 128 false /- partShareUpdate: 13 R608 R613 -/,
    odR 0x2000 16 7 7 1 16 false .rw 0 0 256 false /- partShareReduction: 13 R608 R613 -/,
    odR 0x2000 16 8 8 1 16 false .rw 0 0 512 false /- partShareMedia: 13 R608 R613 -/,
    odR 0x2000 16 9 9 1 8 false .rw 0 0 128 false /- partShareHub: 13 R608 R613 -/,
    odR 0x2010 16 1 7 1 16 false .rw 0 0 1024 false /- regShare: 13 R637 -/,
    odR 0x2010 16 8 8 1 8 false .rw 0 0 127 false /- regSpare: 13 R637 -/,
    odR 0x2010 16 9 9 1 8 false .rw 2 1 16 false /- regDepth: 13 R637 -/,
    odR 0x2200 256 1 1 1 8 false .rw 0xff 0 255 false /- ctxPartition: 13 R619 R620 -/,
    odR 0x2200 256 2 2 1 8 false .rw 0 0 3 false /- ctxPriority: 13 R619 -/,
    odR 0x2200 256 3 3 1 64 false .rw 0 0 4503599627370495 false /- ctxDescTable: 13 R619 -/,
    odR 0x2200 256 4 4 1 32 false .rw 0 0 65535 false /- ctxDescLen: 13 R619 -/,
    odR 0x2200 256 5 5 1 32 false .rw 0 0 1000000 false /- ctxSlice: 13 R619 -/,
    odR 0x2200 256 6 6 1 8 false .wo 0 1 4 false /- ctxControl: 13 R619 -/,
    odR 0x2200 256 7 7 1 8 false .ro 0 0 0 false /- ctxState: 13 R619 R621 -/,
    odR 0x2200 256 8 8 1 64 false .ro 0 0 0 false /- ctxBlockedAt: 13 R619 -/,
    odR 0x2200 256 9 9 1 64 false .rw 0 0 4503599627370495 false /- ctxCmdRing: 16 R747 -/,
    odR 0x2200 256 10 10 1 32 false .rw 0 64 65536 false /- ctxSlots: 16 R747 -/,
    odR 0x2200 256 11 11 1 64 false .rw 0 0 4503599627370495 false /- ctxTargetRing: 16 R747 -/,
    odR 0x2200 256 12 12 1 64 false .rw 0 0 4503599627370495 false /- ctxCqRing: 16 R747 -/,
    odR 0x2200 256 13 13 1 32 false .rw 0 64 65536 false /- ctxEntries: 16 R747 -/ ]

/-- Part 2 of the table of entries. -/
def odPart2 : List OdRow :=
  [ odR 0x2200 256 14 14 1 64 false .rw 0 0 4503599627370495 false /- ctxStatusWord: 16 R747 -/,
    odR 0x2200 256 15 15 1 16 false .rw 0xffff 2 65535 false /- ctxVector: 16 R747 -/,
    odR 0x2200 256 16 16 1 32 false .rw 0 0 1000000 false /- ctxHoldoff: 16 R747 -/,
    odR 0x2A00 1 1 1 1 32 false .sh 0x400 64 1000000 false /- arbWindow: 13 R643 R644 -/,
    odR 0x2A01 1 1 1 1 32 false .sh 0x1000 64 1000000 false /- arbWindow: 13 R643 R644 -/,
    odR 0x2A02 1 1 1 1 32 false .sh 0x400 64 1000000 false /- arbWindow: 13 R643 R644 -/,
    odR 0x2A03 1 1 1 1 32 false .sh 0x100 64 1000000 false /- arbWindow: 13 R643 R644 -/,
    odR 0x2A04 1 1 1 1 32 false .sh 0x1000 64 1000000 false /- arbWindow: 13 R643 R644 -/,
    odR 0x2A05 1 1 1 1 32 false .sh 0x400 64 1000000 false /- arbWindow: 13 R643 R644 -/,
    odR 0x2A00 1 2 2 1 16 false .sh 0x10 1 4096 false /- arbBurst: 13 R643 R644 -/,
    odR 0x2A01 1 2 2 1 16 false .sh 8 1 4096 false /- arbBurst: 13 R643 R644 -/,
    odR 0x2A02 1 2 2 1 16 false .sh 0x10 1 4096 false /- arbBurst: 13 R643 R644 -/,
    odR 0x2A03 1 2 2 1 16 false .sh 8 1 4096 false /- arbBurst: 13 R643 R644 -/,
    odR 0x2A04 1 2 2 1 16 false .sh 0x18 1 4096 false /- arbBurst: 13 R643 R644 -/,
    odR 0x2A05 1 2 2 1 16 false .sh 0x10 1 4096 false /- arbBurst: 13 R643 R644 -/,
    odR 0x2A00 6 3 3 1 16 false .sh 0x40 1 65535 false /- arbUnownedWeight: 13 R644 -/,
    odR 0x2A00 6 4 4 1 8 false .sh 1 0 3 false /- arbUnownedPrio: 13 R644 -/,
    odR 0x2A10 16 1 6 1 16 false .sh 0x40 1 65535 false /- arbWeight: 13 R644 -/,
    odR 0x2A20 16 1 6 1 8 false .sh 1 0 3 false /- arbPrio: 13 R644 -/,
    odR 0x2AF0 1 1 1 1 8 false .wo 0 0 63 false /- arbCommit: 13 R644 R651 -/,
    odR 0x2AF0 1 2 2 1 8 false .ro 0 0 0 false /- arbAwaiting: 13 R644 -/,
    odR 0x2D00 16 0 255 1 64 false .rw 0 0 18446744073709551615 false /- fence: 12 R579 R606 -/,
    odR 0x2D10 16 0 255 1 32 false .rw 0 0 4294967295 false /- credit: 12 R579 R606 -/,
    odR 0x2D20 1 1 1 1 32 false .rc 0 0 0 false /- syncStray: 12 R606 -/,
    odR 0x2E00 256 1 1 1 64 false .rw 0 0 4503599627370495 false /- monBuffer: 11 R552 R553 -/,
    odR 0x2E00 256 2 2 1 16 false .rw 0 0 65535 false /- monCount: 11 R552 -/,
    odR 0x2E00 256 3 3 1 64 false .rw 0 0 18446744073709551615 false /- monStep: 11 R552 R559 -/,
    odR 0x2E00 256 4 4 1 32 false .rw 0x1000 1 4294967295 false /- monMin: 11 R552 -/,
    odR 0x2E00 256 5 5 1 32 false .rw 0xffffffff 0 65536 false /- monZero: 11 R552 -/,
    odR 0x2E00 256 6 6 1 32 false .rw 0x40 0 65536 false /- monSat: 11 R552 -/,
    odR 0x2E00 256 7 7 1 32 false .rw 0x199a 0 65536 false /- monFlush: 11 R552 -/,
    odR 0x2E00 256 8 8 1 32 false .rw 0 0 65536 false /- monNonfinite: 11 R552 -/,
    odR 0x2F00 16 1 1 1 32 false .rw 0x2000 256 1048576 false /- longSum: 02 R101 -/,
    odR 0x2F00 16 2 2 1 8 false .rw 0x60 8 96 false /- accLimit: 03 R122 -/,
    odR 0x2F00 16 3 3 1 16 false .rw 0xc8 10 10000 false /- timeDefault: 04 R202 R203 -/,
    odR 0x2F00 16 4 4 1 16 false .rw 0x2710 10 10000 false /- timeMax: 04 R202 R203 -/,
    odR 0x2F10 16 1 8 1 16 false .rw 0xffff 0 65535 false /- larderMask: 06 R281 -/,
    odR 0x2F10 16 9 9 1 8 false .rw 4 0 12 false /- keepWays: 06 R281 -/,
    odR 0x2F10 16 10 10 1 8 false .wo 0 1 1 false /- keepClear: 06 R281 -/,
    odR 0x2F30 16 1 241 16 8 true .rw 0x10 (-32) 64 false /- groupL: 11 R564 -/ ]

/-- Part 3 of the table of entries. -/
def odPart3 : List OdRow :=
  [ odR 0x2F30 16 2 242 16 8 false .rw 1 1 8 false /- groupDown: 11 R564 -/,
    odR 0x2F30 16 3 243 16 8 false .rw 1 0 8 false /- groupUp: 11 R564 -/,
    odR 0x2F30 16 4 244 16 32 false .rw 0x7d0 1 1000000 false /- groupRun: 11 R564 -/,
    odR 0x2F30 16 5 245 16 8 true .rw 0xfffffffffffffff0 (-32) 64 false /- groupMin: 11 R564 -/,
    odR 0x2F30 16 6 246 16 8 true .rw 0x18 (-32) 64 false /- groupMax: 11 R564 -/,
    odR 0x2F30 16 7 247 16 16 false .rw 0x20 1 65535 false /- groupSkipLimit: 11 R564 -/,
    odR 0x3000 1 1 1 1 64 false .ro 0 0 0 false /- hbmSize: 06 R265 -/,
    odR 0x3000 1 2 2 1 16 false .ro 0 0 0 false /- hbmActive: 06 R265 -/,
    odR 0x3010 8 1 1 1 64 false .ro 0 0 0 false /- sliceBase: 06 R265 -/,
    odR 0x3010 8 2 2 1 64 false .ro 0 0 0 false /- sliceSize: 06 R265 -/,
    odR 0x3010 8 3 4 1 32 false .ro 0 0 0 false /- stackMask: 06 R265 -/,
    odR 0x3010 8 5 5 1 16 false .ro 0 0 0 false /- imbRatio: 06 R273 -/,
    odR 0x3010 8 6 6 1 8 false .ro 0 0 0 false /- imbBusiest: 06 R273 -/,
    odR 0x3010 8 7 7 1 64 false .ro 0 0 0 false /- larderHits: 06 R281 -/,
    odR 0x3010 8 8 8 1 64 false .ro 0 0 0 false /- larderMisses: 06 R281 -/,
    odR 0x3010 8 9 9 1 32 false .rc 0 0 0 false /- hbmCorrected: 06 R299 R304 -/,
    odR 0x3010 8 10 10 1 32 false .rc 0 0 0 false /- hbmUncorrectable: 06 R300 R304 -/,
    odR 0x3020 1 1 1 1 32 false .rw 0x3e8 10 100000 false /- imbWindow: 06 R273 -/,
    odR 0x3020 1 2 2 1 16 false .rw 0x400 384 16384 false /- imbThreshold: 06 R273 -/,
    odR 0x3020 1 3 3 1 16 false .rw 0x64 1 10000 false /- imbConsecutive: 06 R273 -/,
    odR 0x3020 1 4 4 1 16 false .rw 0xffff 0 65535 false /- larderUnowned: 06 R281 -/,
    odR 0x3100 1 1 1 1 64 false .ro 0x1dcd6500000 0 0 false /- cellarSize: 07 -/,
    odR 0x3100 1 2 2 1 32 false .rc 0 0 0 false /- cellarCorrected: 07 -/,
    odR 0x3100 1 3 3 1 32 false .rc 0 0 0 false /- cellarUncorrectable: 07 -/,
    odR 0x3200 1 1 1 1 32 false .rw 0 0 262144 true /- cacheH: 07 R344 -/,
    odR 0x3200 1 2 2 1 32 false .rw 0 0 4194304 true /- cacheK: 07 R344 -/,
    odR 0x3300 1 1 1 1 64 false .ro 0x1d1a94a20 0 0 false /- atticUnits: 07 R332 -/,
    odR 0x3300 1 2 2 1 64 false .ro 0 0 0 false /- atticFree: 07 -/,
    odR 0x3300 1 3 3 1 32 false .rw 0x186a0 5000 1000000 true /- atticDisturb: 07 R336 -/,
    odR 0x3300 1 4 4 1 32 false .ro 0 0 0 false /- atticSpares: 07 -/,
    odR 0x3300 1 5 5 1 32 false .rw 0xfa0 0 100000 true /- atticWarn: 07 R342 -/,
    odR 0x3300 1 6 6 1 32 false .ro 0 0 0 false /- atticIgnored: 07 R361 -/,
    odR 0x3300 1 7 7 1 32 false .rc 0 0 0 false /- atticRelocated: 07 -/,
    odR 0x3300 1 8 8 1 64 false .ro 0 0 0 true /- atticProgrammed: 07 R343 -/,
    odR 0x3300 1 9 9 1 8 false .ro 0 0 0 false /- atticStatus: 07 -/,
    odR 0x3400 16 1 1 1 32 false .rw 0 0 4294967295 false /- floorHbm: 07 R353 R354 -/,
    odR 0x3400 16 2 2 1 32 false .rw 0 0 4294967295 false /- floorCellar: 07 R354 -/,
    odR 0x3400 16 3 3 1 64 false .rw 0 0 18446744073709551615 true /- floorAttic: 07 R356 -/,
    odR 0x3400 16 4 4 1 32 false .ro 0 0 0 false /- heldHbm: 07 -/,
    odR 0x3400 16 5 5 1 32 false .ro 0 0 0 false /- heldCellar: 07 -/ ]

/-- Part 4 of the table of entries. -/
def odPart4 : List OdRow :=
  [ odR 0x3400 16 6 6 1 64 false .ro 0 0 0 false /- heldAttic: 07 -/,
    odR 0x3400 16 7 7 1 32 false .rc 0 0 0 false /- cacheEvicted: 07 -/,
    odR 0x3400 16 8 8 1 32 false .rc 0 0 0 false /- cacheRedirected: 07 R348 -/,
    odR 0x3600 1 1 1 1 32 false .rc 0 0 0 false /- normStray: 09 R492 -/,
    odR 0x3610 4 1 1 1 32 false .rc 0 0 0 false /- finalGo: 09 R492 -/,
    odR 0x3610 4 2 2 1 32 false .rc 0 0 0 false /- finalSkip: 09 R492 -/,
    odR 0x3620 16 1 16 1 64 false .ro 0 0 0 false /- normGroupState: 09 R492 -/,
    odR 0x3700 1 1 1 1 32 false .rw 0 0 16384 true /- landUnits: 10 R550 -/,
    odR 0x3700 1 2 2 1 32 false .rc 0 0 0 false /- collStray: 10 R550 -/,
    odR 0x3700 1 3 3 1 32 false .rc 0 0 0 false /- landRejects: 10 R550 -/,
    odR 0x3710 16 1 1 1 16 false .rw 0 0 65535 false /- landFirst: 10 R550 -/,
    odR 0x3710 16 2 2 1 32 false .rw 0 0 65536 false /- landCount: 10 R550 -/,
    odR 0x3710 16 3 3 1 8 false .wo 0 1 1 false /- landClear: 10 R550 R535 -/,
    odR 0x3710 16 4 4 1 32 false .rc 0 0 0 false /- ownRaised: 10 R550 -/,
    odR 0x3710 16 5 5 1 32 false .rc 0 0 0 false /- blocksSaturated: 10 R550 -/,
    odR 0x3720 16 1 16 1 64 false .ro 0 0 0 false /- barrierGroupState: 10 R550 -/,
    odR 0x3800 1 1 1 1 64 false .rw 0 0 18446744073709551615 true /- winCellarOff: 16 R779 -/,
    odR 0x3800 1 2 2 1 64 false .rw 0 0 999922073600 true /- winCellarLen: 16 R779 -/,
    odR 0x3800 1 3 3 1 64 false .rw 0 0 18446744073709551615 true /- winHbmOff: 16 R779 -/,
    odR 0x3800 1 4 4 1 64 false .rw 0 0 63887638528 true /- winHbmLen: 16 R779 -/,
    odR 0x3800 1 5 5 1 8 false .rw 0xff 0 255 false /- winPartition: 16 R779 -/,
    odR 0x3800 1 6 6 1 32 false .rw 0x3e8 10 100000 false /- biTimeout: 16 R779 -/,
    odR 0x3800 1 7 7 1 64 false .ro 0 0 0 false /- winCellarEff: 16 R779 R768 -/,
    odR 0x3800 1 8 8 1 64 false .ro 0 0 0 false /- winHbmEff: 16 R779 R768 -/,
    odR 0x3800 1 9 9 1 32 false .rc 0 0 0 false /- poison: 16 R779 R772 -/,
    odR 0x4000 1 1 1 1 16 false .rw 0xffff 0 65535 false /- fabricAddress: 08 R412 R445 -/,
    odR 0x4000 1 3 3 1 16 false .rw 0x200 64 4096 false /- replayTimeout: 08 R445 -/,
    odR 0x4000 1 4 4 1 32 false .rw 0x3e8 10 1000000 false /- stallLimit: 08 R445 -/,
    odR 0x4000 1 5 5 1 32 false .rc 0 0 0 false /- tc0Waits: 08 R445 R430 -/,
    odR 0x4000 1 6 6 1 32 false .rc 0 0 0 false /- transitUnreachable: 08 R445 R419 -/,
    odR 0x4000 1 7 7 1 32 false .rw 0x2faf080 1000 1000000000 false /- symbolLimit: 08 R445 R387 -/,
    odR 0x4000 1 8 8 1 32 false .rc 0 0 0 false /- badPackets: 08 R445 R400 -/,
    odR 0x4000 1 9 9 1 32 false .rc 0 0 0 false /- tagRejects: 08 R445 R406 -/,
    odR 0x4100 36 1 1 1 8 false .rw 0 0 2 false /- linkControl: 08 R369 R446 -/,
    odR 0x4100 36 2 2 1 8 false .ro 0 0 0 false /- linkState: 08 R372 R446 -/,
    odR 0x4100 36 3 3 1 8 false .ro 0 0 0 false /- linkLanes: 08 R446 -/,
    odR 0x4100 36 4 4 1 64 false .ro 0 0 0 false /- nbSerial: 08 R446 -/,
    odR 0x4100 36 5 5 1 8 false .ro 0 0 0 false /- nbLink: 08 R446 -/,
    odR 0x4100 36 6 6 1 16 false .ro 0 0 0 false /- nbAddress: 08 R446 -/,
    odR 0x4100 36 7 7 1 8 false .ro 0 0 0 false /- nbBond: 08 R446 -/ ]

/-- Part 5 of the table of entries. -/
def odPart5 : List OdRow :=
  [ odR 0x4100 36 8 8 1 8 false .rw 0 0 18 false /- bond: 08 R446 R392 -/,
    odR 0x4100 36 9 9 1 32 false .rc 0 0 0 false /- replays: 08 R446 -/,
    odR 0x4100 36 10 10 1 8 false .wo 0 1 1 false /- heldRelease: 08 R446 R374 -/,
    odR 0x4100 36 11 11 1 32 false .ro 0 0 0 false /- linkDelay: 08 R446 R436 -/,
    odR 0x4100 36 12 12 1 16 false .ro 0 0 0 false /- bondSkew: 08 R446 R394 -/,
    odR 0x4100 36 13 17 1 32 false .rc 0 0 0 false /- laneErrors: 08 R446 -/,
    odR 0x4200 16 0 255 1 32 false .sh 0 0 4294967295 false /- routeShadow: 08 R415 R416 -/,
    odR 0x4220 16 0 255 1 32 false .ro 0 0 0 false /- routeActive: 08 R416 -/,
    odR 0x4210 1 1 1 1 64 false .wo 0 0 18446744073709551615 false /- routeCommit: 08 R417 -/,
    odR 0x4300 1 1 1 1 8 false .rw 0 0 1 false /- timeRoot: 08 R434 R447 -/,
    odR 0x4300 1 2 2 1 8 false .ro 0 0 0 false /- timeState: 08 R441 R447 -/,
    odR 0x4300 1 3 3 1 8 false .ro 0 0 0 false /- timeUpstream: 08 R447 -/,
    odR 0x4300 1 4 4 1 8 false .ro 0 0 0 false /- timeHops: 08 R447 -/,
    odR 0x4300 1 5 5 1 32 true .ro 0 (-2147483648) 2147483647 false /- timeOffset: 08 R447 -/,
    odR 0x4300 1 6 6 1 16 false .rw 0x3e8 100 10000 false /- timeInterval: 08 R447 -/,
    odR 0x4300 1 7 7 1 8 false .ro 0 0 0 false /- tpulsePresent: 08 R447 -/,
    odR 0x4400 1 1 3 1 16 false .sh 0x100 1 1024 false /- tcWeight: 08 R445 R651 -/,
    odR 0x4500 1 1 16 1 16 false .rw 0 0 65535 false /- fabricTag: 08 R445 -/,
    odR 0x5000 1 1 1 1 16 false .ro 0 0 0 false /- openBatches: 14 R691 -/,
    odR 0x5000 1 2 2 1 16 false .ro 0 0 0 false /- sampleEntries: 14 R691 -/,
    odR 0x5010 16 1 1 1 32 false .rw 0xc350 1000 10000000 false /- deadlineDefault: 14 R691 -/,
    odR 0x5010 16 2 2 1 32 false .rc 0 0 0 false /- slotsInvalid: 14 R691 -/,
    odR 0x5010 16 3 3 1 32 false .rc 0 0 0 false /- slotsLate: 14 R691 -/,
    odR 0x5010 16 4 4 1 32 false .rc 0 0 0 false /- slotsPassed: 14 R691 -/,
    odR 0x5010 16 5 5 1 16 false .ro 0 0 0 false /- sampleHeld: 14 R691 -/,
    odR 0x5010 16 6 6 1 32 false .rw 0x80e8 1000 1000000 false /- liveDeadline: 15 R739 -/,
    odR 0x5100 256 1 1 1 32 false .ro 0 0 0 false /- batchState: 14 R691 -/,
    odR 0x5300 256 1 1 1 8 false .ro 0 0 0 false /- streamState: 15 R739 -/,
    odR 0x5300 256 2 2 1 8 false .ro 0 0 0 false /- streamPartition: 15 R739 -/,
    odR 0x5300 256 3 3 1 32 false .ro 0 0 0 false /- streamIndex: 15 R739 -/,
    odR 0x5300 256 4 4 1 32 false .rc 0 0 0 false /- streamBroken: 15 R739 -/,
    odR 0x5300 256 5 5 1 32 false .rc 0 0 0 false /- streamSkipped: 15 R739 -/,
    odR 0x6000 16 1 7 1 64 false .ro 0 0 0 false /- bytesOwned: 17 R804 R805 -/,
    odR 0x6010 1 1 7 1 64 false .ro 0 0 0 false /- bytesUnowned: 17 R804 -/,
    odR 0x6010 1 8 8 1 64 false .ro 0 0 0 false /- bytesTransit: 17 R804 -/,
    odR 0x6020 1 1 1 1 16 false .ro 0 0 0 false /- inFlight: 03 R150 -/,
    odR 0x6020 1 2 2 1 16 false .rw 0 0 65535 false /- inFlightMax: 03 R150 -/,
    odR 0x6020 1 3 3 1 32 false .ro 0 0 0 false /- heldBack: 03 R150 -/,
    odR 0x6030 1 1 1 1 32 false .rc 0 0 0 false /- barBad: 16 R779 R746 -/,
    odR 0x6030 1 2 2 1 32 false .rc 0 0 0 false /- doorbellDrops: 16 R779 R753 -/ ]

/-- Part 6 of the table of entries. -/
def odPart6 : List OdRow :=
  [ odR 0x6100 16 1 11 1 64 false .ro 0 0 0 false /- idleTotals: 12 R605 -/,
    odR 0x6200 16 1 1 1 64 false .ro 0 0 0 false /- energy: 17 R804 R805 -/,
    odR 0x6210 1 1 1 1 64 false .ro 0 0 0 false /- energyUnowned: 17 R804 -/,
    odR 0x6210 1 2 2 1 64 false .ro 0 0 0 false /- energyModule: 17 R804 -/,
    odR 0x6300 256 1 1 1 64 false .ro 0 0 0 false /- ctxBusy: 17 R804 R805 -/,
    odR 0x6300 256 2 2 1 64 false .ro 0 0 0 false /- ctxRecords: 17 R804 -/,
    odR 0x6300 256 3 3 1 64 false .ro 0 0 0 false /- ctxFailed: 17 R804 -/,
    odR 0x6300 256 4 4 1 64 false .ro 0 0 0 false /- ctxBytes: 17 R804 -/,
    odR 0x6300 256 5 5 1 32 false .ro 0 0 0 false /- ctxSlotsHbm: 17 R804 -/,
    odR 0x6300 256 6 6 1 32 false .ro 0 0 0 false /- ctxSlotsCellar: 17 R804 -/,
    odR 0x6300 256 7 7 1 64 false .ro 0 0 0 false /- ctxAtticUnits: 17 R804 -/,
    odR 0x7000 1 1 1 1 32 false .ro 0 0 0 true /- calVersion: 17 R810 -/,
    odR 0x7000 1 2 2 1 32 false .ro 0 0 0 true /- calCrc: 17 R810 -/,
    odR 0x7010 16 1 1 1 16 true .ro 0 (-32768) 32767 true /- calStack: 17 R810 -/,
    odR 0x7030 32 1 1 1 16 true .ro 0 (-32768) 32767 true /- calQuarter: 17 R810 -/,
    odR 0x7050 1 1 1 1 32 true .ro 0 (-2147483648) 2147483647 true /- calOsc: 17 R810 -/,
    odR 0x7100 36 1 5 1 8 false .ro 0 0 0 true /- calLane: 17 R810 -/,
    odR 0x7810 16 1 1 1 16 true .rw 0 (-32768) 32767 true /- userStack: 17 R808 R809 -/,
    odR 0x7830 32 1 1 1 16 true .rw 0 (-32768) 32767 true /- userQuarter: 17 R808 R809 -/,
    odR 0x7850 1 1 1 1 32 true .rw 0 (-2147483648) 2147483647 true /- userOsc: 17 R808 R809 -/,
    odR 0x7900 36 1 5 1 8 false .rw 0 0 255 true /- userLane: 17 R808 R809 -/,
    odR 0x7900 36 65 69 1 8 false .rw 0 0 1 true /- userLaneValid: 17 R808 -/,
    odR 0x7810 16 129 129 1 16 true .ro 0 (-32768) 32767 false /- effStack: 17 R808 R809 -/,
    odR 0x7830 32 129 129 1 16 true .ro 0 (-32768) 32767 false /- effQuarter: 17 R808 R809 -/,
    odR 0x7850 1 129 129 1 32 true .ro 0 (-2147483648) 2147483647 false /- effOsc: 17 R808 R809 -/,
    odR 0x7900 36 129 133 1 8 false .ro 0 0 0 false /- effLane: 17 R808 R809 -/,
    odR 0x8000 1 1 1 1 32 false .ro 0 0 0 false /- faultsRaised: 18 R865 -/,
    odR 0x8000 1 2 2 1 32 false .ro 0 0 0 false /- faultSeq: 18 R865 -/,
    odR 0x8000 1 3 3 1 32 false .rw 0 0 4294967295 false /- faultSelect: 18 R865 R853 -/,
    odR 0x8000 1 4 4 1 32 false .ro 0 0 0 false /- diesSilent: 18 R865 R862 -/,
    odR 0x8000 1 5 5 1 8 false .wo 0 165 165 false /- resetRequest: 18 R865 R864 -/,
    odR 0x8000 1 6 6 1 8 false .ro 0 0 0 false /- resetCause: 18 R865 -/,
    odR 0x8001 1 1 8 1 64 false .ro 0 0 0 false /- faultWord: 18 R865 -/,
    odR 0x8010 1 1 1 1 16 false .rw 8 1 168 true /- bistLogic: 18 R865 -/,
    odR 0x8010 1 2 2 1 16 false .rw 0x18 4 168 true /- bistHbm: 18 R865 -/,
    odR 0x8010 1 3 3 1 16 false .rw 0x3c 10 1440 true /- bistAnalogue: 18 R865 -/,
    odR 0x8010 1 4 4 1 8 false .rw 7 0 7 true /- bistEnable: 18 R865 -/,
    odR 0x8010 1 5 5 1 32 false .rc 0 0 0 false /- bistAbandoned: 18 R865 -/,
    odR 0x8010 1 6 6 1 32 false .rc 0 0 0 false /- bistCorrected: 18 R865 R833 -/,
    odR 0x8020 1 1 1 1 16 false .ro 0 0 0 false /- repairUsed: 18 R865 -/ ]

/-- Part 7 of the table of entries. -/
def odPart7 : List OdRow :=
  [ odR 0x8020 1 2 2 1 16 false .rw 0 0 4095 false /- repairSelect: 18 R865 -/,
    odR 0x8020 1 3 3 1 64 false .ro 0 0 0 false /- repairEntry: 18 R865 -/,
    odR 0x8200 1 1 1 1 64 false .ro 0 0 0 false /- recorderSeq: 18 R865 -/,
    odR 0x8200 1 2 2 1 8 false .ro 0 0 0 false /- recorderFrozen: 18 R865 -/,
    odR 0x8200 1 3 3 1 32 false .rc 0 0 0 false /- recorderRefused: 18 R865 -/,
    odR 0x9011 5 1 1 1 32 false .ro 0 0 0 false /- fwVersion: 17 R814 -/,
    odR 0x9011 5 2 2 1 8 false .ro 0 0 0 false /- fwSvn: 17 R814 -/,
    odR 0x9011 5 3 3 1 8 false .ro 0 0 0 false /- fwFuse: 17 R814 -/,
    odR 0x9011 5 4 4 1 8 false .ro 0 0 0 false /- fwSlot: 17 R814 -/,
    odR 0x9011 5 5 5 1 8 false .ro 0 0 0 false /- fwStaging: 17 R814 -/,
    odR 0x9011 5 6 6 1 8 false .wo 0 1 2 false /- fwControl: 17 R814 -/,
    odR 0x9100 1 1 1 1 8 false .rw 0 0 1 true /- ideRequired: 16 R779 R773 -/,
    odR 0x9100 1 2 2 1 8 false .ro 0 0 0 false /- ideState: 16 R779 -/,
    odR 0x9200 1 1 1 1 64 false .ro 0 0 0 false /- spdmAlgorithm: 17 R823 -/,
    odR 0x9200 1 2 2 1 8 false .rw 0 0 2 true /- secLevel: 17 R819 R823 -/,
    odR 0x9200 1 3 3 1 8 false .ro 0 0 0 false /- sessions: 17 R823 -/,
    odR 0x9300 1 1 1 1 64 false .ro 0 0 0 false /- debugNonce: 17 R823 -/,
    odR 0x9300 1 2 2 1 8 false .wo 0 1 1 false /- debugSubmit: 17 R823 -/,
    odR 0x9300 1 3 3 1 8 false .ro 0 0 0 false /- debugLevels: 17 R823 -/,
    odR 0x9300 1 4 4 1 8 false .ro 0 0 0 false /- debugOutcome: 17 R823 -/,
    odR 0xA000 1 1 1 1 32 false .ro 0 0 0 false /- p50vMv: 19 R896 -/,
    odR 0xA000 1 2 2 1 32 false .ro 0 0 0 false /- inputMa: 19 R896 -/,
    odR 0xA000 1 3 3 1 32 false .ro 0 0 0 false /- inputW: 19 R896 -/,
    odR 0xA000 1 4 4 1 16 false .rw 0x1388 1000 5000 true /- powerLimit: 19 R896 -/,
    odR 0xA000 1 5 5 1 16 false .ro 0 0 0 false /- moduleCeiling: 19 R896 -/,
    odR 0xA000 1 6 6 1 32 false .rw 0x64 10 100000 false /- retentionDelay: 19 R896 -/,
    odR 0xA000 1 7 7 1 16 true .ro 0 (-32768) 32767 false /- coolantIn: 19 R896 -/,
    odR 0xA000 1 8 8 1 16 true .ro 0 (-32768) 32767 false /- coolantOut: 19 R896 -/,
    odR 0xA000 1 9 9 1 8 false .ro 0 0 0 false /- alertCauses: 19 R896 -/,
    odR 0xA000 1 10 10 1 8 false .wo 0 0 255 false /- alertClear: 19 R896 R894 -/,
    odR 0xA010 16 1 1 1 16 true .ro 0 (-32768) 32767 false /- stackTemp: 06 -/,
    odR 0xA010 16 2 2 1 8 false .ro 0 0 0 false /- stackState: 06 -/,
    odR 0xA010 16 3 3 1 16 false .ro 0 0 0 false /- stackCeiling: 06 -/,
    odR 0xA020 32 1 1 1 16 false .rw 0x2ee 600 850 false /- quarterVoltage: 19 R896 R875 -/,
    odR 0xA040 11 1 1 1 16 false .rw 0x2ee 600 850 false /- islandVoltage: 19 R896 R875 -/,
    odR 0xA020 43 2 2 1 16 false .ro 0 0 0 false /- islandPresent: 19 R896 -/,
    odR 0xA020 43 3 3 1 16 true .ro 0 (-32768) 32767 false /- islandTemp: 19 R896 R911 -/,
    odR 0xA020 43 4 4 1 16 false .ro 0 0 0 false /- islandRate: 19 R896 -/,
    odR 0xA020 43 5 5 1 16 false .ro 0 0 0 false /- islandCeiling: 19 R896 -/,
    odR 0xA020 32 6 6 1 8 false .ro 0 0 0 false /- quarterPower: 19 R896 -/ ]

/-- Every entry of the object dictionary. -/
def odTable : List OdRow := odPart1 ++ odPart2 ++ odPart3 ++ odPart4 ++ odPart5 ++ odPart6 ++ odPart7

/-- Whether a row holds an index and sub-index. -/
def odHas (r : OdRow) (ix sub : Nat) : Bool :=
  decide (r.ix ≤ ix) && decide (ix < r.ix + r.n) && decide (r.lo ≤ sub) && decide (sub ≤ r.hi) && (sub - r.lo) % r.step == 0

/-- The row of an entry, if the dictionary has it (R791 NO_ENTRY otherwise). -/
def odFind (ix sub : Nat) : Option OdRow := odTable.find? fun r => odHas r ix sub

/-- The key of an entry in the map of values. -/
def odKey (ix sub : Nat) : Nat := ix * 256 + sub

/-- An entry's default (R799). -/
def odDefault (k : Nat) : Word :=
  match odFind (k / 256) (k % 256) with
  | some r => BitVec.ofNat 64 r.dflt
  | none => 0#64

/-- The value an entry holds. -/
def State.odW (s : State) (ix sub : Nat) : Word := mapGet odDefault s.od (odKey ix sub)

/-- The value an entry holds, as a number. -/
def State.odN (s : State) (ix sub : Nat) : Nat := (s.odW ix sub).toNat

/-- The value a signed entry holds. -/
def State.odZ (s : State) (ix sub : Nat) : Int := (s.odW ix sub).toInt

/-- The state with an entry set, whatever its access. -/
def State.odSet (s : State) (ix sub : Nat) (v : Word) : State :=
  { s with od := mapPut odDefault s.od (odKey ix sub) v }

/-- The state with an entry set to a number. -/
def State.odSetN (s : State) (ix sub v : Nat) : State := s.odSet ix sub (BitVec.ofNat 64 v)

/-- A counter entry counted up by `n`, stopping at the largest value of its type. -/
def State.odAdd (s : State) (ix sub n : Nat) : State :=
  match odFind ix sub with
  | some r => s.odSetN ix sub (min (s.odN ix sub + n) (2 ^ r.bits - 1))
  | none => s

/-- A counter entry counted up by one. -/
def State.odInc (s : State) (ix sub : Nat) : State := s.odAdd ix sub 1

/-- The body of a store record as bytes (R364): index, sub-index, value, generation, in a layout of the model's (log entry 75). -/
def nvBody (r : NvRec) : List Byte := leBytes 8 r.key ++ leBytes 8 r.value.toNat ++ leBytes 8 r.gen

/-- Whether start-up applies a store record (R361, R364). -/
def goodNv (r : NvRec) : Bool := r.commit == 0xA5C33C5A && r.crc == crc32c (nvBody r)

/-- The record that a write of a persistent entry adds, its commit word last (R364). -/
def State.nvRecord (s : State) (k : Nat) (v : Word) : NvRec :=
  let r : NvRec := { key := k, value := v, gen := (s.flash.headD { key := 0, value := 0#64, gen := 0, crc := 0, commit := 0 }).gen + 1, crc := 0, commit := 0xA5C33C5A }
  { r with crc := crc32c (nvBody r) }

/-- A persistent entry written into the store (R364, R800). -/
def State.nvSet (s : State) (ix sub : Nat) (v : Word) : State :=
  { s with nv := mapPut odDefault s.nv (odKey ix sub) v, flash := s.nvRecord (odKey ix sub) v :: s.flash }

/-- The entries that the store's records give at start-up: of each entry the good record of highest generation, which stands before the others (R364). -/
def nvApply (l : List NvRec) : List (Nat × Word) := l.foldr (fun r m => if goodNv r then mapPut odDefault m r.key r.value else m) []

end Sys2Proof.Machine
end

