-- ==== Sys2Proof/Machine/Fault.lean ====
section
/-! DEFINITION. Raising a fault: the record and its ring (R848 to R853), rate limits (R850, R900), the flight recorder (R855 to R859), EVENTs (R825) and MSI-X messages (R761, R762). -/
namespace Sys2Proof.Machine

/-- The present fabric time. -/
def State.now (s : State) : Nat := s.time.now

/-- Something the module sends. -/
def State.emit (s : State) (o : Out) : State := { s with out := s.out ++ [o] }

/-- An MSI-X message for a vector: sent, or held as the pending bit while the vector is masked or the host link is down (R761). -/
def State.msix (s : State) (v : Nat) : State :=
  if s.host.up && s.host.unmasked.contains v then s.emit (.msix v)
  else if s.host.pendingBits.contains v then s
  else { s with host := { s.host with pendingBits := v :: s.host.pendingBits } }

/-- A flight-recorder entry (R856); a frozen ring counts it instead (R859). -/
def State.flight (s : State) (kind object old new : Nat) (body : Option FaultRec) : State :=
  if s.diag.frozen then s.odInc 0x8200 3
  else
    { s with diag := { s.diag with
        recorder := ({ time := s.now, seq := s.diag.recSeq, kind := kind, object := object, old := old, new := new, body := body } :: s.diag.recorder).take 524288
        recSeq := s.diag.recSeq + 1 } }

/-- The eight words of a fault record, without its CRC (R848). -/
def faultBody (r : FaultRec) : List Word :=
  [ BitVec.ofNat 64 r.time,
    BitVec.ofNat 64 (codeNum r.code * 2 ^ 48 + scopeNum (codeScope r.code) * 2 ^ 40 + r.ctx.getD 0 % 256 * 2 ^ 32
      + (if r.ctx.isSome then 2 ^ 31 else 0) + (if r.part.isSome then 2 ^ 30 else 0) + r.part.getD 0 % 16 * 2 ^ 16),
    BitVec.ofNat 64 (r.unit.kind % 256 * 2 ^ 32 + r.unit.inst % 2 ^ 32),
    BitVec.ofNat 64 (r.seq % 2 ^ 32 * 2 ^ 32 + r.suppressed % 2 ^ 32),
    BitVec.ofNat 64 r.addr, BitVec.ofNat 64 r.detail0, BitVec.ofNat 64 r.detail1 ]

/-- The eight words of a fault record: W7 holds CRC-32C of the 64 bytes read with CRC as zero (R848). -/
def faultWords (r : FaultRec) : List Word :=
  let b := faultBody r
  b ++ [BitVec.ofNat 64 (crc32c (bytesOfWords (b ++ [0#64])) * 2 ^ 32)]

/-- Payload of an EVENT (R785). -/
def eventBytes (e : EventRec) : List Byte := leBytes 4 e.num ++ leBytes 4 0 ++ bytesOfWords (faultWords e.record)

/-- A message to the manager; a module without a node ID transmits no frame (R782). -/
def State.sendMgmt (s : State) (typ seq : Nat) (payload : List Byte) : State :=
  if s.mgmt.node = 0 then s else s.emit (.mgmt typ seq s.now payload)

/-- The limit of a code and key, if a record has been made under it (R900). -/
def findLimit (ls : List RateLimit) (c : Code) (key : Nat) : Option RateLimit := ls.find? fun l => l.code == c && l.key == key

/-- The limits with one replaced. -/
def putLimit (ls : List RateLimit) (l : RateLimit) : List RateLimit :=
  l :: ls.filter fun x => !(x.code == l.code && x.key == l.key)

/-- The record of a raised fault put into the ring and the flight recorder, vector 0 signalled for the scopes of R762, and the EVENT queued when the scope qualifies (R825); no rate limit, no stop. -/
def State.recordRaw (s : State) (r0 : FaultRec) : State :=
  let r := { r0 with time := s.now, seq := s.diag.raised + 1 }
  let s1 := { s with diag := { s.diag with ring := (r :: s.diag.ring).take 4096, raised := s.diag.raised + 1 } }
  let s2 := s1.flight 1 0 0 0 (some r)
  match codeScope r.code with
  | .degraded | .partition | .module => s2.msix 0
  | .info | .context => s2

/-- An EVENT queued and sent for a record (R825): at most 64 await acknowledgement; beyond that the oldest INFO one, or the new one, is dropped. The second component says that one was lost. -/
def State.queueEvent (s : State) (r : FaultRec) : State × Bool :=
  if scopeNum (codeScope r.code) < s.odN 0x1100 7 then (s, false)
  else
    let e : EventRec := { num := s.mgmt.nextEvent, record := r }
    let isInfo : EventRec → Bool := fun x => codeScope x.record.code == .info
    if s.mgmt.events.length < 64 then
      (({ s with mgmt := { s.mgmt with events := s.mgmt.events ++ [e], nextEvent := s.mgmt.nextEvent + 1 } }).sendMgmt 0x0E 0 (eventBytes e), false)
    else if s.mgmt.events.any isInfo then
      (({ s with mgmt := { s.mgmt with events := s.mgmt.events.eraseP isInfo ++ [e], nextEvent := s.mgmt.nextEvent + 1 } }).sendMgmt 0x0E 0 (eventBytes e), true)
    else (s, true)

/-- A fault raised under a rate limit of one record a second for its code and key (R850, R900), without the stop its scope may call for. -/
def State.recordLimited (s : State) (r : FaultRec) (key : Nat) : State :=
  match findLimit s.diag.limits r.code key with
  | some l =>
    if s.now < l.last + 1000000000 then
      { s with diag := { s.diag with limits := putLimit s.diag.limits { l with suppressed := l.suppressed + 1 } } }
    else
      let s1 := s.recordRaw { r with suppressed := l.suppressed }
      let s2 := { s1 with diag := { s1.diag with limits := putLimit s1.diag.limits { l with last := s.now, suppressed := 0 } } }
      (s2.queueEvent (s2.diag.ring.headD r)).1
  | none =>
    let s1 := s.recordRaw r
    let s2 := { s1 with diag := { s1.diag with limits := putLimit s1.diag.limits { code := r.code, key := key, last := s.now, suppressed := 0 } } }
    (s2.queueEvent (s2.diag.ring.headD r)).1

/-- A fault raised with no rate limit of its own, without the stop its scope may call for; an EVENT it pushes out is itself reported (R825, MGMT.EVENT_LOST at most once a second). -/
def State.record (s : State) (r : FaultRec) : State :=
  let s1 := s.recordRaw r
  let (s2, lost) := s1.queueEvent (s1.diag.ring.headD r)
  if lost then s2.recordLimited { code := .mgmtEventLost } 0 else s2

/-- Local addresses reported as global ones: the fabric address in bits [63:52], or 0 when the module has none (R18, R906). -/
def State.globalAddr (s : State) (a : Nat) : Nat :=
  let f := s.odN 0x4000 1
  (if f = 0xFFFF then 0 else f) * 2 ^ 52 + a

end Sys2Proof.Machine
end

