-- ==== Sys2Proof/Machine/Ops.lean ====
section
/-! DEFINITION. The named operations over the parts of the state: access by number, who owns what, the commands in flight, the passing of fabric time and the condition of a context. -/
namespace Sys2Proof.Machine

/-! Access by number. -/

def State.core (s : State) (n : Nat) : Core := nth s.cores n {}
def State.ctx (s : State) (cc : Nat) : Context := nth s.ctxs cc {}
def State.part (s : State) (p : Nat) : Partition := nth s.parts p {}
def State.link (s : State) (l : Nat) : Link := nth s.links l {}
def State.island (s : State) (i : Nat) : Island := nth s.pwr.islands i {}
def State.stack (s : State) (i : Nat) : Stack := nth s.pwr.heats i {}
def State.group (s : State) (p g : Nat) : NormGroup := nth s.groups (p * 16 + g) {}
def State.barrier (s : State) (p g : Nat) : BarGroup := nth s.coll.barriers (p * 16 + g) {}
def State.engine (s : State) (c : Nat) : UpdEngine := nth s.upd c {}
def State.updCore (s : State) (n : Nat) (f : Core → Core) : State := { s with cores := modAt s.cores n f }
def State.updCtx (s : State) (cc : Nat) (f : Context → Context) : State := { s with ctxs := modAt s.ctxs cc f }
def State.updPart (s : State) (p : Nat) (f : Partition → Partition) : State := { s with parts := modAt s.parts p f }
def State.updLink (s : State) (l : Nat) (f : Link → Link) : State := { s with links := modAt s.links l f }
def State.updIsland (s : State) (i : Nat) (f : Island → Island) : State := { s with pwr := { s.pwr with islands := modAt s.pwr.islands i f } }
def State.updStack (s : State) (i : Nat) (f : Stack → Stack) : State := { s with pwr := { s.pwr with heats := modAt s.pwr.heats i f } }
def State.updGroup (s : State) (p g : Nat) (f : NormGroup → NormGroup) : State := { s with groups := modAt s.groups (p * 16 + g) f }
def State.updBarrier (s : State) (p g : Nat) (f : BarGroup → BarGroup) : State := { s with coll := { s.coll with barriers := modAt s.coll.barriers (p * 16 + g) f } }
def State.updEngine (s : State) (c : Nat) (f : UpdEngine → UpdEngine) : State := { s with upd := modAt s.upd c f }
def State.withDiag (s : State) (f : Diag → Diag) : State := { s with diag := f s.diag }
def State.withPwr (s : State) (f : Pwr → Pwr) : State := { s with pwr := f s.pwr }
def State.withHost (s : State) (f : HostPort → HostPort) : State := { s with host := f s.host }
def State.withMgmt (s : State) (f : Mgmt → Mgmt) : State := { s with mgmt := f s.mgmt }
def State.withSec (s : State) (f : Sec → Sec) : State := { s with sec := f s.sec }
def State.withTime (s : State) (f : TimeBase → TimeBase) : State := { s with time := f s.time }
def State.withColl (s : State) (f : Coll → Coll) : State := { s with coll := f s.coll }
def State.withTier (s : State) (f : Tier → Tier) : State := { s with tier := f s.tier }
def State.withHbm (s : State) (f : Hbm → Hbm) : State := { s with hbm := f s.hbm }
def State.withMedia (s : State) (f : Media → Media) : State := { s with media := f s.media }

/-! The generators of random numbers (R96). -/

/-- The engines that draw: matrix engine e of core n, the vector engine of the core an access is for, the update engine of cellar die c, the reduction engine of port die p. -/
def matUnit (n e : Nat) : Nat := 5 * n + e
def vecUnit (w : Who) : Nat := 5 * w.core.getD 0 + 4
def updUnit (c : Nat) : Nat := 1920 + c
def redUnit (p : Nat) : Nat := 1924 + p

/-- An engine's generator, seeded at the last start-up. -/
def State.gen (s : State) (u : Nat) : Gen := { seed := s.sec.startups, unit := u, drawn := mapGet (fun _ => 0) s.draws u }

/-- An engine's generator after it has drawn. -/
def State.drew (s : State) (g : Gen) : State := { s with draws := mapPut (fun _ => 0) s.draws g.unit g.drawn }

/-! Who owns what. -/

/-- QUARTERS of a partition (R608). -/
def State.quarters (s : State) (p : Nat) : Nat := s.odN (0x2000 + p) 1

/-- The partition a quarter-die belongs to (R608): an existing one whose QUARTERS names it. -/
def State.partOfQuarter (s : State) (q : Nat) : Option Nat :=
  (List.range 16).find? fun p => (s.part p).st != .absent && bit (s.quarters p) q

/-- The partition that owns a core (R33). -/
def State.partOfCore (s : State) (n : Nat) : Option Nat := s.partOfQuarter (n / 12)

/-- The partition of a context (0x22cc/01); none for 0xFF. -/
def State.partOfCtx (s : State) (cc : Nat) : Option Nat :=
  let p := s.odN (0x2200 + cc) 1
  if p < 16 then some p else none

/-- The partition of a context that is known to have one. -/
def State.ctxPart (s : State) (cc : Nat) : Nat := s.odN (0x2200 + cc) 1

/-- Whom a context's command is charged to. -/
def State.whoCtx (s : State) (cc : Nat) (core : Option Nat) : Who := { part := s.partOfCtx cc, ctx := some cc, core := core, die := core.elim 18 (· / 48) }

/-- Whether the module is ready to run commands: ON, start-up at READY, not tripped. -/
def State.ready (s : State) : Bool := s.pwr.on && s.pwr.stage == 10 && !s.pwr.tripped

/-- Whether the host link may carry traffic as far as IDE is concerned (R773, R774). -/
def State.ideOk (s : State) : Bool := s.odN 0x9100 1 != 1 || s.host.ide == 2

/-- Whether the module may reach host memory (R742, R773, R776, R778). -/
def State.hostReach (s : State) : Bool := s.host.up && !s.host.pcieOnly && !s.host.quiesced && s.ideOk

/-- Whether BAR0 answers beyond the host block (R742, R773, R778). -/
def State.barOpen (s : State) : Bool := s.host.up && !s.host.quiesced && s.ideOk

/-- A write to an entry after it has been served: the flight recorder notes an applied one with the values before and after (R856). -/
def State.noteWrite (ix sub old new : Nat) (r : State × Nat) : State := if r.2 = 0 then r.1.flight 7 (ix * 256 + sub) old new none else r.1

/-- The outcome of a write to an entry: noted, and answered with its status (R791). -/
def answered (ix sub old new : Nat) (r : State × Nat) : Host.Outcome State Fault Refusal :=
  .next ((State.noteWrite ix sub old new r).emit (.status ix sub r.2))

/-! The command record's common words (R157). -/

def CmdInst.op (c : CmdInst) : Nat := fld c.words 0 7 0
def CmdInst.sub (c : CmdInst) : Nat := fld c.words 0 15 8
def CmdInst.mon (c : CmdInst) : Nat := fld c.words 0 31 16
def CmdInst.tlimit (c : CmdInst) : Nat := fld c.words 0 47 32
def CmdInst.tag (c : CmdInst) : Nat := fld c.words 0 63 48
def CmdInst.irq (c : CmdInst) : Bool := fld c.words 1 63 63 == 1
def CmdInst.openLen (c : CmdInst) : Nat := fld c.words 1 59 45
def CmdInst.openBase (c : CmdInst) : Nat := fld c.words 1 44 30
def CmdInst.workLen (c : CmdInst) : Nat := fld c.words 1 29 15
def CmdInst.workBase (c : CmdInst) : Nat := fld c.words 1 14 0

/-- The time limit of a command that starts now, in µs (R202). -/
def State.limitOf (s : State) (c : CmdInst) : Nat := if c.tlimit = 0 then s.odN (0x2F00 + s.ctxPart c.ctx) 3 else c.tlimit

/-- A BARRIER command (R158). -/
def CmdInst.isBarrier (c : CmdInst) : Bool := c.op == 0x38

/-- ENGINE of a REDUCE or BROADCAST (R494, R544): the port die whose reduction engine executes it. -/
def CmdInst.port (c : CmdInst) : Nat := if c.op = 0x49 then fld c.words 6 15 14 else fld c.words 3 1 0

/-! Commands in flight (R146, R147). -/

/-- The commands a core holds, the executing one first. -/
def coreCmds (c : Core) : List CmdInst := (c.exec.map Exec.cmd).toList ++ c.window

/-- The commands an update engine holds. -/
def engineCmds (e : UpdEngine) : List CmdInst := (e.exec.map Exec.cmd).toList ++ e.queue

/-- The commands the reduction engines hold (R498). -/
def collCmds (c : Coll) : List CmdInst := c.queue ++ c.runs.map (fun r => r.exec.cmd) ++ c.broadcasts.map Exec.cmd

/-- Every command in flight (R146). -/
def State.flying (s : State) : List CmdInst :=
  s.cores.flatMap coreCmds ++ s.hub.map Exec.cmd ++ s.upd.flatMap engineCmds ++ collCmds s.coll ++ s.media.queue.map Exec.cmd

/-- The commands of a context in flight. -/
def State.flyingOf (s : State) (cc : Nat) : List CmdInst := s.flying.filter fun c => c.ctx == cc

/-- The commands of a context that keep a completion entry reserved (R758). -/
def State.held (s : State) (cc : Nat) : Nat := (s.ctx cc).fetched.length + (s.flyingOf cc).length

/-- 0x6020/01 and /02: commands in flight now, and the highest count since the entry was last written (R150). -/
def State.noteFlying (s : State) : State :=
  if s.odN 0x6020 2 < s.flying.length then s.odSetN 0x6020 2 s.flying.length else s

/-- The number of a media-die engine as a unit (R849, log entry 31): of kind 0 decoders, 1 audio engines, 2 the geometry and colour unit, 3 entropy engines. -/
def mediaUnit (k i : Nat) : TestUnit := { kind := 11, inst := k * 64 + i }

/-- Whether a unit is in a self-test slice or withheld (R829, R843). -/
def State.unitOut (s : State) (u : TestUnit) : Bool := s.diag.withheld.contains u || s.diag.slices.any fun x => x.1 == u

/-! Voltage, temperature and speed (R873, R874). -/

/-- The rows of R873 from 0.600 V in steps of 25 mV, in M tile steps/s, at 60, 85 and 105 °C. -/
def rateRows : List (Nat × Nat × Nat) :=
  [(1580, 1500, 1400), (1670, 1580, 1480), (1760, 1670, 1560), (1850, 1750, 1640), (1930, 1830, 1720), (2010, 1920, 1800),
   (2100, 2000, 1880), (2180, 2070, 1950), (2250, 2140, 2020), (2330, 2210, 2090), (2400, 2280, 2160)]

/-- The handshake rate at a voltage in mV and a junction temperature in 1/16 °C: the column of the higher temperature applies, the last one above 105 °C (R873, R874). A voltage between two steps takes the lower row. -/
def rateOf (mv : Nat) (temp : Int) : Nat :=
  let r := nth rateRows ((min (max mv 600) 850 - 600) / 25) (1580, 1500, 1400)
  if temp ≤ 60 * 16 then r.1 else if temp ≤ 85 * 16 then r.2.1 else r.2.2

/-- Performance-state voltage of an island (0xA020 + q/01, 0xA040 + n/01). -/
def State.perfMv (s : State) (i : Nat) : Nat := if i < 32 then s.odN (0xA020 + i) 1 else if i = 42 then 750 else s.odN (0xA040 + (i - 32)) 1

/-- The lower of two ceilings or voltages in mV, of which 0 is none. -/
def ceilMin (v c : Nat) : Nat := if c = 0 then v else min v c

/-- The voltage an island moves to: the lowest of its performance-state voltage and the ceilings over it, never below 600 mV (R872); the hub die's is fixed (R870). -/
def State.targetMv (s : State) (i : Nat) : Nat :=
  let v := ceilMin (ceilMin (s.perfMv i) (s.island i).ceiling) s.pwr.ceiling
  if i = 42 then 750 else max 600 (if i < 32 then ceilMin v (s.stack (i / 2)).ceiling else v)

/-! Fabric time. -/

/-- An executing command that waits on a fence or a credit: its CAUSE and VSTAGE (R581, R588). -/
def execWait (e : Exec) : Option (Nat × Nat) :=
  if e.waiting && (e.cmd.op == 0x30 || e.cmd.op == 0x31) && e.cmd.sub == 0 then some (fld e.cmd.words 3 31 28, fld e.cmd.words 3 34 32) else none

/-- Command-ring slots of a context (R747). -/
def State.slots (s : State) (cc : Nat) : Nat := max 1 (s.odN (0x2200 + cc) 10)

/-- The address of a command slot (R749). -/
def State.slotAddr (s : State) (cc i : Nat) : Nat := s.odN (0x2200 + cc) 9 + 64 * (i % s.slots cc)

/-- Whether the command ring holds a BARRIER in a slot (R158). -/
def State.ringBarrier (s : State) (cc i : Nat) : Bool := ({ ctx := cc, slot := i, target := 0, words := wordsOf 8 (memBytes s.mem (s.slotAddr cc i) 64) } : CmdInst).isBarrier

/-- The slot of the first BARRIER of a context that was read and has not completed (R541, R757): read, in flight, or set back to be read again. -/
def State.barrierSlot (s : State) (cc : Nat) : Option Nat :=
  ((((s.ctx cc).fetched ++ s.flyingOf cc).filter CmdInst.isBarrier).map CmdInst.slot ++ (s.ctx cc).again.filter (s.ringBarrier cc)).foldl (fun m c => match m with | none => some c | some x => some (min x c)) none

/-- A core's counters after an interval of `dt` ns, charged to the first line of R601 that applies; `hn` and `hp` are the two rates of R602, `behind` says that the context's next command is held behind a BARRIER. -/
def chargeCore (c : Core) (dt hn hp : Nat) (behind : Bool) : Core :=
  let idle := fun k => { c with idle := modAt c.idle k (· + dt) }
  match c.st with
  | .selfTest => idle 7
  | .faulted | .unavailable => idle 8
  | .stopping | .retention | .idle | .running | .waiting =>
    if c.switching || (c.st == .stopping && c.exec.isSome) then idle 5
    else match c.exec with
      | some e =>
        match execWait e with
        | some (cause, v) =>
          { c with idle := modAt c.idle cause (· + dt)
                   vsUp := if cause = 0 then modAt c.vsUp v (· + dt) else c.vsUp
                   vsDown := if cause = 1 then modAt c.vsDown v (· + dt) else c.vsDown }
        | none =>
          if e.waiting && e.cmd.op == 0x32 then idle 0
          else
            let b := if hp ≤ hn then dt else dt * hn / hp
            { c with busy := c.busy + b, idle := modAt c.idle 6 (· + (dt - b)) }
      | none => if behind then idle 2 else { c with unsched := c.unsched + dt }

/-- Whether a core's context has a command read for it that waits behind a BARRIER (R601). -/
def State.behindBarrier (s : State) (n : Nat) : Bool :=
  let cc := (s.core n).cur
  match s.barrierSlot cc with
  | some b => (s.ctx cc).fetched.any fun c => c.target == n && decide (b < c.slot)
  | none => false

/-- An offset still to be slewed after `n` ns of it have been removed (R438). -/
def slewed (x : Int) (n : Nat) : Int := if 0 ≤ x then max 0 (x - n) else min 0 (x + n)

/-- Fabric time moved forward to `t`, every core of a partition charged for the interval (R601, R604); nothing when `t` has passed (R438: time never runs backwards). -/
def State.advance (s : State) (t : Nat) : State :=
  if t ≤ s.now then s
  else
    let dt := t - s.now
    let cores := s.cores.zipIdx.map fun (c, n) =>
      if (s.partOfCore n).isNone then c
      else
        let q := n / 12
        chargeCore c dt (rateOf (s.island q).mv (s.island q).temp) (rateOf (s.perfMv q) (s.island q).temp) (c.exec.isNone && s.behindBarrier n)
    let od := s.cores.zipIdx.foldl (fun (acc : State) (x : Core × Nat) =>
      match x.1.exec with
      | some e =>
        let b := (nth cores x.2 {}).busy - x.1.busy
        if b = 0 then acc else acc.odAdd (0x6300 + e.cmd.ctx) 1 b
      | none => acc) s
    { od with cores := cores, time := { s.time with now := t, slew := slewed s.time.slew (t / 10000 - s.now / 10000) } }

/-! The condition of a context (R621, R622). -/

/-- Waiting commands in flight of a context (R622), by target and slot. -/
def State.waitingOf (s : State) (cc : Nat) : List (Nat × Nat) :=
  (s.cores.flatMap fun c => match c.exec with
    | some e => if e.cmd.ctx == cc && e.waiting && (e.cmd.op == 0x30 || e.cmd.op == 0x31 || e.cmd.op == 0x32) then [(e.cmd.target, e.cmd.slot)] else []
    | none => [])
  ++ (s.coll.runs.flatMap fun r => if r.exec.cmd.ctx == cc && !r.ready then [(r.exec.cmd.target, r.exec.cmd.slot)] else [])
  ++ (s.hub.flatMap fun e => if e.cmd.ctx == cc && e.cmd.isBarrier then [(e.cmd.target, e.cmd.slot)] else [])

/-- Whether a command of a context, by its target and slot, can start only after a waiting one completes (R622). -/
def heldBehind (waits : List (Nat × Nat)) (bar : Option Nat) (target slot : Nat) : Bool :=
  waits.any (fun w => w.1 == target && decide (w.2 < slot))
    || (match bar with | some b => decide (b < slot) | none => false)

/-- The address of a target entry (R749). -/
def State.targetAddr (s : State) (cc i : Nat) : Nat := s.odN (0x2200 + cc) 11 + 2 * (i % s.slots cc)

/-- The slots of a context's queued commands that the front end has yet to read. -/
def unreadSlots (x : Context) : List Nat := x.again ++ (List.range (x.sqTail - x.next)).map (x.next + ·)

/-- The target that a target entry in the ring names (R750). -/
def State.ringTarget (s : State) (cc i : Nat) : Nat := leNat (memBytes s.mem (s.targetAddr cc i) 2) % 512

/-- Whether a resident context is BLOCKED (R622). -/
def State.isBlocked (s : State) (cc : Nat) : Bool :=
  let w := s.waitingOf cc
  let x := s.ctx cc
  let b := s.barrierSlot cc
  !w.isEmpty && x.resident
    && (s.flyingOf cc ++ x.fetched).all (fun c => w.any (fun y => y.2 == c.slot) || heldBehind w b c.target c.slot)
    && (unreadSlots x).all fun i => heldBehind w b (s.ringTarget cc i) i

/-- The condition a context has (R621): the stored one when it is ABSENT, HALTED or ABORTING, otherwise as its commands stand. -/
def State.condNow (s : State) (cc : Nat) : Cond :=
  let x := s.ctx cc
  match x.cond with
  | .absent => .absent
  | .halted => .halted
  | .aborting => .aborting
  | .idle | .ready | .running | .blocked =>
    if !(s.flyingOf cc).isEmpty then (if s.isBlocked cc then .blocked else .running)
    else if x.next == x.sqTail && x.again.isEmpty && x.fetched.isEmpty then .idle
    else .ready

/-- The number of a condition (R621). -/
def condNum : Cond → Nat
  | .absent => 0 | .idle => 1 | .ready => 2 | .running => 3 | .blocked => 4 | .halted => 5 | .aborting => 6

/-- A context put into a condition, with the time of the change and its flight-recorder entry (R856). -/
def State.setCond (s : State) (cc : Nat) (c : Cond) : State :=
  let old := (s.ctx cc).cond
  if old = c then s
  else
    (s.updCtx cc fun x => { x with cond := c, since := s.now, blockedAt := if c = .blocked then s.now else 0 }).flight 3 cc (condNum old) (condNum c) none

/-- A context's condition brought up to date. -/
def State.refresh (s : State) (cc : Nat) : State := s.setCond cc (s.condNow cc)

/-- Every context's condition brought up to date. -/
def State.refreshAll (s : State) : State := (List.range 256).foldl (fun t cc => t.refresh cc) s

/-- A slot put back among those to be read again, in ascending order (R143, R631). -/
def insertSlot (l : List Nat) (x : Nat) : List Nat := l.filter (· < x) ++ [x] ++ l.filter (x < ·)

/-- Commands set back to their slots, to be read again (R143, R631). -/
def State.putBack (s : State) (cs : List CmdInst) : State :=
  cs.foldl (fun t c => t.updCtx c.ctx fun x => { x with again := insertSlot x.again c.slot }) s

/-- A core's decoded commands discarded (R143). -/
def State.discardWindow (s : State) (n : Nat) : State :=
  (s.putBack (s.core n).window).updCore n fun c => { c with window := [] }

end Sys2Proof.Machine
end

