-- ==== Sys2Proof/Machine/Mesh.lean ====
section
/-! DEFINITION. The package mesh: the dies, their edges and ports (R29, R31), the route between two dies (R32), and the charge of an arbiter (R37, R645, R806). -/
namespace Sys2Proof.Machine

/-! Dies are numbered as `charged` numbers them: 0 to 7 compute dies, 8 to 11 cellar dies, 12 attic die, 13 media die, 14 to 17 port dies, 18 hub die. -/

/-- The numbers of the dies outside the grid. -/
def dieCellar (c : Nat) : Nat := 8 + c
def dieAttic : Nat := 12
def dieMedia : Nat := 13
def diePort (p : Nat) : Nat := 14 + p
def dieHub : Nat := 18

/-- The 31 edges (R31), each named by its two dies: along the rows, between the rows, then those of the port, cellar, hub, media and attic dies. The order is the model's (log entry 73). -/
def meshEdges : List (Nat × Nat) :=
  [(0, 1), (1, 2), (2, 3), (4, 5), (5, 6), (6, 7), (0, 4), (1, 5), (2, 6), (3, 7),
   (14, 0), (14, 1), (15, 2), (15, 3), (16, 4), (16, 5), (17, 6), (17, 7),
   (8, 0), (9, 4), (10, 3), (11, 7),
   (18, 0), (18, 14), (18, 8), (13, 3), (13, 15), (13, 10), (12, 4), (12, 16), (12, 9)]

/-- The mesh port, an instance of arbiter class 2 (R643), by which traffic leaves die a for die b: twice the edge's place, and one more against the edge's direction. -/
def meshPort (a b : Nat) : Option Nat :=
  match meshEdges.idxOf? (a, b) with
  | some i => some (2 * i)
  | none => (meshEdges.idxOf? (b, a)).map (2 * · + 1)

/-- The die whose output a mesh port is. -/
def portDie (i : Nat) : Nat := let e := nth meshEdges (i / 2) (0, 0); if i % 2 = 0 then e.1 else e.2

/-- Column of a compute die in the grid (R29). -/
def colOf (d : Nat) : Nat := d % 4

/-- The compute dies a die outside the grid borders (R31), by their numbers. -/
def borders (d : Nat) : List Nat := (List.range 8).filter fun c => (meshPort d c).isSome

/-- How far two columns lie apart. -/
def apart (a b : Nat) : Nat := max a b - min a b

/-- Of some compute dies the one nearest a column (R32). -/
def nearest (col : Nat) (l : List Nat) : Nat := l.foldl (fun b c => if apart (colOf c) col < apart (colOf b) col then c else b) (l.headD 0)

/-- The compute dies between two, first along the row, then along the column (R32): the dies passed, the source first. -/
def gridRoute (a b : Nat) : List Nat :=
  let row := a / 4 * 4
  let steps := apart (colOf a) (colOf b)
  let along := (List.range (steps + 1)).map fun i => row + if colOf a ≤ colOf b then colOf a + i else colOf a - i
  if a / 4 = b / 4 then along else along ++ [b]

/-- The dies that traffic from a to b passes, both included (R32). Where a die outside the grid is the destination, the grid is left at the compute die it borders in the source's column, else at the one nearest it; two dies outside the grid with an edge of their own use it (DEDUCED, log entry 73). -/
def meshRoute (a b : Nat) : List Nat :=
  if a = b then [a]
  else if (meshPort a b).isSome && (8 ≤ a && 8 ≤ b) then [a, b]
  else if a < 8 then (if b < 8 then gridRoute a b else gridRoute a (nearest (colOf a) (borders b)) ++ [b])
  else if b < 8 then a :: gridRoute (nearest (colOf b) (borders a)) b
  else
    let near := fun (l : List Nat) c => apart (colOf (nearest (colOf c) l)) (colOf c)
    let enter := (borders a).foldl (fun x c => if near (borders b) c < near (borders b) x then c else x) ((borders a).headD 0)
    a :: gridRoute enter (nearest (colOf enter) (borders b)) ++ [b]

/-- The mesh ports of a route. -/
def portsOf : List Nat → List Nat
  | a :: b :: l => (meshPort a b).toList ++ portsOf (b :: l)
  | _ => []

/-- A requester's counter changed. -/
def State.updReq (s : State) (k inst who : Nat) (f : ReqState → ReqState) : State :=
  { s with arbReqs := s.arbReqs.map fun r => if r.cls == k && r.inst == inst && r.who == who then f r else r }

/-- Units that an arbiter of a die serves to a partition, or to unowned traffic: the requester's credit falls, never below -BURST (R645), and the die counts them (R37, R806). -/
def State.passArb (s : State) (dom k inst : Nat) (part : Option Nat) (units : Nat) : State :=
  let burst := (nth s.arbs k (arbReset 1024 16)).burst
  let t := s.updReq k inst (part.getD 16) fun r => { r with credit := max (-(burst : Int)) (r.credit - units) }
  let key := dom * 17 + part.getD 16
  { t with charged := mapPut (fun _ => 0) t.charged key (mapGet (fun _ => 0) t.charged key + units) }

/-- Flits for a link output charged to a partition or to no partition among its port die's units (R429, R806); the counters of the arbiter itself are those of the traffic classes (R643). -/
def State.portUnits (s : State) (l : Nat) (part : Option Nat) (flits : Nat) : State :=
  let key := diePort (l / 9) * 17 + part.getD 16
  { s with charged := mapPut (fun _ => 0) s.charged key (mapGet (fun _ => 0) s.charged key + flits) }

/-- `n` bytes that cross the mesh from die a to die b, charged at every mesh port of the route (R32, R37): 64 bytes a unit (R643), a request without data one unit. -/
def State.crossMesh (s : State) (a b : Nat) (part : Option Nat) (n : Nat) : State :=
  (portsOf (meshRoute a b)).foldl (fun t i => t.passArb (portDie i) 2 i part (max 1 (ceilDiv n 64))) s

end Sys2Proof.Machine
end

