-- ==== Sys2Proof/Machine/Larder.lean ====
section
/-! DEFINITION. The HBM map and the Larder: slices, the keyed interleave, and what a read or write of a sector does to the lines of its home Larder (R258, R266, R274 to R289). -/
namespace Sys2Proof.Machine

/-- Bytes a pseudo-channel contributes to the HBM region (R257). -/
def channelBytes : Nat := 1124999936

/-- How many bits of a 32-bit mask are set. -/
def popCount (x : Nat) : Nat := ((List.range 32).filter (bit x)).length

/-- Active pseudo-channels of die d (A_d of R258). -/
def State.activeOf (s : State) (d : Nat) : Nat := popCount (nth s.hbm.active (2 * d) 0) + popCount (nth s.hbm.active (2 * d + 1) 0)

/-- Size of the slice of die d (R258). -/
def State.sliceSize (s : State) (d : Nat) : Nat := s.activeOf d * channelBytes

/-- Base of the slice of die d (R258). -/
def State.sliceBase (s : State) (d : Nat) : Nat := ((List.range d).map s.sliceSize).sum

/-- Populated size of the HBM region (R258). -/
def State.hbmSize (s : State) : Nat := s.sliceBase 8

/-- The home die of an HBM offset (R258). -/
def State.homeDie (s : State) (o : Nat) : Nat :=
  ((List.range 8).find? fun d => decide (o < s.sliceBase (d + 1))).getD 7

/-- The n-th active pseudo-channel of die d, as its die-level number (R256). -/
def State.nthActive (s : State) (d n : Nat) : Nat :=
  nth ((List.range 64).filter fun j => bit (nth s.hbm.active (2 * d + j / 32) 0) (j % 32)) n 0

/-- The place of i among 0 to n - 1 in the order that the keys `f` give them, equal keys by their number: a permutation, whatever the keys are. -/
def rankOf (f : Nat → Nat) (n i : Nat) : Nat := ((List.range n).filter fun j => decide (f j < f i) || (f j == f i && decide (j < i))).length

/-- The module-wide pseudo-channel that stores an HBM offset (R256, R266): the permutation of the die's active pseudo-channels that free keys choose for each group (log entry 17). -/
def State.channelOf (s : State) (o : Nat) : Nat :=
  let d := s.homeDie o
  let a := max 1 (s.activeOf d)
  let g := (o - s.sliceBase d) / 256
  64 * d + s.nthActive d (rankOf (Config.interleave s.sec.startups d (g / a)) a (g % a))

/-- One more sector served by the pseudo-channel of an HBM offset (R270), to a partition or to unowned traffic (R37). -/
def State.serve (s : State) (o : Nat) (part : Option Nat) : State :=
  (s.passArb (s.homeDie o) 1 (s.channelOf o) part 1).withHbm fun h => { h with served := mapPut (fun _ => 0) h.served (s.channelOf o) (mapGet (fun _ => 0) h.served (s.channelOf o) + 1) }

/-- The set of a line of a die's slice (R275). -/
def larderSet (line : Nat) : Nat := line % 49152

/-- Line number of an HBM offset within its slice (R275). -/
def State.lineOf (s : State) (o : Nat) : Nat := (o - s.sliceBase (s.homeDie o)) / 128

/-- The line that holds an HBM offset, if any. -/
def State.findLine (s : State) (o : Nat) : Option LarderLine :=
  let d := s.homeDie o
  let l := s.lineOf o
  s.larder.lines.find? fun x => x.die == d && x.line == l

/-- Sector of an HBM offset within its line. -/
def State.sectorIx (s : State) (o : Nat) : Nat := (o - s.sliceBase (s.homeDie o)) % 128 / 32

/-- Whether the home Larder holds the sector of an HBM offset. -/
def State.holds (s : State) (o : Nat) : Bool :=
  match s.findLine o with
  | some x => nth x.sectors (s.sectorIx o) .invalid != .invalid
  | none => false

/-- A line of a Larder changed by `f`. -/
def State.updLine (s : State) (d line : Nat) (f : LarderLine → LarderLine) : State :=
  { s with larder := { s.larder with lines := s.larder.lines.map fun x => if x.die == d && x.line == line then f x else x } }

/-- The bytes HBM holds under the sector at an offset, remembered before the Larder makes it dirty (R285, R286). -/
def State.keepStale (s : State) (o : Nat) : State :=
  let k := o / 32
  if s.larder.stale.any (fun e => e.1 == k) then s
  else { s with larder := { s.larder with stale := (k, memBytes s.mem (32 * k) 32) :: s.larder.stale } }

/-- The record under a sector forgotten: HBM now holds what an access reads. -/
def State.dropStale (s : State) (o : Nat) : State :=
  { s with larder := { s.larder with stale := s.larder.stale.filter fun e => e.1 != o / 32 } }

/-- The offsets of the four sectors of a line. -/
def State.lineSectors (s : State) (x : LarderLine) : List Nat := (List.range 4).map fun i => s.sliceBase x.die + 128 * x.line + 32 * i

/-- A sector of HBM written whole: it has a fresh check code (R898). -/
def State.freshSector (s : State) (o : Nat) : State :=
  s.withHbm fun h => { h with bad := h.bad.filter (· != o / 32), weak := h.weak.filter (· != o / 32) }

/-- A line written back: every dirty sector reaches HBM (R280), charged to the partition that allocated the line (log entry 74). -/
def State.writeBack (s : State) (x : LarderLine) : State :=
  ((s.lineSectors x).zip x.sectors).foldl (fun t e => if e.2 = .dirty then ((t.dropStale e.1).freshSector e.1).serve e.1 x.owner else t) s

/-- The Larder's copy of a sector without an error. -/
def State.cleanCopy (s : State) (o : Nat) : State :=
  { s with larder := { s.larder with weak := s.larder.weak.filter (· != o / 32), bad := s.larder.bad.filter (· != o / 32) } }

/-- A line removed, written back first (R280). -/
def State.evict (s : State) (x : LarderLine) : State :=
  let t := (s.lineSectors x).foldl State.cleanCopy (s.writeBack x)
  { t with larder := { t.larder with lines := t.larder.lines.filter fun y => !(y.die == x.die && y.line == x.line) } }

/-- The ways an access may allocate in (R277, R278), less those withheld (R834, R842). -/
def State.wayMask (s : State) (d : Nat) (part : Option Nat) : List Nat :=
  let m := match part with
    | some p => s.odN (0x2F10 + p) (d + 1)
    | none => s.odN 0x3020 4
  (List.range 16).filter fun w => bit m w && !(s.diag.withheld.contains { kind := 3, inst := d * 16 + w })

/-- The least recently used of some lines. -/
def oldestLine (ls : List LarderLine) : Option LarderLine :=
  ls.foldl (fun b x => match b with | none => some x | some y => if x.stamp < y.stamp then some x else some y) none

/-- The way an allocation takes (R279), with the line it displaces; none when no way qualifies. -/
def State.victim (s : State) (d set : Nat) (part : Option Nat) (keep : Bool) : Option (Nat × Option LarderLine) :=
  let ways := s.wayMask d part
  let here := s.larder.lines.filter fun x => x.die == d && x.set == set
  let used := here.map LarderLine.way
  match ways.find? (fun w => !used.contains w) with
  | some w => some (w, none)
  | none =>
    let mine := here.filter fun x => x.keep && x.owner == part
    let limit := match part with | some p => s.odN (0x2F10 + p) 9 | none => 0
    let pool := if keep && decide (limit ≤ mine.length) then mine.filter (fun x => ways.contains x.way)
      else here.filter fun x => ways.contains x.way && !x.keep
    (oldestLine pool).map fun x => (x.way, some x)

/-- A line allocated for an HBM offset with the given sector states; none when no way qualifies (R277, R279). -/
def State.allocate (s : State) (o : Nat) (part : Option Nat) (keep : Bool) (secs : List SectorSt) : Option State :=
  let d := s.homeDie o
  let l := s.lineOf o
  match s.victim d (larderSet l) part keep with
  | none => none
  | some (w, old) =>
    let t := match old with | some x => s.evict x | none => s
    some { t with larder := { t.larder with
      lines := { die := d, set := larderSet l, way := w, line := l, sectors := secs, owner := part, keep := keep, stamp := t.larder.clock } :: t.larder.lines
      clock := t.larder.clock + 1 } }

/-- A line made most recent, and KEEP for a KEEP access (R282). -/
def State.touchLine (s : State) (d line hint : Nat) : State :=
  if hint = 1 || hint = 3 then s
  else
    let t := s.updLine d line fun x => { x with stamp := s.larder.clock, keep := x.keep || hint == 2 }
    { t with larder := { t.larder with clock := t.larder.clock + 1 } }

/-- A sector dropped without write-back; the line goes when nothing of it is valid (R285). A dirty sector's bytes are then those HBM holds (R286). -/
def State.dropSector (s : State) (o : Nat) : State :=
  match s.findLine o with
  | none => s
  | some x =>
    let i := s.sectorIx o
    let s1 := match s.larder.stale.find? (fun e => e.1 == o / 32) with
      | some e => { s with mem := memPutBytes s.mem (32 * (o / 32)) e.2 }
      | none => s
    let s2 := (s1.dropStale o).cleanCopy o
    let secs := modAt x.sectors i fun _ => SectorSt.invalid
    if secs.all (· == .invalid) then
      { s2 with larder := { s2.larder with lines := s2.larder.lines.filter fun y => !(y.die == x.die && y.line == x.line) } }
    else s2.updLine x.die x.line fun y => { y with sectors := secs }

/-- The hint an access of a partition is served with: NORMAL and KEEP behave as STREAM where its way mask for the home die is zero (R277). -/
def State.hintFor (s : State) (o hint : Nat) (part : Option Nat) : Nat :=
  match part with
  | some p => if (hint = 0 || hint = 2) && s.odN (0x2F10 + p) (s.homeDie o + 1) = 0 then 1 else hint
  | none => hint

/-- One more corrected sector of a die (0x301d/09; R299, R302). -/
def State.corrected (s : State) (o : Nat) : State := s.odInc (0x3010 + s.homeDie o) 9

/-- A sector read from HBM: an error its check code corrects is written back corrected and counted (R298, R299). -/
def State.fetchHbm (s : State) (o : Nat) (part : Option Nat) : State :=
  let t := s.serve o part
  if t.hbm.weak.contains (o / 32) then (t.withHbm fun h => { h with weak := h.weak.filter (· != o / 32) }).corrected o else t

/-- Whether HBM or a Larder holds an error for a sector in a list of sector numbers. -/
def flawed (l : List Nat) (o : Nat) : Bool := l.contains (o / 32)

/-- The check code of a held sector met by an access (R302): one bit is corrected, and a clean sector beyond correction is fetched again from HBM; both count as corrected. -/
def State.checkCopy (s : State) (o : Nat) (st : SectorSt) (part : Option Nat) : State :=
  if flawed s.larder.weak o then (s.cleanCopy o).corrected o
  else if flawed s.larder.bad o && st == .clean && !(flawed s.hbm.bad o) then (((s.fetchHbm o part).cleanCopy o).corrected o)
  else s

/-- What a read of one sector does to its home Larder, by hint (R282, R283, R285): a line's four sectors are fetched but for those HBM cannot give (R300). -/
def State.readSector (s : State) (o hint : Nat) (part : Option Nat) : State :=
  let d := s.homeDie o
  let l := s.lineOf o
  let i := s.sectorIx o
  match s.findLine o with
  | some x =>
    let was := nth x.sectors i .invalid
    if was != .invalid then
      let t := ((s.odInc (0x3010 + d) 7).checkCopy o was part).touchLine d l hint
      if hint = 3 then t.dropSector o else t
    else
      let t := (s.odInc (0x3010 + d) 8).fetchHbm o part
      let u := (if flawed s.hbm.bad o then t else t.updLine d l fun y => { y with sectors := modAt y.sectors i fun _ => .clean }).touchLine d l hint
      if hint = 3 then u.dropSector o else u
  | none =>
    let t := s.odInc (0x3010 + d) 8
    if hint = 1 || hint = 3 then t.fetchHbm o part
    else
      let at_ := fun j => s.sliceBase d + 128 * l + 32 * j
      match t.allocate o part (hint == 2) ((List.range 4).map fun j => if flawed s.hbm.bad (at_ j) then .invalid else .clean) with
      | some t' => (List.range 4).foldl (fun a j => a.fetchHbm (at_ j) part) t'
      | none => t.fetchHbm o part

/-- A sector written straight to HBM: part of one is merged by the memory controller, which reads it first (R284); a whole one has a fresh check code (R898). -/
def State.writeHbm (s : State) (o : Nat) (full : Bool) (part : Option Nat) : State :=
  if full then (s.freshSector o).serve o part else (s.fetchHbm o part).serve o part

/-- What a write of one sector does to its home Larder, by hint, before the bytes are stored (R282, R284); `full` says that all 32 bytes are written. -/
def State.writeSector (s : State) (o hint : Nat) (full : Bool) (part : Option Nat) : State :=
  let d := s.homeDie o
  let l := s.lineOf o
  let i := s.sectorIx o
  let passes := hint = 1 || hint = 3
  match s.findLine o with
  | some x =>
    let was := nth x.sectors i .invalid
    if was != .invalid then
      let t := s.odInc (0x3010 + d) 7
      let u := if full then t.cleanCopy o else t.checkCopy o was part
      ((u.keepStale o).updLine d l fun y => { y with sectors := modAt y.sectors i fun _ => .dirty }).touchLine d l hint
    else
      let t := s.odInc (0x3010 + d) 8
      if passes then t.writeHbm o full part
      else
        let u := if full then t else t.fetchHbm o part
        ((u.keepStale o).updLine d l fun y => { y with sectors := modAt y.sectors i fun _ => .dirty }).touchLine d l hint
  | none =>
    let t := s.odInc (0x3010 + d) 8
    if passes then t.writeHbm o full part
    else match t.allocate o part (hint == 2) (modAt [.invalid, .invalid, .invalid, .invalid] i fun _ => .dirty) with
      | some t' => (if full then t' else t'.fetchHbm o part).keepStale o
      | none => t.writeHbm o full part

end Sys2Proof.Machine
end

