-- ==== Sys2Proof/Machine/Mem.lean ====
section
/-! DEFINITION. Access to local addresses: what exists and who may reach it (R17 to R25, R137, R156, R192, R300, R346, R506, R574), the device registers a command may read, and loads and stores with their charge (R37). -/
namespace Sys2Proof.Machine

/-- Region code of a local address (R17). -/
def region (a : Nat) : Nat := a / 2 ^ 44 % 256

/-- Offset within the region (R17). -/
def offset (a : Nat) : Nat := a % 2 ^ 44

/-- Bytes of a cellar die and of the Cellar region (R30, R311). -/
def cellarDieBytes : Nat := 512000000000
def cellarBytes : Nat := 2048000000000

/-- Whether an HBM offset lies in a crate cache (R344). -/
def State.inHbmCache (s : State) (o : Nat) : Bool :=
  let d := s.homeDie o
  decide (s.sliceBase (d + 1) - s.tier.cacheH * 16640 ≤ o)

/-- Whether a Cellar offset lies in a crate cache (R344). -/
def State.inCellarCache (s : State) (o : Nat) : Bool := decide (cellarDieBytes - s.tier.cacheK * 16640 ≤ o % cellarDieBytes)

/-- Whether a Cellar offset lies in the landing area (R505). -/
def State.inLanding (s : State) (o : Nat) : Bool := decide (o % cellarDieBytes < s.coll.units * 65536)

/-- Whether a scratchpad offset of core m lies in the open range of its executing command (R137, R195). -/
def State.inOpen (s : State) (m o : Nat) : Bool :=
  match (s.core m).exec with
  | some e => e.opened && decide (e.cmd.openBase * 256 ≤ o) && decide (o < (e.cmd.openBase + e.cmd.openLen) * 256)
  | none => false

/-- Whether an offset of a core's own scratchpad lies in its executing command's work range (R192). -/
def State.inWork (s : State) (n o : Nat) : Bool :=
  match (s.core n).exec with
  | some e => decide (e.cmd.workBase * 256 ≤ o) && decide (o < (e.cmd.workBase + e.cmd.workLen) * 256)
  | none => false

/-- The fault an access to one byte meets, with the local address to report; `none` when the byte may be reached. Uncorrectable sectors are left to `readFault`. -/
def State.mapFault (s : State) (w : Who) (write : Bool) (a : Nat) : Option (Code × Nat) :=
  let o := offset a
  match region a with
  | 0x00 => if o < s.hbmSize && !(s.inHbmCache o) then none else some (.memUnmapped, a)
  | 0x01 => if o < cellarBytes && !(s.inCellarCache o) && (w.red || !(s.inLanding o)) then none else some (.memUnmapped, a)
  | 0x08 =>
    let m := o / 2 ^ 23
    let q := o % 2 ^ 23
    if 384 ≤ m || 0x600000 ≤ q then some (.memUnmapped, a)
    else if w.core = some m then (if s.inWork m q then none else some (.tileSpadOvf, a))
    else if s.inOpen m q then none else some (.memWindowClosed, a)
  | 0x0F =>
    if write then some (.memUnmapped, a)
    else if 0x00100000 ≤ o && o < 0x00280000 then
      (if bit s.sec.levels 0 || ((s.partOfCore ((o - 0x00100000) / 0x1000)).isSome && s.partOfCore ((o - 0x00100000) / 0x1000) == w.part) then none else some (.memUnmapped, a))
    else if 0x0C030000 ≤ o && o < 0x0C034000 then
      (if w.lscale && w.part == some ((o - 0x0C030000) / 0x400) then none else some (.memUnmapped, a))
    else some (.memUnmapped, a)
  | r => if 0x10 ≤ r && r < 0x20 then (if s.hostReach then none else some (.hostAccess, a)) else some (.memUnmapped, a)

/-- The state of the Larder's copy of the sector at an HBM offset. -/
def State.copySt (s : State) (o : Nat) : SectorSt :=
  match s.findLine o with
  | some x => nth x.sectors (s.sectorIx o) .invalid
  | none => .invalid

/-- Whether reading a sector of memory meets an uncorrectable error: that of its copy in the Larder when the copy is dirty (R303), that of HBM when there is no copy or a clean one must be fetched again (R300, R302), that of the Cellar (R313). -/
def State.badSector (s : State) (a : Nat) : Bool :=
  let there := s.hbm.bad.contains (a / 32)
  if region a == 0 then
    match s.copySt (offset a) with
    | .invalid => there
    | .clean => there && s.larder.bad.contains (a / 32)
    | .dirty => s.larder.bad.contains (a / 32)
  else there

/-- Whether a scratchpad byte lies in a word beyond correction (R833). -/
def State.badWord (s : State) (a : Nat) : Bool := region a == 8 && s.diag.sramBad.contains (a / 8)

/-- The fault a read of one byte meets: the sector's address or, in a scratchpad, the word's (R300, R833). -/
def State.readFault (s : State) (w : Who) (a : Nat) : Option (Code × Nat) :=
  match s.mapFault w false a with
  | some f => some f
  | none => if s.badSector a then some (.memUncorrectable, 32 * (a / 32)) else if s.badWord a then some (.memUncorrectable, 8 * (a / 8)) else none

/-- The first fault a read of `n` bytes from `a` meets. -/
def State.loadFault (s : State) (w : Who) (a n : Nat) : Option (Code × Nat) := (List.range n).findSome? fun i => s.readFault w (a + i)

/-- The first fault a write of `n` bytes from `a` meets: a write of part of an uncorrectable sector reads it first (R898). -/
def State.storeFault (s : State) (w : Who) (a n : Nat) : Option (Code × Nat) :=
  (List.range n).findSome? fun i =>
    match s.mapFault w true (a + i) with
    | some f => some f
    | none =>
      let k := 32 * ((a + i) / 32)
      if s.badSector (a + i) && (k < a || a + n < k + 32) then some (.memUncorrectable, k) else none

/-- The number of a core's state (R155). -/
def coreStNum : CoreSt → Nat
  | .retention => 0 | .idle => 1 | .running => 2 | .waiting => 3 | .stopping => 4 | .selfTest => 5 | .faulted => 6 | .unavailable => 7

/-- The STATE a core shows (R155): a core that executes nothing and is in no other state is in Retention while its quarter-die is at retention voltage or off and its window empty, and otherwise Idle. -/
def State.shownSt (s : State) (n : Nat) : CoreSt :=
  let c := s.core n
  match c.st with
  | .selfTest => .selfTest
  | .faulted => .faulted
  | .unavailable => .unavailable
  | .retention | .idle | .running | .waiting | .stopping =>
    match c.exec with
    | some _ => c.st
    | none => if (s.island (n / 12)).power != 2 && c.window.isEmpty then .retention else .idle

/-- CORE_STATUS (R154). PARTITION of a core that no partition owns reads 0 (DESIGN CHOICE, log entry 5). -/
def State.coreStatus (s : State) (n : Nat) : Nat :=
  let c := s.core n
  (match coreCmds c with | x :: _ => x.ctx | [] => c.last) * 2 ^ 40 + (s.partOfCore n).getD 0 * 2 ^ 36 + c.phys * 2 ^ 23 + (if c.spare then 2 ^ 22 else 0)
    + coreStNum (s.shownSt n) * 2 ^ 16 + (coreCmds c).length * 2 ^ 12 + n / 12

/-- The 64-bit register of core n's block at an offset; an offset that holds none reads as zero (R154, R603, R15). -/
def State.coreReg (s : State) (n off : Nat) : Nat :=
  let c := s.core n
  if off = 0 then s.coreStatus n
  else if off = 0x100 then c.busy
  else if off = 0x108 then c.unsched
  else if 0x110 ≤ off && off < 0x158 then nth c.idle ((off - 0x110) / 8) 0
  else if 0x160 ≤ off && off < 0x1A0 then nth c.vsUp ((off - 0x160) / 8) 0
  else if 0x1A0 ≤ off && off < 0x1E0 then nth c.vsDown ((off - 0x1A0) / 8) 0
  else 0

/-- The A32 pattern of `2^l`, for an exponent A32 can hold. -/
def a32Pow2 (l : Int) : A32 := BitVec.ofNat 32 ((l + 127).toNat * 2 ^ 23)

/-- L of norm group g of partition p (R564). -/
def State.lossExp (s : State) (p g : Nat) : Int := toSigned 8 (s.odN (0x2F30 + p) (16 * g + 1) % 256)

/-- The scale record of a norm group as words (R572). -/
def State.scaleRecord (s : State) (p g : Nat) : List Nat :=
  let x := s.group p g
  let l := a32Pow2 (s.lossExp p g)
  [x.lastStep, l.toNat + l.toNat / 2 ^ 16 * 2 ^ 32, min x.clean 0xFFFFFFFF + min x.skips 0xFFFFFFFF * 2 ^ 32, x.overflows, 0, 0, 0, 0]

/-- A byte of the device registers: core blocks (R154), the host block (R745), scale records (R572). -/
def State.regByte (s : State) (o : Nat) : Byte :=
  if 0x00100000 ≤ o && o < 0x00280000 then
    let x := o - 0x00100000
    BitVec.ofNat 8 (s.coreReg (x / 0x1000) (x % 0x1000 / 8 * 8) / 2 ^ (8 * (x % 8)))
  else if o < 0x18 then BitVec.ofNat 8 (nth [flagNum s.host.quiesce, hostStatus s.host s.ready, s.now] (o / 8) 0 / 2 ^ (8 * (o % 8)))
  else if 0x0C030000 ≤ o && o < 0x0C034000 then
    let x := o - 0x0C030000
    BitVec.ofNat 8 (nth (s.scaleRecord (x / 0x400) (x % 0x400 / 0x40)) (x % 0x40 / 8) 0 / 2 ^ (8 * (x % 8)))
  else 0#8

/-- One byte at a local address. -/
def State.byte (s : State) (a : Nat) : Byte := if region a = 0x0F then s.regByte (offset a) else memGet s.mem a

/-- `n` bytes from a local address. -/
def State.bytes (s : State) (a n : Nat) : List Byte := (List.range n).map fun i => s.byte (a + i)

/-- `n` 64-bit words from a local address (R12). -/
def State.words (s : State) (a n : Nat) : List Word := wordsOf n (s.bytes a (8 * n))

/-! The charge of an access (R37, R636, R804). -/

/-- The number of the die whose arbiters an access of a region passes, as `charged` counts them, with regulator class and instance (R636). -/
def State.chargeOf (s : State) (write : Bool) (a : Nat) : Option (Nat × Nat × Nat) :=
  match region a with
  | 0x00 => some (s.homeDie (offset a), 0, s.homeDie (offset a))
  | 0x01 => some (8 + offset a / cellarDieBytes, 1, offset a / cellarDieBytes)
  | r => if 0x10 ≤ r && r < 0x20 then some (18, if write then 6 else 5, 0) else none

/-- `n` bytes of regulator class r at an instance charged to whom they belong (R804) and the bucket lowered by their tokens (R636, R640); on a die whose traffic passes no arbiter of its own (attic, hub) the die's units are counted here (R806; log entry 74). -/
def State.charge (s : State) (w : Who) (dom r inst n : Nat) : State :=
  let s1 := match w.part with
    | some p => s.odAdd (0x6000 + p) (r + 1) n
    | none => s.odAdd 0x6010 (r + 1) n
  let s2 := match w.ctx with
    | some cc => s1.odAdd (0x6300 + cc) 4 n
    | none => s1
  let key := dom * 17 + w.part.getD 16
  { s2 with
    buckets := s2.buckets.map fun b => if some b.part == w.part && b.cls == r && b.inst == inst then { b with level := b.level - 1024 * (ceilDiv n 32 : Nat) } else b
    charged := if r < 2 || r = 4 then s2.charged else mapPut (fun _ => 0) s2.charged key (mapGet (fun _ => 0) s2.charged key + ceilDiv n 32) }

/-- Bus of the Cellar byte at an offset of its die: 256-byte runs take the eight buses in turn (R311). -/
def cellarBus (u : Nat) : Nat := u / 256 % 8

/-- The LPDDR5X package that holds a Cellar offset, and the byte's offset in it (R30, R311). -/
def cellarPackage (o : Nat) : Nat := 8 * (o / cellarDieBytes) + cellarBus (o % cellarDieBytes)
def cellarPlace (o : Nat) : Nat := let u := o % cellarDieBytes; u / 2048 * 256 + u % 256

/-- The die that holds an address (R29, R30). -/
def State.dieOf (s : State) (a : Nat) : Nat :=
  match region a with
  | 0x00 => s.homeDie (offset a)
  | 0x01 => dieCellar (offset a / cellarDieBytes)
  | 0x08 => offset a / 2 ^ 23 / 48
  | _ => dieHub

/-- The arbiters an access of `n` bytes within one sector or run passes (R37): the mesh ports there and back, the Larder port or the Cellar bus, and the media die's memory port. -/
def State.cross (s : State) (w : Who) (write : Bool) (a n : Nat) : State :=
  let d := s.dieOf a
  let t := if write then s.crossMesh w.die d w.part n else (s.crossMesh w.die d w.part 0).crossMesh d w.die w.part n
  let u := match region a with
    | 0x00 => t.passArb d 0 d w.part (ceilDiv n 32)
    | 0x01 => t.passArb d 4 (cellarPackage (offset a)) w.part (ceilDiv n 32)
    | _ => t
  if w.die = dieMedia then u.passArb dieMedia 5 0 w.part (ceilDiv n 64) else u

/-- The sectors a run of bytes touches, as addresses. -/
def sectorsOf (a n : Nat) : List Nat := if n = 0 then [] else (List.range ((a + n - 1) / 32 - a / 32 + 1)).map fun i => 32 * (a / 32 + i)

/-- Before an agent of the module reads or writes a line that the host may hold, a back-invalidate snoop goes to the host; a write leaves the host no copy (R770). -/
def State.backInvalidate (s : State) (write : Bool) (a n : Nat) : State :=
  if s.host.snoop.isEmpty then s
  else
    let held := s.host.snoop.filter fun l => decide (l * 64 < a + n) && decide (a < l * 64 + 64)
    let t := held.foldl (fun (x : State) l => x.emit (.snoop l write)) s
    if write then t.withHost fun h => { h with snoop := h.snoop.filter fun l => !held.contains l } else t

/-- A Cellar sector read: an error its check code corrects is written back corrected and counted in 0x3100/02 (R313). -/
def State.readCellar (s : State) (a : Nat) : State :=
  if s.hbm.weak.contains (a / 32) then (s.withHbm fun h => { h with weak := h.weak.filter (· != a / 32) }).odInc 0x3100 2 else s

/-- Scratchpad words read: those the check code corrects are counted (R833). -/
def State.readSram (s : State) (a n : Nat) : State :=
  let here := fun (l : List Nat) => (l.filter fun k => decide (a < 8 * k + 8) && decide (8 * k < a + n)).length
  let k := here s.diag.sramWeak + here s.diag.sramStuck
  if k = 0 then s else s.odAdd 0x8010 6 k

/-- One sector read at its home: the Larder by the hint (R282), or the Cellar. -/
def State.touchSector (s : State) (w : Who) (hint dom r inst a : Nat) : State :=
  let t := s.cross w false a 32
  if r = 0 then (t.readSector (offset a) (t.hintFor (offset a) hint w.part) w.part).charge w dom r inst 32
  else t.readCellar a

/-- What reading `n` bytes from `a` leaves behind: the snoop of R770, the arbiters on the way (R37), the Larder by the hint (R282), the charge (R804). -/
def State.touch (s0 : State) (w : Who) (hint a n : Nat) : State :=
  let s := s0.backInvalidate false a n
  match s.chargeOf false a with
  | none => (s.cross w false a n).readSram a n
  | some (dom, r, inst) =>
    if r = 0 then (sectorsOf a n).foldl (fun t x => t.touchSector w hint dom r inst x) s
    else if r = 1 then ((sectorsOf a n).foldl (fun t x => t.touchSector w hint dom r inst x) s).charge w dom r inst n
    else (s.cross w false a n).charge w dom r inst n

/-- Whether a local address lies in host memory. -/
def inHost (a : Nat) : Bool := decide (0x10 ≤ region a) && decide (region a < 0x20)

/-- A host cache line held in the device cache (R741, R763): the newest of at most 16,384. -/
def State.cacheLine (s : State) (a : Nat) (dirty : Bool) : State :=
  if inHost a then s.withHost fun h => { h with cache := ((a / 64, dirty) :: h.cache.filter (fun e => e.1 != a / 64)).take 16384 } else s

/-- What reading a record leaves behind: one of R763's kinds in host memory is read through the device cache. -/
def State.touchRecord (s : State) (w : Who) (a n : Nat) : State :=
  ((List.range ((a % 64 + n + 63) / 64)).foldl (fun t i => t.cacheLine (a + 64 * i) false) s).touch w 0 a n

/-- Cellar sectors written whole lose their errors (R898), scratchpad words too, but for failed cells (R833); an HBM sector does so when it reaches HBM. -/
def State.healed (s : State) (a n : Nat) : State :=
  if region a = 0 then s
  else if region a = 8 then s.withDiag fun d =>
    let whole := fun (k : Nat) => decide (a ≤ 8 * k) && decide (8 * k + 8 ≤ a + n)
    { d with sramWeak := d.sramWeak.filter fun k => !whole k, sramBad := d.sramBad.filter fun k => !whole k }
  else s.withHbm fun h =>
    let whole := fun (k : Nat) => decide (a ≤ 32 * k) && decide (32 * k + 32 ≤ a + n)
    { h with bad := h.bad.filter fun k => !whole k, weak := h.weak.filter fun k => !whole k }

/-- One sector written at its home: by the hint to the home Larder; `full` says that all of it is written. -/
def State.passSector (s : State) (w : Who) (hint dom r inst : Nat) (full : Bool) (a : Nat) : State :=
  let t := s.cross w true a 32
  if r = 0 then (t.writeSector (offset a) (t.hintFor (offset a) hint w.part) full w.part).charge w dom r inst 32
  else if full then t else t.readCellar a

/-- What a write does on its way: the arbiters (R37), each of its sectors by its hint to the home Larder (R282), and the charge (R804). -/
def State.passWrite (s : State) (w : Who) (hint a n : Nat) (sectors : List Nat) (full : Nat → Bool) : State :=
  match s.chargeOf true a with
  | none => s.cross w true a n
  | some (dom, r, inst) =>
    if r = 0 then sectors.foldl (fun t x => t.passSector w hint dom r inst (full x) x) s
    else if r = 1 then (sectors.foldl (fun t x => t.passSector w hint dom r inst (full x) x) s).charge w dom r inst n
    else (s.cross w true a n).charge w dom r inst n

/-- Whether `n` bytes from `a` cover a whole sector. -/
def covers (a n k : Nat) : Bool := decide (a ≤ k) && decide (k + 32 ≤ a + n)

/-- Bytes written at a local address: the snoop of R770, the Larder by the hint, the charge, and the bytes. -/
def State.store (s : State) (w : Who) (hint a : Nat) (bs : List Byte) : State :=
  let n := bs.length
  let t := ((s.backInvalidate true a n).passWrite w hint a n (sectorsOf a n) (covers a n)).healed a n
  { t with mem := memPutBytes t.mem a bs }

/-- A bit-exact write of part of a byte's bits: the low or the high four (R50). -/
def State.storeNibble (s : State) (w : Who) (hint a : Nat) (high : Bool) (v : Nat) : State :=
  let old := (s.byte a).toNat
  s.store w hint a [BitVec.ofNat 8 (if high then old % 16 + v % 16 * 16 else old / 16 * 16 + v % 16)]

end Sys2Proof.Machine
end

