-- ==== Sys2Proof/Machine/Command.lean ====
section
/-! DEFINITION. How a command ends: the completion record (R209 to R212), the numerics monitor (R552 to R563), the queue counts, the status word and the interrupt (R755 to R761), and the halting of a context. -/
namespace Sys2Proof.Machine

/-- The unit that ends a command of a consumer other than a core (R849; log entry 28): the cellar die of an update engine, the port die of a reduction engine, the media die by its context, the hub die. -/
def engineUnit (c : CmdInst) : FaultUnit :=
  if c.target < 384 then { kind := 12, inst := 0 } else if c.target < 388 then { kind := 6, inst := c.target - 384 } else if c.target = 388 then { kind := 8, inst := c.port }
  else if c.target = 389 then { kind := 15, inst := c.ctx } else { kind := 12, inst := 0 }

/-- Fault record of a fault that ends a command: partition, context, unit, and the command's TAG and OPCODE in DETAIL0 (R848). -/
def State.cmdFault (s : State) (c : CmdInst) (core : Nat) (code : Code) (addr : Nat) : FaultRec :=
  { code := code, part := s.partOfCtx c.ctx, ctx := some c.ctx
    unit := if core < 384 then { kind := 1, inst := core + (s.core core).phys * 2 ^ 16 } else engineUnit c
    addr := addr, detail0 := c.tag * 2 ^ 48 + c.op * 2 ^ 40 }

/-- The sixteen words of a completion record (R209). `core` is 0x1FF for consumers other than cores. -/
def recordWords (c : CmdInst) (core start fin : Nat) (d : Fin) : List Word :=
  let cs := fun i => nth d.ctrs i {}
  [ (match d.fault with | some f => if d.status = 0 || d.status = 3 then 0 else codeNum f | none => 0) * 2 ^ 16 + d.status + core * 2 ^ 7 + c.ctx * 2 ^ 32 + c.op * 2 ^ 40 + c.tag * 2 ^ 48,
    start, fin,
    d.failB + d.failM * 2 ^ 16 + d.failN * 2 ^ 32 + d.failK * 2 ^ 48,
    d.failInfo % 2 ^ 32 + sat32 d.tiles * 2 ^ 32,
    d.failAddr,
    sat32 (cs 0).sat + sat32 (cs 0).flush * 2 ^ 32, sat32 (cs 0).zero + sat32 (cs 0).nonfin * 2 ^ 32,
    sat32 (cs 1).sat + sat32 (cs 1).flush * 2 ^ 32, sat32 (cs 1).zero + sat32 (cs 1).nonfin * 2 ^ 32,
    sat32 (cs 2).sat + sat32 (cs 2).flush * 2 ^ 32, sat32 (cs 2).zero + sat32 (cs 2).nonfin * 2 ^ 32,
    sat32 (cs 3).sat + sat32 (cs 3).flush * 2 ^ 32, sat32 (cs 3).zero + sat32 (cs 3).nonfin * 2 ^ 32,
    sat32 (cs 4).sat + sat32 (cs 4).flush * 2 ^ 32, sat32 (cs 4).zero + sat32 (cs 4).nonfin * 2 ^ 32 ].map (BitVec.ofNat 64)

/-! Queues and interrupts. -/

/-- A freed slot taken into SQ_HEAD when it is the oldest (R755). -/
def freeSlots : Nat → Nat → List Nat → Nat × List Nat
  | 0, h, f => (h, f)
  | n + 1, h, f => if f.contains h then freeSlots n (h + 1) (f.filter (· != h)) else (h, f)

/-- A command's slot freed (R755). -/
def State.freeSlot (s : State) (cc slot : Nat) : State :=
  s.updCtx cc fun x =>
    let f := slot :: x.freed
    let (h, f') := freeSlots f.length x.sqHead f
    { x with sqHead := h, freed := f' }

/-- A dirty Larder sector with an uncorrectable error dropped without write-back, and MEM.DIRTY_LOST recorded for the partition that allocated the line, which is then to be stopped (R303, R852). -/
def State.dirtyLost (s : State) (o : Nat) : State :=
  let owner := (s.findLine o).bind LarderLine.owner
  ((s.dropSector o).record { code := .memDirtyLost, part := owner, unit := { kind := 3, inst := s.homeDie o }, addr := s.globalAddr (32 * (o / 32)) }).withDiag fun d => { d with owed := d.owed ++ owner.toList }

/-- An uncorrectable sector met by a read, counted for its die or for the Cellar (R300, R313), or lost from the Larder (R303); `a` is a local or global address. -/
def State.countUncorrectable (s : State) (a : Nat) : State :=
  match region (a % 2 ^ 52) with
  | 0 => if s.copySt (offset a) == .dirty then (if flawed s.larder.bad (offset a) then s.dirtyLost (offset a) else s)
    else if flawed s.hbm.bad (offset a) then s.odInc (0x3010 + s.homeDie (offset a)) 10 else s
  | 1 => s.odInc 0x3100 3
  | _ => s

/-- A fault's uncorrectable sector counted, where it is one. -/
def State.countFault (s : State) (c : Code) (a : Nat) : State := if c = .memUncorrectable then s.countUncorrectable a else s

/-! The numerics monitor. -/

/-- A command accumulated into its tensor's record (R557 to R561); a write that fails drops it with NUM.MON_LOST (R563). A warning names the tensor in DETAIL0 and the step in DETAIL1 (R561; log entry 28). -/
def State.monitor (s : State) (c : CmdInst) (d : Fin) : State :=
  let ix := 0x2E00 + c.ctx
  let step := s.odN ix 3
  let a := s.odN ix 1 + (c.mon - 1) * 128 + step % 2 * 64
  let w := s.whoCtx c.ctx none
  if c.mon = 0 || s.odN ix 2 < c.mon || d.status = 1 || s.odN ix 1 = 0 then s
  else if (s.loadFault w a 64).isSome || (s.storeFault w a 64).isSome then
    ((s.loadFault w a 64).elim s fun f => s.countFault f.1 f.2).record { code := .numMonLost, part := s.partOfCtx c.ctx, ctx := some c.ctx, unit := { kind := 15, inst := c.ctx }, addr := s.globalAddr a }
  else
    let old := (s.words a 8).map BitVec.toNat
    let fresh := nth old 0 0 != step
    let o := fun i => if fresh then 0 else nth old i 0
    let cs := nth d.ctrs 0 {}
    let written := o 1 + d.written
    let sa := sat32 (o 2 % 2 ^ 32 + sat32 cs.sat)
    let fl := sat32 (o 2 / 2 ^ 32 + sat32 cs.flush)
    let z := sat32 (o 3 % 2 ^ 32 + sat32 cs.zero)
    let nf := sat32 (o 3 / 2 ^ 32 + sat32 cs.nonfin)
    let mx := a32MaxAbs (BitVec.ofNat 32 (o 4 / 2 ^ 32)) d.maxAbs
    let flags := o 5 % 16
    let hits := if written < s.odN ix 4 then [] else
      (monTests z sa fl nf).filter fun t => crossed t.2.1 (s.odN ix t.2.2.1) written && !(bit flags t.1)
    let flags' := hits.foldl (fun f t => setBit f t.1 true) flags
    let ws := [step, written, sa + fl * 2 ^ 32, z + nf * 2 ^ 32, sat32 (o 4 % 2 ^ 32 + 1) + mx.toNat * 2 ^ 32, flags',
      if fresh then s.now else nth old 6 0, s.now]
    let s1 := (s.touch w 0 a 64).store w 0 a (bytesOfWords (ws.map (BitVec.ofNat 64)))
    hits.foldl (fun t h => t.record { code := h.2.2.2, part := s.partOfCtx c.ctx, ctx := some c.ctx, unit := { kind := 15, inst := c.ctx }, addr := s.globalAddr a, detail0 := c.mon, detail1 := step }) s1

/-! Records and interrupts. -/

/-- Whether the host lines of a run of bytes are among those that get no completion. -/
def State.deadLine (s : State) (a n : Nat) : Bool := s.host.dead.any fun l => decide (64 * l < a + n) && decide (a < 64 * l + 64)

/-- The fault that the write of a completion record or status word meets (R899). -/
def State.recordFault (s : State) (w : Who) (a n : Nat) : Option (Code × Nat) :=
  (s.storeFault w a n).orElse fun _ => if s.deadLine a n then some (if inHost a then .hostQueue else .memUncorrectable, a) else none

/-- Host lines whose missing completion has been noticed. -/
def State.noticed (s : State) (a n : Nat) : State :=
  s.withHost fun h => { h with dead := h.dead.filter fun l => !(decide (64 * l < a + n) && decide (a < 64 * l + 64)) }

/-- A context stopped with HOST.QUEUE: it becomes HALTED without a record (R765, R899). -/
def State.queueFault (s : State) (cc : Nat) (code : Code) (addr : Nat) : State :=
  ((s.countFault code addr).setCond cc .halted).record { code := code, part := s.partOfCtx cc, ctx := some cc, unit := { kind := 15, inst := cc }, addr := s.globalAddr addr }

/-- The context's vector triggered (R761): a message at once, or held to the end of the holdoff interval. -/
def State.trigger (s : State) (cc : Nat) : State :=
  let v := s.odN (0x2200 + cc) 15
  if v = 0xFFFF then s
  else
    let quiet := match (s.ctx cc).lastMsg with
      | some t => decide (t + s.odN (0x2200 + cc) 16 ≤ s.now)
      | none => true
    if quiet then (s.msix v).updCtx cc fun x => { x with lastMsg := some s.now }
    else s.updCtx cc fun x => { x with trigger := true }

/-- The status word of a context written after the records it covers (R760). -/
def State.statusWord (s : State) (cc : Nat) : State :=
  let a := s.odN (0x2200 + cc) 14
  if a = 0 then s
  else
    let w := s.whoCtx cc none
    match s.recordFault w a 8 with
    | some f => (s.noticed a 8).queueFault cc (if inHost a then .hostQueue else f.1) a
    | none =>
      let x := s.ctx cc
      (s.cacheLine a true).store w 0 a (leBytes 8 (x.cqTail % 2 ^ 32 + x.sqHead % 2 ^ 32 * 2 ^ 32))

/-- The command accumulated (R557) and the completion record written to the entry CQ_TAIL names, CQ_TAIL raised, the slot freed, the status word and the trigger (R755, R759 to R761); a record that cannot be written is dropped and the context halts (R899). -/
def State.complete (s : State) (c : CmdInst) (core start : Nat) (d : Fin) : State :=
  let x := s.ctx c.ctx
  let ix := 0x2200 + c.ctx
  let a := s.odN ix 12 + 128 * (x.cqTail % max 1 (s.odN ix 13))
  let w := s.whoCtx c.ctx none
  match s.recordFault w a 128 with
  | some f => ((s.noticed a 128).freeSlot c.ctx c.slot).queueFault c.ctx (if inHost a then .hostQueue else f.1) a
  | none =>
    let s1 := ((s.monitor c d).cacheLine a true).store w 0 a (bytesOfWords (recordWords c core start s.now d))
    let s2 := (s1.updCtx c.ctx fun y => { y with cqTail := y.cqTail + 1 }).freeSlot c.ctx c.slot
    let s3 := s2.odInc (0x6300 + c.ctx) 2
    let s4 := if d.status = 1 || d.status = 2 then s3.odInc (0x6300 + c.ctx) 3 else s3
    let s5 := s4.statusWord c.ctx
    if c.irq || d.status != 0 then s5.trigger c.ctx else s5

/-- The part of a command's end that stops no partition (`State.finish`): ended on the fields of `d`, its fault is recorded (R848) and its record written (a tier move has counted its sector where it met it); a REJECTED or FAULTED command halts its context (R212, R852). -/
def State.finish0 (s : State) (c : CmdInst) (core start : Nat) (d : Fin) : State :=
  let s2 := match d.fault with
    | some f => (if c.op = 0x23 then s else s.countFault f d.failAddr).record (s.cmdFault c core f d.failAddr)
    | none => s
  let s3 := s2.complete c core start d
  let s4 := if (d.status = 1 || d.status = 2) && (s3.ctx c.ctx).cond != .aborting then s3.setCond c.ctx .halted else s3
  s4.refresh c.ctx

/-- A core's executing command ended: its window closes (R195), the accumulators are free (R125), and the core is Idle, or Faulted with its window discarded (R155, R212). -/
def State.endCore0 (s : State) (n : Nat) (e : Exec) (d : Fin) : State :=
  let bad := d.status = 1 || d.status = 2
  let s1 := s.updCore n fun c => { c with exec := none, mx := { c.mx with slots := [], opened := 0, held := [] }, lastExec := s.now, st := if bad then .faulted else .idle }
  let s2 := if bad then s1.discardWindow n else s1
  s2.finish0 e.cmd n e.start d

/-- A rejection: only the record is written, with zero counters (R163). -/
def rejectFin (c : Code) : Fin := { status := 1, fault := some c }

/-- A rejection by a record that could not be read (R902). -/
def rejectAt (c : Code) (addr : Nat) : Fin := { status := 1, fault := some c, failAddr := addr }

/-- An aborted command (R210). -/
def abortFin : Fin := { status := 3 }

end Sys2Proof.Machine
end

