-- ==== Sys2Proof/Machine/Stop.lean ====
section
/-! DEFINITION. Stopping: commands that end ABORTED, a partition's stop (R615), and a fault raised with the effect of its scope (R852). -/
namespace Sys2Proof.Machine

/-- An executing command stopped as R205 states, with no fault of its own: the tiles it has drained stay written (log entry 14). -/
def abortOf (e : Exec) : Fin := { abortFin with tiles := e.drained, ctrs := e.ctrs, written := e.written, maxAbs := e.maxAbs }

/-- The commands of a list that match ended ABORTED, never having started. -/
def State.abortQueued (s : State) (cs : List CmdInst) : State := cs.foldl (fun t c => t.finish0 c 0x1FF t.now abortFin) s

/-- The executing commands of a list ended ABORTED. -/
def State.abortExecs (s : State) (es : List Exec) : State := es.foldl (fun t e => t.finish0 e.cmd 0x1FF e.start (abortOf e)) s

/-- Executing REDUCE commands ended ABORTED, with the plan entry each stands at (R533). -/
def State.abortRuns (s : State) (rs : List RedRun) : State := rs.foldl (fun t r => t.finish0 r.exec.cmd 0x1FF r.exec.start { abortOf r.exec with failInfo := r.entry }) s

/-- A core's executing command ended ABORTED when it matches, and its decoded commands discarded (R615) or ended ABORTED (R635). -/
def State.abortCore (s : State) (pred : CmdInst → Bool) (discard : Bool) (n : Nat) : State :=
  let s1 := match (s.core n).exec with
    | some e => if pred e.cmd then s.endCore0 n e (abortOf e) else s
    | none => s
  if (s1.core n).window.any pred then
    if discard then s1.discardWindow n
    else
      let w := (s1.core n).window
      w.foldl (fun t c => t.finish0 c n t.now abortFin) (s1.updCore n fun c => { c with window := [] })
  else s1

/-- Takers of commands that match leave their counters' orders (R631, R907). -/
def State.dropTakers (s : State) (pred : Nat → Bool) : State :=
  { s with takers := s.takers.filter fun t => match t.2.1 with
      | .core n => match (s.core n).exec with
        | some e => !pred e.cmd.ctx
        | none => false
      | .reduction cc => !pred cc
      | .hub _ | .update _ | .media _ => true }

/-- Every command of the contexts that match, executing or held by a consumer, stopped and ended ABORTED (R615, R635). -/
def State.abortCtxs (s : State) (pred : Nat → Bool) (discard : Bool) : State :=
  let q : CmdInst → Bool := fun c => pred c.ctx
  let s0 := s.dropTakers pred
  let s1 := (List.range 384).foldl (fun t n => t.abortCore q discard n) s0
  let hubGone := s1.hub.filter fun e => q e.cmd
  let s2 := ({ s1 with hub := s1.hub.filter fun e => !q e.cmd }).abortExecs hubGone
  let s3 := (List.range 4).foldl (fun t c =>
    let e := t.engine c
    let ex := e.exec.toList.filter fun x => q x.cmd
    let t1 := t.updEngine c fun y => { y with exec := if (y.exec.map fun x => q x.cmd) = some true then none else y.exec, queue := y.queue.filter fun x => !q x }
    (t1.abortExecs ex).abortQueued (e.queue.filter q)) s2
  let c := s3.coll
  let s4 := s3.withColl fun x => { x with queue := x.queue.filter fun y => !q y, runs := x.runs.filter fun y => !q y.exec.cmd, broadcasts := x.broadcasts.filter fun y => !q y.cmd }
  let s5 := ((s4.abortQueued (c.queue.filter q)).abortRuns (c.runs.filter fun r => q r.exec.cmd)).abortExecs (c.broadcasts.filter fun e => q e.cmd)
  let m := s5.media.queue.filter fun e => q e.cmd
  (s5.withMedia fun x => { x with queue := x.queue.filter fun e => !q e.cmd }).abortExecs m

/-- STATE of a partition as a number (R609). -/
def partStNum : PartSt → Nat
  | .absent => 0 | .creating => 1 | .active => 2 | .stopping => 3 | .stopped => 4

/-- A partition put into a STATE, with its flight-recorder entry (R856). -/
def State.setPart (s : State) (p : Nat) (st : PartSt) : State :=
  let old := (s.part p).st
  if old = st then s else (s.updPart p fun x => { x with st := st }).flight 2 p (partStNum old) (partStNum st) none

/-- The contexts of a partition halted, but for those ABSENT or ABORTING (R615). -/
def State.haltPart (s : State) (p : Nat) : State :=
  (List.range 256).foldl (fun t cc =>
    if t.partOfCtx cc = some p && (t.ctx cc).cond != .absent && (t.ctx cc).cond != .aborting then t.setCond cc .halted else t) s

/-- The batches and stream contexts of a partition that stops, abandoned and closed (R688, R725). -/
def State.dropMedia (s : State) (p : Nat) : State :=
  s.withMedia fun x => { x with batches := x.batches.filter fun b => b.part != p, streams := x.streams.filter fun y => y.part != p }

/-- A partition's stop begun (R615): STOPPING, its commands ended, its contexts HALTED. -/
def State.stopPart (s : State) (p : Nat) : State :=
  if (s.part p).st = .active then
    let s1 := s.setPart p .stopping
    let s2 := s1.abortCtxs (fun cc => s1.partOfCtx cc == some p && (s1.ctx cc).cond != .aborting) true
    (s2.dropMedia p).haltPart p
  else s

/-- An alert cause set (0xA000/09). -/
def State.alert (s : State) (i : Nat) : State := s.withPwr fun x => { x with alert := setBit x.alert i true }

/-- The effect of a MODULE fault (R852, R890): before READY start-up stops; afterwards every partition is stopped, CREATE and START are refused until reset, and a CREATING partition will end STOPPED. -/
def State.stopModule (s : State) : State :=
  let s1 := (s.alert 3).withDiag fun x => { x with moduleFault := true }
  if s1.pwr.stage < 10 then
    (s1.withPwr fun x => { x with stage := 0xFF }).flight 8 0 s1.pwr.stage 0xFF none
  else
    (List.range 16).foldl (fun t p =>
      if (t.part p).st = .creating then t.updPart p fun x => { x with toStopped := true } else t.stopPart p) s1

/-- The partitions stopped that a fault met inside a command's end owes a stop (R852). -/
def State.stopOwed (s : State) : State :=
  s.diag.owed.foldl State.stopPart (s.withDiag fun d => { d with owed := [] })

/-- A command ended on the fields of `d` (`finish0`), and the partition stopped that a dirty sector lost on the way belongs to (R303). -/
def State.finish (s : State) (c : CmdInst) (core start : Nat) (d : Fin) : State := (s.finish0 c core start d).stopOwed

/-- A core's executing command ended (`endCore0`). -/
def State.endCore (s : State) (n : Nat) (e : Exec) (d : Fin) : State := (s.endCore0 n e d).stopOwed

/-- A fault raised with no rate limit and with the effect of its scope (R848, R852). -/
def State.raise (s : State) (r : FaultRec) : State :=
  let s1 := s.record r
  match codeScope r.code with
  | .info | .degraded | .context => s1
  | .partition => match r.part with
    | some p => s1.stopPart p
    | none => s1
  | .module => s1.stopModule

/-- An entry of the repair table found and to be committed to flash (R840), or BIST.REPAIR_FULL (R841). -/
def State.addRepair (s : State) (kind unit location : Nat) : State :=
  let w : Word := BitVec.ofNat 64 (kind % 16 * 2 ^ 60 + unit % 4096 * 2 ^ 48 + location % 2 ^ 48)
  if (s.diag.repair ++ s.diag.repairNew).contains w then s
  else if 4096 ≤ s.diag.repair.length + s.diag.repairNew.length then s.raise { code := .bistRepairFull }
  else s.withDiag fun x => { x with repairNew := x.repairNew ++ [w] }

end Sys2Proof.Machine
end

