-- ==== Sys2Proof/Machine/Queue.lean ====
section
/-! DEFINITION. The front end: doorbells (R752 to R755), the fetching of commands (R750, R751, R758, R765, R904), their dispatch (R757, R903) and the interrupt holdoff (R761). -/
namespace Sys2Proof.Machine

/-- Priority of a context (0x22cc/02). -/
def State.prio (s : State) (cc : Nat) : Nat := s.odN (0x2200 + cc) 2

/-- Completion-ring entries of a context (R747). -/
def State.entries (s : State) (cc : Nat) : Nat := s.odN (0x2200 + cc) 13

/-- Whether a context may run: known, and neither HALTED nor ABORTING. -/
def condLive : Cond → Bool
  | .idle | .ready | .running | .blocked => true
  | .absent | .halted | .aborting => false

/-- The targets of a context's queued commands: those read, and those still in the ring (R629). -/
def State.queuedTargets (s : State) (cc : Nat) : List Nat :=
  (s.ctx cc).fetched.map CmdInst.target ++ (unreadSlots (s.ctx cc)).map (s.ringTarget cc)

/-- Cores put into Stopping because a resident context of higher priority has a command queued for them (R629). -/
def State.preempt (s : State) (cc : Nat) : State :=
  if (s.ctx cc).resident && condLive (s.ctx cc).cond then
    (s.queuedTargets cc).foldl (fun t n =>
      let c := t.core n
      if n < 384 && c.exec.isSome && c.cur != cc && decide (t.prio c.cur < t.prio cc) && t.partOfCore n == t.partOfCtx cc then t.updCore n fun y => { y with st := .stopping } else t) s
  else s

/-- A doorbell write dropped (R753): counted, HOST.DOORBELL at most once a second for the context. -/
def State.dropDoorbell (s : State) (cc : Nat) : State :=
  (s.odInc 0x6030 2).recordLimited { code := .hostDoorbell, part := s.partOfCtx cc, ctx := some cc, unit := { kind := 15, inst := cc } } cc

/-- Whether a write of T to SQ_TAIL is applied (R753). -/
def sqTailOk (head tail slots t : Nat) : Bool :=
  let up := (t + 2 ^ 32 - head % 2 ^ 32) % 2 ^ 32
  decide (up ≤ slots) && decide ((t + 2 ^ 32 - tail % 2 ^ 32) % 2 ^ 32 ≤ up)

/-- Whether a write of H to CQ_HEAD is applied (R753). -/
def cqHeadOk (head tail h : Nat) : Bool :=
  decide ((h + 2 ^ 32 - head % 2 ^ 32) % 2 ^ 32 ≤ (tail + 2 ^ 32 - head % 2 ^ 32) % 2 ^ 32)

/-- A doorbell write of SQ_TAIL (R753, R754). -/
def State.ringSqTail (s : State) (cc v : Nat) : State :=
  let x := s.ctx cc
  let t := v % 2 ^ 32
  if x.cond = .absent || !(sqTailOk x.sqHead x.sqTail (s.odN (0x2200 + cc) 10) t) then s.dropDoorbell cc
  else
    let s1 := s.updCtx cc fun y => { y with sqTail := y.sqHead + (t + 2 ^ 32 - y.sqHead % 2 ^ 32) % 2 ^ 32 }
    (s1.refresh cc).preempt cc

/-- A doorbell write of CQ_HEAD (R753, R754). -/
def State.ringCqHead (s : State) (cc v : Nat) : State :=
  let x := s.ctx cc
  let h := v % 2 ^ 32
  if x.cond = .absent || !(cqHeadOk x.cqHead (x.cqTail % 2 ^ 32) h) then s.dropDoorbell cc
  else s.updCtx cc fun y => { y with cqHead := y.cqHead + (h + 2 ^ 32 - y.cqHead % 2 ^ 32) % 2 ^ 32 }

/-- DOORBELL_SQ_TAIL. -/
def execDoorbellSqTail (cc v : Nat) (s : State) : Host.Outcome State Fault Refusal :=
  .next (if cc < 256 && s.hostReach then s.ringSqTail cc v else s)

/-- DOORBELL_CQ_HEAD. -/
def execDoorbellCqHead (cc v : Nat) (s : State) : Host.Outcome State Fault Refusal :=
  .next (if cc < 256 && s.hostReach then s.ringCqHead cc v else s)

/-! Fetching. -/

/-- The targets that execute an opcode (R158, R750): lowest and highest TARGET, and whether the hub die may too. -/
def opTargets (op : Nat) : Option (Nat × Nat × Bool) :=
  match op with
  | 0x00 | 0x01 | 0x02 | 0x03 | 0x04 | 0x10 | 0x11 | 0x20 | 0x21 | 0x30 | 0x31 | 0x32 => some (0, 383, false)
  | 0x23 => some (0, 383, true)
  | 0x38 => some (390, 390, false)
  | 0x40 => some (384, 387, false)
  | 0x48 | 0x49 => some (388, 388, false)
  | 0x50 | 0x51 | 0x52 => some (389, 389, false)
  | _ => none

/-- Whether TARGET names the consumer of an opcode (R159, R751). -/
def targetOk (op t : Nat) : Bool :=
  match opTargets op with
  | some (lo, hi, hub) => (decide (lo ≤ t) && decide (t ≤ hi)) || (hub && t == 390)
  | none => false

/-- A partition's share of the pool of a consumer other than a core (R608). -/
def State.share (s : State) (p t : Nat) : Nat :=
  if t < 388 then s.odN (0x2000 + p) 6 else if t = 388 then s.odN (0x2000 + p) 7 else if t = 389 then s.odN (0x2000 + p) 8 else s.odN (0x2000 + p) 9

/-- The front end's rejection of a command (R844, R751), in its order. -/
def State.frontReject (s : State) (c : CmdInst) (entry : Nat) : Option Code :=
  if c.target < 384 && (s.core c.target).st == .unavailable then some .bistCoreOut
  else if !(targetOk c.op c.target) then some .cmdOpcode
  else if entry / 512 != 0 then some .cmdReserved
  else if c.target < 384 && (s.partOfCore c.target != s.partOfCtx c.ctx || (s.partOfCtx c.ctx).isNone) then some .cmdField
  else if 384 ≤ c.target && s.share (s.ctxPart c.ctx) c.target == 0 then some .cmdField
  else none

/-- The next slot the front end reads for a context: the oldest to be read again, else the next new one. -/
def nextSlot (x : Context) : Option Nat :=
  match x.again with
  | i :: _ => if i < x.next || x.next = x.sqTail then some i else some x.next
  | [] => if x.next < x.sqTail then some x.next else none

/-- The context past a slot it has read. -/
def takeSlot (x : Context) (i : Nat) : Context :=
  if x.again.contains i then { x with again := x.again.filter (· != i) } else { x with next := i + 1 }

/-- Whether the front end may read a command of a context now (R742, R758, R621). -/
def State.mayFetch (s : State) (cc : Nat) : Bool :=
  let x := s.ctx cc
  s.ready && !s.host.pcieOnly && x.resident && condLive x.cond && decide (x.cqTail - x.cqHead + s.held cc < s.entries cc)

/-- One command slot and its target entry read (R758): a failing read halts the context (R765, R904), a bad target rejects the command (R751), and the hub die is the unit of that fault (log entry 28). -/
def State.fetchOne (s : State) (cc i : Nat) : State :=
  let w := s.whoCtx cc none
  let a := s.slotAddr cc i
  let b := s.targetAddr cc i
  match (s.loadFault w a 64).orElse fun _ => s.loadFault w b 2 with
  | some f => (s.queueFault cc (if inHost f.2 then .hostQueue else f.1) f.2).stopOwed
  | none =>
    let entry := leNat (s.bytes b 2)
    let c : CmdInst := { ctx := cc, slot := i, target := entry % 512, words := s.words a 8 }
    let s1 := (s.touchRecord w a 64).touchRecord w b 2
    let s2 := s1.updCtx cc fun x => takeSlot x i
    match s2.frontReject c entry with
    | some f => s2.finish { c with target := 390 } 0x1FF s.now (rejectFin f)
    | none => ((s2.updCtx cc fun x => { x with fetched := x.fetched ++ [c] }).refresh cc).preempt cc

/-- COMMAND_FETCH. -/
def execCommandFetch (cc : Nat) (s : State) : Host.Outcome State Fault Refusal :=
  .next (match nextSlot (s.ctx cc) with
    | some i => if cc < 256 && s.mayFetch cc then s.fetchOne cc i else s
    | none => s)

/-! Dispatch. -/

/-- The pool room of a consumer (R147, R148, R614): entries in use there, and of the partition. -/
def State.poolOf (s : State) (t port : Nat) : List CmdInst :=
  if t < 384 then coreCmds (s.core t)
  else if t < 388 then engineCmds (s.engine (t - 384))
  else if t = 388 then (collCmds s.coll).filter fun c => c.port == port
  else if t = 389 then s.media.queue.map Exec.cmd
  else s.hub.map Exec.cmd

/-- Entries of a consumer's pool (R147). -/
def poolSize (t : Nat) : Nat := if t < 384 then 8 else if t < 388 then 32 else if t = 388 then 64 else if t = 389 then 512 else 128

/-- A partition's commands in flight at every consumer of one pool (R614). -/
def State.poolUse (s : State) (p t : Nat) : Nat :=
  (s.flying.filter fun c => s.partOfCtx c.ctx == some p &&
    (if t < 388 then decide (384 ≤ c.target) && decide (c.target < 388) else c.target == t)).length

/-- The unit of a consumer, for a self-test slice on it (R829); 256 stands for the media die's buffers, below it its engines (log entry 31). -/
def consumerUnit (t port : Nat) : TestUnit :=
  if t < 388 then { kind := 6, inst := t - 384 } else if t = 388 then { kind := 8, inst := port } else if t = 389 then { kind := 11, inst := 256 } else { kind := 12, inst := 0 }

/-- Whether a consumer can accept a command now (R141, R147, R148, R614, R829); for a core also that the context's partition owns it (R149) and that the context is its current one or the core is empty. -/
def State.canAccept (s : State) (c : CmdInst) : Bool :=
  let port := c.port
  if c.target < 384 then
    let k := s.core c.target
    decide (k.window.length < 7) && s.partOfCore c.target == s.partOfCtx c.ctx && k.st != .unavailable && k.st != .selfTest
      && (k.cur == c.ctx || (k.exec.isNone && k.window.isEmpty)) && (s.island (c.target / 12)).sampled
  else
    decide ((s.poolOf c.target port).length < poolSize c.target)
      && decide (s.poolUse (s.ctxPart c.ctx) c.target < s.share (s.ctxPart c.ctx) c.target)
      && !(s.diag.slices.any fun x => x.1 == consumerUnit c.target port)

/-- Whether R148 holds a command back: the pool entries available to it are all in use. -/
def State.poolFull (s : State) (c : CmdInst) : Bool :=
  if c.target < 384 then decide (8 ≤ (coreCmds (s.core c.target)).length)
  else decide (poolSize c.target ≤ (s.poolOf c.target c.port).length) || decide (s.share (s.ctxPart c.ctx) c.target ≤ s.poolUse (s.ctxPart c.ctx) c.target)

/-- A command held back counted in 0x6020/03, once however long it waits (R148, R150). -/
def State.holdBack (s : State) (c : CmdInst) : State :=
  (s.updCtx c.ctx fun x => { x with fetched := x.fetched.map fun d => if d.slot = c.slot then { d with held := true } else d }).odInc 0x6020 3

/-- Whether a command read by a context may be dispatched (R541, R757): first of its target, within 1,024 slots of the oldest, not behind a BARRIER. -/
def State.inOrder (s : State) (c : CmdInst) : Bool :=
  let x := s.ctx c.ctx
  !(x.fetched.any fun d => decide (d.slot < c.slot) && d.target == c.target)
    && !(x.again.any fun i => decide (i < c.slot) && s.ringTarget c.ctx i == c.target)
    && x.fetched.all (fun d => decide (c.slot < d.slot + 1024))
    && (match s.barrierSlot c.ctx with | some b => decide (c.slot ≤ b) | none => true)

/-- The context whose command a consumer other than a core accepts next (R903). -/
def State.acceptNext (s : State) (t : Nat) : Option Nat :=
  let ok := (List.range 256).filter fun cc => (s.ctx cc).resident && condLive (s.ctx cc).cond && (s.ctx cc).fetched.any fun c => c.target == t && s.inOrder c
  let top := ok.foldl (fun m cc => max m (s.prio cc)) 0
  let best := ok.filter fun cc => s.prio cc == top
  let last := nth s.lastAccept (t - 384) 255
  (best.find? (last < ·)).orElse fun _ => best.head?

/-- A quarter-die brought out of retention for a command (R871, R877): its island stands at its operating voltage. -/
def State.wake (s : State) (q : Nat) : State :=
  if (s.island q).power = 1 then
    s.updIsland q fun x => { x with power := 2, mv := s.targetMv q }
  else s

/-- A command accepted by its consumer (R146). -/
def State.accept (s : State) (c : CmdInst) : State :=
  let s1 := s.updCtx c.ctx fun x => { x with fetched := x.fetched.filter fun d => d.slot != c.slot }
  let s2 :=
    if c.target < 384 then
      let t := s1.wake (c.target / 12)
      t.updCore c.target fun k => { k with window := k.window ++ [c], cur := c.ctx, last := c.ctx, st := if k.st == .retention then .idle else k.st, sliceStart := if k.cur == c.ctx then k.sliceStart else s.now }
    else
      let t := { s1 with lastAccept := modAt s1.lastAccept (c.target - 384) fun _ => c.ctx }
      if c.target < 388 then t.updEngine (c.target - 384) fun e => { e with queue := e.queue ++ [c] }
      else if c.target = 388 then t.withColl fun x => { x with queue := x.queue ++ [c] }
      else if c.target = 389 then t.withMedia fun x => { x with queue := x.queue ++ [{ cmd := c, start := s.now }] }
      else { t with hub := t.hub ++ [{ cmd := c, start := s.now }] }
  s2.noteFlying.refresh c.ctx

/-- A command that was read and that the front end must now reject (R751, R844): its core has left the partition or gone out of service, or the pool share is zero. -/
def State.rejectFetched (s : State) (c : CmdInst) (f : Code) : State :=
  (s.updCtx c.ctx fun x => { x with fetched := x.fetched.filter fun d => d.slot != c.slot }).finish { c with target := 390 } 0x1FF s.now (rejectFin f)

/-- The first of some commands that the front end must reject before it dispatches it (R751). -/
def State.toReject (s : State) (cs : List CmdInst) : Option (CmdInst × Code) := cs.findSome? fun c => (s.frontReject c 0).map fun f => (c, f)

/-- COMMAND_DISPATCH: a command of the context that the front end rejects (R751), else the first that its consumer can accept; one held back by a full pool is counted (R150). -/
def execCommandDispatch (cc : Nat) (s : State) : Host.Outcome State Fault Refusal :=
  let x := s.ctx cc
  let ready := s.ready && x.resident && condLive x.cond && (s.part (s.ctxPart cc)).st == .active
  let cs := x.fetched.filter fun c => s.inOrder c && (decide (c.target < 384) || s.acceptNext c.target == some cc)
  .next (if !ready then s
    else match s.toReject cs with
    | some (c, f) => s.rejectFetched c f
    | none =>
    match cs.find? s.canAccept with
      | some c => s.accept c
      | none =>
      match cs.find? fun c => !c.held && s.poolFull c with
      | some c => s.holdBack c
      | none => s)

/-- INTERRUPT_HOLDOFF_END: the message for every trigger held (R761). -/
def execInterruptHoldoffEnd (cc : Nat) (s : State) : Host.Outcome State Fault Refusal :=
  let x := s.ctx cc
  .next (if x.trigger then
      let s1 := s.advance (x.lastMsg.getD 0 + s.odN (0x2200 + cc) 16)
      (s1.msix (s.odN (0x2200 + cc) 15)).updCtx cc fun y => { y with trigger := false, lastMsg := some s1.now }
    else s)

end Sys2Proof.Machine
end

