-- ==== Sys2Proof/Machine/Arbiter.lean ====
section
/-! DEFINITION. Regulators (R636 to R641), the settings and counters of the arbiters with their window boundaries (R643 to R655), and the energy charge of a regulator boundary (R806). -/
namespace Sys2Proof.Machine

/-! Regulators. -/

/-- Instances of a regulated class (R636). -/
def regCount (r : Nat) : Nat := if r = 0 then 8 else if r = 1 then 4 else if r = 4 then 36 else 1

/-- Tokens an instance's whole capacity gives in one window of 10 µs (R636, R638). -/
def State.regCapacity (s : State) (r inst : Nat) : Nat :=
  if r = 0 then 12000 * s.activeOf inst else if r = 1 then 192000 else if r = 2 then 80000 else if r = 3 then 20000
  else if r = 4 then (if (s.link inst).st = .narrow then 31250 else 62500) else 40000

/-- SHARE of a class (R637). -/
def State.regShare (s : State) (p r : Nat) : Nat := s.odN (0x2010 + p) (r + 1)

/-- A bucket's gain in one window, in 1/1024 token (R638). -/
def State.regGain (s : State) (p r inst : Nat) : Nat := s.regShare p r * s.regCapacity r inst

/-- The bucket of one instance as it comes into being (R639). -/
def State.freshBucket (s : State) (p r i : Nat) : Bucket := { part := p, cls := r, inst := i, level := s.regGain p r i, spare := bit (s.odN (0x2010 + p) 8) r }

/-- The buckets a partition starts with (R639). -/
def State.newBuckets (s : State) (p : Nat) : List Bucket :=
  (List.range 7).flatMap fun r => if s.regShare p r = 0 then [] else (List.range (regCount r)).map fun i => s.freshBucket p r i

/-- The bucket of a partition, class and instance. -/
def findBucket (l : List Bucket) (p r i : Nat) : Option Bucket := l.find? fun b => b.part == p && b.cls == r && b.inst == i

/-- A bucket at a boundary (R638, R639): its gain, at most DEPTH gains. -/
def State.gained (s : State) (b : Bucket) : Bucket :=
  let g := s.regGain b.part b.cls b.inst
  { b with level := min ((s.odN (0x2010 + b.part) 9 * g : Nat) : Int) (b.level + g), spare := bit (s.odN (0x2010 + b.part) 8) b.cls }

/-- Every bucket at a boundary: one that comes into being, one that gains, one that a SHARE of 0 discards (R638, R639). -/
def State.regBuckets (s : State) : List Bucket :=
  ((List.range 16).filter fun p => (s.part p).st != .absent).flatMap fun p =>
    (List.range 7).flatMap fun r =>
      if s.regShare p r = 0 then []
      else (List.range (regCount r)).map fun i => match findBucket s.buckets p r i with
        | some b => s.gained b
        | none => s.freshBucket p r i

/-! Energy (R806). -/

/-- The domain of `charged` whose units share out the energy of a supply domain; none for a quarter-die. -/
def energyDom (d : Nat) : Option Nat := if d < 32 then none else if d < 48 then some ((d - 32) / 2) else some (d - 40)

/-- What a partition gets of a supply domain's energy. -/
def State.energyShare (s : State) (d e p : Nat) : Nat :=
  match energyDom d with
  | none => if s.partOfQuarter d = some p then e else 0
  | some m =>
    let total := ((List.range 17).map fun q => mapGet (fun _ => 0) s.charged (m * 17 + q)).sum
    if total = 0 then 0 else e * mapGet (fun _ => 0) s.charged (m * 17 + p) / total

/-- One supply domain's energy charged (R806). -/
def State.chargeDomain (s : State) (t : State) (d : Nat) : State :=
  let e := Config.energy d s.now
  let shares := ((List.range 16).filter fun p => (s.part p).st != .absent).map fun p => (p, s.energyShare d e p)
  let u := shares.foldl (fun (a : State) x => if x.2 = 0 then a else a.odAdd (0x6200 + x.1) 1 x.2) t
  (u.odAdd 0x6210 1 (e - (shares.map Prod.snd).sum)).odAdd 0x6210 2 e

/-- What happens at a regulator boundary (R638, R639, R806). -/
def State.atRegulator (s : State) : State :=
  let s1 := (List.range 59).foldl (State.chargeDomain s) s
  { s1 with buckets := s.regBuckets, charged := [] }

/-- REGULATOR_BOUNDARY: at the next multiple of 10,000 ns. -/
def execRegulatorBoundary (s : State) : Host.Outcome State Fault Refusal := .next (s.advance ((s.now / 10000 + 1) * 10000)).atRegulator

/-! Arbiters. -/

/-- The adopted settings of a class. -/
def State.arb (s : State) (k : Nat) : ArbSet := nth s.arbs k (arbReset 1024 16)

/-- The credit counters a partition starts with (R646). -/
def State.newReqs (s : State) (p : Nat) : List ReqState :=
  [0, 1, 2, 4, 5].flatMap fun k => arbFresh k p (nth (s.arb k).weights p 64)

/-- WEIGHT and PRIO of a requester: at class 3 the traffic classes 17 to 19 (R643, R644). -/
def ArbSet.weight (a : ArbSet) (k who : Nat) : Nat := nth a.weights (if k = 3 then who - 17 else who) 64
def ArbSet.prio (a : ArbSet) (k who : Nat) : Nat := nth a.prios (if k = 3 then who - 17 else who) 1

/-- The shadow values of a class (R644, R651). -/
def State.arbShadow (s : State) (k : Nat) : ArbSet :=
  { window := s.odN (0x2A00 + k) 1
    burst := s.odN (0x2A00 + k) 2
    weights := if k = 3 then [s.odN 0x4400 1, s.odN 0x4400 2, s.odN 0x4400 3] else (List.range 16).map (fun p => s.odN (0x2A10 + p) (k + 1)) ++ [s.odN (0x2A00 + k) 3]
    prios := if k = 3 then [1, 1, 1] else (List.range 16).map (fun p => s.odN (0x2A20 + p) (k + 1)) ++ [s.odN (0x2A00 + k) 4] }

/-- A write of a class mask to 0x2AF0/01 (R651). -/
def State.arbCommit (s : State) (mask : Nat) : State × Nat :=
  if 64 ≤ mask then (s, 3)
  else
    let ks := (List.range 6).filter (bit mask)
    ({ s with arbPending := s.arbPending.filter (fun x => !ks.contains x.1) ++ ks.map fun k => (k, s.arbShadow k) }, 0)

/-- ARBITER_COMMIT (R651). -/
def execArbiterCommit (mask : Nat) (s : State) : Host.Outcome State Fault Refusal :=
  answered 0x2AF0 1 0 mask (s.arbCommit mask)

/-- What happens at a window boundary of a class: a pending set adopted, then the refill (R645, R652, R653). -/
def State.atWindow (s : State) (k : Nat) : State :=
  let a := match s.arbPending.find? fun x => x.1 == k with
    | some x => x.2
    | none => s.arb k
  { s with
    arbs := modAt s.arbs k fun _ => a
    arbPending := s.arbPending.filter fun x => x.1 != k
    arbReqs := s.arbReqs.map fun r => if r.cls = k then { r with credit := min ((2 * a.weight k r.who : Nat) : Int) (r.credit + a.weight k r.who) } else r }

/-- ARBITER_WINDOW_BOUNDARY (R645): at the next multiple of the class's WINDOW. -/
def execArbiterWindowBoundary (k : Nat) (s : State) : Host.Outcome State Fault Refusal :=
  .next (if k < 6 then (s.advance ((s.now / (s.arb k).window + 1) * (s.arb k).window)).atWindow k else s)

/-- Fabric time stepped forward (R438, R440): one refill and any adoption for each class whose boundary the step passes (R655). -/
def State.stepTime (s : State) (t : Nat) : State :=
  let passed := fun w => decide (s.now / w < t / w)
  let s1 := (List.range 6).foldl (fun u k => if passed (s.arb k).window then u.atWindow k else u) (s.advance t)
  if passed 10000 then s1.atRegulator else s1

/-- The counter of a requester at an arbiter. -/
def State.findReq (s : State) (k inst who : Nat) : Option ReqState := s.arbReqs.find? fun r => r.cls == k && r.inst == inst && r.who == who

/-- ARBITER_BACKOFF_END (R649). -/
def execArbiterBackoffEnd (k inst who : Nat) (s : State) : Host.Outcome State Fault Refusal :=
  .next (match s.findReq k inst who with
    | some r => if r.quietUntil = 0 then s else (s.advance r.quietUntil).updReq k inst who fun x => { x with quietUntil := 0 }
    | none => s)

/-- How long a requester stays away after its m-th loss in a row (R649). -/
def backoff (m : Nat) : Nat := 8 * 2 ^ min (m - 1) 10

end Sys2Proof.Machine
end

