-- ==== Sys2Proof/Machine/Fabric.lean ====
section
/-! DEFINITION. The fabric as an injector sees it: packets as bytes (R397), the routing lookup (R414 to R423), injection (R401, R402, R411, R413, R419) and the addresses of receiving objects. -/
namespace Sys2Proof.Machine

/-- The module's fabric address; 0xFFFF for none (R412). -/
def State.fabric (s : State) : Nat := s.odN 0x4000 1

/-- The four header words of a packet (R397); reserved bits are sent as zero. -/
def headerWords (p : Packet) : List Word :=
  [ BitVec.ofNat 64 (p.dst % 2 ^ 12 * 2 ^ 52 + p.src % 2 ^ 12 * 2 ^ 40 + p.flow % 2 ^ 8 * 2 ^ 32 + p.tag % 2 ^ 16 * 2 ^ 16 + p.kind % 16 * 2 ^ 8 + p.cls % 4 * 2 ^ 6 + p.vc % 2 * 2 ^ 5),
    BitVec.ofNat 64 (p.addr % 2 ^ 52),
    BitVec.ofNat 64 (p.xfer % 2 ^ 16 * 2 ^ 48 + p.pktsM1 % 2 ^ 16 * 2 ^ 32 + p.pkt % 2 ^ 16 * 2 ^ 16 + (p.data.length - 1) % 2 ^ 12),
    BitVec.ofNat 64 p.stamp ]

/-- A packet as it is carried: header and data (R397). -/
def packetBytes (p : Packet) : List Byte := bytesOfWords (headerWords p) ++ p.data

/-- DATA flits a packet of so many data bytes occupies (R399). -/
def flitsFor (len : Nat) : Nat := ceilDiv (32 + len) 112

/-- A packet read from its bytes (R397). -/
def parsePacket (bs : List Byte) : Packet :=
  let ws := wordsOf 4 bs
  let len := fld ws 2 11 0 + 1
  { kind := fld ws 0 11 8, cls := fld ws 0 7 6, vc := fld ws 0 5 5, dst := fld ws 0 63 52, src := fld ws 0 51 40, flow := fld ws 0 39 32, tag := fld ws 0 31 16
    xfer := fld ws 2 63 48, pktsM1 := fld ws 2 47 32, pkt := fld ws 2 31 16, addr := fld ws 1 51 0, stamp := fld ws 3 63 0
    resv := fld ws 0 4 0 + fld ws 0 15 12 * 32 + fld ws 1 63 52 * 512 + fld ws 2 15 12 * 2 ^ 21
    data := (bs.drop 32).take len }

/-! Routing. -/

/-- The active routing entry of a destination (R416). -/
def State.routeEntry (s : State) (dst : Nat) : Nat := s.odN (0x4220 + dst / 256 % 16) (dst % 256)

/-- Whether a link can carry a packet: a live slot's link (R418). -/
def State.linkLive (s : State) (l : Nat) : Bool := decide (l < 36) && ((s.link l).st == .up || (s.link l).st == .narrow)

/-- The live slots of a routing entry, in slot order: slot number and link (R418, R420). -/
def State.liveSlots (s : State) (e : Nat) : List (Nat × Nat) :=
  ((List.range (min 4 (bits e 26 24))).map fun i => (i, bits e (6 * i + 5) (6 * i))).filter fun x => s.linkLive x.2

/-- The slot of R420. -/
def State.hashSlot (s : State) (p : Packet) (live : List (Nat × Nat)) : Option (Nat × Nat) :=
  live[Config.flowHash s.sec.startups p.src p.dst p.cls p.flow % max 1 live.length]?

/-- Free credit the next hop of a link offers for a class and VC (R427). -/
def State.creditOf (s : State) (l cls vc : Nat) : Nat := nth (s.link l).credit (cls * 2 + vc) 0

/-- The slot a packet takes (R420, R421): adaptively the one with most credit, a tie going to the slot of R420. -/
def State.chooseSlot (s : State) (p : Packet) : Option (Nat × Nat) :=
  let e := s.routeEntry p.dst
  let live := s.liveSlots e
  if bit e 31 && p.cls == 3 then
    let most := live.foldl (fun m x => max m (s.creditOf x.2 p.cls p.vc)) 0
    match live.filter fun x => s.creditOf x.2 p.cls p.vc == most with
    | [x] => some x
    | _ => s.hashSlot p live
  else s.hashSlot p live

/-- A packet put behind those waiting at the output its slot names, on VC1 past a dateline (R423); none when no slot is live (R419). -/
def State.forward (s : State) (p : Packet) : Option State :=
  match s.chooseSlot p with
  | none => none
  | some (i, l) =>
    let q := if bit (s.routeEntry p.dst) (27 + i) then { p with vc := 1 } else p
    some (s.updLink l fun x => { x with outq := x.outq ++ [(q, 0)] })

/-! Injection. -/

/-- Transfers that await DONE (R407, R411). -/
def State.xfersOut (s : State) : List Xfer :=
  (s.cores.flatMap fun c => (c.exec.map Exec.xfers).getD []) ++ s.coll.runs.flatMap (fun r => r.units.map RedUnit.xfer) ++ s.coll.broadcasts.flatMap Exec.xfers

/-- The first XFER number from `n` on that no waiting transfer to the destination uses (R411). -/
def freshFrom (used : List Nat) : Nat → Nat → Nat
  | 0, n => n
  | k + 1, n => if used.contains n then freshFrom used k ((n + 1) % 65536) else n

/-- The XFER number a transfer to a module takes (R411). -/
def State.freshXfer (s : State) (dst : Nat) : Nat :=
  let used := (s.xfersOut.filter fun x => x.dst == dst).map Xfer.xfer
  freshFrom used used.length s.nextXfer

/-- The link a packet leaves by when it is sent now. -/
def State.outLink (s : State) (p : Packet) : Option Nat := (s.chooseSlot p).map Prod.snd

/-- A packet on its way from a die of the module to link l: across the mesh to the link's port die, and to its output (R32, R37). -/
def State.toPort (s : State) (die l : Nat) (part : Option Nat) (p : Packet) : State :=
  (s.crossMesh die (diePort (l / 9)) part (128 * flitsFor p.data.length)).portUnits l part (flitsFor p.data.length)

/-- A packet of the module's own sent: delivered within the module when it is addressed to it (R414), else routed; its arbiters are charged (R37), and for TC1 to TC3 the regulator of its link (R636). The fault is FAB.ADDR_UNSET (R413) or FAB.UNREACHABLE (R419). -/
def State.send (s : State) (w : Who) (p0 : Packet) : Except Code State :=
  let p := { p0 with src := s.fabric, vc := 0, stamp := s.now }
  if s.fabric = 0xFFFF then .error .fabAddrUnset
  else if p.dst = s.fabric then .ok { s with inbox := s.inbox ++ [{ p with die := w.die }] }
  else match s.outLink p, s.forward p with
    | some l, some t =>
      let u := t.toPort w.die l w.part p
      .ok (if p.cls = 0 then u else u.charge w (diePort (l / 9)) 4 l (128 * flitsFor p.data.length))
    | _, _ => .error .fabUnreachable

/-- The fabric tag of a partition (0x4500/(p + 1)). -/
def State.tagOf (s : State) (p : Nat) : Nat := s.odN 0x4500 (p + 1)

/-- A TC0 MESSAGE of a partition to an object of another module (R398, R402). -/
def State.message (s : State) (w : Who) (dst flow addr : Nat) (data : List Byte) : Except Code State :=
  s.send w { kind := 1, cls := 0, dst := dst, flow := flow, tag := s.tagOf (w.part.getD 0), addr := addr, data := data }

/-- Data cut into pieces of at most 4,096 bytes with their offsets (R399). -/
def chunks : Nat → Nat → List Byte → List (Nat × List Byte)
  | 0, _, _ => []
  | n + 1, o, bs => if bs.isEmpty then [] else (o, bs.take 4096) :: chunks n (o + 4096) (bs.drop 4096)

/-- The packets of one transfer sent, in order; the fault of the first that cannot be sent, with its address (R413, R419). -/
def State.sendAll (s : State) (w : Who) (dst cls flow xfer n : Nat) : List (Nat × Nat × List Byte) → Except (Code × Nat) State
  | [] => .ok s
  | (i, a, bs) :: ps =>
    match s.send w { kind := 0, cls := cls, dst := dst, flow := flow, tag := s.tagOf (w.part.getD 0), xfer := xfer, pktsM1 := n - 1, pkt := i, addr := a, data := bs } with
    | .error c => .error (c, dst * 2 ^ 52 + a)
    | .ok t => t.sendAll w dst cls flow xfer n ps

/-- A transfer of WRITE packets begun (R407, R411): the pieces are address and bytes, each at most 4,096. -/
def State.writeTo (s : State) (w : Who) (dst cls flow : Nat) (pieces : List (Nat × List Byte)) : Except (Code × Nat) (State × Xfer) :=
  let x := s.freshXfer dst
  let n := pieces.length
  match ({ s with nextXfer := (x + 1) % 65536 } : State).sendAll w dst cls flow x n (pieces.zipIdx.map fun (y : (Nat × List Byte) × Nat) => (y.2, y.1.1, y.1.2)) with
  | .error f => .error f
  | .ok t => .ok (t, { dst := dst, xfer := x, left := n, fault := none })

/-! The receiving objects of messages. -/

/-- Address of fence object n of partition p (R595). -/
def fenceObj (p n : Nat) : Nat := 0xF0000C040000 + p * 0x1000 + n * 0x10

/-- Address of credit counter n of partition p (R595). -/
def creditObj (p n : Nat) : Nat := 0xF0000C050000 + p * 0x1000 + n * 0x10

end Sys2Proof.Machine
end

