-- ==== Sys2Proof/Machine/Approx.lean ====
section
/-! DEFINITION. The vector engine's functions of bounded error (R127, R128, R910): a fixed-point value good to about 100 bits stands for the exact result, and the module's own result is any A32 value within the stated limit of it (log entry 8). -/
namespace Sys2Proof.Machine

/-- One, in the fixed point with 128 fraction bits. -/
def fxOne : Int := 2 ^ 128

/-- A fixed-point product. -/
def fxMul (a b : Int) : Int := a * b / fxOne

/-- A fixed-point quotient. -/
def fxDiv (a b : Int) : Int := a * fxOne / b

/-- ln 2, log2 e, sqrt (2 / pi) and 0.044715 in fixed point. -/
def fxLn2 : Int := 0xb17217f7d1cf79abc9e3b39803f2f6af
def fxLog2e : Int := 0x171547652b82fe1777d0ffda0d23a7d11
def fxGelu : Int := 0xcc42299ea1b284687e59e2805d5c717f
def fxGelu3 : Int := 0xb727136a400fba8826aa8eb463497b7

/-- The exponential of `x`, `|x| <= 1`: terms `i` to `i + n - 1` of its series, from the term `t`. -/
def fxExpTerms (x : Int) : Nat → Nat → Int → Int
  | 0, _, _ => 0
  | n + 1, i, t => t + fxExpTerms x n (i + 1) (fxMul t x / (i + 1 : Nat))

/-- The logarithm's series: terms of `2 * atanh z`. -/
def fxAtanhTerms (z2 : Int) : Nat → Nat → Int → Int
  | 0, _, _ => 0
  | n + 1, i, t => t / (2 * i + 1 : Nat) + fxAtanhTerms z2 n (i + 1) (fxMul t z2)

/-- A value in fixed point; dyadic values only. -/
def fxOfVal : Val → Int
  | .nan => 0
  | .num neg m k => let a : Int := shiftInt m (k / 256 + 128); if neg then -a else a

/-- A value `n * 2^e` known to within `tol * 2^e`. -/
structure Near where
  n : Int
  e : Int
  tol : Int
  deriving DecidableEq, Repr

/-- `2^x` for a fixed-point `x` of moderate size, with relative limit `2^-r`. -/
def nearExp2 (x : Int) (r : Nat) : Near :=
  let f := x % fxOne
  let v := fxExpTerms (fxMul f fxLn2) 40 0 fxOne
  { n := v, e := x / fxOne - 128, tol := v / 2 ^ r + 2 ^ 20 }

/-- log2 of a positive dyadic value, in fixed point. -/
def fxLog2 (m : Nat) (k : Int) : Int :=
  let b := Nat.log2 m
  let f : Int := shiftInt m (128 - (b : Int))
  let z := fxDiv (f - fxOne) (f + fxOne)
  ((b : Int) + k / 256) * fxOne + fxMul (2 * fxAtanhTerms (fxMul z z) 60 0 z) fxLog2e

/-- `e^x` in fixed point, for `x <= 0` or small: below one unit it is 0. -/
def fxExp (x : Int) : Int :=
  let y := fxMul x fxLog2e
  let v := nearExp2 y 0
  if v.e + 128 < -140 then 0 else if 0 ≤ v.e + 128 then v.n * 2 ^ (v.e + 128).toNat else v.n / 2 ^ (-(v.e + 128)).toNat

/-- `1 / (1 + e^-x)` in fixed point. -/
def fxSigmoid (x : Int) : Int :=
  let t := fxExp (-(x.natAbs : Int))
  if 0 ≤ x then fxDiv fxOne (fxOne + t) else fxDiv t (fxOne + t)

/-- `tanh x = 2 * sigmoid (2 x) - 1` in fixed point. -/
def fxTanh (x : Int) : Int := 2 * fxSigmoid (2 * x) - fxOne

/-- `ln (1 + e^x)` in fixed point: `max x 0` plus the logarithm of `1 + e^-|x|`. -/
def fxSoftplus (x : Int) : Int :=
  let t := fxOne + fxExp (-(x.natAbs : Int))
  max x 0 + fxMul (fxLog2 t.toNat (-128 * 256)) fxLn2

/-- Whether A32 pattern `r` is a number within the limit of a value. -/
def within (r : A32) (v : Near) : Bool :=
  match a32Val r with
  | .nan => false
  | .num neg m k =>
    let q := min (k / 256) v.e
    let a : Int := (m * 2 ^ (k / 256 - q).toNat : Nat)
    let b := (2 : Int) ^ (v.e - q).toNat
    decide (((if neg then -a else a) - v.n * b).natAbs ≤ (v.tol * b).natAbs)

/-- A value as the exact kind of value. -/
def Near.val (v : Near) : Val := .num (v.n < 0) v.n.natAbs (256 * v.e)

/-- The module's result: its own approximation where that is within the limit, else the value rounded to nearest-even; beyond the range R73 and R74 fix it. -/
def settle (cand : A32) (v : Near) : A32 :=
  let r := toA32 v.val
  if r = a32Max false || r = a32Max true || (r.toNat % 2 ^ 31 == 0 && v.n != 0) then r else if within cand v then cand else r

/-- Numbers of the functions, as `Config.approx` takes them. -/
inductive Fn where
  | div | recip | sqrt | rsqrt | exp2 | log2 | exp | log | tanh | sigmoid | silu | gelu | softplus | pow
  deriving DecidableEq, Repr

/-- The number of a function. -/
def fnNum : Fn → Nat
  | .div => 0 | .recip => 1 | .sqrt => 2 | .rsqrt => 3 | .exp2 => 4 | .log2 => 5 | .exp => 6 | .log => 7 | .tanh => 8
  | .sigmoid => 9 | .silu => 10 | .gelu => 11 | .softplus => 12 | .pow => 13

/-- The largest A32 magnitude with the sign of a value (R128). -/
def maxLike (v : Val) : A32 := a32Max v.isNeg

/-- A quotient of two dyadic numbers to a relative error of `2^-22`. -/
def nearDiv (n1 : Bool) (m1 : Nat) (k1 : Int) (n2 : Bool) (m2 : Nat) (k2 : Int) : Near :=
  let q : Int := (m1 * 2 ^ 96 / m2 : Nat)
  { n := if n1 != n2 then -q else q, e := k1 / 256 - k2 / 256 - 96, tol := q / 2 ^ 22 + 1 }

/-- A square root to a relative error of `2^-22`. -/
def nearSqrt (m : Nat) (k : Int) : Near :=
  let e := k / 256
  let r : Int := (iroot 2 80 0 (m * 2 ^ (128 + (e % 2).toNat)) : Nat)
  { n := r, e := (e - e % 2) / 2 - 64, tol := r / 2 ^ 22 + 1 }

/-- Division: `x / y` (R127, R128). -/
def a32Div (a b : A32) : A32 :=
  match a32Val a, a32Val b with
  | .num n1 m1 k1, .num n2 m2 k2 =>
    if m2 = 0 then (if m1 = 0 then a32Nan else a32Max n1)
    else if m1 = 0 then toA32 (.num (n1 != n2) 0 0)
    else settle (Config.approx (fnNum .div) a b) (nearDiv n1 m1 k1 n2 m2 k2)
  | _, _ => a32Nan

/-- A32 one. -/
def a32One : A32 := 0x3F800000#32

/-- The absolute limit of `2^-19` of the activations, and `2^-21` of the logarithms, on a fixed-point value. -/
def nearAbs (x : Int) (r : Nat) : Near := { n := x, e := -128, tol := 2 ^ (128 - r) + 2 ^ 20 }

/-- A fixed-point value that is `x` itself beyond 128, 0 below -128, and `f` between (the activations that grow as their input does). -/
def grows (f : Int → Int) (x : Int) : Int := if 128 * fxOne < x then x else if x < -128 * fxOne then 0 else f x

/-- A function of one input (R127, R128). DESIGN CHOICE (log entry 69): the root of -0 is -0, for which R128 states no sign. -/
def a32Fn (f : Fn) (a : A32) : A32 :=
  let c := Config.approx (fnNum f) a a32Zero
  match a32Val a with
  | .nan => a32Nan
  | .num neg m k =>
    let x := fxOfVal (.num neg m k)
    let big := decide (1024 < (if m = 0 then 0 else floorLog2 m k).natAbs ∨ (m ≠ 0 ∧ 8 < floorLog2 m k))
    match f with
    | .div | .pow => a32Nan
    | .recip => if m = 0 then a32Max neg else settle c (nearDiv neg 1 0 false m k)
    | .sqrt => if m = 0 then a else if neg then a32Nan else settle c (nearSqrt m k)
    | .rsqrt => if m = 0 then a32Max neg else if neg then a32Nan
      else
        let r := nearSqrt m k
        settle c (nearDiv false 1 0 false r.n.toNat (256 * r.e))
    | .exp2 => if m ≠ 0 && big then (if neg then a32Zero else a32Max false) else settle c (nearExp2 x 21)
    | .exp => if m ≠ 0 && big then (if neg then a32Zero else a32Max false) else settle c (nearExp2 (fxMul x fxLog2e) 21)
    | .log2 => if m = 0 then a32Max true else if neg then a32Nan else settle c (nearAbs (fxLog2 m k) 21)
    | .log => if m = 0 then a32Max true else if neg then a32Nan else settle c (nearAbs (fxMul (fxLog2 m k) fxLn2) 21)
    | .tanh => settle c (nearAbs (if big then (if neg then -fxOne else fxOne) else fxTanh x) 19)
    | .sigmoid => settle c (nearAbs (if big then (if neg then 0 else fxOne) else fxSigmoid x) 19)
    | .silu => settle c (nearAbs (grows (fun y => fxMul y (fxSigmoid y)) x) 19)
    | .gelu => settle c (nearAbs (grows (fun y => fxMul (y / 2) (fxOne + fxTanh (fxMul fxGelu (y + fxMul fxGelu3 (fxMul y (fxMul y y)))))) x) 19)
    | .softplus => settle c (nearAbs (grows fxSoftplus x) 19)

/-- `a` to the power `b` (R479, R910). -/
def a32Pow (a b : A32) : A32 :=
  match a32Val a, a32Val b with
  | .num neg m k, .num bn bm bk =>
    if m = 0 then (if bm = 0 then a32One else if bn then a32Max false else a32Zero)
    else if neg then a32Nan
    else
      let l := fxLog2 m k
      let p : Int := if 0 ≤ bk / 256 then l * (bm * 2 ^ (bk / 256).toNat : Nat) else l * bm / (2 : Int) ^ (-(bk / 256)).toNat
      let y := if bn then -p else p
      if 256 * fxOne < y then a32Max false else if y < -256 * fxOne then a32Zero
      else settle (Config.approx (fnNum .pow) a b) (nearExp2 y 20)
  | _, _ => a32Nan

/-! Exact operations (R127, R128). -/

/-- min: NaN if either is; of two zeros -0 (R128). -/
def a32Min (a b : A32) : A32 :=
  let x := a32Val a
  let y := a32Val b
  if x.isNan || y.isNan then a32Nan else if x.isZero && y.isZero then (if x.isNeg then a else b) else if x.le y then a else b

/-- max: NaN if either is; of two zeros +0 (R128). -/
def a32Max2 (a b : A32) : A32 :=
  let x := a32Val a
  let y := a32Val b
  if x.isNan || y.isNan then a32Nan else if x.isZero && y.isZero then (if x.isNeg then b else a) else if x.le y then b else a

/-- Fused multiply-add with one rounding (R127, R199). -/
def a32Fma (mode : Mode) (u : Nat) (a b c : A32) : A32 := a32Round mode u (((a32Val a).mul (a32Val b)).add (a32Val c))

/-- The magnitude; a NaN stays NaN (R75). -/
def a32Abs (a : A32) : A32 := if (a32Val a).isNan then a32Nan else BitVec.ofNat 32 (a.toNat % 2 ^ 31)

/-- The negation; a NaN stays NaN. -/
def a32Neg (a : A32) : A32 := if (a32Val a).isNan then a32Nan else BitVec.ofNat 32 (if a.toNat < 2 ^ 31 then a.toNat + 2 ^ 31 else a.toNat - 2 ^ 31)

/-- The magnitude of `a` with the sign of `b`; NaN if either is (R75). -/
def a32Copysign (a b : A32) : A32 :=
  if (a32Val a).isNan || (a32Val b).isNan then a32Nan else BitVec.ofNat 32 (a.toNat % 2 ^ 31 + (if b.toNat < 2 ^ 31 then 0 else 2 ^ 31))

/-- The activation a SUBOP selects (R179); none outside the table. -/
def activation (sub : Nat) (x : A32) : Option A32 :=
  match sub with
  | 0 => some x
  | 1 => some (a32Max2 x a32Zero)
  | 2 => some (a32Fn .gelu x)
  | 3 => some (a32Fn .silu x)
  | 4 => some (a32Fn .tanh x)
  | 5 => some (a32Fn .sigmoid x)
  | 6 => some (a32Fn .softplus x)
  | _ => none

end Sys2Proof.Machine
end

