-- ==== Sys2Proof/Machine/Operands.lean ====
section
/-! DEFINITION. Operand forms: the tensor descriptor (R164 to R170), where an element and its scale lie, reading elements, and writing a tile or group of them whole (R87, R89, R90, R189, R201, R905). -/
namespace Sys2Proof.Machine

/-- A tensor descriptor's fields (R164). Sizes are whole, not minus 1; `resv` says that a reserved bit is set. -/
structure Desc where
  base : Nat
  fmt : Fmt
  scaled : Bool
  hint : Nat
  layout : Nat
  n0 : Nat
  n1 : Nat
  n2 : Nat
  n3 : Nat
  s1 : Nat
  s2 : Nat
  s3 : Nat
  soff : Int
  resv : Bool
  deriving DecidableEq, Repr

/-- An element's four indices. -/
structure Ix where
  i0 : Nat
  i1 : Nat := 0
  i2 : Nat := 0
  i3 : Nat := 0
  deriving DecidableEq, Repr

/-- A descriptor read from its four words (R164). -/
def descOf (ws : List Word) : Desc :=
  { base := fld ws 0 51 0, fmt := fmtOfCode (fld ws 0 54 52), scaled := fld ws 0 55 55 == 1, hint := fld ws 0 57 56, layout := fld ws 0 59 58
    n0 := fld ws 1 15 0 + 1, n1 := fld ws 1 31 16 + 1, n2 := fld ws 1 47 32 + 1, n3 := fld ws 1 63 48 + 1
    s1 := fld ws 2 31 0, s2 := fld ws 2 63 32, s3 := fld ws 3 31 0, soff := toSigned 32 (fld ws 3 63 32), resv := fld ws 0 63 60 != 0 }

/-- The elements a descriptor holds. -/
def Desc.count (d : Desc) : Nat := d.n0 * d.n1 * d.n2 * d.n3

/-- The indices of the element of linear number j, dimension 0 fastest. -/
def Desc.at (d : Desc) (j : Nat) : Ix := { i0 := j % d.n0, i1 := j / d.n0 % d.n1, i2 := j / (d.n0 * d.n1) % d.n2, i3 := j / (d.n0 * d.n1 * d.n2) }

/-- Bytes of a row of dimension 0 (R165). -/
def Desc.rowBytes (d : Desc) : Nat := if d.fmt = .l4 then ceilDiv d.n0 2 else d.n0 * (if fmtBits d.fmt = 16 then 2 else 1)

/-- Whether an element lies within the descriptor's sizes (R191). -/
def Desc.inside (d : Desc) (i : Ix) : Bool := decide (i.i0 < d.n0) && decide (i.i1 < d.n1) && decide (i.i2 < d.n2) && decide (i.i3 < d.n3)

/-- Bytes an element takes; an L4 element lies in one (R165). -/
def Desc.width (d : Desc) : Nat := if fmtBits d.fmt = 16 then 2 else 1

/-- The address of an element's first byte (R165). -/
def Desc.addr (d : Desc) (i : Ix) : Nat :=
  d.base + (if d.fmt = .l4 then i.i0 / 2 else i.i0 * d.width) + i.i1 * d.s1 + i.i2 * d.s2 + i.i3 * d.s3

/-- Row number of an element (R67). -/
def Desc.row (d : Desc) (i : Ix) : Nat := i.i1 + d.n1 * (i.i2 + d.n2 * i.i3)

/-- First byte of the scale or exponent array. DESIGN CHOICE (log entry 68): an array that SCALE_OFF puts below address 0 begins at 0, and a byte past the last 52-bit address has the region of its address modulo 2^52. -/
def Desc.scaleBase (d : Desc) : Nat := ((d.base : Int) + d.soff).toNat

/-- The address of an element's scale or exponent byte (R66, R67). -/
def Desc.scaleAddr (d : Desc) (i : Ix) : Nat := d.scaleBase + ceilDiv d.n0 32 * d.row i + i.i0 / 32

/-- The bytes of the scale array (R67). -/
def Desc.scaleBytes (d : Desc) : Nat := ceilDiv d.n0 32 * (d.n1 * d.n2 * d.n3)

/-- One past the last byte of the element extent. -/
def Desc.endAddr (d : Desc) : Nat := d.addr { i0 := d.n0 - 1, i1 := d.n1 - 1, i2 := d.n2 - 1, i3 := d.n3 - 1 } + d.width

/-- A one-element BF16 tensor with BASE at byte 12 of a scale record (R574). -/
def Desc.isLscale (d : Desc) : Bool := d.count == 1 && d.fmt == .bf16 && !d.scaled && d.base / 2 ^ 44 % 256 == 0x0F && d.base % 0x40 == 12

/-- The runs of bytes a tensor takes, each by its first byte and the one past its last: its rows, and its scale array. -/
def Desc.runs (d : Desc) : List (Nat × Nat) :=
  ((List.range (d.n1 * d.n2 * d.n3)).map fun r =>
    let a := d.addr { i0 := 0, i1 := r % d.n1, i2 := r / d.n1 % d.n2, i3 := r / (d.n1 * d.n2) }
    (a, a + d.rowBytes)) ++ (if d.scaled then [(d.scaleBase, d.scaleBase + d.scaleBytes)] else [])

/-- Whether two tensors share a byte. -/
def Desc.shares (d e : Desc) : Bool := d.runs.any fun a => e.runs.any fun b => decide (a.1 < b.2) && decide (b.1 < a.2)

/-! Checks of one descriptor. -/

/-- CMD.DESC: the scale array overlaps the element extent (R169). -/
def Desc.selfOverlap (d : Desc) : Bool := d.scaled && decide (d.scaleBase < d.endAddr) && decide (d.base < d.scaleBase + d.scaleBytes)

/-- CMD.ALIGN (R168). -/
def Desc.misaligned (d : Desc) : Bool :=
  fmtBits d.fmt == 16 && (d.base % 2 == 1 || (decide (1 < d.n1) && d.s1 % 2 == 1) || (decide (1 < d.n2) && d.s2 % 2 == 1) || (decide (1 < d.n3) && d.s3 % 2 == 1))

/-- CMD.FORMAT of the descriptor itself (R71). -/
def Desc.badScale (d : Desc) : Bool := if d.fmt = .b16 then !d.scaled else d.scaled && !(fmtMayScale d.fmt)

/-! The rejection checks of a command, in the order of R162 and R902. -/

/-- The first code whose test holds. -/
def firstCode : List (Bool × Code) → Option Code
  | [] => none
  | (b, c) :: l => if b then some c else firstCode l

/-- The 256-bit record of a descriptor read from the context's table (R160, R161). -/
def State.readDesc (s : State) (w : Who) (cc i : Nat) : RecRead :=
  if i = 0xFFFF || s.odN (0x2200 + cc) 4 ≤ i then .beyond
  else
    let a := s.odN (0x2200 + cc) 3 + 32 * i
    match s.loadFault w a 32 with
    | some f => .failed f.1 (s.globalAddr f.2)
    | none => .words (s.words a 4)

/-- What reading descriptors from a context's table leaves behind (R37, R161). -/
def State.touchDescs (s : State) (w : Who) (cc : Nat) (l : List Nat) : State :=
  l.foldl (fun t i => if i = 0xFFFF || t.odN (0x2200 + cc) 4 ≤ i then t else t.touchRecord w (t.odN (0x2200 + cc) 3 + 32 * i) 32) s

/-- The descriptor a record read holds. -/
def RecRead.desc : RecRead → Option Desc
  | .words ws => some (descOf ws)
  | .failed _ _ => none
  | .beyond => none

/-- The first record that could not be read (R902). -/
def firstFailed (l : List RecRead) : Option (Code × Nat) :=
  l.findSome? fun r => match r with
    | .failed c a => some (c, a)
    | .words _ => none
    | .beyond => none

/-- Whether the common fields of a command break R157, R194, R202 or R554 (CMD.FIELD). -/
def State.badCommon (s : State) (c : CmdInst) : Bool :=
  let p := s.ctxPart c.ctx
  (c.tlimit != 0 && decide (c.tlimit < 10)) || decide (10000 < c.tlimit) || decide (s.odN (0x2F00 + p) 4 < c.tlimit)
    || decide (24576 < c.workBase + c.workLen)
    || (c.openLen != 0 && (decide (c.openBase < c.workBase) || decide (c.workBase + c.workLen < c.openBase + c.openLen)))
    || (c.mon != 0 && decide (s.odN (0x2E00 + c.ctx) 2 < c.mon))

/-- What the checks of one opcode say, beside those every command has: reserved bits, CMD.FIELD, a missing tensor or record of CMD.DESC, CMD.FORMAT, CMD.FORMAT_MIX, CMD.SCALE_AXIS and CMD.SHAPE. -/
structure Checks where
  reserved : Bool := false
  field : Bool := false
  desc : Bool := false
  align : Bool := false
  format : Bool := false
  mix : Bool := false
  axis : Bool := false
  shape : Bool := false

/-- The descriptors among some reads. -/
def descs (l : List RecRead) : List Desc := l.filterMap RecRead.desc

/-- A read of a descriptor index outside the table (R169). -/
def RecRead.isBeyond : RecRead → Bool
  | .beyond => true
  | .words _ => false
  | .failed _ _ => false

/-- The rejection of a command whose descriptors were read as `recs` and whose common fields are `bad` or not: the record reads first (R902), then CMD.RESERVED to CMD.SHAPE in ascending fault number (R162). -/
def rejectionOf (bad : Bool) (c : CmdInst) (recs : List RecRead) (k : Checks) : Option Fin :=
  match firstFailed recs with
  | some f => some (rejectAt f.1 f.2)
  | none =>
    let ds := descs recs
    (firstCode
      [ (fld c.words 1 62 60 != 0 || k.reserved || ds.any Desc.resv, .cmdReserved),
        (bad || k.field || ds.any (fun d => decide (1 < d.layout)), .cmdField),
        (k.desc || recs.any RecRead.isBeyond || ds.any Desc.selfOverlap, .cmdDesc),
        (k.align || ds.any Desc.misaligned, .cmdAlign),
        (k.format || ds.any Desc.badScale, .cmdFormat),
        (k.mix, .cmdFormatMix), (k.axis, .cmdScaleAxis), (k.shape, .cmdShape) ]).map rejectFin

/-- The rejection of a command that starts now. -/
def State.rejection (s : State) (c : CmdInst) (recs : List RecRead) (k : Checks) : Option Fin := rejectionOf (s.badCommon c) c recs k

/-- The rejection of a command that has started on a core: its common fields were compared with the partition's and the context's entries then (R203). -/
def Exec.rejection (e : Exec) (k : Checks) : Option Fin := rejectionOf e.bad e.cmd e.recs k

/-! Reading elements. -/

/-- The bits and the scale byte of an element, as a command reads them; or the fault it meets (R192, R300), with the address. -/
def State.elem (s : State) (w0 : Who) (d : Desc) (i : Ix) : Except (Code × Nat) (Nat × Option Nat) :=
  let w := { w0 with lscale := d.isLscale }
  let a := d.addr i
  match s.loadFault w a d.width with
  | some f => .error f
  | none =>
    let b := leNat (s.bytes a d.width)
    let e := if d.fmt = .l4 then b / 16 ^ (i.i0 % 2) % 16 else b
    if d.scaled then
      match s.readFault w (d.scaleAddr i) with
      | some f => .error f
      | none => .ok (e, some (s.byte (d.scaleAddr i)).toNat)
    else .ok (e, none)

/-- What reading a run of elements gave: those read, in order, and the fault that ended it. -/
structure Fetched where
  elems : List (Nat × Option Nat) := []
  fault : Option (Code × Nat) := none
  deriving DecidableEq, Repr

/-- Elements read in order, up to the first fault. -/
def State.fetch (s : State) (w : Who) (d : Desc) : List Ix → Fetched
  | [] => {}
  | i :: is =>
    match s.elem w d i with
    | .error f => { fault := some f }
    | .ok e => let r := s.fetch w d is; { r with elems := e :: r.elems }

/-- A read element widened to A32 (R126). -/
def widenElem (f : Fmt) (e : Nat × Option Nat) : A32 := toA32 (readElem f e.1 e.2).1

/-- Elements counted as read (R103). -/
def countReads (f : Fmt) (es : List (Nat × Option Nat)) (c : Ctr) : Ctr := es.foldl (fun k e => k.bump (readElem f e.1 e.2).2) c

/-! Writing elements. -/

/-- An element ready to be written: where, its bits, its scale byte and the counter it is counted in. -/
structure OutElem where
  ix : Ix
  code : Nat
  scale : Option Nat
  kind : Kind
  deriving DecidableEq, Repr

/-- Values converted to the elements of a tensor: unscaled by R87; with a scale or exponent array each block by R89 or R90 from all its values. Stochastic sites take one draw an element (R97). The second component is the generator after it. -/
def encodeElems (d : Desc) (mode : Mode) (xs : List (Ix × A32)) (draw : Gen) : List OutElem × Gen :=
  let ys := xs.zipIdx
  (ys.map fun ((i, x), n) =>
    let u := match mode with | .nearest => 0 | .stochastic => draw.at n
    if d.scaled then
      let b := d.scaleAddr i
      let sc := blockScale d.fmt ((xs.filter fun y => d.scaleAddr y.1 == b).map fun y => a32Val y.2)
      let r := convElem d.fmt (scaleExp d.fmt sc) mode u (a32Val x)
      { ix := i, code := r.1, scale := some sc, kind := r.2 }
    else
      let r := convElem d.fmt 0 mode u (a32Val x)
      { ix := i, code := r.1, scale := none, kind := r.2 },
   match mode with | .nearest => draw | .stochastic => draw.skip xs.length)

/-- Bytes to be written: by address, the value and the mask of the bits written; sorted. -/
abbrev Patch := List (Nat × (Nat × Nat))

/-- A byte, or part of one, put into a patch. -/
def putByte (p : Patch) (a v m : Nat) : Patch :=
  let old := mapGet (fun _ => (0, 0)) p a
  mapPut (fun _ => (0, 0)) p a ((old.1 &&& (255 - m)) ||| (v &&& m), old.2 ||| m)

/-- The bytes that writing elements changes: L4 changes only its own four bits (R49, R50). -/
def patchOf (d : Desc) (es : List OutElem) : Patch :=
  es.foldl (fun p e =>
    let a := d.addr e.ix
    let p1 :=
      if d.fmt = .l4 then (if e.ix.i0 % 2 = 0 then putByte p a (e.code % 16) 15 else putByte p a (e.code % 16 * 16) 240)
      else if d.width = 2 then putByte (putByte p a (e.code % 256) 255) (a + 1) (e.code / 256 % 256) 255
      else putByte p a (e.code % 256) 255
    match e.scale with
    | some c => putByte p1 (d.scaleAddr e.ix) (c % 256) 255
    | none => p1) []

/-- The sectors of a patch, ascending. -/
def patchSectors (p : Patch) : List Nat := p.foldl (fun l e => if l.getLast? = some (e.1 / 32) then l else l ++ [e.1 / 32]) []

/-- Whether a patch writes a whole sector. -/
def patchFull (p : Patch) (k : Nat) : Bool := (p.filter fun e => e.1 / 32 == k && e.2.2 == 255).length == 32

/-- The fault that writing a patch meets, before any byte is written (R189, R898). -/
def State.patchFault (s : State) (w : Who) (p : Patch) : Option (Code × Nat) :=
  (p.findSome? fun e => s.mapFault w true e.1).orElse fun _ =>
    (patchSectors p).findSome? fun k => if s.badSector (32 * k) && !(patchFull p k) then some (.memUncorrectable, 32 * k) else none

/-- One sector of a patch written: the Larder by the hint, the charge, and the bytes. -/
def State.putSector (s : State) (w : Who) (hint : Nat) (p : Patch) (k : Nat) : State :=
  let es := p.filter fun e => e.1 / 32 == k
  let a := 32 * k
  let t := (s.backInvalidate true a 32).passWrite w hint a es.length [a] (fun _ => patchFull p k)
  let u := if patchFull p k then t.healed a 32 else t
  { u with mem := es.foldl (fun m e => memPut m e.1 (BitVec.ofNat 8 (((memGet m e.1).toNat &&& (255 - e.2.2)) ||| e.2.1))) u.mem }

/-- A patch written. -/
def State.putPatch (s : State) (w : Who) (hint : Nat) (p : Patch) : State :=
  (patchSectors p).foldl (fun t k => t.putSector w hint p k) s

/-- The sectors an element and its scale byte lie in. -/
def Desc.sectors (d : Desc) (i : Ix) : List Nat :=
  d.addr i / 32 :: (if d.scaled then [d.scaleAddr i / 32] else [])

/-- Whether a sector's number is new to a list, which is then extended by it. -/
def addNew (l : List Nat) (k : Nat) : List Nat := if l.contains k then l else l ++ [k]

/-- What one fetch of a tensor's elements leaves behind: each sector it reaches passes its Larder once, by the descriptor's hint (R167; log entry 16). -/
def State.touchElems (s : State) (w : Who) (d : Desc) (is : List Ix) : State :=
  ((is.flatMap d.sectors).foldl addNew []).foldl (fun t k => t.touch w d.hint (32 * k) 32) s

/-! A command's run: what it has written and counted so far. -/

/-- The running totals of an executing command (R209) and the fault that stopped it. -/
structure Run where
  st : State
  ctrs : List Ctr := List.replicate 5 {}
  written : Nat := 0
  maxAbs : A32 := 0#32
  tiles : Nat := 0
  stop : Option Fin := none

/-- A run that starts where a command starts. -/
def Run.start (s : State) (e : Exec) : Run := { st := s, ctrs := e.ctrs, written := e.written, maxAbs := e.maxAbs, tiles := e.drained }

/-- The magnitude of a written element as A32; zero for a NaN (R556). -/
def outAbs (f : Fmt) (e : OutElem) : A32 :=
  match (readElem f e.code e.scale).1 with
  | .nan => 0#32
  | .num _ m k => toA32 (.num false m k)

/-- Elements of an operand read and counted in set `set`. -/
def Run.counted (r : Run) (set : Nat) (f : Fmt) (es : List (Nat × Option Nat)) : Run := { r with ctrs := modAt r.ctrs set (countReads f es) }

/-- Elements of an operand fetched: what the fetch leaves behind. -/
def Run.touched (r : Run) (w : Who) (d : Desc) (is : List Ix) : Run := { r with st := r.st.touchElems w d is }

/-- A fault of a command's own, with its failure fields (R209). -/
def Run.stopped (r : Run) (d : Fin) : Run := { r with stop := some d }

/-- The fields of a fault met at an address: FAIL_INFO names the counter set only for a TILE fault (R209). -/
def Run.accessFin (r : Run) (f : Code × Nat) (set : Nat) (at_ : Fin) : Fin :=
  { at_ with status := 2, fault := some f.1, failAddr := r.st.globalAddr f.2, failInfo := if f.1 = .tileSpadOvf then set else at_.failInfo }

/-- A whole patch of results written, or the fault that keeps all of it unwritten (R189), with the FAIL_INFO of a TILE fault; its elements are counted in set 0. -/
def Run.wrotePatch (r : Run) (w : Who) (d : Desc) (p : Patch) (es : List OutElem) (at_ : Fin) (info : Nat) : Run :=
  match r.st.patchFault w p with
  | some f => r.stopped (r.accessFin f info at_)
  | none =>
    { r with
      st := r.st.putPatch w d.hint p
      ctrs := modAt r.ctrs 0 fun c => es.foldl (fun k e => k.bump e.kind) c
      written := r.written + es.length
      maxAbs := es.foldl (fun m e => a32MaxAbs m (outAbs d.fmt e)) r.maxAbs
      tiles := r.tiles + 1 }

/-- A whole tile or group of results written (R189). -/
def Run.wrote (r : Run) (w : Who) (d : Desc) (es : List OutElem) (at_ : Fin) (info : Nat) : Run := r.wrotePatch w d (patchOf d es) es at_ info

/-- How a run ends the command: COMPLETE, or FAULTED with the fields of its fault. -/
def Run.fin (r : Run) : Fin :=
  let d := r.stop.getD {}
  { d with tiles := r.tiles, ctrs := r.ctrs, written := r.written, maxAbs := r.maxAbs }

/-! Groups of 256 elements (R201, R905). -/

/-- The group element j is written with: its own, or that of its block's last element. -/
def groupOf (d : Desc) (j : Nat) : Nat :=
  if d.scaled then (j - j % d.n0 + min d.n0 (j % d.n0 / 32 * 32 + 32) - 1) / 256 else j / 256

/-- The elements written with group g, ascending. -/
def groupElems (d : Desc) (g : Nat) : List Nat :=
  ((List.range (min d.count (256 * g + 256) - 256 * (g - 1))).map (256 * (g - 1) + ·)).filter fun j => groupOf d j == g

/-- The groups of a tensor. -/
def groupCount (d : Desc) : Nat := ceilDiv d.count 256

/-- Groups run in order until one stops the command, or until `upTo` of them are done; then FAIL_INFO names the group that would come next (R201, R205). -/
def runGroups (f : Run → Nat → Run) (upTo : Option Nat) : Run → List Nat → Run
  | r, [] => r
  | r, g :: l =>
    if r.stop.isSome then r
    else if upTo.any (· ≤ g) then r.stopped { failInfo := g }
    else runGroups f upTo (f r g) l

/-- An operand's elements of one group read and counted, each sector passing its Larder by the hint; or the fault that stops the command at this group. DESIGN CHOICE (log entry 13): a group reads what the groups before it have written, where a result overlaps an input. -/
def Run.readGroup (r : Run) (w : Who) (set : Nat) (d : Desc) (is : List Ix) (g : Nat) : Run × List (Nat × Option Nat) :=
  let x := r.st.fetch w d is
  let r1 := r.counted set d.fmt x.elems
  match x.fault with
  | some f => (r1.stopped (r1.accessFin f g { failInfo := g }), [])
  | none => (r1.touched w d is, x.elems)

end Sys2Proof.Machine
end

