-- ==== Sys2Proof/Machine/Matrix.lean ====
section
/-! DEFINITION. The matrix engine (R76 to R86, R109 to R113) and the run of a matrix command over its visits (R171 to R192): MATMUL, and what CONV shares with it. -/
namespace Sys2Proof.Machine

/-! Products. -/

/-- The significand of a 16-bit floating element cut into pieces, high first, with their exponents (R83). -/
def pieces (f : Fmt) (b : Nat) : List Val :=
  match (elemRaw f b).1 with
  | .nan => [.nan]
  | .num sg m k =>
    if f = .bf16 then [.num sg (m / 16 * 16) k, .num sg (m % 16) k]
    else if f = .fp16 then [.num sg (m / 128 * 128) k, .num sg (m / 8 % 16 * 8) k, .num sg (m % 8) k]
    else [.num sg m k]

/-- The passes of a format as (piece of A, piece of B), in the order they are run (R84, R85). -/
def passes : Fmt → List (Nat × Nat)
  | .bf16 => [(0, 0), (0, 1), (1, 0)]
  | .fp16 => [(0, 0), (0, 1), (1, 0), (0, 2), (1, 1), (2, 0)]
  | .l4 | .l8 | .l16 | .e4m3 | .e5m2 | .b16 => [(0, 0)]

/-- An operand element as a matrix engine has it: its bits and its scale code. -/
abbrev Elem := Nat × Option Nat

/-- Whether an element is NaN by itself or by its block's scale (R69, R80). -/
def elemNan (f : Fmt) (e : Elem) : Bool := (elemRaw f e.1).1.isNan || e.2 == some 255

/-- The exact values a product adds to an element, in order: one for each pass (R80 to R86). A logarithmic product other than L4's enters as its correctly rounded A32 value (R82). -/
def products (f : Fmt) (a b : Elem) : List Val :=
  let x := (elemRaw f a.1).1
  let y := (elemRaw f b.1).1
  if elemNan f a || elemNan f b then [.nan]
  else if x.isZero || y.isZero then [.num (x.isNeg != y.isNeg) 0 0]
  else
    match f with
    | .l4 => [x.mul y]
    | .l8 | .l16 => [widen (x.mul y)]
    | .e4m3 | .e5m2 | .bf16 | .fp16 | .b16 => (passes f).map fun p => (nth (pieces f a.1) p.1 .nan).mul (nth (pieces f b.1) p.2 .nan)

/-- Exact values added one after another into an accumulator element (R75, R86, R97). The second component is the generator after them. -/
def accumulate (mode : Mode) (acc : A32 × Gen) (xs : List Val) : A32 × Gen :=
  xs.foldl (fun r x =>
    match mode with
    | .nearest => (a32Round .nearest 0 ((a32Val r.1).add x), r.2)
    | .stochastic => (a32Round .stochastic (r.2.at 0) ((a32Val r.1).add x), r.2.skip 1)) acc

/-- The values an L4 engine adds: the products of each two K values summed exactly (R112). DESIGN CHOICE (log entry 65): the manual does not say which K values share a step where a K tile holds an odd number of them; a MATMUL visit pairs across its K tiles, a CONV within each. -/
def pairUp : List Val → List Val
  | x :: y :: l => x.add y :: pairUp l
  | l => l

/-- An operand element with its block: the address of its block's scale byte; none where it has no block (R79). -/
abbrev Cell := Elem × Option Nat

/-- The values a run of K values adds to an element (R111, R112). -/
def runValues (f : Fmt) (ps : List (Cell × Cell)) : List Val :=
  let vs := ps.flatMap fun p => products f p.1.1 p.2.1
  if f = .l4 then pairUp vs else vs

/-- The scale code an engine takes for an element: 127 where there is none (R70). -/
def scaleOr (o : Option Nat) : Nat := o.getD 127

/-- The first K values of a run that share their pair of blocks, and the rest (R79). -/
def splitShared (ps : List (Cell × Cell)) : List (Cell × Cell) × List (Cell × Cell) :=
  match ps with
  | [] => ([], [])
  | p :: _ => ps.span fun q => q.1.2 == p.1.2 && q.2.2 == p.2.2

/-- A group of up to 32 products added: their sum in A32, times `2^(sa + sb - 254)`, then into the element (R79, R113); `fuel` bounds the runs that share a pair of blocks. -/
def addGroup (f : Fmt) (mode : Mode) : Nat → A32 × Gen → List (Cell × Cell) → A32 × Gen
  | 0, acc, _ => acc
  | fuel + 1, acc, ps =>
    match ps with
    | [] => acc
    | p :: _ =>
      let (g, rest) := splitShared ps
      let t := accumulate mode (a32Zero, acc.2) (runValues f g)
      let v := a32Scale ((scaleOr p.1.1.2 + scaleOr p.2.1.2 : Nat) - 254 : Int) t.1
      addGroup f mode fuel (accumulate mode (acc.1, t.2) [a32Val v]) rest

/-- A list cut into runs of 32. -/
def chunks32 {α : Type} : Nat → List α → List (List α)
  | 0, _ => []
  | n + 1, l => if l.isEmpty then [] else l.take 32 :: chunks32 n (l.drop 32)

/-- One run of K values added to one element: plainly, or in groups where an operand carries a block scale (R113). -/
def macRun (f : Fmt) (scaled : Bool) (mode : Mode) (acc : A32 × Gen) (ps : List (Cell × Cell)) : A32 × Gen :=
  if scaled then (chunks32 ps.length ps).foldl (fun a g => addGroup f mode 32 a g) acc
  else accumulate mode acc (runValues f ps)

/-! Tiles and visits. -/

/-- A K tile: the number that FAIL_K shows, its K values, and whether it is skipped (R235). -/
structure KTile where
  id : Nat
  ks : List Nat
  skip : Bool := false
  deriving DecidableEq, Repr

/-- A visit of an output tile (R177): the K tiles it covers, whether it opens the tile and whether it closes it (R185). -/
structure Visit where
  tile : Tile
  kts : List KTile
  opens : Bool
  closes : Bool
  deriving DecidableEq, Repr

/-- A matrix command ready to run: its visits in loop order, where each operand element lies (`none`: a padded position), the epilogue, and the counter sets. -/
structure Gemm where
  visits : List Visit
  a : Desc
  b : Desc
  c : Desc
  d : Option Desc
  aIx : Tile → Nat → Nat → Option Ix
  bIx : Tile → Nat → Nat → Option Ix
  cIx : Tile → Nat → Nat → Ix
  dIx : Tile → Nat → Nat → Ix
  padA : Nat := 0
  join : Bool
  accIn : Bool
  alpha : A32
  act : Nat
  setA : Nat := 1
  setB : Nat := 2
  setOld : Nat := 3
  setD : Nat := 4
  limit : Nat
  mode : Mode
  board : Tile → Option Nat := fun _ => none
  /-- The weights a K tile of an output tile takes, where a row of output tiles shares them (R224). -/
  share : Tile → Nat → Option (Nat × Nat × Nat × Nat) := fun _ _ => none

/-- Elements fetched with padded positions filled in; those really read are listed apart. -/
structure Grid where
  elems : List Elem := []
  reads : List Elem := []
  fault : Option (Code × Nat) := none

/-- A grid of operand positions fetched in order, up to the first fault (R182, R221). -/
def State.fetchGrid (s : State) (w : Who) (d : Desc) (pad : Nat) : List (Option Ix) → Grid
  | [] => {}
  | none :: is => let r := s.fetchGrid w d pad is; { r with elems := (pad, none) :: r.elems }
  | some i :: is =>
    match s.elem w d i with
    | .error f => { fault := some f }
    | .ok e => let r := s.fetchGrid w d pad is; { r with elems := e :: r.elems, reads := e :: r.reads }

/-- The run of a matrix command: its totals, the engines' memory of its core, how many tiles have closed and how many visits are made. -/
structure GemmRun where
  run : Run
  mx : MatUnit
  closed : Nat
  made : Nat

/-- The failure fields of a tile. -/
def tileFin (t : Tile) (k : Nat) : Fin := { status := 2, failB := t.b, failM := t.m, failN := t.n, failK := k }

/-- A TILE fault at a tile. -/
def tileFault (t : Tile) (k set : Nat) (c : Code) : Fin := { tileFin t k with fault := some c, failInfo := set }

/-- The positions of an operand for a K tile: row by row. -/
def gridOf (ix : Tile → Nat → Nat → Option Ix) (t : Tile) (rows : Nat) (ks : List Nat) : List (Option Ix) :=
  (List.range rows).flatMap fun r => ks.map (ix t r)

/-- The rows of a grid. -/
def rowsOf {α : Type} (n : Nat) : Nat → List α → List (List α)
  | 0, _ => []
  | r + 1, l => l.take n :: rowsOf n r (l.drop n)

/-- The block of an operand position (R79). -/
def Desc.blockKey (d : Desc) (o : Option Ix) : Option Nat := if d.scaled then o.map d.scaleAddr else none

/-- The positions a fetch reached: those before the element it failed at, and that one. -/
def reached (g : Grid) (ixs : List (Option Ix)) : List Ix := ((ixs.take (g.elems.length + if g.fault.isSome then 1 else 0)).filterMap id)

/-- One operand of a K tile range-checked (R191), fetched and counted, each sector reached passing its Larder once by the hint (R167; log entry 16); or the fault. -/
def fetchOperand (w : Who) (r : Run) (d : Desc) (set pad : Nat) (t : Tile) (k : Nat) (ixs : List (Option Ix)) : Run × List Cell :=
  if ixs.any fun o => match o with | some i => !d.inside i | none => false then (r.stopped (tileFault t k set .tileDescRange), [])
  else
    let g := r.st.fetchGrid w d pad ixs
    let r1 := (r.counted set d.fmt g.reads).touched w d ((reached g ixs).filter fun i => (d.sectors i).all fun q => (r.st.mapFault w false (32 * q)).isNone)
    match g.fault with
    | some f => (r1.stopped (r1.accessFin f set (tileFin t k)), [])
    | none => (r1, List.zip g.elems (ixs.map d.blockKey))

/-- The weights of a K tile: those the operand buffer holds for this row of output tiles (R224), or fetched, and held where the row shares them. -/
def fetchWeights (g : Gemm) (w : Who) (t : Tile) (k : KTile) (r : Run) (m : MatUnit) : Run × MatUnit × List Cell :=
  let key := g.share t k.id
  match m.held.find? fun h => some h.key == key with
  | some h => (r, m, h.elems)
  | none =>
    let (r1, es) := fetchOperand w r g.b g.setB 0 t k.id (gridOf g.bIx t t.nv k.ks)
    match key with
    | some q => (r1, { m with held := { key := q, elems := es } :: m.held.filter fun h => h.key.1 == q.1 && h.key.2.1 == q.2.1 && h.key.2.2.1 == q.2.2.1 }, es)
    | none => (r1, m, es)

/-- The operand rows a visit fetches, K tile by K tile: for each K tile the rows of A and of B. -/
def fetchVisit (g : Gemm) (w : Who) (v : Visit) : Run × MatUnit → List KTile → Run × MatUnit × List (List (List Cell) × List (List Cell))
  | r, [] => (r.1, r.2, [])
  | r, k :: ks =>
    if k.skip then fetchVisit g w v r ks
    else
      let (r1, ea) := fetchOperand w r.1 g.a g.setA g.padA v.tile k.id (gridOf g.aIx v.tile v.tile.mv k.ks)
      if r1.stop.isSome then (r1, r.2, [])
      else
        let (r2, m, eb) := fetchWeights g w v.tile k r1 r.2
        if r2.stop.isSome then (r2, m, [])
        else
          let (r3, m3, rest) := fetchVisit g w v (r2, m) ks
          (r3, m3, (rowsOf k.ks.length v.tile.mv ea, rowsOf k.ks.length v.tile.nv eb) :: rest)

/-- The accumulators of a tile after the operands of a visit: row by row, column by column, K tile by K tile. -/
def macTile (g : Gemm) (t : Tile) (accs : List A32) (ops : List (List (List Cell) × List (List Cell))) (draw : Gen) : List A32 × Gen :=
  let scaled := g.a.scaled || g.b.scaled
  let one : A32 → Nat → Nat → Gen → A32 × Gen := fun acc r c dr =>
    let runs := ops.map fun o => List.zip (nth o.1 r []) (nth o.2 c [])
    let runs' := if g.join && !scaled then [runs.flatten] else runs
    runs'.foldl (fun a ps => macRun g.a.fmt scaled g.mode a ps) (acc, dr)
  ((List.range (t.mv * t.nv)).foldl (fun (x : List A32 × Gen) j =>
    let y := one (nth accs j a32Zero) (j / t.nv) (j % t.nv) x.2
    (y.1 :: x.1, y.2)) ([], draw)) |> fun x => (x.1.reverse, x.2)

/-- An epilogue operand read for a whole tile, in order. -/
def fetchTile (r : Run) (w : Who) (d : Desc) (set : Nat) (t : Tile) (k : Nat) (ixs : List Ix) : Run × List Elem :=
  let x := fetchOperand w r d set 0 t k (ixs.map some)
  (x.1, x.2.map Prod.fst)

/-- A tile drained (R178, R184, R189): the previous result and D are read whole, every element is formed, and the tile is written. DESIGN CHOICE (log entry 66): an element of D that serves a whole row or column is read, and counted, once for each result element it serves. -/
def drainTile (g : Gemm) (w : Who) (r : Run) (t : Tile) (k : Nat) (accs : List A32) : Run :=
  let pos := (List.range (t.mv * t.nv)).map fun j => (j / t.nv, j % t.nv)
  let cs := pos.map fun p => g.cIx t p.1 p.2
  let (r1, old) := if g.accIn then fetchTile r w g.c g.setOld t k cs else (r, [])
  if r1.stop.isSome then r1
  else
    let (r2, ds) := match g.d with
      | some d => fetchTile r1 w d g.setD t k (pos.map fun (p : Nat × Nat) => g.dIx t p.1 p.2)
      | none => (r1, [])
    if r2.stop.isSome then r2
    else
      let res := cs.zipIdx.map fun (i, j) =>
        let x0 := a32Mul g.alpha (nth accs j a32Zero)
        let x1 := if g.accIn then a32Add .nearest 0 x0 (widenElem g.c.fmt (nth old j (0, none))) else x0
        let x2 := match g.d with
          | some d => a32Add .nearest 0 x1 (widenElem d.fmt (nth ds j (0, none)))
          | none => x1
        (i, (activation g.act x2).getD x2)
      r2.wrote w g.c (encodeElems g.c .nearest res {}).1 (tileFin t k) 0

/-- A row-board bit set when the tile that completes its row has been written (R246). -/
def setBoard (p : Nat) (o : Option Nat) (s : State) : State :=
  match o with
  | some b => s.updPart p fun x => { x with rows := if x.rows.contains b then x.rows else x.rows.filter (· < b) ++ [b] ++ x.rows.filter (b < ·) }
  | none => s

/-! Accumulator memory (R115, R121). -/

/-- The slot allocated to a tile. -/
def MatUnit.slotOf (m : MatUnit) (t : Tile) : Option AccSlot := m.slots.find? fun a => a.tile == t

/-- The lowest free slot (R121). -/
def MatUnit.freeSlot (m : MatUnit) : Nat := ((List.range 96).find? fun i => m.slots.all fun a => a.slot != i).getD 96

/-- A tile opened: a slot of zeros allocated, and the tile given to the next matrix engine in turn (R115, R117, R121). -/
def MatUnit.openTile (m : MatUnit) (t : Tile) : MatUnit :=
  { m with slots := { slot := m.freeSlot, tile := t, engine := m.opened % 4, elems := List.replicate (t.mv * t.nv) a32Zero } :: m.slots, opened := m.opened + 1
           accWeak := m.accWeak.filter (· != m.freeSlot), accBad := m.accBad.filter (· != m.freeSlot) }

/-- The end of a visit: the engine's array holds the tile and has written it back to its slot (R115). -/
def MatUnit.writeBack (m : MatUnit) (a : AccSlot) (elems : List A32) : MatUnit :=
  { m with arrays := modAt m.arrays a.engine fun _ => elems, slots := m.slots.map fun x => if x.slot = a.slot then { x with elems := elems } else x
           accWeak := m.accWeak.filter (· != a.slot), accBad := m.accBad.filter (· != a.slot) }

/-- A tile drained: its slot is free again (R121). -/
def MatUnit.free (m : MatUnit) (t : Tile) : MatUnit := { m with slots := m.slots.filter fun a => a.tile != t }

/-- A slot loaded by its engine: a word its check code corrects is counted (R833). -/
def State.loadAcc (s : State) (m : MatUnit) (a : AccSlot) : State := if m.accWeak.contains a.slot then s.odInc 0x8010 6 else s

/-- One visit (R115, R185 to R191, R833): the tile opens, its engine loads it and adds the operands it fetches, and writes it back; a tile that closes is drained. DESIGN CHOICE (log entry 15): where both arise at a tile's opening, TILE.ACC_OVF comes before TILE.DESC_RANGE. -/
def visitOne (g : Gemm) (w : Who) (x : GemmRun) (v : Visit) : GemmRun :=
  let k0 := (v.kts.head?.map KTile.id).getD 0
  if v.opens && decide (g.limit ≤ x.mx.slots.length) then { x with run := x.run.stopped (tileFault v.tile k0 0 .tileAccOvf) }
  else if v.opens && !(g.c.inside (g.cIx v.tile (v.tile.mv - 1) (v.tile.nv - 1))) then { x with run := x.run.stopped (tileFault v.tile k0 0 .tileDescRange) }
  else
    let m0 := if v.opens then x.mx.openTile v.tile else x.mx
    let slot := (m0.slotOf v.tile).getD { slot := 0, tile := v.tile, engine := 0, elems := [] }
    let r0 := if m0.accBad.contains slot.slot then x.run.stopped { tileFin v.tile k0 with fault := some .memUncorrectable } else { x.run with st := x.run.st.loadAcc m0 slot }
    if r0.stop.isSome then { x with run := r0, mx := m0 } else
    let (r1, m1, ops) := fetchVisit g w v (r0, m0) v.kts
    if r1.stop.isSome then { x with run := r1, mx := m1 }
    else
      let y := macTile g v.tile slot.elems ops (r1.st.gen (matUnit (w.core.getD 0) slot.engine))
      let m2 := m1.writeBack slot y.1
      let r2 := { r1 with st := r1.st.drew y.2 }
      if v.closes then
        let r3 := drainTile g w r2 v.tile ((v.kts.getLast?.map KTile.id).getD 0) y.1
        if r3.stop.isSome then { x with run := r3, mx := m2 }
        else { run := { r3 with st := setBoard (w.part.getD 0) (g.board v.tile) r3.st }, mx := m2.free v.tile, closed := x.closed + 1, made := x.made + 1 }
      else { x with run := r2, mx := m2, made := x.made + 1 }

/-- The visits of a command in loop order, up to a fault or until `upTo` tiles have closed; then the failure fields name the tile that would come next (R205). -/
def runVisits (g : Gemm) (w : Who) (upTo : Option Nat) : GemmRun → List Visit → GemmRun
  | x, [] => x
  | x, v :: vs =>
    if x.run.stop.isSome then x
    else if upTo.any (· ≤ x.closed) then { x with run := x.run.stopped { tileFin v.tile ((v.kts.head?.map KTile.id).getD 0) with status := 0 } }
    else runVisits g w upTo (visitOne g w x v) vs

/-- A matrix command run on a state from the visit it has reached; its core's engines keep their tiles and slots. -/
def Gemm.go (g : Gemm) (s : State) (w : Who) (e : Exec) (upTo : Option Nat) : GemmRun :=
  let n := w.core.getD 0
  let x := runVisits g w upTo { run := Run.start s e, mx := (s.core n).mx, closed := e.drained, made := e.made } (g.visits.drop e.made)
  { x with run := { x.run with st := x.run.st.updCore n fun k => { k with mx := x.mx } } }

/-! MATMUL. -/

/-- One past the value of a field that holds a number minus 1. -/
def plus1 (c : CmdInst) (w hi lo : Nat) : Nat := fld c.words w hi lo + 1

/-- The tile loop of a product (R176, R177): (mt, nt, first K tile, one past the last) in loop order. -/
def loopOrder (loop mt nt kt : Nat) : List (Nat × Nat × Nat × Nat) :=
  let M := List.range mt
  let N := List.range nt
  let K := List.range kt
  match loop with
  | 0 => M.flatMap fun m => N.map fun n => (m, n, 0, kt)
  | 1 => N.flatMap fun n => M.map fun m => (m, n, 0, kt)
  | 2 => M.flatMap fun m => K.flatMap fun k => N.map fun n => (m, n, k, k + 1)
  | 3 => N.flatMap fun n => K.flatMap fun k => M.map fun m => (m, n, k, k + 1)
  | 4 => K.flatMap fun k => M.flatMap fun m => N.map fun n => (m, n, k, k + 1)
  | _ => K.flatMap fun k => N.flatMap fun n => M.map fun m => (m, n, k, k + 1)

/-- Extents of a MATMUL (R173): tiles and last tile along M, N and K. -/
structure MatDims where
  tm : Nat
  tn : Nat
  tk : Nat
  mt : Nat
  nt : Nat
  kt : Nat
  ml : Nat
  nl : Nat
  kl : Nat
  batch : Nat

/-- The extents of a MATMUL command (R171). -/
def matDims (c : CmdInst) : MatDims :=
  { tm := plus1 c 4 5 0, tn := plus1 c 4 11 6, tk := plus1 c 4 17 12, mt := plus1 c 3 31 16, nt := plus1 c 3 47 32, kt := plus1 c 3 63 48
    ml := plus1 c 4 23 18, nl := plus1 c 4 29 24, kl := plus1 c 4 35 30, batch := plus1 c 5 47 32 }

/-- The visits of a MATMUL in loop order, the batch loop outermost (R174 to R177). -/
def matVisits (d : MatDims) (loop : Nat) : List Visit :=
  (List.range d.batch).flatMap fun b =>
    (loopOrder loop d.mt d.nt d.kt).map fun (m, n, k0, k1) =>
      { tile := { b := b, m := m, n := n, mv := if m + 1 = d.mt then d.ml else d.tm, nv := if n + 1 = d.nt then d.nl else d.tn }
        kts := (List.range (k1 - k0)).map fun i =>
          let k := k0 + i
          { id := k, ks := (List.range (if k + 1 = d.kt then d.kl else d.tk)).map (k * d.tk + ·) }
        opens := k0 == 0, closes := k1 == d.kt }

/-- How a command with this reduction length rounds, by the threshold in force when it started (R97, R100, R101). -/
def Exec.sumMode (e : Exec) (len : Nat) : Mode := if e.sumLimit < len then .stochastic else .nearest

/-- A descriptor with no elements of use, for a missing one. -/
def noDesc : Desc := descOf []

/-- The i-th descriptor a command read. -/
def descAt (e : Exec) (i : Nat) : Desc := ((e.recs[i]?).bind RecRead.desc).getD noDesc

/-- A MATMUL command as visits (R171 to R180). -/
def matGemm (c : CmdInst) (e : Exec) : Gemm :=
  let d := matDims c
  let ta := fld c.words 4 39 39 == 1
  let tb := fld c.words 4 40 40 == 1
  let epi := fld c.words 4 43 42
  { visits := matVisits d (fld c.words 4 38 36)
    a := descAt e 0, b := descAt e 1, c := descAt e 2, d := if epi = 0 then none else some (descAt e 3)
    aIx := fun t r k => let m := t.m * d.tm + r; some (if ta then { i0 := m, i1 := k, i2 := t.b } else { i0 := k, i1 := m, i2 := t.b })
    bIx := fun t r k => let n := t.n * d.tn + r; some (if tb then { i0 := n, i1 := k, i2 := t.b } else { i0 := k, i1 := n, i2 := t.b })
    cIx := fun t r q => { i0 := t.n * d.tn + q, i1 := t.m * d.tm + r, i2 := t.b }
    dIx := fun t r q => if epi = 1 then { i0 := t.n * d.tn + q } else if epi = 2 then { i0 := t.m * d.tm + r } else { i0 := t.n * d.tn + q, i1 := t.m * d.tm + r, i2 := t.b }
    join := true, accIn := fld c.words 4 41 41 == 1, alpha := BitVec.ofNat 32 (fld c.words 5 31 0), act := c.sub
    limit := e.accLimit, mode := e.sumMode ((d.kt - 1) * d.tk + d.kl) }

/-- The checks of a MATMUL (R173 to R180, R76 to R78). -/
def matChecks (c : CmdInst) (e : Exec) : Checks :=
  let d := matDims c
  let a := descAt e 0
  let b := descAt e 1
  let r := descAt e 2
  let epi := fld c.words 4 43 42
  { reserved := fld c.words 3 15 0 != 0 || fld c.words 4 63 44 != 0 || fld c.words 5 63 48 != 0 || fld c.words 6 63 0 != 0 || fld c.words 7 63 0 != 0
    field := decide (5 < fld c.words 4 38 36) || decide (6 < c.sub) || decide (d.tm < d.ml) || decide (d.tn < d.nl) || decide (d.tk < d.kl)
      || ((a.scaled || b.scaled) && d.tk != 32 && d.tk != 64) || (r.scaled && d.tn != 32 && d.tn != 64)
      || (epi == 0 && fld c.words 2 63 48 != 0xFFFF)
    format := a.fmt == .b16 || b.fmt == .b16
    mix := a.fmt != b.fmt
    axis := (a.scaled && fld c.words 4 39 39 == 1) || (b.scaled && fld c.words 4 40 40 == 1) }

end Sys2Proof.Machine
end

