-- ==== Sys2Proof/Machine/Product.lean ====
section
/-! DEFINITION. Commands of a core: the frame they share, NOP, MATMUL and TILE_DRAIN. -/
namespace Sys2Proof.Machine

/-- The executing command of a core when it is the row's. -/
def State.execOf (s : State) (n : Nat) (mine : CmdInst → Bool) : Option Exec := ((s.core n).exec).filter fun e => mine e.cmd

/-- A core's command run to its end: rejected by its checks (R162, R163), else its effect and its completion record. -/
def State.runCore (s : State) (n : Nat) (mine : CmdInst → Bool) (checks : CmdInst → Exec → Checks) (body : State → Nat → Exec → Run) : State :=
  match s.execOf n mine with
  | none => s
  | some e =>
    match e.rejection (checks e.cmd e) with
    | some d => s.endCore n e d
    | none => let r := body s n e; r.st.endCore n e r.fin

/-- The accesses of a core's command. -/
def State.whoExec (s : State) (n : Nat) (e : Exec) : Who := s.whoCtx e.cmd.ctx (some n)

/-- NOP: words 2 to 7 are reserved (R158). -/
def nopChecks (c : CmdInst) (_ : Exec) : Checks := { reserved := [2, 3, 4, 5, 6, 7].any fun i => fld c.words i 63 0 != 0 }

/-- NOP (R158). -/
def execNop (n : Nat) (s : State) : Host.Outcome State Fault Refusal :=
  .next (s.runCore n (fun c => c.op == 0x00) nopChecks fun t _ e => Run.start t e)

/-- The run of a MATMUL, whole or until so many tiles have closed. -/
def matRun (upTo : Option Nat) (s : State) (n : Nat) (e : Exec) : Run := ((matGemm e.cmd e).go s (s.whoExec n e) e upTo).run

/-- MATMUL (R171, R178). -/
def execMatmul (n : Nat) (s : State) : Host.Outcome State Fault Refusal :=
  .next (s.runCore n (fun c => c.op == 0x01) matChecks (matRun none))

end Sys2Proof.Machine
end

