-- ==== Sys2Proof/Machine/Sched.lean ====
section
/-! DEFINITION. Which command a core runs next (R626 to R629), the start of a command with the descriptors it reads then (R161), and the swapping of contexts (R631, R632). -/
namespace Sys2Proof.Machine

/-- VOP inputs an operation uses (R197): 1 X; 2 X and Y; 3 X, Y and Z; none for a SUBOP that is not listed. -/
def vopInputs (sub : Nat) : Option Nat :=
  if sub = 0x04 || sub = 0x13 || sub = 0x14 then some 3
  else if sub = 0x00 || sub = 0x07 || sub = 0x08 then some 1
  else if sub ≤ 0x12 then (if sub = 0x01 || sub = 0x02 || sub = 0x03 || sub = 0x05 || sub = 0x06 || sub = 0x09 || 0x10 ≤ sub then some 2 else none)
  else if sub = 0x20 then some 2
  else if 0x21 ≤ sub && sub ≤ 0x27 then some 1
  else if 0x30 ≤ sub && sub ≤ 0x34 then some 1
  else none

/-- A descriptor index that names a tensor, as a list. -/
def named (i : Nat) : List Nat := if i = 0xFFFF then [] else [i]

/-- The descriptor indexes a command reads when it starts on a core (R161, R902), in the order of their fields; an input the operation does not use is never read (R197). -/
def descIndexes (c : CmdInst) : List Nat :=
  let f := fun k => fld c.words 2 (16 * k + 15) (16 * k)
  match c.op with
  | 0x01 => [f 0, f 1, f 2] ++ (if fld c.words 4 43 42 = 0 then [] else [f 3])
  | 0x02 => [f 0, f 1, f 2] ++ (if fld c.words 4 5 5 = 1 then [] else named (f 3))
  | 0x03 => [f 0, f 1, f 2] ++ named (f 3)
  | 0x04 => [f 0, f 2]
  | 0x10 =>
    match vopInputs c.sub with
    | some 3 => named (f 0) ++ named (f 1) ++ named (f 2) ++ [f 3]
    | some 2 => named (f 0) ++ named (f 1) ++ [f 3]
    | _ => named (f 0) ++ [f 3]
  | 0x11 => [f 0, f 3]
  | 0x20 => [f 0, f 1]
  | 0x30 => if c.sub = 4 then [fld c.words 5 15 0] else []
  | _ => []

/-- A core's command started: its descriptors are read (R161), the limits of its partition are those in force now (R100, R122, R203), the core runs, and the time limit counts from now (R204); all accumulator slots are free (R125). -/
def State.startOn (s : State) (n : Nat) (c : CmdInst) : State :=
  let w := s.whoCtx c.ctx (some n)
  let recs := (descIndexes c).map fun i => s.readDesc w c.ctx i
  let s1 := s.touchDescs w c.ctx (descIndexes c)
  let s2 := s1.updCore n fun k => { k with exec := some { cmd := c, start := s.now, limit := s.limitOf c, sumLimit := s.odN (0x2F00 + s.ctxPart c.ctx) 1, accLimit := s.odN (0x2F00 + s.ctxPart c.ctx) 2, bad := s.badCommon c, recs := recs }, mx := { k.mx with slots := [], opened := 0, held := [] }, last := c.ctx, st := .running, switching := false }
  (s2.updCtx c.ctx fun x => { x with lastCurrent := s.now }).noteFlying.refresh c.ctx

/-- Whether a context has a command queued for a core (R626, R629). -/
def State.queuedFor (s : State) (cc n : Nat) : Bool :=
  (s.core n).window.any (fun c => c.ctx == cc)
    || ((s.ctx cc).resident && condLive (s.ctx cc).cond && (s.queuedTargets cc).contains n)

/-- The candidates of a core, ascending (R626). -/
def State.candidates (s : State) (n : Nat) : List Nat :=
  let cs := (List.range 256).filter fun cc => s.partOfCtx cc == s.partOfCore n && s.queuedFor cc n
  let top := cs.foldl (fun m cc => max m (s.prio cc)) 0
  cs.filter fun cc => s.prio cc == top

/-- Length of a context's slice in ns (R627). -/
def State.sliceLen (s : State) (cc : Nat) : Nat :=
  let v := s.odN (0x2200 + cc) 5
  1000 * (if v = 0 then s.odN (0x2000 + s.ctxPart cc) 4 else v)

/-- The context a core chooses (R626). -/
def State.choose (s : State) (n : Nat) : Option Nat :=
  let cs := s.candidates n
  let cur := (s.core n).cur
  if cs.contains cur && s.now < (s.core n).sliceStart + s.sliceLen cur then some cur
  else (cs.find? (cur < ·)).orElse fun _ => cs.head?

/-- A core made to run a context: a switch discards the outgoing context's decoded commands (R628), and the slice starts (R627). -/
def State.makeCurrent (s : State) (n cc : Nat) : State :=
  let k := s.core n
  if k.cur = cc then
    if k.sliceStart + s.sliceLen cc ≤ s.now then s.updCore n fun x => { x with sliceStart := s.now } else s
  else
    let s1 := (s.discardWindow n).updCtx k.cur fun x => { x with lastCurrent := s.now }
    s1.updCore n fun x => { x with cur := cc, sliceStart := s.now, switching := true }

/-- The first command of a context that a core can start: the oldest decoded one, else one read and in order for it. -/
def State.startable (s : State) (n cc : Nat) : Option CmdInst :=
  ((s.core n).window.find? fun c => c.ctx == cc).orElse fun _ =>
    if (s.ctx cc).resident && condLive (s.ctx cc).cond then (s.ctx cc).fetched.find? fun c => c.target == n && s.inOrder c && s.canAccept c else none

/-- Whether a core can start a command: it belongs to an ACTIVE partition, executes nothing and is neither in a slice nor fenced. -/
def State.coreFree (s : State) (n : Nat) : Bool :=
  s.ready && (s.core n).exec.isNone && (s.core n).st != .selfTest && (s.core n).st != .unavailable && (s.island (n / 12)).sampled
    && (match s.partOfCore n with | some p => (s.part p).st == .active | none => false)

/-- CORE_SCHEDULE: the core chooses a context, switches to it when it is not the current one, and starts its first command. -/
def State.schedule (s : State) (n : Nat) : State :=
  match s.choose n with
  | none => s
  | some cc =>
    let s1 := s.makeCurrent n cc
    match s1.startable n cc with
    | none => s1
    | some c =>
      let s2 := if (s1.core n).window.contains c then s1 else s1.accept c
      let s3 := s2.updCore n fun k => { k with window := k.window.erase c }
      s3.startOn n c

/-! Swapping. -/

/-- Whether an executing command is of a kind R622 lists and still waits. -/
def waitingExec (e : Exec) : Bool := e.waiting && (e.cmd.op == 0x30 || e.cmd.op == 0x31 || e.cmd.op == 0x32)

/-- A core without its withdrawn commands. -/
def withdrawCore (now : Nat) (gone : Exec → Bool) (mine : CmdInst → Bool) (k : Core) : Core :=
  let ex := k.exec.filter fun e => !gone e
  { k with window := k.window.filter (fun c => !mine c), exec := ex, lastExec := if k.exec.isSome && ex.isNone then now else k.lastExec, st := if k.exec.isSome && ex.isNone then .idle else k.st }

/-- The barrier groups that record the arrivals of BARRIERs which are withdrawn (R631). -/
def State.noteWithdrawn (s : State) (es : List Exec) : State :=
  s.withColl fun x => { x with barriers := x.barriers.map fun g => if es.any fun e => g.localIn == some (e.cmd.ctx, e.cmd.slot) then { g with withdrawn := true } else g }

/-- The barrier groups of a context whose queued commands are passed over or forgotten: their withdrawn BARRIERs will not be read again (R631, R635). -/
def State.forgetWithdrawn (s : State) (cc : Nat) : State :=
  s.withColl fun x => { x with barriers := x.barriers.map fun g => if (g.localIn.map Prod.fst) == some cc then { g with withdrawn := false } else g }

/-- The commands of a context withdrawn (R631, R632): those not started, and the waiting ones; they are read again from their slots. -/
def State.withdraw (s : State) (cc : Nat) : State :=
  let mine : CmdInst → Bool := fun c => c.ctx == cc
  let gone : Exec → Bool := fun e => mine e.cmd && waitingExec e
  let idleHub : Exec → Bool := fun e => mine e.cmd && (e.phase == 0 || e.cmd.isBarrier)
  let back :=
    (s.ctx cc).fetched
      ++ s.cores.flatMap (fun k => k.window.filter mine ++ (k.exec.toList.filter gone).map Exec.cmd)
      ++ (s.hub.filter idleHub).map Exec.cmd
      ++ s.upd.flatMap (fun e => e.queue.filter mine)
      ++ s.coll.queue.filter mine
      ++ (s.coll.runs.filter fun r => mine r.exec.cmd && !r.ready).map (fun r => r.exec.cmd)
      ++ (s.media.queue.filter fun e => mine e.cmd && e.phase == 0).map Exec.cmd
  let s1 := { s with
    takers := s.takers.filter fun t => match t.2.1 with
      | .core n => match (s.core n).exec with | some e => !(gone e) | none => true
      | .reduction c => c != cc
      | .hub _ => true
      | .update _ => true
      | .media _ => true
    cores := s.cores.map (withdrawCore s.now gone mine)
    hub := s.hub.filter (fun e => !idleHub e)
    upd := s.upd.map (fun (e : UpdEngine) => { e with queue := e.queue.filter fun c => !mine c })
    coll := { s.coll with queue := s.coll.queue.filter (fun c => !mine c), runs := s.coll.runs.filter fun r => !(mine r.exec.cmd && !r.ready) }
    media := { s.media with queue := s.media.queue.filter fun e => !(mine e.cmd && e.phase == 0) } }
  ((s1.noteWithdrawn (s.hub.filter fun e => mine e.cmd && e.cmd.isBarrier && e.phase == 2)).updCtx cc fun x => { x with fetched := [] }).putBack back

/-- The context with the least value of a measure, the lowest number first. -/
def leastBy (f : Nat → Nat) : List Nat → Option Nat
  | [] => none
  | c :: cs => match leastBy f cs with
    | none => some c
    | some d => if f d < f c then some d else some c

/-- The resident contexts of a partition. -/
def State.residents (s : State) (p : Nat) : List Nat := (List.range 256).filter fun cc => s.partOfCtx cc == some p && (s.ctx cc).resident

/-- When a context was last current on a core; now for one that is (R632). -/
def State.currentAt (s : State) (cc : Nat) : Nat :=
  if s.cores.any fun k => k.cur == cc && (k.exec.isSome || !k.window.isEmpty) then s.now else (s.ctx cc).lastCurrent

/-- The context to swap out for an incoming one (R632). -/
def State.swapVictim (s : State) (p incoming : Nat) : Option Nat :=
  let rs := s.residents p
  let since := fun cc => (s.ctx cc).since
  let low := rs.filter fun cc => s.prio cc < s.prio incoming
  let least := (leastBy s.prio low).map s.prio
  (leastBy since (rs.filter fun cc => (s.ctx cc).cond == .idle)).orElse fun _ =>
  (leastBy since (rs.filter fun cc => (s.ctx cc).cond == .halted)).orElse fun _ =>
  (leastBy s.currentAt (low.filter fun cc => some (s.prio cc) == least)).orElse fun _ =>
    if rs.all fun cc => (s.ctx cc).cond == .blocked then leastBy (fun cc => (s.ctx cc).blockedAt) rs else none

/-- The swapped context to bring in first: READY, of highest priority, READY longest (R632). -/
def State.swapIncoming (s : State) (p : Nat) : Option Nat :=
  let cs := (List.range 256).filter fun cc => s.partOfCtx cc == some p && !(s.ctx cc).resident && (s.ctx cc).cond == .ready
  let top := cs.foldl (fun m cc => max m (s.prio cc)) 0
  leastBy (fun cc => (s.ctx cc).since) (cs.filter fun cc => s.prio cc == top)

/-- A context brought in: its queue pointers are loaded and it is resident (R632); cores are put into Stopping for it where R629 says so. -/
def State.swapIn (s : State) (cc : Nat) : State :=
  ((s.updCtx cc fun x => { x with resident := true }).refresh cc).preempt cc

/-- A context swapped out (R632). -/
def State.swapOut (s : State) (cc : Nat) : State :=
  ((s.withdraw cc).updCtx cc fun x => { x with resident := false }).refresh cc

/-- CONTEXT_SWAP (R632). -/
def execContextSwap (p : Nat) (s : State) : Host.Outcome State Fault Refusal :=
  .next (if p < 16 && s.ready && (s.part p).st == .active then
      match s.swapIncoming p with
      | none => s
      | some i =>
        if (s.residents p).length < s.odN (0x2000 + p) 5 then s.swapIn i
        else match s.swapVictim p i with
          | some v => (s.swapOut v).swapIn i
          | none => s
    else s)

end Sys2Proof.Machine
end

