-- ==== Sys2Proof/Machine/Vector.lean ====
section
/-! DEFINITION. The vector engine's commands VOP and VREDUCE and the data mover's COPY (R126 to R130, R196 to R201, R905). -/
namespace Sys2Proof.Machine

/-- One or zero. -/
def a32Bool (b : Bool) : A32 := if b then a32One else a32Zero

/-- The operation a SUBOP of VOP selects (R197). -/
def vopFn (sub : Nat) (x y z : A32) : A32 :=
  let vx := a32Val x
  let vy := a32Val y
  match sub with
  | 0x00 => x
  | 0x01 => a32Add .nearest 0 x y
  | 0x02 => a32Round .nearest 0 (vx.sub vy)
  | 0x03 => a32Mul x y
  | 0x04 => a32Fma .nearest 0 x y z
  | 0x05 => a32Min x y
  | 0x06 => a32Max2 x y
  | 0x07 => a32Abs x
  | 0x08 => a32Neg x
  | 0x09 => a32Copysign x y
  | 0x10 => a32Bool (vx.eqv vy)
  | 0x11 => a32Bool (vx.lt vy)
  | 0x12 => a32Bool (vx.le vy)
  | 0x13 => if !vx.isNan && !vx.isZero then y else z
  | 0x14 => a32Min (a32Max2 x y) z
  | 0x20 => a32Div x y
  | 0x21 => a32Fn .recip x
  | 0x22 => a32Fn .sqrt x
  | 0x23 => a32Fn .rsqrt x
  | 0x24 => a32Fn .exp2 x
  | 0x25 => a32Fn .log2 x
  | 0x26 => a32Fn .exp x
  | 0x27 => a32Fn .log x
  | 0x30 => a32Fn .tanh x
  | 0x31 => a32Fn .sigmoid x
  | 0x32 => a32Fn .silu x
  | 0x33 => a32Fn .gelu x
  | _ => a32Fn .softplus x

/-- The element of an input that a result element uses: a dimension of size 1 is broadcast (R198). -/
def broadcastIx (d : Desc) (i : Ix) : Ix :=
  { i0 := if d.n0 = 1 then 0 else i.i0, i1 := if d.n1 = 1 then 0 else i.i1, i2 := if d.n2 = 1 then 0 else i.i2, i3 := if d.n3 = 1 then 0 else i.i3 }

/-- Whether an input has in each dimension the result's size or 1 (R198). -/
def broadcasts (d o : Desc) : Bool :=
  (d.n0 == o.n0 || d.n0 == 1) && (d.n1 == o.n1 || d.n1 == 1) && (d.n2 == o.n2 || d.n2 == 1) && (d.n3 == o.n3 || d.n3 == 1)

/-- A VOP's tensors: X, Y where it is a tensor, Z where there is one, and the result; in the order of the descriptors read. -/
structure VopArgs where
  x : Desc
  y : Option Desc
  z : Option Desc
  out : Desc

/-- The tensors of a VOP command (R196, R197). -/
def vopArgs (c : CmdInst) (e : Exec) : VopArgs :=
  let nin := (vopInputs c.sub).getD 1
  let hasX := if fld c.words 2 15 0 = 0xFFFF then 0 else 1
  let hasY := if 2 ≤ nin && fld c.words 2 31 16 != 0xFFFF then 1 else 0
  let hasZ := if nin = 3 && fld c.words 2 47 32 != 0xFFFF then 1 else 0
  { x := descAt e 0, y := if hasY = 1 then some (descAt e hasX) else none, z := if hasZ = 1 then some (descAt e (hasX + hasY)) else none
    out := descAt e (hasX + hasY + hasZ) }

/-- The checks of a VOP (R196 to R198). -/
def vopChecks (c : CmdInst) (e : Exec) : Checks :=
  let a := vopArgs c e
  let nin := (vopInputs c.sub).getD 1
  let ins := [a.x] ++ a.y.toList ++ a.z.toList
  { reserved := fld c.words 3 63 32 != 0 || [4, 5, 6, 7].any fun i => fld c.words i 63 0 != 0
    field := (vopInputs c.sub).isNone || fld c.words 2 15 0 == 0xFFFF || (nin == 3 && fld c.words 2 47 32 == 0xFFFF)
      || (decide (nin < 3) && fld c.words 2 47 32 != 0xFFFF)
      || (decide (nin < 2) && (fld c.words 2 31 16 != 0xFFFF || fld c.words 3 31 0 != 0))
    shape := ins.any fun d => !broadcasts d a.out }

/-- One input of a group: the widened elements, or a constant where there is no tensor. -/
def Run.input (r : Run) (w : Who) (set : Nat) (o : Option Desc) (is : List Ix) (g : Nat) (dflt : A32) : Run × List A32 :=
  match o with
  | none => (r, is.map fun _ => dflt)
  | some d =>
    let x := r.readGroup w set d (is.map (broadcastIx d)) g
    (x.1, x.2.map (widenElem d.fmt))

/-- The three inputs of each element of a group put together. -/
def zip3 : List A32 → List A32 → List A32 → List (A32 × A32 × A32)
  | x :: xs, y :: ys, z :: zs => (x, y, z) :: zip3 xs ys zs
  | _, _, _ => []

/-- One group of a VOP: its inputs are read, and its results written whole. -/
def vopGroup (w : Who) (c : CmdInst) (a : VopArgs) (r : Run) (g : Nat) : Run :=
  let is := (groupElems a.out g).map a.out.at
  let (r1, xs) := r.input w 1 (some a.x) is g a32Zero
  if r1.stop.isSome then r1
  else
    let (r2, ys) := r1.input w 2 a.y is g (BitVec.ofNat 32 (fld c.words 3 31 0))
    if r2.stop.isSome then r2
    else
      let (r3, zs) := r2.input w 3 a.z is g a32Zero
      if r3.stop.isSome then r3
      else
        let res := List.zip is ((zip3 xs ys zs).map fun t => vopFn c.sub t.1 t.2.1 t.2.2)
        r3.wrote w a.out (encodeElems a.out .nearest res {}).1 { failInfo := g } g

/-- The run of a VOP. -/
def vopRun (upTo : Option Nat) (s : State) (n : Nat) (e : Exec) : Run :=
  let a := vopArgs e.cmd e
  runGroups (vopGroup (s.whoExec n e) e.cmd a) upTo (Run.start s e) (List.range (groupCount a.out))

/-- VOP (R197). -/
def execVop (n : Nat) (s : State) : Host.Outcome State Fault Refusal :=
  .next (s.runCore n (fun c => c.op == 0x10) vopChecks (vopRun none))

/-- The checks of a VREDUCE (R199). -/
def vreduceChecks (c : CmdInst) (e : Exec) : Checks :=
  let x := descAt e 0
  let o := descAt e 1
  { reserved := fld c.words 3 63 32 != 0 || [4, 5, 6, 7].any fun i => fld c.words i 63 0 != 0
    field := decide (3 < c.sub) || fld c.words 2 31 16 != 0xFFFF || fld c.words 2 47 32 != 0xFFFF || fld c.words 3 31 0 != 0
    shape := o.n0 != 1 || o.n1 != x.n1 || o.n2 != x.n2 || o.n3 != x.n3 }

/-- One more element of a reduction: the first enters as it is, or squared (R129, R199); sums take a draw each where they round stochastically. -/
def reduceStep (sub : Nat) (mode : Mode) (acc : Option A32 × Gen) (x : A32) : Option A32 × Gen :=
  let u := match mode with | .nearest => 0 | .stochastic => acc.2.at 0
  let dr := match mode with | .nearest => acc.2 | .stochastic => acc.2.skip 1
  match sub with
  | 0 => match acc.1 with
    | none => (some x, acc.2)
    | some a => (some (a32Add mode u a x), dr)
  | 1 => (some (a32Fma mode u x x (acc.1.getD a32Zero)), dr)
  | 2 => (some (acc.1.elim x fun a => a32Max2 a x), acc.2)
  | _ => (some (acc.1.elim x fun a => a32Min a x), acc.2)

/-- One row reduced. -/
def reduceRow (sub : Nat) (mode : Mode) (xs : List A32) (draw : Gen) : A32 × Gen :=
  let r := xs.foldl (reduceStep sub mode) (none, draw)
  (r.1.getD a32Zero, r.2)

/-- The rows of a group reduced one after another. -/
def reduceRows (sub : Nat) (mode : Mode) (n : Nat) : Nat → List A32 → Gen → List A32 × Gen
  | 0, _, d => ([], d)
  | k + 1, xs, d =>
    let r := reduceRow sub mode (xs.take n) d
    let t := reduceRows sub mode n k (xs.drop n) r.2
    (r.1 :: t.1, t.2)

/-- One group of a VREDUCE. -/
def vreduceGroup (w : Who) (sub : Nat) (mode : Mode) (x o : Desc) (r : Run) (g : Nat) : Run :=
  let is := (groupElems o g).map o.at
  let (r1, es) := r.readGroup w 1 x (is.flatMap fun i => (List.range x.n0).map fun j => { i with i0 := j }) g
  if r1.stop.isSome then r1
  else
    let t := reduceRows sub mode x.n0 is.length (es.map (widenElem x.fmt)) (r1.st.gen (vecUnit w))
    let r2 := { r1 with st := r1.st.drew t.2 }
    r2.wrote w o (encodeElems o .nearest (List.zip is t.1) {}).1 { failInfo := g } g

/-- The run of a VREDUCE; its reduction length is that of dimension 0 (R99). -/
def vreduceRun (upTo : Option Nat) (s : State) (n : Nat) (e : Exec) : Run :=
  let x := descAt e 0
  let o := descAt e 1
  runGroups (vreduceGroup (s.whoExec n e) e.cmd.sub (e.sumMode x.n0) x o) upTo (Run.start s e) (List.range (groupCount o))

/-- VREDUCE (R199). -/
def execVreduce (n : Nat) (s : State) : Host.Outcome State Fault Refusal :=
  .next (s.runCore n (fun c => c.op == 0x11) vreduceChecks (vreduceRun none))

/-- Two descriptors of the same sizes. -/
def sameSizes (a b : Desc) : Bool := a.n0 == b.n0 && a.n1 == b.n1 && a.n2 == b.n2 && a.n3 == b.n3

/-- The checks of a COPY (R200). -/
def copyChecks (c : CmdInst) (e : Exec) : Checks :=
  let a := descAt e 0
  let b := descAt e 1
  { reserved := fld c.words 2 63 32 != 0 || [3, 4, 5, 6, 7].any fun i => fld c.words i 63 0 != 0
    mix := a.fmt != b.fmt || a.scaled != b.scaled
    shape := !sameSizes a b }

/-- Elements moved unchanged, each counted as written in the counter its read was counted in (R130). -/
def movedElems (f : Fmt) (is : List Ix) (es : List (Nat × Option Nat)) : List OutElem :=
  (List.zip is es).map fun p => { ix := p.1, code := p.2.1, scale := p.2.2, kind := (readElem f p.2.1 p.2.2).2 }

/-- One group of a COPY. -/
def copyGroup (w : Who) (a b : Desc) (r : Run) (g : Nat) : Run :=
  let is := (groupElems b g).map b.at
  let (r1, es) := r.readGroup w 1 a is g
  if r1.stop.isSome then r1 else r1.wrote w b (movedElems a.fmt is es) { failInfo := g } g

/-- The run of a COPY. -/
def copyRun (upTo : Option Nat) (s : State) (n : Nat) (e : Exec) : Run :=
  runGroups (copyGroup (s.whoExec n e) (descAt e 0) (descAt e 1)) upTo (Run.start s e) (List.range (groupCount (descAt e 1)))

/-- COPY (R200). -/
def execCopy (n : Nat) (s : State) : Host.Outcome State Fault Refusal :=
  .next (s.runCore n (fun c => c.op == 0x20) copyChecks (copyRun none))

end Sys2Proof.Machine
end

