-- ==== Sys2Proof/Machine/Sync.lean ====
section
/-! DEFINITION. Fences, credits and row fences (R245 to R254, R579 to R597, R907), with SEND and what follows when DONE has covered its packets. -/
namespace Sys2Proof.Machine

/-! The objects of the hub die. -/

/-- Fence object n of partition p (R579). -/
def State.fence (s : State) (p n : Nat) : Nat := s.odN (0x2D00 + p) n

/-- Credit counter n of partition p (R579). -/
def State.credits (s : State) (p n : Nat) : Nat := s.odN (0x2D10 + p) n

/-- ADD, stopping at 2^64 - 1 (R582). -/
def State.fenceAdd (s : State) (p n v : Nat) : State := s.odSetN (0x2D00 + p) n (min (s.fence p n + v) (2 ^ 64 - 1))

/-- MAX (R582). -/
def State.fenceMax (s : State) (p n v : Nat) : State := s.odSetN (0x2D00 + p) n (max (s.fence p n) v)

/-- SET (R582). -/
def State.fenceSet (s : State) (p n v : Nat) : State := s.odSetN (0x2D00 + p) n v

/-- GIVE, stopping at 0xFFFF_FFFF (R591). -/
def State.creditAdd (s : State) (p n v : Nat) : State := s.odSetN (0x2D10 + p) n (min (s.credits p n + v) 0xFFFFFFFF)

/-- COLL.CREDIT_OVF when a GIVE would have taken the counter too high (R591). -/
def State.creditOverflow (s : State) (before v p : Nat) : State :=
  if 0xFFFFFFFF < before + v then s.raise { code := .collCreditOvf, part := some p, unit := { kind := 16, inst := p } } else s

/-! The frame of these commands on a core. -/

/-- A command that has not begun to wait or to transfer: rejected by its checks, else run. -/
def State.startSync (s : State) (n : Nat) (mine : CmdInst → Bool) (checks : CmdInst → Exec → Checks) (body : State → Exec → State) : State :=
  match s.execOf n mine with
  | none => s
  | some e =>
    if e.waiting || e.phase != 0 then s
    else match e.rejection (checks e.cmd e) with
      | some d => s.endCore n e d
      | none => body s e

/-- A core's command made to wait (R155). -/
def State.waitOn (s : State) (n : Nat) (e : Exec) : State :=
  (s.updCore n fun k => { k with exec := some { e with waiting := true }, st := if k.st == .running then .waiting else k.st }).refresh e.cmd.ctx

/-- The end of a command that could not inject its message or its packets (R413, R419). -/
def fabricFin (d : Fin) (f : Code × Nat) : Fin := { d with status := 2, fault := some f.1, failAddr := if f.1 = .fabUnreachable then f.2 else 0 }

/-! FENCE. -/

def CmdInst.remote (c : CmdInst) : Bool := fld c.words 3 39 39 == 1
def CmdInst.module (c : CmdInst) : Nat := fld c.words 3 51 40
def CmdInst.object (c : CmdInst) : Nat := fld c.words 3 7 0

/-- The tests of R583 that FENCE and CREDIT share: `rem` says that the SUBOP may be remote, `wait` that it waits. -/
def syncField (c : CmdInst) (rem wait : Bool) : Bool :=
  (c.remote && !rem) || (!c.remote && c.module != 0) || decide (4 < fld c.words 3 31 28)
    || (!wait && (fld c.words 3 31 28 != 0 || fld c.words 3 34 32 != 0))

/-- The checks of a FENCE (R581 to R585). -/
def fenceChecks (c : CmdInst) (_ : Exec) : Checks :=
  let send := c.sub == 4
  let cls := fld c.words 3 38 37
  { reserved := fld c.words 3 27 8 != 0 || fld c.words 3 36 35 != 0 || fld c.words 3 63 52 != 0 || fld c.words 4 63 52 != 0 || fld c.words 5 63 16 != 0
      || fld c.words 6 63 0 != 0 || fld c.words 7 63 0 != 0
    field := decide (4 < c.sub) || syncField c (c.sub == 1 || c.sub == 2 || send) (c.sub == 0)
      || (if send then cls == 0 || decide (1 < fld c.words 4 51 44) else cls != 0 || fld c.words 5 15 0 != 0 || fld c.words 4 51 0 != 0)
    align := send && fld c.words 4 51 0 % 64 != 0 }

/-- Whether a FENCE WAIT's condition holds (R582). -/
def State.fenceHolds (s : State) (c : CmdInst) : Bool := decide (fld c.words 2 63 0 ≤ s.fence (s.ctxPart c.ctx) c.object)

/-- FENCE_WAIT (R582); it also rejects an undefined SUBOP. -/
def execFenceWait (n : Nat) (s : State) : Host.Outcome State Fault Refusal :=
  .next (s.startSync n (fun c => c.op == 0x30 && (c.sub == 0 || decide (4 < c.sub))) fenceChecks fun t e =>
    if t.fenceHolds e.cmd then t.endCore n e {} else t.waitOn n e)

/-- FENCE_WAIT_COMPLETE (R593). -/
def execFenceWaitComplete (n : Nat) (s : State) : Host.Outcome State Fault Refusal :=
  .next (match s.execOf n (fun c => c.op == 0x30 && c.sub == 0) with
    | some e => if e.waiting && s.fenceHolds e.cmd then s.endCore n e {} else s
    | none => s)

/-- Data of a fence or credit message (R595). -/
def syncData (op value : Nat) : List Byte := leBytes 8 value ++ leBytes 8 op

/-- A remote update sent as a message, which completes the command (R594, R595). -/
def State.syncMessage (s : State) (n : Nat) (e : Exec) (addr op value : Nat) (d : Fin) : State :=
  match s.message (s.whoExec n e) e.cmd.module (n / 2) addr (syncData op value) with
  | .ok t => t.endCore n e d
  | .error f => s.endCore n e (fabricFin d (f, e.cmd.module * 2 ^ 52 + addr))

/-- A FENCE ADD, MAX or SET, local or remote (R582, R594). -/
def State.fenceUpdate (s : State) (n : Nat) (e : Exec) (op : Nat) (f : State → Nat → Nat → Nat → State) : State :=
  let c := e.cmd
  let p := s.ctxPart c.ctx
  let v := fld c.words 2 63 0
  if c.remote then s.syncMessage n e (fenceObj p c.object) op v {} else (f s p c.object v).endCore n e {}

/-- FENCE_ADD. -/
def execFenceAdd (n : Nat) (s : State) : Host.Outcome State Fault Refusal :=
  .next (s.startSync n (fun c => c.op == 0x30 && c.sub == 1) fenceChecks fun t e => t.fenceUpdate n e 1 State.fenceAdd)

/-- FENCE_MAX. -/
def execFenceMax (n : Nat) (s : State) : Host.Outcome State Fault Refusal :=
  .next (s.startSync n (fun c => c.op == 0x30 && c.sub == 2) fenceChecks fun t e => t.fenceUpdate n e 2 State.fenceMax)

/-- FENCE_SET. -/
def execFenceSet (n : Nat) (s : State) : Host.Outcome State Fault Refusal :=
  .next (s.startSync n (fun c => c.op == 0x30 && c.sub == 3) fenceChecks fun t e => t.fenceUpdate n e 0 State.fenceSet)

/-! SEND. -/

/-- The dense layout a SEND writes a tensor in (R317, R584); sectors of it are written with the NORMAL hint. -/
def denseDesc (x : Desc) (dst : Nat) : Desc :=
  let row := if x.fmt = .l4 then ceilDiv x.n0 2 else x.n0 * x.width
  let total := row * x.n1 * x.n2 * x.n3
  { x with base := dst, hint := 0, s1 := row, s2 := row * x.n1, s3 := row * x.n1 * x.n2, soff := (ceilDiv total 64 * 64 : Nat) }

/-- The bits [7:4] of the last byte of an odd L4 row, sent as 0 (R584): written with the row's last element. -/
def padElems (d : Desc) (es : List OutElem) : List OutElem :=
  if d.fmt = .l4 && d.n0 % 2 == 1 then (es.filter fun e => e.ix.i0 + 1 == d.n0).map fun e => { e with ix := { e.ix with i0 := e.ix.i0 + 1 }, code := 0, scale := none, kind := .none } else []

/-- The bytes a group of a SEND puts at its destination. -/
def sendPatch (d : Desc) (es : List OutElem) : Patch := patchOf d (es ++ padElems d es)

/-- One group of a local SEND. -/
def sendGroup (w : Who) (a b : Desc) (r : Run) (g : Nat) : Run :=
  let is := (groupElems b g).map b.at
  let (r1, es) := r.readGroup w 1 a is g
  if r1.stop.isSome then r1
  else
    let os := movedElems a.fmt is es
    r1.wrotePatch w b (sendPatch b os) os { failInfo := g } g

/-- The run of a local SEND. -/
def sendRun (upTo : Option Nat) (s : State) (n : Nat) (e : Exec) : Run :=
  let a := descAt e 0
  let b := denseDesc a (fld e.cmd.words 4 51 0)
  runGroups (sendGroup (s.whoExec n e) a b) upTo (Run.start s e) (List.range (groupCount b))

/-- One group of a remote SEND: its elements read and counted; nothing is written here. -/
def gatherGroup (w : Who) (a b : Desc) (r : Run × List OutElem) (g : Nat) : Run × List OutElem :=
  if r.1.stop.isSome then r
  else
    let is := (groupElems b g).map b.at
    let (r1, es) := r.1.readGroup w 1 a is g
    if r1.stop.isSome then (r1, r.2)
    else
      let os := movedElems a.fmt is es
      ({ r1 with
          ctrs := modAt r1.ctrs 0 (fun c => os.foldl (fun k o => k.bump o.kind) c), written := r1.written + os.length
          maxAbs := os.foldl (fun m o => a32MaxAbs m (outAbs a.fmt o)) r1.maxAbs, tiles := r1.tiles + 1 },
       r.2 ++ os)

/-- Runs of consecutive bytes of a patch, each with its first address. -/
def patchRuns (p : Patch) : List (Nat × List Byte) :=
  (p.foldl (fun (acc : List (Nat × List Byte)) e =>
    let b : Byte := BitVec.ofNat 8 e.2.1
    match acc with
    | (a, bs) :: l => if e.1 = a + bs.length then (a, bs ++ [b]) :: l else (e.1, [b]) :: acc
    | [] => [(e.1, [b])]) []).reverse

/-- Byte runs cut into pieces of at most 4,096 bytes (R586). -/
def piecesOf (l : List (Nat × List Byte)) : List (Nat × List Byte) :=
  l.flatMap fun r => (chunks (r.2.length / 4096 + 1) 0 r.2).map fun c => (r.1 + c.1, c.2)

/-- A remote SEND: the tensor is read and its packets injected (R586); the command then waits for DONE, and ends at once where nothing could be injected. -/
def State.sendRemote (s : State) (n : Nat) (e : Exec) : State :=
  let a := descAt e 0
  let b := denseDesc a (fld e.cmd.words 4 51 0)
  let w := s.whoExec n e
  let (r, os) := (List.range (groupCount b)).foldl (gatherGroup w a b) (Run.start s e, [])
  let ps := piecesOf (patchRuns (sendPatch b os))
  if ps.isEmpty then r.st.endCore n e r.fin
  else match r.st.writeTo w e.cmd.module (fld e.cmd.words 3 38 37) (n / 2) ps with
    | .error f => r.st.endCore n e (fabricFin r.fin f)
    | .ok (t, x) => t.updCore n fun k => { k with exec := some { e with xfers := [x], phase := 1, ending := some r.fin } }

/-- FENCE_SEND (R584 to R587). -/
def execFenceSend (n : Nat) (s : State) : Host.Outcome State Fault Refusal :=
  .next (s.startSync n (fun c => c.op == 0x30 && c.sub == 4) fenceChecks fun t e =>
    if e.cmd.remote then t.sendRemote n e
    else
      let r := sendRun none t n e
      let t1 := if r.stop.isSome then r.st else r.st.fenceAdd (t.ctxPart e.cmd.ctx) e.cmd.object (fld e.cmd.words 2 63 0)
      t1.endCore n e r.fin)

/-- The fault a DONE brought for one of a command's transfers. -/
def xferFault (xs : List Xfer) : Option (Nat × Nat) := xs.findSome? Xfer.fault

/-- The end of a command by a DONE with a fault number (R407). -/
def remoteFin (d : Fin) (f : Nat × Nat) : Fin := { d with status := 2, fault := some .fabRemote, failAddr := f.2, failInfo := f.1 }

/-- A remote SEND whose packets DONE has all covered: its fence message is injected and it completes, or it ends on its fault (R407, R586, R587). -/
def State.sendCovered (s : State) (n : Nat) (e : Exec) : State :=
  let d := e.ending.getD {}
  match xferFault e.xfers with
  | some f => s.endCore n e (remoteFin d f)
  | none =>
    if d.fault.isSome then s.endCore n e d
    else s.syncMessage n e (fenceObj (s.ctxPart e.cmd.ctx) e.cmd.object) 1 (fld e.cmd.words 2 63 0) d

/-! CREDIT. -/

/-- The checks of a CREDIT (R588, R589). -/
def creditChecks (c : CmdInst) (_ : Exec) : Checks :=
  { reserved := fld c.words 2 63 32 != 0 || fld c.words 3 27 8 != 0 || fld c.words 3 38 35 != 0 || fld c.words 3 63 52 != 0 || [4, 5, 6, 7].any fun i => fld c.words i 63 0 != 0
    field := decide (2 < c.sub) || syncField c (c.sub == 1) (c.sub == 0) }

/-- AMOUNT of a CREDIT (R588). -/
def CmdInst.amount (c : CmdInst) : Nat := fld c.words 2 31 0

/-- The number by which the order of takers knows a counter. -/
def takerKey (p n : Nat) : Nat := p * 256 + n

/-- The taker at the head of a counter's order (R590). -/
def State.headTaker (s : State) (p n : Nat) : Option (Consumer × Nat) := (s.takers.find? fun t => t.1 == takerKey p n).map Prod.snd

/-- The taker at the head of a counter's order taken out of it, and its amount taken (R590, R907). -/
def State.takeHead (s : State) (p n amount : Nat) : State :=
  let s1 := s.odSetN (0x2D10 + p) n (s.credits p n - amount)
  { s1 with takers := s1.takers.eraseP fun t => t.1 == takerKey p n }

/-- CREDIT_TAKE (R589, R590): the taker joins the order, and takes at once when it is first and the counter holds enough; it also rejects an undefined SUBOP. -/
def execCreditTake (n : Nat) (s : State) : Host.Outcome State Fault Refusal :=
  .next (s.startSync n (fun c => c.op == 0x31 && (c.sub == 0 || decide (2 < c.sub))) creditChecks fun t e =>
    let p := t.ctxPart e.cmd.ctx
    let k := e.cmd.object
    let t1 := { t with takers := t.takers ++ [(takerKey p k, Consumer.core n, 0)] }
    if (t.headTaker p k).isNone && decide (e.cmd.amount ≤ t.credits p k) then (t1.takeHead p k e.cmd.amount).endCore n e {} else t1.waitOn n e)

/-- CREDIT_TAKE_COMPLETE (R590, R593, R907). -/
def execCreditTakeComplete (p k : Nat) (s : State) : Host.Outcome State Fault Refusal :=
  .next (match s.headTaker p k with
    | some (.core n, _) => match (s.core n).exec with
      | some e => if e.waiting && decide (e.cmd.amount ≤ s.credits p k) then (s.takeHead p k e.cmd.amount).endCore n e {} else s
      | none => s
    | _ => s)

/-- CREDIT_GIVE (R591, R594): a local give is applied, the command completes, and an overflow then stops the partition. -/
def execCreditGive (n : Nat) (s : State) : Host.Outcome State Fault Refusal :=
  .next (s.startSync n (fun c => c.op == 0x31 && c.sub == 1) creditChecks fun t e =>
    let p := t.ctxPart e.cmd.ctx
    let k := e.cmd.object
    if e.cmd.remote then t.syncMessage n e (creditObj p k) 1 e.cmd.amount {}
    else ((t.creditAdd p k e.cmd.amount).endCore n e {}).creditOverflow (t.credits p k) e.cmd.amount p)

/-- CREDIT_SET (R589). -/
def execCreditSet (n : Nat) (s : State) : Host.Outcome State Fault Refusal :=
  .next (s.startSync n (fun c => c.op == 0x31 && c.sub == 2) creditChecks fun t e =>
    (t.odSetN (0x2D10 + t.ctxPart e.cmd.ctx) e.cmd.object e.cmd.amount).endCore n e {})

/-! ROW_FENCE. -/

/-- The checks of a ROW_FENCE (R248 to R250). -/
def rowFenceChecks (c : CmdInst) (_ : Exec) : Checks :=
  { reserved := fld c.words 2 15 14 != 0 || fld c.words 2 31 30 != 0 || fld c.words 2 39 38 != 0 || [3, 4, 5, 6, 7].any fun i => fld c.words i 63 0 != 0
    field := decide (1 < c.sub) || decide (fld c.words 2 29 16 < fld c.words 2 13 0)
      || decide (16383 < fld c.words 2 29 16 + fld c.words 2 47 40 * fld c.words 2 63 48) }

/-- Whether a ROW_FENCE covers bit x of the boards, numbered board * 16,384 + bit (R249). -/
def rowCovers (c : CmdInst) (x : Nat) : Bool :=
  x / 16384 == fld c.words 2 37 32 && (List.range (fld c.words 2 47 40 + 1)).any fun j =>
    decide (fld c.words 2 13 0 + j * fld c.words 2 63 48 ≤ x % 16384) && decide (x % 16384 ≤ fld c.words 2 29 16 + j * fld c.words 2 63 48)

/-- Whether every covered bit is set (R250). -/
def State.rowHolds (s : State) (c : CmdInst) : Bool :=
  let rows := (s.part (s.ctxPart c.ctx)).rows
  (List.range (fld c.words 2 47 40 + 1)).all fun j => (List.range (fld c.words 2 29 16 + 1 - fld c.words 2 13 0)).all fun i =>
    let b := fld c.words 2 13 0 + i + j * fld c.words 2 63 48
    decide (16383 < b) || rows.contains (fld c.words 2 37 32 * 16384 + b)

/-- ROW_FENCE_WAIT (R250, R251); it also rejects an undefined SUBOP. -/
def execRowFenceWait (n : Nat) (s : State) : Host.Outcome State Fault Refusal :=
  .next (s.startSync n (fun c => c.op == 0x32 && c.sub != 1) rowFenceChecks fun t e =>
    if t.rowHolds e.cmd then t.endCore n e {} else t.waitOn n e)

/-- ROW_FENCE_CLEAR (R250). -/
def execRowFenceClear (n : Nat) (s : State) : Host.Outcome State Fault Refusal :=
  .next (s.startSync n (fun c => c.op == 0x32 && c.sub == 1) rowFenceChecks fun t e =>
    (t.updPart (t.ctxPart e.cmd.ctx) fun p => { p with rows := p.rows.filter fun x => !rowCovers e.cmd x }).endCore n e {})

/-- ROW_FENCE_WAIT_COMPLETE (R253). -/
def execRowFenceWaitComplete (n : Nat) (s : State) : Host.Outcome State Fault Refusal :=
  .next (match s.execOf n (fun c => c.op == 0x32 && c.sub == 0) with
    | some e => if e.waiting && s.rowHolds e.cmd then s.endCore n e {} else s
    | none => s)

end Sys2Proof.Machine
end

