-- ==== Sys2Proof/Machine/Gather.lean ====
section
/-! DEFINITION. GATHER and SCATTER on the narrow path (R193, R290 to R301). -/
namespace Sys2Proof.Machine

def CmdInst.listAt (c : CmdInst) (i : Nat) : Nat := fld c.words 2 51 0 + 4 * i
def CmdInst.gatherBase (c : CmdInst) : Nat := fld c.words 3 51 0
def CmdInst.gatherCount (c : CmdInst) : Nat := fld c.words 4 15 0

/-- Offset in the scratchpad of entry i's sector (R290). -/
def CmdInst.spadAt (c : CmdInst) (i : Nat) : Nat := fld c.words 4 38 16 + 32 * i

/-- The checks of a GATHER command (R290 to R292). -/
def gatherChecks (c : CmdInst) (_ : Exec) : Checks :=
  { reserved := fld c.words 2 63 52 != 0 || fld c.words 3 63 52 != 0 || fld c.words 4 63 39 != 0 || [5, 6, 7].any fun i => fld c.words i 63 0 != 0
    field := decide (1 < c.sub) || c.gatherCount == 0 || fld c.words 3 51 44 != 0
    align := c.gatherBase % 32 != 0 || fld c.words 2 51 0 % 4 != 0 || fld c.words 4 38 16 % 32 != 0 }

/-- The local address of a core's scratchpad byte. -/
def spadAddr (n off : Nat) : Nat := 8 * 2 ^ 44 + n * 2 ^ 23 + off

/-- The sector list entry i names (R293). -/
def State.gatherSector (s : State) (c : CmdInst) (i : Nat) : Nat := c.gatherBase + 32 * leNat (s.bytes (c.listAt i) 4)

/-- The fault of list entry i before any transfer (R294): of the list entry's own read, of the sector it names, or of its place in the scratchpad. -/
def State.entryFault (s : State) (w : Who) (n : Nat) (c : CmdInst) (i : Nat) : Option (Code × Nat) :=
  if 4096 ≤ i then some (.tileGatherOvf, 0)
  else match s.loadFault w (c.listAt i) 4 with
    | some f => some f
    | none =>
      let a := s.gatherSector c i
      if region a != 0 || (s.mapFault w (c.sub == 1) a).isSome then some (.memUnmapped, a)
      else ((List.range 32).find? fun j => !s.inWork n (c.spadAt i + j)).map fun j => (.tileSpadOvf, spadAddr n (c.spadAt i + j))

/-- The end of a GATHER command at entry i (R297). -/
def State.gatherFin (s : State) (i : Nat) (f : Code × Nat) : Fin :=
  { status := 2, fault := some f.1, failInfo := i, failAddr := if f.1 = .tileGatherOvf then 0 else s.globalAddr f.2 }

/-- One sector copied into the scratchpad, through its home Larder without allocation (R295). -/
def gatherOne (src : State) (w : Who) (n : Nat) (c : CmdInst) (r : Run) (i : Nat) : Run :=
  let a := src.gatherSector c i
  if r.st.badSector a then r.stopped (r.st.gatherFin i (.memUncorrectable, a))
  else { r with st := (r.st.touch w 1 a 32).store w 1 (spadAddr n (c.spadAt i)) (src.bytes a 32), tiles := r.tiles + 1 }

/-- One sector copied from the scratchpad (R295, R296). -/
def scatterOne (src : State) (w : Who) (n : Nat) (c : CmdInst) (r : Run) (i : Nat) : Run :=
  { r with st := r.st.store w 1 (src.gatherSector c i) (src.bytes (spadAddr n (c.spadAt i)) 32), tiles := r.tiles + 1 }

/-- The run of a GATHER or SCATTER: entries 0 to F - 1 are transferred, then the fault of entry F stops it (R294); `upTo` ends it after so many sectors. -/
def listRun (one : State → Who → Nat → CmdInst → Run → Nat → Run) (upTo : Option Nat) (s : State) (n : Nat) (e : Exec) : Run :=
  let c := e.cmd
  let w := s.whoExec n e
  let bad := (List.range c.gatherCount).find? fun i => (s.entryFault w n c i).isSome
  let last := bad.getD c.gatherCount
  let s1 := s.touch w 0 (c.listAt 0) (4 * min (min c.gatherCount 4096) (last + 1))
  let r := runGroups (fun r i => one s w n c r i) upTo { Run.start s e with st := s1 } (List.range last)
  match r.stop, bad with
  | none, some i => r.stopped (s.gatherFin i ((s.entryFault w n c i).getD (.tileGatherOvf, 0)))
  | _, _ => r

/-- GATHER (R294). -/
def execGather (n : Nat) (s : State) : Host.Outcome State Fault Refusal :=
  .next (s.runCore n (fun c => c.op == 0x21 && c.sub != 1) gatherChecks (listRun gatherOne none))

/-- SCATTER (R296). -/
def execScatter (n : Nat) (s : State) : Host.Outcome State Fault Refusal :=
  .next (s.runCore n (fun c => c.op == 0x21 && c.sub == 1) gatherChecks (listRun scatterOne none))

end Sys2Proof.Machine
end

