-- ==== Sys2Proof/Machine/Tier.lean ====
section
/-! DEFINITION. Crates, tier moves, the Attic and the crate caches (R316 to R364). -/
namespace Sys2Proof.Machine

/-! The crate header. -/

/-- A crate's bytes with words 3 and 5 of its header replaced. -/
def withHeader (bs : List Byte) (w3 w5 : Nat) : List Byte := bs.take 24 ++ leBytes 8 w3 ++ (bs.drop 32).take 8 ++ leBytes 8 w5 ++ bs.drop 48

/-- The HCRC a header should have (R316, R319). -/
def headerCrc (bs : List Byte) : Nat := crc32c (bs.take 44 ++ leBytes 4 0 ++ (bs.drop 48).take 16)

/-- HCRC of the header as it stands. -/
def hcrcOf (bs : List Byte) : Nat := leNat ((bs.drop 44).take 4)

/-- CRC of the payload as the header has it. -/
def crcOf (bs : List Byte) : Nat := leNat ((bs.drop 40).take 4)

/-- Payload bytes a header states (R316). -/
def payloadLen (bs : List Byte) : Nat := fld (wordsOf 8 bs) 1 33 20 + 1

/-- A header with HCRC computed afresh. -/
def reseal (bs : List Byte) : List Byte :=
  let b0 := withHeader bs (leNat ((bs.drop 24).take 8)) (crcOf bs)
  withHeader b0 (leNat ((bs.drop 24).take 8)) (crcOf bs + headerCrc b0 * 2 ^ 32)

/-- A crate with INDEX written into its header (R316); the HCRC follows it. -/
def withIndex (bs : List Byte) (i : Nat) : List Byte :=
  reseal (withHeader bs (i % 2 ^ 40) (leNat ((bs.drop 40).take 8)))

/-- A crate with CRC and HCRC computed afresh (R323, SEAL). -/
def sealCrate (bs : List Byte) : List Byte :=
  reseal (withHeader bs (leNat ((bs.drop 24).take 8)) (crc32c ((bs.drop 64).take (payloadLen bs))))

/-- Whether a reserved header field is non-zero (R316). -/
def headerReserved (ws : List Word) : Bool :=
  fld ws 0 63 16 != 0 || fld ws 0 7 6 != 0 || fld ws 1 63 48 != 0 || fld ws 1 19 0 != 0 || fld ws 3 63 40 != 0 || fld ws 6 63 0 != 0 || fld ws 7 63 0 != 0

/-- Bytes of a crate's element array (R317). -/
def crateElemBytes (ws : List Word) : Nat :=
  let n := fun i => fld ws 2 (16 * i + 15) (16 * i) + 1
  let f := fmtOfCode (fld ws 0 2 0)
  (if f = .l4 then ceilDiv (n 0) 2 else n 0 * (fmtBits f / 8)) * n 1 * n 2 * n 3

/-- Bytes of a crate's scale or exponent array (R67, R317). -/
def crateScaleBytes (ws : List Word) : Nat :=
  let n := fun i => fld ws 2 (16 * i + 15) (16 * i) + 1
  ceilDiv (n 0) 32 * (n 1 * n 2 * n 3)

/-- A consistent header (R318). -/
def headerConsistent (ws : List Word) : Bool :=
  let f := fmtOfCode (fld ws 0 2 0)
  let scaled := fld ws 0 3 3 == 1
  let len := fld ws 1 33 20 + 1
  let off := fld ws 1 47 34
  fld ws 0 15 8 == 1 && decide (fld ws 0 5 4 < 2) && (if f = .b16 then scaled else !scaled || fmtMayScale f)
    && (if scaled then decide (crateElemBytes ws ≤ off) && decide (off + crateScaleBytes ws ≤ len)
        else off == 0 && decide (crateElemBytes ws ≤ len))

/-- The checks of a header before its payload is read (R320). -/
def checkHeader (skip : Bool) (bs : List Byte) : Option Code :=
  let ws := wordsOf 8 bs
  if !skip && hcrcOf bs != headerCrc bs then some .tierHeader
  else if headerReserved ws then some .tierReserved
  else if !(headerConsistent ws) then some .tierHeader
  else none

/-- The checks of a crate read whole (R320); under SEAL those of HCRC and CRC are skipped. -/
def checkCrate (skip : Bool) (seq : Option Nat) (bs : List Byte) : Option Code :=
  (checkHeader skip bs).orElse fun _ =>
    if !skip && crcOf bs != crc32c ((bs.drop 64).take (payloadLen bs)) then some .tierCrc
    else match seq with
      | some q => if leNat ((bs.drop 32).take 8) = q then none else some .tierSeq
      | none => none

/-- Units of 4,096 bytes a crate occupies in the Attic (R332). -/
def crateUnits (bs : List Byte) : Nat := ceilDiv (payloadLen bs) 4096

/-! The Attic. -/

/-- The crate a partition finds at an index (R334). -/
def State.atticAt (s : State) (p i : Nat) : Option AtticCrate := s.tier.crates.find? fun c => c.index == i && c.part == p

/-- Attic units a partition holds (R335, R356). -/
def State.atticHeld (s : State) (p : Nat) : Nat := ((s.tier.crates.filter fun c => c.part == p).map fun c => crateUnits c.bytes).sum

/-- What 0x3300/09 shows: offline (R363), read-only when a stack has no spare block left, worn below the warning count (R342), else normal. -/
def State.tierStatus (s : State) : Nat :=
  if s.tier.offline then 3 else if s.tier.spares.any (· == 0) then 2 else if s.tier.spares.sum < s.odN 0x3300 5 then 1 else 0

/-! Blocks and pages (R331, R336 to R342). -/

/-- Blocks of a stack, of 2,048 pages of 16 KiB, four units a page: 4.5 TB (R331). Block b is number b / 8 of stack b mod 8. -/
def stackBlocks : Nat := 134110
def blockPages : Nat := 2048

/-- A block's counts and marks. -/
def State.block (s : State) (b : Nat) : AtticBlock := (s.tier.blocks.find? fun x => x.block == b).getD { block := b }

/-- A block's counts and marks replaced. -/
def State.putBlock (s : State) (x : AtticBlock) : State :=
  s.withTier fun t => { t with blocks := x :: t.blocks.filter fun y => y.block != x.block }

/-- A block at the end of the relocation queue (R336). -/
def State.enqueue (s : State) (b : Nat) : State :=
  if s.tier.queue.contains b then s else s.withTier fun t => { t with queue := t.queue ++ [b] }

/-- One page read of a block (R336, R339). -/
def State.pageRead (s : State) (b : Nat) : State :=
  let x := s.block b
  let n := x.reads + 1
  let lag := decide (2 * s.odN 0x3300 3 ≤ n) && !x.lagged
  let s1 := s.putBlock { x with reads := n, lagged := x.lagged || lag }
  let s2 := if s.odN 0x3300 3 ≤ n then s1.enqueue b else s1
  if lag then s2.raise { code := .tierDisturbLag, unit := { kind := 7, inst := b % 8 } } else s2

/-- A block whose pages are taken no further. -/
def State.closeBlock (s : State) (b : Nat) : State :=
  s.withTier fun t => { t with opens := t.opens.map fun o => if o == some b then none else o }

/-- A block that is to be retired once its valid units have been relocated (R341). -/
def State.condemn (s : State) (b : Nat) : State := ((s.putBlock { s.block b with leaving := true }).closeBlock b).enqueue b

/-- A block retired: a spare takes its place (R341), and TIER.WORN when the spares fall below the warning count (R342). -/
def State.retire (s : State) (b : Nat) : State :=
  let t := ((s.putBlock { s.block b with leaving := false, retired := true }).closeBlock b).withTier fun x =>
    { x with queue := x.queue.filter (· != b), spares := modAt x.spares (b % 8) (· - 1) }
  if s.odN 0x3300 5 ≤ s.tier.spares.sum && t.tier.spares.sum < s.odN 0x3300 5 then t.raise { code := .tierWorn, unit := { kind := 7, inst := 0 } } else t

/-- A block erased: its counts begin again and what its superseded units held is gone; a block whose erase fails is retired (R341). -/
def State.eraseBlock (s : State) (b : Nat) : State :=
  if (s.block b).failing then s.retire b
  else ((s.putBlock { block := b, erases := (s.block b).erases + 1 }).closeBlock b).withTier fun x =>
    { x with queue := x.queue.filter (· != b), records := x.records.map fun r => if r.units && r.block == b then { r with bad := true } else r }

/-- The lowest-numbered free slot from `k` on. -/
def freeSlotFrom (used : List Nat) : Nat → Nat → Nat
  | 0, k => k
  | n + 1, k => if used.contains k then freeSlotFrom used n (k + 1) else k

/-- How many of a stack's blocks are in use or free, the spares apart. -/
def State.poolEnd (s : State) (k : Nat) : Nat := stackBlocks - nth s.tier.spares k 0

/-- The blocks of a stack that wear levelling compares: those with counts, and the lowest of the others, which are all alike. -/
def State.stackPool (s : State) (k : Nat) : List AtticBlock :=
  let listed := s.tier.blocks.filter fun x => x.block % 8 == k
  let fresh := freeSlotFrom (listed.map fun x => x.block / 8) listed.length 0
  (({ block := 8 * fresh + k } : AtticBlock) :: listed).filter fun x => decide (x.block / 8 < s.poolEnd k) && !x.retired

/-- Of some blocks the one with the lowest erase count, the lowest number of a tie. -/
def leastErased (l : List AtticBlock) : Option AtticBlock :=
  l.foldl (fun b x => match b with
    | none => some x
    | some y => if x.erases < y.erases || (x.erases == y.erases && x.block < y.block) then some x else some y) none

/-- The free block of a stack that new pages are taken from (R340): one that holds no crate. -/
def State.freeBlock (s : State) (k : Nat) : Option AtticBlock :=
  leastErased ((s.stackPool k).filter fun x => !x.leaving && !(s.tier.opens.contains (some x.block)) && !(s.tier.crates.any fun c => c.block == x.block))

/-- Whether a block has room for a crate of `u` units, all in one page (R332). -/
def State.fitsIn (s : State) (u b : Nat) : Bool := decide (u ≤ (s.block b).room) || decide ((s.block b).pages < blockPages)

/-- `u` units taken in a block: in its last page when they fit there. -/
def State.takeUnits (s : State) (u b : Nat) : State :=
  let x := s.block b
  s.putBlock (if u ≤ x.room then { x with room := x.room - u } else { x with pages := x.pages + 1, room := 4 - u })

/-- Room for `u` units found in a stack (R340): in the block whose pages are being taken, else in its free block of lowest erase count; a block whose program or erase fails is passed over and goes (R341). `n` bounds the blocks tried. -/
def State.findPage : Nat → State → Nat → Nat → State × Option Nat
  | 0, s, _, _ => (s, none)
  | n + 1, s, k, u =>
    match (nth s.tier.opens k none).filter (s.fitsIn u) with
    | some b => if (s.block b).failing then (s.condemn b).findPage n k u else (s.takeUnits u b, some b)
    | none =>
      match s.freeBlock k with
      | none => (s, none)
      | some x =>
        let t := if x.pages = 0 then s else s.eraseBlock x.block
        (if (t.block x.block).retired then t else t.withTier fun y => { y with opens := modAt y.opens k fun _ => some x.block }).findPage n k u

/-- Room for `u` units in a stack. -/
def State.pageIn (s : State) (k u : Nat) : State × Option Nat := s.findPage (2 * s.tier.blocks.length + 4) k u

/-- Room for a newly committed crate: on the stacks in turn, one without a free page skipped (R333). -/
def State.placeFrom (s : State) (u : Nat) : List Nat → State × Option Nat
  | [] => (s, none)
  | k :: ks =>
    match s.pageIn k u with
    | (t, some b) => (t.withTier fun x => { x with turn := (k + 1) % 8 }, some b)
    | (t, none) => t.placeFrom u ks

/-- The stacks in turn. -/
def State.turns (s : State) : List Nat := (List.range 8).map fun i => (s.tier.turn + i) % 8

/-- Room for a newly committed crate. -/
def State.placeNext (s : State) (u : Nat) : State × Option Nat := s.placeFrom u s.turns

/-! Map records (R358 to R362). -/

/-- The commit word (R358). -/
def commitWord : Nat := 0xA5C33C5A

/-- The body of a map record as bytes (R358): index, location, header, owning partition, generation, in a layout of the model's (log entry 75). -/
def recordBody (r : AtticCrate) : List Byte :=
  leBytes 8 r.index ++ leBytes 8 (if r.units then 1 else 0) ++ leBytes 8 r.block ++ leBytes 8 r.page ++ r.bytes.take 64 ++ leBytes 8 r.part ++ leBytes 8 r.gen

/-- Whether start-up applies a record (R361). -/
def goodRecord (r : AtticCrate) : Bool := r.commit == commitWord && r.crc == crc32c (recordBody r)

/-- Raw bytes programmed, counted (R343): the units of a crate. -/
def State.programmed (s : State) (bs : List Byte) : State :=
  let t := s.odAdd 0x3300 8 (4096 * crateUnits bs)
  t.nvSet 0x3300 8 (t.odW 0x3300 8)

/-- A record's body programmed, its commit word still erased (R358). -/
def State.writeBody (s : State) (r : AtticCrate) : State :=
  s.withTier fun t => { t with records := { r with crc := crc32c (recordBody r), commit := 0xFFFFFFFF } :: t.records, gen := t.gen + 1 }

/-- A record's commit word programmed (R358). -/
def State.writeCommit (s : State) (gen : Nat) : State :=
  s.withTier fun t => { t with records := t.records.map fun r => if r.gen == gen then { r with commit := commitWord } else r }

/-- The three program operations of a map change, as many of them as `ops` says (R358): the crate's units, the record's body, the commit word. -/
def State.programRecord (s : State) (ops : Nat) (r : AtticCrate) : State :=
  let s1 := if 1 ≤ ops && r.units then s.programmed r.bytes else s
  let s2 := if 2 ≤ ops then s1.writeBody r else s1
  if 3 ≤ ops then s2.writeCommit r.gen else s2

/-- A committed record takes effect in the map (R362). -/
def State.applyRecord (s : State) (r : AtticCrate) : State :=
  s.withTier fun t => { t with crates := (if r.units then [r] else []) ++ t.crates.filter fun x => x.index != r.index }

/-- The record of a crate of which the units lie in a block. -/
def State.newRecord (s : State) (w : Who) (p i b : Nat) (bs : List Byte) : AtticCrate :=
  { index := i, bytes := bs, part := p, ctx := w.ctx, gen := s.tier.gen, block := b, page := (s.block b).pages - 1 }

/-- Every cached copy of an index dropped (R351). -/
def State.dropCopies (s : State) (i : Nat) : State := s.withTier fun t => { t with slots := t.slots.filter fun c => c.index != i }

/-- The fault a write or DISCARD of an index meets (R334, R342, R363). -/
def State.atticWriteFault (s : State) (p i : Nat) : Option Code :=
  if 2 ≤ s.tierStatus then some .tierReadOnly
  else if s.tier.crates.any fun c => c.index == i && c.part != p then some .tierAbsent
  else none

/-- The fault a MOVE or SEAL of a crate to an index meets: also the floor (R335, R356), and no free page in any stack (log entry 75). -/
def State.atticPutFault (s : State) (p i : Nat) (bs : List Byte) : Option Code :=
  (s.atticWriteFault p i).orElse fun _ =>
    let old := ((s.atticAt p i).map fun c => crateUnits c.bytes).getD 0
    if s.odN (0x3400 + p) 3 < s.atticHeld p + crateUnits bs - old then some .tierPoolFull
    else if (s.placeNext (crateUnits bs)).2.isNone then some .tierReadOnly
    else none

/-- A crate committed at an index (R335, R351, R358, R360). -/
def State.atticCommit (s : State) (w : Who) (p i : Nat) (bs : List Byte) : State :=
  match s.placeNext (crateUnits bs) with
  | (t, none) => t
  | (t, some b) =>
    let r := t.newRecord w p i b (withIndex bs i)
    (((t.programRecord 3 r).applyRecord r).dropCopies i).charge w 12 3 0 bs.length

/-- A crate removed from the Attic by a record without units (R351, R362). -/
def State.atticDiscard (s : State) (p i : Nat) : State :=
  let r : AtticCrate := { index := i, bytes := [], part := p, ctx := none, gen := s.tier.gen, units := false }
  ((s.programRecord 3 r).applyRecord r).dropCopies i

/-! Reading a crate through the tiers. -/

/-- The cached copy of an index in one tier (R347). -/
def State.copyIn (s : State) (cellar : Bool) (p i : Nat) : Option CacheSlot := s.tier.slots.find? fun c => c.cellar == cellar && c.index == i && c.part == p

/-- The local address of a slot of a crate cache (R344, R345). -/
def State.cacheAddr (s : State) (cellar : Bool) (die k : Nat) : Nat :=
  if cellar then 2 ^ 44 + (die + 1) * cellarDieBytes - s.tier.cacheK * 16640 + k * 16640
  else s.sliceBase (die + 1) - s.tier.cacheH * 16640 + k * 16640

/-- Two slots being the same place. -/
def sameSlot (a b : CacheSlot) : Bool := a.cellar == b.cellar && a.die == b.die && a.slot == b.slot

/-- A slot freed. -/
def State.dropSlot (s : State) (c : CacheSlot) : State := s.withTier fun t => { t with slots := t.slots.filter fun x => !sameSlot x c }

/-- A copy's last use set to now (R349, R350). -/
def State.useCopy (s : State) (c : CacheSlot) : State :=
  s.withTier fun t => { t with slots := t.slots.map fun x => if sameSlot x c then { x with lastUse := s.now } else x }

/-- A sector of the tier's own memory that cannot be read. -/
def State.badRun (s : State) (a n : Nat) : Option Nat := (sectorsOf a n).find? s.badSector

/-- A cached copy read where it lies, by the STREAM hint (R329): its bytes; none when it fails the HCRC or CRC check of R320; a sector that cannot be corrected faults the command (R300, R313). -/
def State.readCopy (s : State) (w : Who) (c : CacheSlot) : State × Except Code (Option (List Byte)) :=
  let a := s.cacheAddr c.cellar c.die c.slot
  match s.badRun a 64 with
  | some k => (s.countUncorrectable k, .error .memUncorrectable)
  | none =>
    let h := s.bytes a 64
    if hcrcOf h != headerCrc h then (s.touch w 1 a 64, .ok none)
    else match s.badRun a (64 + payloadLen h) with
      | some k => (s.countUncorrectable k, .error .memUncorrectable)
      | none =>
        let bs := s.bytes a (64 + payloadLen h)
        (s.touch w 1 a (64 + payloadLen h), .ok (if crcOf bs == crc32c (bs.drop 64) then some bs else none))

/-- A crate read from the Attic itself; a unit that cannot be corrected condemns its block (R341). -/
def State.readFlash (s : State) (w : Who) (p i : Nat) : State × Except Code (List Byte) :=
  if s.tier.offline then (s, .error .tierAbsent)
  else match s.atticAt p i with
    | none => (s, .error .tierAbsent)
    | some c =>
      let t := (s.pageRead c.block).charge w 12 2 0 c.bytes.length
      if c.bad then (if (t.block c.block).retired then t else t.condemn c.block, .error .tierUncorrectable) else (t, .ok c.bytes)

/-- An Attic index read through the tiers in order, those of `tiers` being crate caches (R348): a copy that fails its checks is dropped and counted. -/
def State.readIndex (s : State) (w : Who) (p i : Nat) : List Bool → State × Except Code (List Byte)
  | [] => s.readFlash w p i
  | k :: ks =>
    match s.copyIn k p i with
    | none => s.readIndex w p i ks
    | some c =>
      match s.readCopy w c with
      | (t, .error f) => (t, .error f)
      | (t, .ok (some bs)) => (t.useCopy c, .ok bs)
      | (t, .ok none) => ((t.dropSlot c).odInc (0x3400 + p) 8).readIndex w p i ks

/-- An Attic index read for a MOVE or SEAL; a read that finds no cached copy is counted as redirected (R348; log entry 24). -/
def State.readAttic (s : State) (w : Who) (p i : Nat) : State × Except Code (List Byte) :=
  let missing := (s.copyIn false p i).isNone && (s.copyIn true p i).isNone && (s.atticAt p i).isSome
  (if missing then s.odInc (0x3400 + p) 8 else s).readIndex w p i [false, true]

/-- A crate read from a byte-addressed side: its header, its header's checks, its payload (R320, R326). The Larder sees the STREAM hint (R329). -/
def State.readBytes (s : State) (w : Who) (skip : Bool) (a : Nat) : State × Except Code (List Byte) :=
  match s.loadFault w a 64 with
  | some f => (s.countFault f.1 f.2, .error f.1)
  | none =>
    let h := s.bytes a 64
    match checkHeader skip h with
    | some c => (s.touch w 1 a 64, .error c)
    | none =>
      let n := 64 + payloadLen h
      match s.loadFault w a n with
      | some f => (s.countFault f.1 f.2, .error f.1)
      | none => (s.touch w 1 a n, .ok (s.bytes a n))

/-! The TIER_MOVE command. -/

def CmdInst.tmSrc (c : CmdInst) : Nat := fld c.words 2 51 0
def CmdInst.tmDst (c : CmdInst) : Nat := fld c.words 3 51 0
def CmdInst.tmPitch (c : CmdInst) : Nat := fld c.words 4 31 0
def CmdInst.tmCount (c : CmdInst) : Nat := fld c.words 4 47 32 + 1
def CmdInst.tmSeq (c : CmdInst) : Option Nat := if fld c.words 6 0 0 = 1 then some (fld c.words 5 63 0) else none

/-- Whether an address names the Attic (R322). -/
def isAttic (a : Nat) : Bool := region a == 2

/-- A side a MOVE or SEAL may have (R322): an Attic index or a byte-addressed region. -/
def tierSideOk (a : Nat) : Bool :=
  let r := region a
  if r = 2 then bits a 43 40 == 0 else r == 0 || r == 1 || r == 8 || (decide (0x10 ≤ r) && decide (r < 0x20))

/-- Index passes the last one there is (R323). -/
def indexPasses (a count : Nat) : Bool := isAttic a && decide (2 ^ 40 < a % 2 ^ 40 + count)

/-- The checks of a TIER_MOVE (R321 to R324); `hub` says that it comes from the hub die's queue. -/
def tierChecks (hub : Bool) (c : CmdInst) : Checks :=
  let two := c.sub == 0 || c.sub == 1
  let tier := fld c.words 6 3 2
  let die := fld c.words 6 7 4
  { reserved := fld c.words 2 63 52 != 0 || fld c.words 3 63 52 != 0 || fld c.words 4 63 48 != 0 || fld c.words 6 63 8 != 0 || fld c.words 6 1 1 != 0 || fld c.words 7 63 0 != 0
    field := decide (4 < c.sub)
      || (if two then !(tierSideOk c.tmSrc) || !(tierSideOk c.tmDst) || (isAttic c.tmSrc && isAttic c.tmDst)
          else !(isAttic c.tmSrc && tierSideOk c.tmSrc) || c.tmDst != 0)
      || indexPasses c.tmSrc c.tmCount || (two && indexPasses c.tmDst c.tmCount)
      || (hub && (region c.tmSrc == 8 || (two && region c.tmDst == 8)))
      || (if c.sub = 2 then !((tier == 1 && decide (die < 8)) || (tier == 2 && decide (die < 4))) else tier != 0 || die != 0)
    align := c.tmPitch % 64 != 0 || (two && ((!(isAttic c.tmSrc) && c.tmSrc % 64 != 0) || (!(isAttic c.tmDst) && c.tmDst % 64 != 0))) }

/-- The address of crate i on a side (R322). -/
def sideAt (a pitch i : Nat) : Nat := if isAttic a then a + i else a + i * pitch

/-- Crate i of a move read from its source, with the checks of R320 and R325. -/
def State.readCrate (s : State) (w : Who) (c : CmdInst) (i : Nat) : State × Except Code (List Byte) :=
  let p := s.ctxPart c.ctx
  let skip := c.sub == 1
  let a := sideAt c.tmSrc c.tmPitch i
  let r := if isAttic c.tmSrc then s.readAttic w p (a % 2 ^ 40)
    else if region a != region c.tmSrc then (s, .error .memUnmapped)
    else s.readBytes w skip a
  match r.2 with
  | .error f => (r.1, .error f)
  | .ok bs =>
    match checkCrate skip c.tmSeq bs with
    | some f => (r.1, .error f)
    | none => if c.tmCount != 1 && decide (c.tmPitch < 64 + payloadLen bs) then (r.1, .error .tierHeader) else r

/-- The end of a move at crate F (R327). -/
def State.crateFin (s : State) (f : Code) (side i : Nat) : Fin := { status := 2, fault := some f, failInfo := i, failAddr := s.globalAddr side }

/-- Crate i of a MOVE or SEAL (R323 to R327). -/
def moveCrate (w : Who) (c : CmdInst) (r : Run) (i : Nat) : Run :=
  let src := sideAt c.tmSrc c.tmPitch i
  let dst := sideAt c.tmDst c.tmPitch i
  let p := r.st.ctxPart c.ctx
  let (s1, res) := r.st.readCrate w c i
  let r1 := { r with st := s1 }
  match res with
  | .error f => r1.stopped (s1.crateFin f src i)
  | .ok bs0 =>
    let bs := if c.sub = 1 then sealCrate bs0 else bs0
    if isAttic c.tmDst then
      match s1.atticPutFault p (dst % 2 ^ 40) bs with
      | some f => r1.stopped (s1.crateFin f dst i)
      | none => { r1 with st := s1.atticCommit w p (dst % 2 ^ 40) bs, tiles := r.tiles + 1 }
    else if region dst != region c.tmDst then r1.stopped (s1.crateFin .memUnmapped dst i)
    else match s1.storeFault w dst bs.length with
      | some f => let s2 := s1.countFault f.1 f.2; { r1 with st := s2 }.stopped (s2.crateFin f.1 dst i)
      | none => { r1 with st := s1.store w 1 dst bs, tiles := r.tiles + 1 }

/-- Crate i of a DISCARD (R334, R351). -/
def discardCrate (c : CmdInst) (r : Run) (i : Nat) : Run :=
  let src := sideAt c.tmSrc c.tmPitch i
  let p := r.st.ctxPart c.ctx
  match r.st.atticWriteFault p (src % 2 ^ 40) with
  | some f => r.stopped (r.st.crateFin f src i)
  | none => { r with st := r.st.atticDiscard p (src % 2 ^ 40), tiles := r.tiles + 1 }

/-- Crate i of a DROP: an index of another partition behaves as if no crate were there (R334). -/
def dropCrate (c : CmdInst) (r : Run) (i : Nat) : Run :=
  let idx := sideAt c.tmSrc c.tmPitch i % 2 ^ 40
  let p := r.st.ctxPart c.ctx
  { r with st := r.st.withTier (fun t => { t with slots := t.slots.filter fun x => !(x.index == idx && x.part == p) }), tiles := r.tiles + 1 }

/-- The slots in use of one crate cache. -/
def State.cacheOf (s : State) (cellar : Bool) (die : Nat) : List CacheSlot := s.tier.slots.filter fun c => c.cellar == cellar && c.die == die

/-- A partition's floor in a crate cache (0x340p/01, /02). -/
def State.floor (s : State) (cellar : Bool) (p : Nat) : Nat := s.odN (0x3400 + p) (if cellar then 2 else 1)

/-- The oldest of some slots; of equal last uses the lower slot number (R353). -/
def oldestSlot (l : List CacheSlot) : Option CacheSlot :=
  l.foldl (fun b x => match b with
    | none => some x
    | some y => if x.lastUse < y.lastUse || (x.lastUse == y.lastUse && x.slot < y.slot) then some x else some y) none

/-- The slot a STAGE takes and the copy it evicts (R353). -/
def State.stageSlot (s : State) (cellar : Bool) (die p : Nat) : Option (Nat × Option CacheSlot) :=
  let here := s.cacheOf cellar die
  let size := if cellar then s.tier.cacheK else s.tier.cacheH
  let held := fun q => (here.filter fun c => c.part == q).length
  if here.length < size then some (freeSlotFrom (here.map CacheSlot.slot) here.length 0, none)
  else
    let pool := if held p < s.floor cellar p then here.filter fun c => decide (s.floor cellar c.part < held c.part) else here.filter fun c => c.part == p
    (oldestSlot pool).map fun c => (c.slot, some c)

/-- Crate i of a STAGE (R349, R353). -/
def stageCrate (w : Who) (c : CmdInst) (r : Run) (i : Nat) : Run :=
  let src := sideAt c.tmSrc c.tmPitch i
  let idx := src % 2 ^ 40
  let p := r.st.ctxPart c.ctx
  let cellar := fld c.words 6 3 2 == 2
  let die := fld c.words 6 7 4
  match r.st.copyIn cellar p idx with
  | some x => { r with st := r.st.useCopy x, tiles := r.tiles + 1 }
  | none =>
    let (s1, res) := r.st.readIndex w p idx [!cellar]
    let r1 := { r with st := s1 }
    match res with
    | .error f => r1.stopped (s1.crateFin f src i)
    | .ok bs =>
      match checkCrate false c.tmSeq bs with
      | some f => r1.stopped (s1.crateFin f src i)
      | none =>
        match s1.stageSlot cellar die p with
        | none => r1
        | some (k, old) =>
          let s2 := match old with
            | some o => (s1.dropSlot o).odInc (0x3400 + o.part) 7
            | none => s1
          let x : CacheSlot := { cellar := cellar, die := die, slot := k, index := idx, part := p, ctx := w.ctx, lastUse := s2.now }
          { r1 with
            st := (s2.withTier fun t => { t with slots := x :: t.slots }).store w 1 (s2.cacheAddr cellar die k) (withIndex bs idx)
            tiles := r.tiles + 1 }

/-- How many crates of a move may be written before the first that would go to a paused NAND stack (R879). -/
def State.unpaused (s : State) (c : CmdInst) : Nat :=
  if decide (c.sub < 2) && isAttic c.tmDst then
    (((List.range 8).find? fun i => s.tier.paused.contains ((s.tier.turn + i) % 8)).getD c.tmCount)
  else c.tmCount

/-- The run of a TIER_MOVE. A fault's record holds F in TILES_WRITTEN too (R327). -/
def tierRun (upTo : Option Nat) (s : State) (w : Who) (e : Exec) : Run :=
  let c := e.cmd
  let body := match c.sub with
    | 2 => stageCrate w c
    | 3 => discardCrate c
    | 4 => dropCrate c
    | _ => moveCrate w c
  let r := runGroups body (upTo.map (min (s.unpaused c))) (Run.start s e) (List.range c.tmCount)
  match r.stop with
  | some d => if d.fault.isSome then { r with tiles := d.failInfo } else r
  | none => r

/-! Who executes it. -/

/-- The TIER_MOVE of a context that the hub die executes next: its oldest command there. -/
def State.hubExec (s : State) (cc : Nat) (mine : CmdInst → Bool) : Option Exec :=
  ((s.hub.find? fun e => e.cmd.ctx == cc)).filter fun e => mine e.cmd

/-- A hub-die command ended; after a fault or a rejection the context's commands not started there are read again when the context resumes (R212, R634). -/
def State.endHub (s : State) (e : Exec) (d : Fin) : State :=
  let same : Exec → Bool := fun x => x.cmd.ctx == e.cmd.ctx && x.cmd.slot == e.cmd.slot
  let bad := d.status = 1 || d.status = 2
  let back : Exec → Bool := fun x => bad && x.cmd.ctx == e.cmd.ctx && !(same x) && x.phase == 0
  let s1 : State := { s with hub := s.hub.filter fun x => !(same x) && !(back x) }
  (s1.putBack ((s.hub.filter back).map Exec.cmd)).finish e.cmd 0x1FF e.start d

/-- A TIER_MOVE run by its consumer. One of which a crate would go to a paused stack waits (R879; log entry 75); those of the hub die's queue run on the attic die's movers (R329). -/
def State.tierMove (s : State) (c : Consumer) (mine : CmdInst → Bool) : State :=
  let m : CmdInst → Bool := fun x => x.op == 0x23 && mine x && decide (x.tmCount ≤ s.unpaused x)
  match c with
  | .core n => s.runCore n m (fun x _ => tierChecks false x) fun t k e => tierRun none t (t.whoExec k e) e
  | .hub cc =>
    match s.hubExec cc m with
    | none => s
    | some e0 =>
      let e := { e0 with start := s.now, limit := s.limitOf e0.cmd }
      if !s.ready then s
      else match s.rejection e.cmd [] (tierChecks true e.cmd) with
        | some d => s.endHub e d
        | none => let r := tierRun none s { s.whoCtx cc none with die := dieAttic } e; r.st.endHub e r.fin
  | .update _ | .reduction _ | .media _ => s

/-- TIER_MOVE_MOVE (R327); it also rejects an undefined SUBOP. -/
def execTierMoveMove (c : Consumer) (s : State) : Host.Outcome State Fault Refusal := .next (s.tierMove c fun x => x.sub == 0 || decide (4 < x.sub))

/-- TIER_MOVE_SEAL (R323). -/
def execTierMoveSeal (c : Consumer) (s : State) : Host.Outcome State Fault Refusal := .next (s.tierMove c fun x => x.sub == 1)

/-- TIER_MOVE_STAGE (R349). -/
def execTierMoveStage (c : Consumer) (s : State) : Host.Outcome State Fault Refusal := .next (s.tierMove c fun x => x.sub == 2)

/-- TIER_MOVE_DISCARD (R351). -/
def execTierMoveDiscard (c : Consumer) (s : State) : Host.Outcome State Fault Refusal := .next (s.tierMove c fun x => x.sub == 3)

/-- TIER_MOVE_DROP (R323). -/
def execTierMoveDrop (c : Consumer) (s : State) : Host.Outcome State Fault Refusal := .next (s.tierMove c fun x => x.sub == 4)

/-! A write cut short. -/

/-- A move to the Attic that loss of power or a reset cuts off while its first crate is being written: as many of the three operations of R358 are done as a free value says (log entry 75). -/
def State.cutWrite (s : State) (w : Who) (c : CmdInst) : State :=
  if c.op = 0x23 && decide (c.sub < 2) && isAttic c.tmDst then
    match s.readCrate w c 0 with
    | (_, .error _) => s
    | (_, .ok bs0) =>
      let bs := if c.sub = 1 then sealCrate bs0 else bs0
      let p := s.ctxPart c.ctx
      let i := c.tmDst % 2 ^ 40
      if (s.atticPutFault p i bs).isSome then s
      else match s.placeNext (crateUnits bs) with
        | (_, none) => s
        | (t, some b) => t.programRecord (Config.cutShort s.tier.gen % 4) (t.newRecord w p i b (withIndex bs i))
  else s

/-- Every Attic write under way cut off. -/
def State.cutWrites (s : State) : State :=
  (s.cores.filterMap fun k => k.exec.map Exec.cmd).foldl (fun t c => t.cutWrite { ctx := some c.ctx, core := some c.target } c)
    (s.hub.foldl (fun t e => t.cutWrite { ctx := some e.cmd.ctx } e.cmd) s)

/-! Maintenance. -/

/-- One crate of a block moved to a free page of the same stack, with a new map record (R337; log entry 75); charged to no partition (R329). A crate that cannot be read stays (R341). -/
def State.relocateOne (s : State) (c : AtticCrate) : State :=
  if c.bad then s
  else match s.pageIn (c.block % 8) (crateUnits c.bytes) with
    | (t, none) => t
    | (t, some b) =>
      let r : AtticCrate := { t.newRecord {} c.part c.index b c.bytes with ctx := c.ctx }
      (((t.charge {} 12 2 0 c.bytes.length).programRecord 3 r).applyRecord r).charge {} 12 3 0 c.bytes.length

/-- A block's valid units moved to other blocks (R337). -/
def State.emptyBlock (s : State) (b : Nat) : State := (s.tier.crates.filter fun c => c.block == b).foldl State.relocateOne (s.closeBlock b)

/-- A block relocated (R337): its valid units moved, then the block erased, or retired when a program has failed in it or it holds a unit that cannot be corrected (R341); a block whose units find no free page stays as it is. -/
def State.relocate (s : State) (b : Nat) : State :=
  let t := s.emptyBlock b
  let left := t.tier.crates.filter fun c => c.block == b
  if left.any fun c => !c.bad then t
  else (if (s.block b).leaving || !left.isEmpty then t.retire b else t.eraseBlock b).odInc 0x3300 7

/-- ATTIC_RELOCATE (R336, R337): the oldest block of the queue. -/
def execAtticRelocate (block : Nat) (s : State) : Host.Outcome State Fault Refusal :=
  .next (if s.tier.queue.head? = some block && !s.tier.offline then s.relocate block else s)

/-- The block wear levelling relocates (R340): that of lowest erase count, in the first stack whose counts differ by more than 256. -/
def State.wearVictim (s : State) : Option Nat :=
  (List.range 8).findSome? fun k =>
    let all := s.stackPool k
    let most := all.foldl (fun m x => max m x.erases) 0
    ((leastErased all).filter fun (x : AtticBlock) => decide (x.erases + 256 < most)).map AtticBlock.block

/-- WEAR_LEVEL_RELOCATE (R340). -/
def execWearLevelRelocate (s : State) : Host.Outcome State Fault Refusal :=
  .next (match s.wearVictim with
    | some b => if s.tier.offline then s else s.relocate b
    | none => s)

end Sys2Proof.Machine
end

