-- ==== Sys2Proof/Machine/Norm.lean ====
section
/-! DEFINITION. Norm groups: the norm and tree records, combining, the verdict, and the loss scale (R465 to R475, R564 to R573, R908). -/
namespace Sys2Proof.Machine

/-! Records. -/

/-- The eight words of a norm record (R465). -/
structure NormRec where
  step : Nat
  elems : Nat
  sumsq : A32
  gnorm : A32 := 0#32
  clip : A32 := 0#32
  lscale : A32
  cause : Nat
  kind : Nat
  contrib : Nat
  deriving DecidableEq, Repr

/-- A norm record's words (R465). -/
def normWords (r : NormRec) : List Word :=
  [r.step, r.elems, r.sumsq.toNat + r.gnorm.toNat * 2 ^ 32, r.clip.toNat + r.lscale.toNat * 2 ^ 32, r.cause % 32 + r.kind % 256 * 2 ^ 8 + r.contrib % 2 ^ 32 * 2 ^ 32, 0, 0, 0].map (BitVec.ofNat 64)

/-- A norm record read from its words. -/
def normOf (ws : List Word) : NormRec :=
  { step := fld ws 0 63 0, elems := fld ws 1 63 0, sumsq := BitVec.ofNat 32 (fld ws 2 31 0), gnorm := BitVec.ofNat 32 (fld ws 2 63 32)
    clip := BitVec.ofNat 32 (fld ws 3 31 0), lscale := BitVec.ofNat 32 (fld ws 3 63 32), cause := fld ws 4 4 0, kind := fld ws 4 15 8, contrib := fld ws 4 63 32 }

/-- Whether a reserved bit of a norm record is set. -/
def normReserved (ws : List Word) : Bool := fld ws 4 7 5 != 0 || fld ws 4 31 16 != 0 || [5, 6, 7].any fun i => fld ws i 63 0 != 0

/-- Fields of a tree record (R467). -/
def treeParent (ws : List Word) : Nat := fld ws 0 11 0
def treeRoot (ws : List Word) : Bool := fld ws 0 12 12 == 1
def treeLocal (ws : List Word) : Nat := fld ws 0 23 21
def treeNchild (ws : List Word) : Nat := fld ws 0 28 24
def treeMaxnorm (ws : List Word) : A32 := BitVec.ofNat 32 (fld ws 0 63 32)
def treeTotal (ws : List Word) : Nat := fld ws 1 63 0
def treeChild (ws : List Word) (i : Nat) : Nat := fld ws (2 + i / 4) (16 * (i % 4) + 11) (16 * (i % 4))
def treeChildren (ws : List Word) : List Nat := (List.range (treeNchild ws)).map (treeChild ws)

/-- Whether a reserved bit of a tree record is set. -/
def treeReserved (ws : List Word) : Bool :=
  fld ws 0 20 13 != 0 || fld ws 0 31 29 != 0 || (List.range 24).any fun i => fld ws (2 + i / 4) (16 * (i % 4) + 15) (16 * (i % 4) + 12) != 0

/-- A tree record no group can use (R467). -/
def treeBad (ws : List Word) : Bool := decide (24 < treeNchild ws) || treeLocal ws == 0 || decide (4 < treeLocal ws)

/-! CAUSE bits (R462). -/

def causeNonfinite : Nat := 1
def causeSkew : Nat := 2
def causeCount : Nat := 4
def causeSlot : Nat := 8
def causeScale : Nat := 16

/-- A quotient of A32 rounded to nearest-even (R471, R482): a quotient to more than 90 bits whose lowest bit says that it is not exact. -/
def a32DivNear (a b : A32) : A32 :=
  match a32Val a, a32Val b with
  | .num n1 m1 k1, .num n2 m2 k2 =>
    if m2 = 0 then (if m1 = 0 then a32Nan else a32Max n1)
    else if m1 = 0 then toA32 (.num (n1 != n2) 0 0)
    else toA32 (.num (n1 != n2) (2 * (m1 * 2 ^ 120 / m2) + (if m1 * 2 ^ 120 % m2 = 0 then 0 else 1)) (k1 - k2 - 256 * 121))
  | _, _ => a32Nan

/-- Whether a sum of squares calls for NONFINITE: NaN or the largest finite magnitude (R462, R471). -/
def sumsqBad (x : A32) : Bool := (a32Val x).isNan || x == a32Max false

/-! The slots of the update engines. -/

/-- A norm slot: partition p's slot k of engine c (R464). -/
def State.slot (s : State) (c p k : Nat) : NormSlot := nth (s.engine c).slots (p * 4 + k) {}

/-- A norm slot changed. -/
def State.updSlot (s : State) (c p k : Nat) (f : NormSlot → NormSlot) : State :=
  s.updEngine c fun (e : UpdEngine) => { e with slots := modAt e.slots (p * 4 + k) f }

def CmdInst.uStep (c : CmdInst) : Nat := fld c.words 4 63 0
def CmdInst.uGroup (c : CmdInst) : Nat := fld c.words 3 27 24
def CmdInst.uSlot (c : CmdInst) : Nat := fld c.words 3 22 21
def CmdInst.uHdr (c : CmdInst) : Nat := fld c.words 5 51 0
def CmdInst.uA (c : CmdInst) : Nat := fld c.words 6 51 0
def CmdInst.uB (c : CmdInst) : Nat := fld c.words 7 51 0

/-- An update engine's command ended; after a fault or a rejection the context's commands it holds are read again when the context resumes (R212, R634). -/
def State.endUpdate (s : State) (c : Nat) (e : Exec) (d : Fin) : State :=
  let mine : CmdInst → Bool := fun x => x.ctx == e.cmd.ctx
  let bad := d.status = 1 || d.status = 2
  let back := if bad then (s.engine c).queue.filter mine else []
  let s1 := s.updEngine c fun (x : UpdEngine) => { x with exec := none, queue := if bad then x.queue.filter (fun y => !mine y) else x.queue }
  (s1.putBack back).finish e.cmd 0x1FF e.start d

/-- A fault of a command on an engine, with nothing else in its record. -/
def failFin (c : Code) : Fin := { status := 2, fault := some c }

/-! Waiting NORM_REDUCE commands: phase 1 has contributed, phase 2 waits for its group to move. -/

/-- The update engines whose executing NORM_REDUCE is of a group and in a phase, in die order. -/
def State.reducersOf (s : State) (p g phase : Nat) : List (Nat × Exec) :=
  (List.range 4).filterMap fun c =>
    match (s.engine c).exec with
    | some e => if e.cmd.op == 0x40 && e.cmd.sub == 1 && e.phase == phase && s.ctxPart e.cmd.ctx == p && e.cmd.uGroup == g then some (c, e) else none
    | none => none

/-! The loss scale. -/

/-- The group's settings: entry 16 g + k of 0x2F3p (R564). -/
def State.lossN (s : State) (p g k : Nat) : Nat := s.odN (0x2F30 + p) (16 * g + k)
def State.lossZ (s : State) (p g k : Nat) : Int := toSigned 8 (s.lossN p g k % 256)

/-- L changed by the group itself (R567). -/
def State.setLoss (s : State) (p g : Nat) (l : Int) : State := s.odSet (0x2F30 + p) (16 * g + 1) (BitVec.ofInt 64 l)

/-- The loss scale a group holds, in A32 (R564). -/
def State.lscale (s : State) (p g : Nat) : A32 := a32Pow2 (s.lossExp p g)

/-- A fault of a group, for its partition. -/
def groupFault (c : Code) (p : Nat) : FaultRec := { code := c, part := some p, unit := { kind := 16, inst := p } }

/-- The group's loss-scale state after the verdict of step t (R567, R570, R571). -/
def State.applyVerdict (s : State) (p g t : Nat) (go : Bool) (cause : Nat) : State :=
  let x := s.group p g
  let l := s.lossExp p g
  let mn := s.lossZ p g 5
  if go then
    let done := decide (s.lossN p g 4 ≤ x.clean + 1)
    let l' := if done then min (s.lossZ p g 6) (l + s.lossN p g 3) else l
    (s.setLoss p g l').updGroup p g fun y => { y with clean := if done then 0 else y.clean + 1, skips := 0, lastStep := t, runOnce := false, minOnce := y.minOnce && decide (l' ≤ mn) }
  else
    let nonfin := bit cause 0
    let l' := if nonfin then max mn (l - s.lossN p g 2) else l
    let once := x.minOnce && decide (l ≤ mn)
    let atMin := nonfin && decide (l ≤ mn) && !once
    let long := decide (s.lossN p g 7 ≤ x.skips + 1) && !x.runOnce
    let s1 := (s.setLoss p g l').updGroup p g fun y =>
      { y with clean := if nonfin then 0 else y.clean, skips := y.skips + 1, overflows := if nonfin then y.overflows + 1 else y.overflows
               lastStep := t, minOnce := once || atMin, runOnce := y.runOnce || long }
    let s2 := if atMin then s1.raise (groupFault .numLscaleMin p) else s1
    if long then s2.raise (groupFault .numSkipRun p) else s2

/-! Combining and the way up. -/

/-- Address of norm group g of partition p (R466). -/
def normObj (p g : Nat) : Nat := 0xF0000C000000 + p * 0x400 + g * 0x40

/-- The child partials of a group in CHILD order, if all are held. -/
def groupKids (x : NormGroup) : Option (List NormPartial) := (treeChildren x.tree).mapM fun a => x.children.find? fun k => k.from_ == a

/-- A group that holds all its contributions forms its partial (R469). -/
def State.formPartial (s : State) (p g : Nat) : Option NormRec :=
  let x := s.group p g
  if x.st != .gathering || x.tree.isEmpty || x.locals.length < treeLocal x.tree then none
  else (groupKids x).map fun kids =>
    let locs := (List.range 4).flatMap fun c => x.locals.filter fun l => l.from_ == c
    let all := locs ++ kids
    let ls := s.lscale p g
    { step := x.step, elems := (all.map NormPartial.elems).sum % 2 ^ 64, sumsq := all.foldl (fun a k => a32Add .nearest 0 a k.sumsq) a32Zero, lscale := ls
      cause := (all.foldl (fun a k => a ||| k.cause) 0) ||| (if kids.any fun k => k.lscale != ls then causeScale else 0), kind := 1
      contrib := 1 + (kids.map NormPartial.contrib).sum }

/-- The root's verdict (R471). -/
def rootVerdict (tree : List Word) (r : NormRec) : NormRec :=
  let c1 := if sumsqBad r.sumsq then r.cause ||| causeNonfinite else r.cause
  let cause := if treeTotal tree != 0 && r.elems != treeTotal tree then c1 ||| causeCount else c1
  let gnorm := a32DivNear (a32Fn .sqrt r.sumsq) r.lscale
  let mx := treeMaxnorm tree
  let clip := if (a32Val mx).isZero || (a32Val gnorm).le (a32Val mx) then a32One else a32DivNear mx gnorm
  { r with cause := cause, gnorm := gnorm, clip := clip, kind := if cause = 0 then 2 else 3 }

/-- A norm message to a module (R466). -/
def State.sendNorm (s : State) (p g dst : Nat) (r : NormRec) : Except Code State :=
  s.message { part := some p } dst (0xE0 + g) (normObj p g) (bytesOfWords (normWords r))

/-- Norm messages to several modules; the first that cannot be sent is reported, the others are sent. -/
def State.sendNorms (s : State) (p g : Nat) (r : NormRec) : List Nat → State × Option (Code × Nat)
  | [] => (s, none)
  | d :: ds =>
    match s.sendNorm p g d r with
    | .ok t => t.sendNorms p g r ds
    | .error c => let x := s.sendNorms p g r ds; (x.1, some (c, d * 2 ^ 52 + normObj p g))

/-- A local NORM_REDUCE given its verdict: its slot, its result record, its end (R472, R473). -/
def State.giveVerdict (s : State) (v : NormRec) (late : Option (Code × Nat)) (x : Nat × Exec) : State :=
  let c := x.2.cmd
  let p := s.ctxPart c.ctx
  let s1 := s.updSlot x.1 p c.uSlot fun (k : NormSlot) =>
    { k with st := if v.kind = 2 then .go else .skip, step := v.step, cause := v.cause, gnorm := v.gnorm, clip := v.clip, lscale := v.lscale }
  let w := { s.whoCtx c.ctx none with die := dieCellar x.1 }
  let fin := match x.2.ending with
    | some d => d
    | none => match late with
      | some f => { status := 2, fault := some f.1, failAddr := f.2 }
      | none => {}
  if c.uB = 0 then s1.endUpdate x.1 x.2 fin
  else match s1.storeFault w c.uB 64 with
    | some f => s1.endUpdate x.1 x.2 { status := 2, fault := some f.1, failAddr := s1.globalAddr f.2 }
    | none => (s1.store w 0 c.uB (bytesOfWords (normWords v))).endUpdate x.1 x.2 fin

/-- A verdict taken by a group: its loss scale first (R567, R573), then its children, then its local commands (R472). -/
def State.takeVerdict (s : State) (p g : Nat) (v : NormRec) : State :=
  let x := s.group p g
  let s1 := (s.applyVerdict p g v.step (v.kind == 2) v.cause).updGroup p g fun y => { y with st := if v.kind = 2 then .go else .skip }
  let r := s1.sendNorms p g v (treeChildren x.tree)
  ((r.1.reducersOf p g 1).filter fun y => y.2.cmd.uStep == v.step).foldl (fun t y => t.giveVerdict v r.2 y) r.1

/-- A step marked ABANDONED: its other local commands end FAULTED with a fault, their slots staying WAITING (R475). -/
def State.abandon (s : State) (p g : Nat) (d : Fin) : State :=
  let x := s.group p g
  let s1 := s.updGroup p g fun y => { y with st := .abandoned, locals := [] }
  ((s1.reducersOf p g 1).filter fun y => y.2.cmd.uStep == x.step).foldl (fun t y => t.endUpdate y.1 y.2 d) s1

/-- A group's partial sent to its parent (R470); where it cannot be sent the step is abandoned (log entry 25). -/
def State.sendUp (s : State) (p g : Nat) (r : NormRec) : State :=
  let par := treeParent (s.group p g).tree
  match s.sendNorm p g par r with
  | .ok t => t.updGroup p g fun y => { y with st := .sent }
  | .error c => s.abandon p g { status := 2, fault := some c, failAddr := if c = .fabUnreachable then par * 2 ^ 52 + normObj p g else 0 }

/-- A group moved to a step: the partials held for it apply, those of other steps are discarded and counted (R908). -/
def State.moveGroup (s : State) (p g t : Nat) : State :=
  let x := s.group p g
  let mine := x.next.filter fun k => k.step == t
  (s.updGroup p g fun y => { y with st := .gathering, step := t, tree := [], locals := [], children := mine, next := [] }).odAdd 0x3600 1 (x.next.length - mine.length)

/-- A NORM_REDUCE's contribution taken by a group that stands at its step (R464, R468). The tree record it read is held in its first record. -/
def State.contribute (s : State) (c : Nat) (e : Exec) : State :=
  let p := s.ctxPart e.cmd.ctx
  let g := e.cmd.uGroup
  let t := e.cmd.uStep
  let tree := match e.recs with | .words ws :: _ => ws | _ => []
  let x := s.group p g
  let k := s.slot c p e.cmd.uSlot
  let ready := k.st == .gathering && k.step == t
  let other := !x.tree.isEmpty && x.tree != tree
  let cause := (if ready then k.cause else causeSlot) ||| (if other then causeSlot else 0)
  let fault := if other then some Code.updTree else if !ready then some .updSlotState else if bit cause 1 then some .updStepSkew else none
  let l : NormPartial := { from_ := c, step := t, sumsq := if ready then k.sumsq else a32Zero, elems := if ready then k.elems else 0, cause := cause, contrib := 0, lscale := s.lscale p g }
  let s1 := s.updGroup p g fun y => { y with tree := if y.tree.isEmpty then tree else y.tree, locals := y.locals ++ [l] }
  let s2 := if ready then s1.updSlot c p e.cmd.uSlot fun (y : NormSlot) => { y with st := .waiting } else s1
  s2.updEngine c fun (y : UpdEngine) => { y with exec := some { e with phase := 1, ending := fault.map failFin } }

/-- What a local NORM_REDUCE does by its group's state (R908). -/
def State.joinGroup (s : State) (c : Nat) (e : Exec) : State :=
  let p := s.ctxPart e.cmd.ctx
  let g := e.cmd.uGroup
  let t := e.cmd.uStep
  let x := s.group p g
  match x.st with
  | .idle => (s.moveGroup p g t).contribute c e
  | .gathering | .sent =>
    if t = x.step then (if x.tree.isEmpty || x.locals.length < treeLocal x.tree then s.contribute c e else s.endUpdate c e (failFin .updTree))
    else if t = x.step + 1 then s.updEngine c fun (y : UpdEngine) => { y with exec := some { e with phase := 2 } }
    else s.endUpdate c e (failFin .updStepSkew)
  | .go | .skip => if t = x.step then s.endUpdate c e (failFin .updTree) else (s.moveGroup p g t).contribute c e
  | .abandoned => if t = x.step then s.endUpdate c e (failFin .updNormAbandoned) else (s.moveGroup p g t).contribute c e

/-- A group carried as far as what it holds allows: partial or verdict formed, then the commands waiting for the next step (R469 to R472, R908). -/
def State.settleGroup (p g : Nat) : Nat → State → State
  | 0, s => s
  | n + 1, s =>
    match s.formPartial p g with
    | some r => settleGroup p g n (if treeRoot (s.group p g).tree then s.takeVerdict p g (rootVerdict (s.group p g).tree r) else s.sendUp p g r)
    | none =>
      let x := s.group p g
      let done := x.st == .go || x.st == .skip || x.st == .abandoned
      match (s.reducersOf p g 2).filter fun y => done || y.2.cmd.uStep == x.step with
      | (c, e) :: _ => settleGroup p g n (s.joinGroup c e)
      | [] => s

/-! Norm messages. -/

/-- The object a message's ADDR names: the partition and the number, of objects `step` bytes apart with `count` a partition. -/
def objectOf (base size step count addr : Nat) : Option (Nat × Nat) :=
  if base ≤ addr && addr < base + 16 * size && (addr - base) % step == 0 && (addr - base) % size / step < count then some ((addr - base) / size, (addr - base) % size / step) else none

/-- A norm message discarded and counted (R466, R474); UPD.NORM_STRAY at most once a second where R474 says so. -/
def State.normStray (s : State) (p : Nat) (raise : Bool) : State :=
  let s1 := s.odInc 0x3600 1
  if raise then s1.recordLimited (groupFault .updNormStray p) p else s1

/-- A norm message that the group does not take: one of another step is discarded, counted and raised (R474), one of its own step, late for an abandoned step (R475) or a second one, only discarded (log entry 25). -/
def State.normDrop (s : State) (p g step : Nat) : State :=
  if (s.group p g).st != .idle && step == (s.group p g).step then s else s.normStray p true

/-- A child's partial taken for the current step, held for a later one, or discarded (R469, R474; log entry 25). -/
def State.childPartial (s : State) (p g src : Nat) (r : NormRec) : State :=
  let x := s.group p g
  let k : NormPartial := { from_ := src, step := r.step, sumsq := r.sumsq, elems := r.elems, cause := r.cause, contrib := r.contrib, lscale := r.lscale }
  let hold := s.updGroup p g fun y => { y with next := y.next.filter (fun z => z.from_ != src) ++ [k] }
  if x.st == .idle then hold
  else if r.step = x.step && x.st == .gathering && (x.tree.isEmpty || (treeChildren x.tree).contains src) && !(x.children.any fun y => y.from_ == src) then
    settleGroup p g 12 (s.updGroup p g fun y => { y with children := y.children ++ [k] })
  else if r.step = x.step + 1 && !(x.next.any fun y => y.from_ == src) then hold
  else s.normDrop p g r.step

/-- A norm message received (R466, R474); one with a reserved field set is rejected with UPD.RESERVED (R16, R493). -/
def State.normMessage (s : State) (q : Packet) (p g : Nat) : State :=
  let ws := wordsOf 8 q.data
  let r := normOf ws
  let x := s.group p g
  if q.tag = 0 || q.tag != s.tagOf p || q.data.length != 64 then s.normStray p false
  else if normReserved ws then s.record (groupFault .updReserved p)
  else if r.kind = 1 then s.childPartial p g q.src r
  else if (r.kind = 2 || r.kind = 3) && x.st == .sent && r.step == x.step && q.src == treeParent x.tree then settleGroup p g 12 (s.takeVerdict p g r)
  else s.normDrop p g r.step

end Sys2Proof.Machine
end

