-- ==== Sys2Proof/Machine/Update.lean ====
section
/-! DEFINITION. The UPDATE command: its checks, pass one, the slots, and the update program (R449 to R464, R477 to R488, R491). -/
namespace Sys2Proof.Machine

/-! The engine's frame. -/

/-- The command an update engine starts next, when it is the row's (R455). -/
def State.nextUpdate (s : State) (c : Nat) (mine : CmdInst → Bool) : Option CmdInst :=
  if c < 4 && s.ready && (s.engine c).exec.isNone then ((s.engine c).queue.head?).filter fun x => x.op == 0x40 && mine x else none

/-- A record of `n` words a command reads when it starts (R455, R902). -/
def State.readRec (s : State) (w : Who) (a n : Nat) : RecRead :=
  match s.loadFault w a (8 * n) with
  | some f => .failed f.1 (s.globalAddr f.2)
  | none => .words (s.words a n)

/-- A record that must lie in the Cellar (R449, R495): one in a scratchpad is not read, and the field that names it is then rejected (CMD.FIELD). -/
def State.readCellarRec (s : State) (w : Who) (a n : Nat) : RecRead := if region a = 8 && (s.mapFault w false a).map Prod.fst != some .memUnmapped then .beyond else s.readRec w a n

/-- The words of a record read; none where it failed. -/
def RecRead.ws : RecRead → List Word
  | .words l => l
  | .failed _ _ => []
  | .beyond => []

/-- A stream descriptor of an UPDATE: none where the field names no stream (R450). -/
def State.readStream (s : State) (w : Who) (cc i : Nat) (needed : Bool) : Option RecRead :=
  if i = 0xFFFF && !needed then none else some (s.readDesc w cc i)

/-- What an UPDATE reads when it starts (R455): its five streams P, G, M1, M2 and R, its header, program or tree or norm record, and scalar record. -/
structure UpdReads where
  p : Option RecRead := none
  g : Option RecRead := none
  m1 : Option RecRead := none
  m2 : Option RecRead := none
  r : Option RecRead := none
  hdr : Option RecRead := none
  a : Option RecRead := none
  b : Option RecRead := none

/-- Program words, one instruction of 32 bits each (R477). -/
def CmdInst.progLen (c : CmdInst) : Nat := fld c.words 3 20 16 + 1

/-- The reads of an UPDATE (R454, R455). -/
def State.updReads (s : State) (w : Who) (c : CmdInst) : UpdReads :=
  let d := fun (wd lo : Nat) (needed : Bool) => s.readStream w c.ctx (fld c.words wd (lo + 15) lo) needed
  match c.sub with
  | 0 => { g := d 2 16 true, r := d 3 0 false, hdr := some (s.readCellarRec w c.uHdr 8) }
  | 1 => { a := some (s.readCellarRec w c.uA 8) }
  | 2 => { p := d 2 0 false, g := d 2 16 true, m1 := d 2 32 false, m2 := d 2 48 false, r := d 3 0 false, hdr := some (s.readCellarRec w c.uHdr 8)
           a := some (s.readCellarRec w c.uA (ceilDiv c.progLen 2)), b := some (s.readCellarRec w c.uB 16) }
  | 4 => { a := some (s.readCellarRec w c.uA 8) }
  | _ => {}

/-- The accesses of an update engine's command (R37): they come from its cellar die. -/
def State.whoUpd (s : State) (k cc : Nat) : Who := { s.whoCtx cc none with die := dieCellar k }

/-- The stream fields of an UPDATE by SUBOP, in the order P, G, M1, M2, R; optional ones that name no stream are left out (R450, R454). -/
def CmdInst.updStreams (c : CmdInst) : List Nat :=
  let f := fun wd lo => fld c.words wd (lo + 15) lo
  let opt := fun i => if i = 0xFFFF then [] else [i]
  if c.sub = 0 then f 2 16 :: opt (f 3 0)
  else if c.sub = 2 then opt (f 2 0) ++ f 2 16 :: (opt (f 2 32) ++ opt (f 2 48) ++ opt (f 3 0))
  else []

/-- The records of an UPDATE by SUBOP: address and bytes (R454, R455). -/
def CmdInst.updRecords (c : CmdInst) : List (Nat × Nat) :=
  match c.sub with
  | 0 => [(c.uHdr, 64)]
  | 1 => [(c.uA, 64)]
  | 2 => [(c.uHdr, 64), (c.uA, 8 * ceilDiv c.progLen 2), (c.uB, 128)]
  | 4 => [(c.uA, 64)]
  | _ => []

/-- The reads in the order of their fields. -/
def UpdReads.all (x : UpdReads) : List RecRead := x.p.toList ++ x.g.toList ++ x.m1.toList ++ x.m2.toList ++ x.r.toList ++ x.hdr.toList ++ x.a.toList ++ x.b.toList

/-- A stream's descriptor. -/
def streamOf (x : Option RecRead) : Option Desc := x.bind RecRead.desc

/-- The streams of an UPDATE by their operand number (R478). -/
def UpdReads.streams (x : UpdReads) : List (Nat × Desc) :=
  [(0x10, x.p), (0x11, x.g), (0x12, x.m1), (0x13, x.m2), (0x14, x.r)].filterMap fun y => (streamOf y.2).map fun d => (y.1, d)

/-- A stream by its operand number. -/
def streamAt (l : List (Nat × Desc)) (k : Nat) : Option Desc := (l.find? fun x => x.1 == k).map Prod.snd

/-- Whether a run of bytes lies in a cellar die's part of the Cellar (R30, R449). -/
def inDie (c a n : Nat) : Bool := region a == 1 && region (a + n - 1) == 1 && offset a / cellarDieBytes == c && offset (a + n - 1) / cellarDieBytes == c

/-- The byte ranges of a tensor: its element extent and its scale array. -/
def Desc.spans (d : Desc) : List (Nat × Nat) := (d.base, d.endAddr) :: (if d.scaled then [(d.scaleBase, d.scaleBase + d.scaleBytes)] else [])

/-- Whether a tensor lies in a cellar die (R449). -/
def descInDie (c : Nat) (d : Desc) : Bool := d.spans.all fun x => inDie c x.1 (x.2 - x.1)

/-! The shard header (R457). -/

/-- HCRC a shard header should have. -/
def shardCrc (ws : List Word) : Nat := crc32c (bytesOfWords (ws.take 7) ++ leBytes 4 0 ++ (bytesOfWords (ws.drop 7)).drop 4)

/-- Whether a reserved bit of a shard header is set. -/
def shardReserved (ws : List Word) : Bool := fld ws 3 63 40 != 0 || [4, 5, 6].any (fun i => fld ws i 63 0 != 0) || fld ws 7 63 32 != 0

/-- A header's words with a fresh HCRC (R459). -/
def shardWords (step applied skipped gnorm cause : Nat) : List Word :=
  let b := [step % 2 ^ 64, applied % 2 ^ 64, skipped % 2 ^ 64, gnorm + cause % 256 * 2 ^ 32, 0, 0, 0].map (BitVec.ofNat 64)
  b ++ [BitVec.ofNat 64 (shardCrc (b ++ [0#64]))]

/-! The update program (R477 to R482). -/

/-- An instruction of an update program (R477). -/
structure Ins where
  op : Nat
  dst : Nat
  a : Nat
  b : Nat
  c : Nat
  resv : Nat
  deriving DecidableEq, Repr

/-- An instruction from its 32 bits. -/
def insOf (x : Nat) : Ins := { op := bits x 31 26, dst := bits x 25 20, a := bits x 19 14, b := bits x 13 8, c := bits x 7 2, resv := bits x 1 0 }

/-- Operands an operation uses (R479); none for an operation not defined. -/
def insArity (op : Nat) : Option Nat :=
  if op = 0x06 || op = 0x07 || op = 0x0A || op = 0x0B || op = 0x10 then some 1
  else if op = 0x04 || op = 0x0C || op = 0x0D then some 3
  else if op = 0x01 || op = 0x02 || op = 0x03 || op = 0x05 || op = 0x08 || op = 0x09 || op = 0x11 then some 2
  else none

/-- The operands an instruction uses. -/
def Ins.operands (i : Ins) : List Nat := [i.a, i.b, i.c].take ((insArity i.op).getD 0)

/-- Whether an instruction is a scalar one: it writes a working scalar (R478). -/
def Ins.isScalar (i : Ins) : Bool := decide (0x38 ≤ i.dst)

/-- Whether an operand number is a scalar's. -/
def isScalarNum (v : Nat) : Bool := (decide (0x20 ≤ v) && decide (v ≤ 0x35)) || decide (0x38 ≤ v)

/-- A reserved bit or an unused operand field not zero (R481). -/
def Ins.reserved (i : Ins) : Bool :=
  i.resv != 0 || (match insArity i.op with | some n => ([i.a, i.b, i.c].drop n).any (· != 0) | none => false)

/-- Whether an instruction breaks a rule of R481, given the streams there are and the instructions before it. -/
def insBad (streams : List Nat) (before : List Ins) (i : Ins) : Bool :=
  let written := before.map Ins.dst
  (insArity i.op).isNone
    || i.operands.any (fun v => !(decide (v ≤ 0x14) || isScalarNum v)
        || ((decide (v < 0x10) || decide (0x38 ≤ v)) && !(written.contains v))
        || (decide (0x10 ≤ v) && decide (v ≤ 0x14) && !(streams.contains v))
        || (i.isScalar && !(isScalarNum v)))
    || !(decide (i.dst ≤ 0x10) || (decide (0x12 ≤ i.dst) && decide (i.dst ≤ 0x14)) || i.isScalar)
    || (decide (0x10 ≤ i.dst) && decide (i.dst ≤ 0x14) && (!(streams.contains i.dst) || written.contains i.dst))
    || (i.isScalar && before.any fun j => !j.isScalar)
    || (i.op == 0x11 && !i.isScalar)

/-- Whether a program breaks a rule of R481. -/
def progBad (streams : List Nat) (prog : List Ins) : Bool := (List.range prog.length).any fun k => match prog[k]? with | some i => insBad streams (prog.take k) i | none => false

/-- The program of an APPLY. -/
def CmdInst.program (c : CmdInst) (ws : List Word) : List Ins :=
  (List.range c.progLen).map fun k => insOf (fld ws (k / 2) (32 * (k % 2) + 31) (32 * (k % 2)))

/-- The streams a program stores to, ascending. -/
def storedOf (prog : List Ins) : List Nat := [0x10, 0x12, 0x13, 0x14].filter fun k => prog.any fun i => i.dst == k && (insArity i.op).isSome

/-- SIGN: -1, 0 or +1; NaN gives NaN (R479). -/
def a32Sign (x : A32) : A32 :=
  match a32Val x with
  | .nan => a32Nan
  | .num n m _ => if m = 0 then a32Zero else if n then a32Neg a32One else a32One

/-- An operation of an update program (R479). -/
def insFn (op : Nat) (a b c : A32) : A32 :=
  match op with
  | 0x01 => a32Add .nearest 0 a b
  | 0x02 => a32Round .nearest 0 ((a32Val a).sub (a32Val b))
  | 0x03 => a32Mul a b
  | 0x04 => a32Fma .nearest 0 a b c
  | 0x05 => a32Div a b
  | 0x06 => a32Fn .sqrt a
  | 0x07 => a32Fn .rsqrt a
  | 0x08 => a32Min a b
  | 0x09 => a32Max2 a b
  | 0x0A => a32Abs a
  | 0x0B => a32Sign a
  | 0x0C => if !(a32Val a).isNan && !(a32Val a).isZero then b else c
  | 0x0D => a32Min (a32Max2 (a32Mul a c) (a32Neg b)) b
  | 0x11 => a32Pow a b
  | _ => a

/-- One instruction on a file of values by operand number. -/
def runIns (f : List (Nat × A32)) (i : Ins) : List (Nat × A32) :=
  let v := fun k => ((f.find? fun x => x.1 == k).map Prod.snd).getD a32Zero
  (i.dst, insFn i.op (v i.a) (v i.b) (v i.c)) :: f

/-- The scalar table with its working scalars computed (R480, R482). -/
def scalarFile (prog : List Ins) (scal : List Word) (slot : NormSlot) (step applied : Nat) : List (Nat × A32) :=
  let base := (List.range 16).map (fun k => (0x20 + k, (BitVec.ofNat 32 (fld scal (2 + k / 2) (32 * (k % 2) + 31) (32 * (k % 2))) : A32)))
    ++ [(0x30, slot.clip), (0x31, slot.gnorm), (0x32, a32DivNear a32One slot.lscale), (0x33, toA32 (.num false (applied + 1) 0)), (0x34, toA32 (.num false step 0)), (0x35, a32One)]
  (prog.filter Ins.isScalar).foldl runIns base

/-- The element instructions run on one element: what each store of it stores. Streams yield what they held when the command started (R480): a store is kept under the stream's number plus 0x100. -/
def runElement (prog : List Ins) (file : List (Nat × A32)) : List (Nat × A32) :=
  (prog.filter fun i => !i.isScalar).foldl (fun f i => runIns f (if 0x10 ≤ i.dst then { i with dst := i.dst + 0x100 } else i)) file

/-! The checks (R449 to R456, R458, R467, R481, R483, R491). -/

/-- Fields a SUBOP does not use that are not zero (R454): the streams, HDR and addresses of R454's table, FINAL and PROG_LEN_M1 outside APPLY, GROUP where the command concerns no norm group, and the STEP that NORM_READ does not compare. -/
def unusedSet (c : CmdInst) : Bool :=
  let d := fun (wd lo : Nat) => fld c.words wd (lo + 15) lo
  (c.sub != 2 && (d 2 0 != 0 || d 2 32 != 0 || d 2 48 != 0 || fld c.words 3 23 23 != 0 || fld c.words 3 20 16 != 0))
    || ((c.sub == 1 || c.sub == 3 || c.sub == 4) && (d 2 16 != 0 || d 3 0 != 0 || c.uHdr != 0))
    || ((c.sub == 0 || c.sub == 3 || c.sub == 4) && c.uB != 0)
    || ((c.sub == 0 || c.sub == 2 || c.sub == 4) && c.uGroup != 0)
    || (c.sub == 3 && c.uStep != 0)

/-- Whether a program reads a stream. -/
def readsStream (prog : List Ins) (k : Nat) : Bool := prog.any fun i => !i.isScalar && i.operands.contains k

/-- Whether a written stream shares a byte with another written stream or with a stream that is read (R452). -/
def streamsOverlap (l : List (Nat × Desc)) (prog : List Ins) : Bool :=
  (storedOf prog).any fun k => match streamAt l k with
    | some d => l.any fun x => x.1 != k && ((storedOf prog).contains x.1 || readsStream prog x.1) && d.shares x.2
    | none => false

/-- The checks of R162 for an UPDATE on engine k. -/
def updChecks (k : Nat) (c : CmdInst) (x : UpdReads) (prog : List Ins) : Checks :=
  let ss := x.streams
  let ds := ss.map Prod.snd
  let aws := (x.a.map RecRead.ws).getD []
  { reserved := fld c.words 3 63 28 != 0 || [5, 6, 7].any fun i => fld c.words i 63 52 != 0
    field := decide (4 < c.sub) || unusedSet c || ds.any (fun d => !descInDie k d)
      || ((c.sub == 0 || c.sub == 2) && !(inDie k c.uHdr 64))
      || (c.sub == 0 && c.uA != 0 && !(inDie k c.uA 8))
      || ((c.sub == 1 || c.sub == 3 || c.sub == 4) && !(inDie k c.uA 64))
      || (c.sub == 1 && (treeBad aws || (c.uB != 0 && !(inDie k c.uB 64))))
      || (c.sub == 2 && (!(inDie k c.uA (4 * c.progLen)) || !(inDie k c.uB 128) || streamsOverlap ss prog))
      || (c.sub == 4 && ((fld aws 4 15 8 != 2 && fld aws 4 15 8 != 3) || fld aws 0 63 0 != c.uStep))
    desc := x.all.any RecRead.isBeyond || ds.any Desc.selfOverlap
    align := ds.any Desc.misaligned || ((c.sub == 0 || c.sub == 2) && c.uHdr % 64 != 0) || (c.sub == 2 && (c.uA % 64 != 0 || c.uB % 128 != 0))
    format := ds.any Desc.badScale || ss.any fun y => if y.1 = 0x11 then y.2.fmt != .b16 else y.1 != 0x14 && y.2.fmt == .b16
    shape := match streamAt ss 0x11 with
      | some g => ds.any fun d => d.count != g.count
      | none => false }

/-- The UPD faults a command is rejected with after those of R162, in ascending number (R456, R458, R481, R483, R493). -/
def updFault (c : CmdInst) (x : UpdReads) (prog : List Ins) : Option Code :=
  let h := (x.hdr.map RecRead.ws).getD []
  let a := (x.a.map RecRead.ws).getD []
  let b := (x.b.map RecRead.ws).getD []
  firstCode
    [ ((x.hdr.isSome && shardReserved h) || (c.sub == 2 && (prog.any Ins.reserved || fld b 1 63 0 != 0 || [10, 11, 12, 13, 14, 15].any fun i => fld b i 63 0 != 0))
        || (c.sub == 1 && treeReserved a) || (c.sub == 4 && normReserved a), .updReserved),
      (c.sub == 2 && progBad (x.streams.map Prod.fst) prog, .updProgram),
      (x.hdr.isSome && fld h 7 31 0 != shardCrc h, .updHeader),
      (c.sub == 2 && fld b 0 63 0 != c.uStep, .updScalarStep) ]

/-- The rejection of an UPDATE: the reads first (R902), then R162, then R456. -/
def State.updRejection (s : State) (k : Nat) (c : CmdInst) (x : UpdReads) : Option Fin :=
  let prog := if c.sub = 2 then c.program ((x.a.map RecRead.ws).getD []) else []
  match firstFailed x.all with
  | some f => some (rejectAt f.1 f.2)
  | none => (s.rejection c (x.streams.map fun y => RecRead.words (match y.1 with
      | 0x10 => (x.p.map RecRead.ws).getD [] | 0x11 => (x.g.map RecRead.ws).getD [] | 0x12 => (x.m1.map RecRead.ws).getD []
      | 0x13 => (x.m2.map RecRead.ws).getD [] | _ => (x.r.map RecRead.ws).getD [])) (updChecks k c x prog)).orElse fun _ => (updFault c x prog).map rejectFin

/-- The execution of an update engine's command that starts now, with the record at A as it was read (R161). -/
def State.updExec (s : State) (c : CmdInst) : Exec := { cmd := c, start := s.now, limit := s.limitOf c, recs := (s.updReads (s.whoCtx c.ctx none) c).a.toList }

/-- Engine `k` with its oldest command taken from its queue and executing. -/
def State.updTaken (s : State) (k : Nat) (c : CmdInst) : State := s.updEngine k fun (y : UpdEngine) => { y with queue := y.queue.tail, exec := some (s.updExec c) }

/-- The state in which a command that passes its checks begins: it has read its descriptors and records (R37, R455). -/
def State.updBegun (s : State) (k : Nat) (c : CmdInst) : State :=
  let w := s.whoUpd k c.ctx
  c.updRecords.foldl (fun t r => t.touchRecord w r.1 r.2) ((s.updTaken k c).touchDescs w c.ctx c.updStreams)

/-- An UPDATE started by its engine: taken from the queue, its records charged (R37), rejected or run. -/
def State.runUpdate (s : State) (k : Nat) (mine : CmdInst → Bool) (body : State → Exec → UpdReads → State) : State :=
  match s.nextUpdate k mine with
  | none => s
  | some c =>
    let x := s.updReads (s.whoCtx c.ctx none) c
    match (s.updTaken k c).updRejection k c x with
    | some f => (s.updTaken k c).endUpdate k (s.updExec c) f
    | none => body (s.updBegun k c) (s.updExec c) x

/-! Pass one (R460 to R463). -/

/-- The elements of block b of a row-blocked tensor: its row-by-row blocks of 32 (R66). -/
def blockIx (d : Desc) (b : Nat) : List Ix :=
  let nb := ceilDiv d.n0 32
  let i := d.at (b / nb * d.n0)
  (List.range (min 32 (d.n0 - b % nb * 32))).map fun j => { i with i0 := b % nb * 32 + j }

/-- The number of such blocks. -/
def blockCount (d : Desc) : Nat := ceilDiv d.n0 32 * (d.n1 * d.n2 * d.n3)

/-- Mantissa of a B16 element as an integer (R64). -/
def b16Mant (e : Nat) : Int := toSigned 16 (e % 65536)

/-- The square sum of one B16 block (R461): NaN where an element is NaN, since A32 propagates it (R75). -/
def blockSumsq (es : List (Nat × Option Nat)) : A32 :=
  if es.any fun e => (readElem .b16 e.1 e.2).1.isNan then a32Nan
  else
    let e := ((es.head?.bind Prod.snd).getD 0 : Nat)
    a32Scale (2 * ((e : Int) - 142)) (toA32 (.num false ((es.map fun x => (b16Mant x.1 * b16Mant x.1).toNat).sum) 0))

/-- Neighbours added pairwise, one level (R461). -/
def pairSums : List A32 → List A32
  | a :: b :: l => a32Add .nearest 0 a b :: pairSums l
  | l => l

/-- The 512 accumulators added in nine levels (R461). -/
def sumAccs (l : List A32) : A32 := (((List.range 9).foldl (fun x _ => pairSums x) l).head?).getD a32Zero

/-- What pass one has so far: its accumulators, whether a non-finite element was met, and the run. -/
structure PassOne where
  accs : List A32
  bad : Bool
  run : Run

/-- One block of G. -/
def passBlock (w : Who) (g : Desc) (x : PassOne) (b : Nat) : PassOne :=
  if x.run.stop.isSome then x
  else
    let (r, es) := x.run.readGroup w 4 g (blockIx g b) 0
    if r.stop.isSome then { x with run := r }
    else { accs := modAt x.accs (b % 512) (fun a => a32Add .nearest 0 a (blockSumsq es)), bad := x.bad || es.any (fun e => (readElem .b16 e.1 e.2).1.isNan), run := r }

/-- One group of R, checked and not squared. -/
def passResid (w : Who) (d : Desc) (x : PassOne) (k : Nat) : PassOne :=
  if x.run.stop.isSome then x
  else
    let is := ((List.range (min 256 (d.count - 256 * k))).map (256 * k + ·)).map d.at
    let (r, es) := x.run.readGroup w 3 d is 0
    { x with bad := x.bad || es.any (fun e => (readElem d.fmt e.1 e.2).1.isNan), run := r }

/-- Whether the NONFINITE flag a NORM_PART carries in is set. -/
def State.partFlag (s : State) (c : CmdInst) : Bool := c.uA != 0 && fld (s.words c.uA 1) 0 0 0 == 1

/-- An access that ends an update engine's command from outside it: how many blocks and groups are done by then, the fault, and its address. -/
structure Late where
  closed : Nat
  code : Code
  addr : Nat := 0
  deriving DecidableEq, Repr

/-- The part of a NORM_PART's gradients and then of their residuals that it reads before it is stopped, if it is. -/
def State.normPasses (s : State) (k : Nat) (e : Exec) (x : UpdReads) (g : Desc) (upTo : Option Nat) : PassOne :=
  let w := s.whoUpd k e.cmd.ctx
  let nb := blockCount g
  let x1 := (List.range (upTo.elim nb (min nb))).foldl (passBlock w g) { accs := List.replicate 512 a32Zero, bad := s.partFlag e.cmd, run := Run.start s e }
  match streamAt x.streams 0x14 with
  | some r => (List.range (upTo.elim (groupCount r) fun n => min (groupCount r) (n - nb))).foldl (passResid w r) x1
  | none => x1

/-- A slot after a NORM_PART: the sum and the count of elements grow by the command's, and the causes join (STEP_SKEW where the header's step is another). -/
def partSlot (sl : NormSlot) (t step count : Nat) (x : PassOne) : NormSlot :=
  let here := sl.st != .empty && sl.step == t
  let sumsq := a32Add .nearest 0 (if here then sl.sumsq else a32Zero) (sumAccs x.accs)
  { st := .gathering, step := t, sumsq := sumsq, elems := ((if here then sl.elems else 0) + count) % 2 ^ 64
    cause := (if here then sl.cause else 0) ||| (if x.bad || sumsqBad sumsq then causeNonfinite else 0) ||| (if step = t then 0 else causeSkew) }

/-- NORM_PART (R460 to R464, R486), whole or until it is stopped: its slot then stays as it was, and the counts so far stand in its record (R107). -/
def State.normPart (s0 : State) (k : Nat) (e : Exec) (x : UpdReads) (late : Option Late) : State :=
  let c := e.cmd
  let p := s0.ctxPart c.ctx
  let sl := s0.slot k p c.uSlot
  match streamAt x.streams 0x11 with
  | none => s0
  | some g =>
    if sl.st != .empty && sl.step == c.uStep && sl.st != .gathering then s0.endUpdate k e (failFin .updSlotState)
    else match (if c.uA = 0 then none else s0.loadFault (s0.whoCtx c.ctx none) c.uA 8) with
      | some f => s0.endUpdate k e { status := 2, fault := some f.1, failAddr := s0.globalAddr f.2 }
      | none =>
        let s := if c.uA = 0 then s0 else s0.touch (s0.whoUpd k c.ctx) 0 c.uA 8
        let y := s.normPasses k e x g (late.map Late.closed)
        if y.run.stop.isSome then y.run.st.endUpdate k e { y.run.fin with failInfo := 0, tiles := 0 }
        else match late with
          | some l => y.run.st.endUpdate k e { y.run.fin with status := 2, fault := some l.code, failAddr := l.addr, tiles := 0 }
          | none =>
            (y.run.st.updSlot k p c.uSlot fun _ => partSlot sl c.uStep (fld ((x.hdr.map RecRead.ws).getD []) 0 63 0) g.count y).endUpdate k e { y.run.fin with tiles := 0 }

/-- NORM_PART (R460); it also rejects an undefined SUBOP. -/
def execNormPart (c : Nat) (s : State) : Host.Outcome State Fault Refusal :=
  .next (s.runUpdate c (fun x => x.sub == 0 || decide (4 < x.sub)) fun t e x => t.normPart c e x none)

/-! The fused reduction and the software path. -/

/-- NORM_REDUCE (R464, R472, R908): it ends at once where its slot or the fabric address does not allow a contribution, else it joins its group. -/
def State.normReduce (s : State) (k : Nat) (e : Exec) : State :=
  let c := e.cmd
  let p := s.ctxPart c.ctx
  let sl := s.slot k p c.uSlot
  let tree := match e.recs with | .words ws :: _ => ws | _ => []
  if sl.st != .empty && sl.step == c.uStep && sl.st != .gathering then s.endUpdate k e (failFin .updSlotState)
  else if s.fabric = 0xFFFF && !(treeRoot tree && treeNchild tree == 0) then s.endUpdate k e (failFin .fabAddrUnset)
  else settleGroup p c.uGroup 12 (s.joinGroup k e)

/-- NORM_REDUCE. -/
def execNormReduce (c : Nat) (s : State) : Host.Outcome State Fault Refusal :=
  .next (s.runUpdate c (fun x => x.sub == 1) fun t e _ => t.normReduce c e)

/-- NORM_READ (R454, R465): the slot's partial; its loss scale is the one the group that GROUP names holds. -/
def State.normRead (s : State) (k : Nat) (e : Exec) : State :=
  let c := e.cmd
  let p := s.ctxPart c.ctx
  let sl := s.slot k p c.uSlot
  let w := s.whoUpd k c.ctx
  match s.storeFault w c.uA 64 with
  | some f => s.endUpdate k e { status := 2, fault := some f.1, failAddr := s.globalAddr f.2 }
  | none => (s.store w 0 c.uA (bytesOfWords (normWords { step := sl.step, elems := sl.elems, sumsq := sl.sumsq, lscale := s.lscale p c.uGroup, cause := sl.cause, kind := 1, contrib := 1 }))).endUpdate k e {}

/-- NORM_READ. -/
def execNormRead (c : Nat) (s : State) : Host.Outcome State Fault Refusal :=
  .next (s.runUpdate c (fun x => x.sub == 3) fun t e _ => t.normRead c e)

/-- NORM_LOAD (R464, R491). -/
def State.normLoad (s : State) (k : Nat) (e : Exec) : State :=
  let c := e.cmd
  let p := s.ctxPart c.ctx
  let sl := s.slot k p c.uSlot
  let r := normOf (match e.recs with | .words ws :: _ => ws | _ => [])
  if sl.st == .waiting && sl.step == c.uStep then s.endUpdate k e (failFin .updSlotState)
  else (s.updSlot k p c.uSlot fun (y : NormSlot) =>
    { y with st := if r.kind = 2 then .go else .skip, step := r.step, sumsq := r.sumsq, gnorm := r.gnorm, clip := r.clip, lscale := r.lscale, cause := r.cause }).endUpdate k e {}

/-- NORM_LOAD. -/
def execNormLoad (c : Nat) (s : State) : Host.Outcome State Fault Refusal :=
  .next (s.runUpdate c (fun x => x.sub == 4) fun t e _ => t.normLoad c e)

/-! Pass two (R480, R484 to R488). -/

/-- What an APPLY works on: its streams, program, scalar table, and the state it started in. -/
structure Apply where
  engine : Nat
  src : State
  who : Who
  streams : List (Nat × Desc)
  prog : List Ins
  file : List (Nat × A32)

/-- The streams an APPLY reads: those its element instructions name. -/
def Apply.reads (a : Apply) : List (Nat × Desc) := a.streams.filter fun x => readsStream a.prog x.1

/-- The value a stream held for linear element j when the command started. -/
def Apply.value (a : Apply) (d : Desc) (j : Nat) : A32 :=
  match a.src.elem a.who d (d.at j) with
  | .ok e => widenElem d.fmt e
  | .error _ => a32Zero

/-- What the program stores to stream k for linear element j. -/
def Apply.result (a : Apply) (k j : Nat) : A32 :=
  let f := runElement a.prog (a.reads.map (fun x => (x.1, a.value x.2 j)) ++ a.file)
  ((f.find? fun x => x.1 == k + 0x100).map Prod.snd).getD a32Zero

/-- The counter set of a stored stream (R486). -/
def storeSet (k : Nat) : Nat := if k = 0x10 then 0 else k - 0x11

/-- The stores of one group, stream by stream, rounded stochastically (R485), with the generator after them. -/
def Apply.stores (a : Apply) (g : Nat) (draw : Gen) : List (Nat × Desc × List OutElem) × Gen :=
  (storedOf a.prog).foldl (fun (acc : List (Nat × Desc × List OutElem) × Gen) k =>
    match streamAt a.streams k with
    | none => acc
    | some d =>
      let r := encodeElems d .stochastic ((groupElems d g).map fun j => (d.at j, a.result k j)) acc.2
      (acc.1 ++ [(k, d, r.1)], r.2)) ([], draw)

/-- One stream's part of a group written and counted. -/
def putStream (w : Who) (r : Run) (x : Nat × Desc × List OutElem) : Run :=
  let r1 := { r with
    st := r.st.putPatch w x.2.1.hint (patchOf x.2.1 x.2.2)
    ctrs := modAt r.ctrs (storeSet x.1) fun c => x.2.2.foldl (fun k o => k.bump o.kind) c }
  if x.1 = 0x10 then { r1 with written := r1.written + x.2.2.length, maxAbs := x.2.2.foldl (fun m o => a32MaxAbs m (outAbs x.2.1.fmt o)) r1.maxAbs } else r1

/-- One 256-element group of an APPLY: its streams are read, and its stores made whole (R488, R905). DESIGN CHOICE (log entry 67): a group reads its own 256 elements of each stream; the block that ends in it keeps what its earlier elements gave. -/
def Apply.group (a : Apply) (n : Nat) (r : Run) (g : Nat) : Run :=
  let js := (List.range (min 256 (n - 256 * g))).map (256 * g + ·)
  let r1 := a.reads.foldl (fun (r : Run) x => if r.stop.isSome then r else (r.readGroup a.who (if x.1 = 0x11 then 4 else 5) x.2 (js.map x.2.at) g).1) r
  if r1.stop.isSome then r1
  else
    let (ss, draw) := a.stores g (r1.st.gen (updUnit a.engine))
    match ss.findSome? fun x => r1.st.patchFault a.who (patchOf x.2.1 x.2.2) with
    | some f => r1.stopped { status := 2, fault := some f.1, failAddr := r1.st.globalAddr f.2, failInfo := g }
    | none =>
      let r2 := ss.foldl (putStream a.who) { r1 with st := r1.st.drew draw }
      { r2 with tiles := r2.tiles + 1 }

/-- The header rewritten by a FINAL APPLY (R459, R492). -/
def State.finalHeader (s : State) (k : Nat) (w : Who) (c : CmdInst) (h : List Word) (sl : NormSlot) : State :=
  let go := sl.st == .go
  (s.store w 0 c.uHdr (bytesOfWords (shardWords (fld h 0 63 0 + 1) (fld h 1 63 0 + if go then 1 else 0) (fld h 2 63 0 + if go then 0 else 1) sl.gnorm.toNat sl.cause))).odInc (0x3610 + k) (if go then 1 else 2)

/-- The run of an APPLY on a GO verdict. -/
def applyRun (upTo : Option Nat) (s : State) (k : Nat) (e : Exec) (x : UpdReads) (sl : NormSlot) : Run :=
  let c := e.cmd
  let prog := c.program ((x.a.map RecRead.ws).getD [])
  let h := (x.hdr.map RecRead.ws).getD []
  let a : Apply := { engine := k, src := s, who := s.whoUpd k c.ctx, streams := x.streams, prog := prog, file := scalarFile prog ((x.b.map RecRead.ws).getD []) sl c.uStep (fld h 1 63 0) }
  let n := ((streamAt x.streams 0x11).map Desc.count).getD 0
  runGroups (a.group n) upTo { Run.start s e with ctrs := List.replicate 6 {} } (List.range (ceilDiv n 256))

/-- UPD.STATE_NONFINITE once for an APPLY that wrote a non-finite element (R487). -/
def State.stateNonfinite (s : State) (k : Nat) (c : CmdInst) (r : Run) : State :=
  if (r.ctrs.take 4).any fun x => x.nonfin != 0 then s.record { code := .updStateNonfinite, part := s.partOfCtx c.ctx, ctx := some c.ctx, unit := { kind := 6, inst := k } } else s

/-- APPLY (R464, R480, R484, R488), whole or until it is stopped after so many groups: it then ends FAULTED with the index of the group that would come next, and its header stays (R205, R488). -/
def State.apply (s : State) (k : Nat) (e : Exec) (x : UpdReads) (late : Option Late) : State :=
  let c := e.cmd
  let w := s.whoUpd k c.ctx
  let sl := s.slot k (s.ctxPart c.ctx) c.uSlot
  let h := (x.hdr.map RecRead.ws).getD []
  let last := fld c.words 3 23 23 == 1
  if sl.step != c.uStep || !(sl.st == .go || sl.st == .skip) then s.endUpdate k e (failFin .updSlotState)
  else if fld h 0 63 0 != c.uStep then s.endUpdate k e (failFin .updStepSkew)
  else if sl.st == .skip then (if last then s.finalHeader k w c h sl else s).endUpdate k e {}
  else
    let r := applyRun (late.map Late.closed) s k e x sl
    let s1 := r.st.stateNonfinite k c r
    let d := { r.fin with ctrs := r.ctrs.take 5 }
    if d.fault.isSome then s1.endUpdate k e d
    else match late with
      | some l => s1.endUpdate k e { d with status := 2, fault := some l.code, failAddr := l.addr, failInfo := if r.stop.isSome then d.failInfo else r.tiles }
      | none => (if last then s1.finalHeader k w c h sl else s1).endUpdate k e d

/-- APPLY. -/
def execApply (c : Nat) (s : State) : Host.Outcome State Fault Refusal :=
  .next (s.runUpdate c (fun x => x.sub == 2) fun t e x => t.apply c e x none)

end Sys2Proof.Machine
end

