-- ==== Sys2Proof/Machine/Barrier.lean ====
section
/-! DEFINITION. BARRIER and its groups (R536 to R542, R559, R909). -/
namespace Sys2Proof.Machine

def CmdInst.bStep (c : CmdInst) : Nat := fld c.words 3 63 0
def CmdInst.bGroup (c : CmdInst) : Nat := fld c.words 4 11 8
def CmdInst.bWait (c : CmdInst) : Nat := fld c.words 4 3 0
def CmdInst.bTree (c : CmdInst) : Nat := fld c.words 2 51 0

/-! Arrival (R540). -/

/-- Whether a consumer is selected by WAIT (R536); none of its bits names the hub die. -/
def waitsOn (mask t : Nat) : Bool := if t < 384 then bit mask 0 else if t < 388 then bit mask 1 else if t = 388 then bit mask 2 else if t = 389 then bit mask 3 else false

/-- Whether a command of the context that precedes slot `i` on a consumer that `sel` names has no completion record yet: read, in flight, or to be read again (R540). -/
def State.before (s : State) (cc i : Nat) (sel : Nat → Bool) : Bool :=
  ((s.ctx cc).fetched ++ s.flyingOf cc).any (fun c => decide (c.slot < i) && sel c.target)
    || (s.ctx cc).again.any fun j => decide (j < i) && sel (leNat (s.bytes (s.targetAddr cc j) 2) % 512)

/-- Whether a BARRIER may arrive (R540). -/
def State.mayArrive (s : State) (c : CmdInst) : Bool := !(s.before c.ctx c.slot (waitsOn c.bWait))

/-! The frame of a BARRIER on the hub die. Phase 0 is not started, 1 waits for the commands before it, 2 has arrived, 3 waits for its group to move (R909). -/

/-- The hub die's copy of a command replaced. -/
def State.putHub (s : State) (e : Exec) : State :=
  { s with hub := s.hub.map fun x => if x.cmd.ctx == e.cmd.ctx && x.cmd.slot == e.cmd.slot then e else x }

/-- A BARRIER completed; a STEP BARRIER sets the monitor step of its context (R559). -/
def State.endBarrier (s : State) (e : Exec) (d : Fin) : State :=
  let s1 := s.endHub e d
  if e.cmd.sub = 1 && d.status = 0 then s1.odSetN (0x2E00 + e.cmd.ctx) 3 ((e.cmd.bStep + 1) % 2 ^ 64) else s1

/-- The checks of a BARRIER (R536 to R538), with the tree record's words. -/
def barrierChecks (c : CmdInst) (tree : List Word) : Checks :=
  { reserved := fld c.words 2 63 52 != 0 || fld c.words 4 63 12 != 0 || fld c.words 4 7 4 != 0 || [5, 6, 7].any fun i => fld c.words i 63 0 != 0
    field := decide (1 < c.sub)
      || (if c.sub = 1 then decide (24 < treeNchild tree) || treeLocal tree != 1 || treeTotal tree != 0 || (treeMaxnorm tree).toNat != 0 else c.bTree != 0) }

/-- The BARRIER of a context that the hub die starts next, if it is one of the row's. -/
def State.startable1 (s : State) (cc : Nat) (mine : CmdInst → Bool) : Option Exec :=
  if s.ready then (s.hubExec cc fun x => x.isBarrier && mine x).filter fun e => e.phase == 0 else none

/-- BARRIER_LOCAL (R537): it completes when it arrives; it also rejects an undefined SUBOP. -/
def execBarrierLocal (cc : Nat) (s : State) : Host.Outcome State Fault Refusal :=
  .next (match s.startable1 cc fun x => x.sub != 1 with
    | none => s
    | some e0 =>
      let e := { e0 with start := s.now, limit := s.limitOf e0.cmd }
      match s.rejection e.cmd [] (barrierChecks e.cmd []) with
      | some d => s.endHub e d
      | none => if s.mayArrive e.cmd then s.endBarrier e {} else (s.putHub { e with phase := 1, waiting := true }).refresh cc)

/-! Barrier groups. -/

/-- Address of barrier group g of partition p (R542). -/
def barrierObj (p g : Nat) : Nat := 0xF0000C010000 + p * 0x400 + g * 0x40

/-- Data of a barrier message: KIND 1 ARRIVE, 2 RELEASE (R542). -/
def barrierData (step contrib kind : Nat) : List Byte := leBytes 8 step ++ leBytes 8 (kind + contrib % 2 ^ 32 * 2 ^ 32) ++ leBytes 16 0

/-- A barrier message to a module (R542). -/
def State.sendBarrier (s : State) (p g dst step contrib kind : Nat) : Except Code State :=
  s.message { part := some p } dst (0xD0 + g) (barrierObj p g) (barrierData step contrib kind)

/-- Releases to several modules; the first that cannot be sent is reported, the others are sent. -/
def State.sendReleases (s : State) (p g step contrib : Nat) : List Nat → State × Option (Code × Nat)
  | [] => (s, none)
  | d :: ds =>
    match s.sendBarrier p g d step contrib 2 with
    | .ok t => t.sendReleases p g step contrib ds
    | .error c => ((s.sendReleases p g step contrib ds).1, some (c, d * 2 ^ 52 + barrierObj p g))

/-- The BARRIER commands of a group that stand in a phase. -/
def State.barriersOf (s : State) (p g phase : Nat) : List Exec :=
  s.hub.filter fun e => e.cmd.isBarrier && e.cmd.sub == 1 && e.phase == phase && s.ctxPart e.cmd.ctx == p && e.cmd.bGroup == g

/-- A group moved to a step: the arrivals held for it apply, those of other steps are discarded and counted (R909). -/
def State.moveBarrier (s : State) (p g t : Nat) : State :=
  let x := s.barrier p g
  let mine := x.next.filter fun k => k.step == t
  (s.updBarrier p g fun _ => { st := .gathering, step := t, arrivals := mine }).odAdd 0x3700 2 (x.next.length - mine.length)

/-- The end of a BARRIER that could not send its arrival or a release (R413, R419). -/
def barrierFail (f : Code × Nat) : Fin := fabricFin {} f

/-- The end FAULTED with COLL.PLAN (R539, R909). -/
def barrierPlan : Fin := failFin .collPlan

/-- The BARRIER whose local arrival a group records, if it is still waiting for the release. -/
def State.arrivedOf (s : State) (p g : Nat) : List Exec := (s.barriersOf p g 2).filter fun e => e.cmd.bStep == (s.barrier p g).step

/-- A release taken by a group (R542): sent on to its children with the CONTRIB that the root formed, as a verdict is (R472), then to its local BARRIER. -/
def State.release (s : State) (p g contrib : Nat) : State :=
  let x := s.barrier p g
  let r := (s.updBarrier p g fun y => { y with st := .released }).sendReleases p g x.step contrib (treeChildren x.tree)
  (r.1.arrivedOf p g).foldl (fun t e => t.endBarrier e ((r.2.map barrierFail).getD {})) r.1

/-- CONTRIB of a group that holds its local arrival and every child's (R542, as R469). -/
def arrivedContrib (x : BarGroup) : Option Nat :=
  if x.st != .gathering || x.localIn.isNone then none
  else ((treeChildren x.tree).mapM fun a => x.arrivals.find? fun k => k.from_ == a).map fun ks => 1 + (ks.map BarArrival.contrib).sum

/-- A group that holds all its arrivals: the root releases, another sends its arrival up (R542, as R470 and R472). -/
def State.combine (s : State) (p g : Nat) : State :=
  let x := s.barrier p g
  match arrivedContrib x with
  | none => s
  | some n =>
    if treeRoot x.tree then s.release p g n
    else
      let par := treeParent x.tree
      let s1 := s.updBarrier p g fun y => { y with st := .sent }
      match s1.sendBarrier p g par x.step n 1 with
      | .ok t => t
      | .error c => (s1.arrivedOf p g).foldl (fun t e => t.endBarrier e (barrierFail (c, par * 2 ^ 52 + barrierObj p g))) s1

/-- The tree record a STEP BARRIER read. -/
def barTree (e : Exec) : List Word := match e.recs with | .words ws :: _ => ws | _ => []

/-- A STEP BARRIER's arrival recorded by its group (R540), unless another has arrived for the step (R539). -/
def State.arrive (s : State) (e : Exec) : State :=
  let p := s.ctxPart e.cmd.ctx
  let g := e.cmd.bGroup
  if (s.barrier p g).localIn.isSome then s.endHub e barrierPlan
  else ((s.putHub { e with phase := 2, waiting := true }).updBarrier p g fun y => { y with localIn := some (e.cmd.ctx, e.cmd.slot), withdrawn := false, tree := barTree e }).combine p g

/-- A STEP BARRIER whose group stands at its step: it arrives, or waits for the commands before it. -/
def State.arriveOrWait (s : State) (e : Exec) : State := if s.mayArrive e.cmd then s.arrive e else s.putHub { e with phase := 1, waiting := true }

/-- A withdrawn BARRIER read again (R631): it waits for the release of the arrival its group records, or completes at once. -/
def State.rejoin (s : State) (e : Exec) : State :=
  let p := s.ctxPart e.cmd.ctx
  let s1 := s.updBarrier p e.cmd.bGroup fun y => { y with withdrawn := false }
  if (s.barrier p e.cmd.bGroup).st == .released then s1.endBarrier e {} else s1.putHub { e with phase := 2, waiting := true }

/-- What a STEP BARRIER does by its group's state (R539, R631, R909). -/
def State.joinBarrier (s : State) (e : Exec) : State :=
  let p := s.ctxPart e.cmd.ctx
  let g := e.cmd.bGroup
  let t := e.cmd.bStep
  let x := s.barrier p g
  let mine := x.withdrawn && x.localIn == some (e.cmd.ctx, e.cmd.slot)
  match x.st with
  | .idle => (s.moveBarrier p g t).arriveOrWait e
  | .gathering | .sent =>
    if t = x.step then
      (if mine then s.rejoin e else if x.localIn.isSome then s.endHub e barrierPlan else s.arriveOrWait e)
    else if t = x.step + 1 then s.putHub { e with phase := 3, waiting := true }
    else s.endHub e barrierPlan
  | .released =>
    if t = x.step then (if mine then s.rejoin e else s.endHub e barrierPlan)
    else (s.moveBarrier p g t).arriveOrWait e

/-- The BARRIER commands that wait for a group to hold the release of the step before theirs (R909). -/
def State.settleBarrier (p g : Nat) : Nat → State → State
  | 0, s => s
  | n + 1, s =>
    if (s.barrier p g).st == .released then
      match s.barriersOf p g 3 with
      | e :: _ => settleBarrier p g n (s.joinBarrier e)
      | [] => s
    else s

/-- A module that has to send or receive for a group (R413): one that is not both root and without children. -/
def treeAlone (tree : List Word) : Bool := treeRoot tree && treeNchild tree == 0

/-- The rejection of a STEP BARRIER by the read of its tree record (R902) or by R162. -/
def barrierRejection (s : State) (c : CmdInst) (r : RecRead) : Option Fin :=
  match r with
  | .failed f a => some (rejectAt f a)
  | .words _ | .beyond => s.rejection c [] (barrierChecks c r.ws)

/-- BARRIER_STEP (R538, R909). -/
def execBarrierStep (cc : Nat) (s : State) : Host.Outcome State Fault Refusal :=
  .next (match s.startable1 cc fun x => x.sub == 1 with
    | none => s
    | some e0 =>
      let w := s.whoCtx cc none
      let r := s.readRec w e0.cmd.bTree 8
      let e := { e0 with start := s.now, limit := s.limitOf e0.cmd, recs := [r] }
      let s1 := s.touchRecord w e.cmd.bTree 64
      match (barrierRejection s e.cmd r).orElse fun _ => if treeReserved r.ws then some (rejectFin .updReserved) else none with
      | some d => s.endHub e d
      | none =>
        if s.fabric = 0xFFFF && !(treeAlone r.ws) then s1.endHub e (failFin .fabAddrUnset)
        else (State.settleBarrier (s.ctxPart cc) e.cmd.bGroup 12 (s1.joinBarrier e)).refresh cc)

/-- BARRIER_ARRIVE (R540): a STEP BARRIER acts by the state its group has then (R909). -/
def execBarrierArrive (cc : Nat) (s : State) : Host.Outcome State Fault Refusal :=
  .next (match (s.hubExec cc CmdInst.isBarrier).filter fun e => e.phase == 1 && s.mayArrive e.cmd with
    | none => s
    | some e => if e.cmd.sub = 1 then (State.settleBarrier (s.ctxPart cc) e.cmd.bGroup 12 (s.joinBarrier e)).refresh cc else s.endBarrier e {})

/-! Barrier messages (R542, as R466 and R474). -/

/-- A barrier message discarded: counted, COLL.STRAY at most once a second. -/
def State.barrierStray (s : State) (p : Nat) : State := (s.odInc 0x3700 2).recordLimited (groupFault .collStray p) p

/-- A barrier message that the group does not take: one of another step is a stray (R474), one of its own step only discarded (log entry 25). -/
def State.barrierDrop (s : State) (p g step : Nat) : State :=
  if (s.barrier p g).st != .idle && step == (s.barrier p g).step then s else s.barrierStray p

/-- A child's arrival taken for the current step, held for another, or discarded. -/
def State.childArrival (s : State) (p g src step contrib : Nat) : State :=
  let x := s.barrier p g
  let k : BarArrival := { from_ := src, step := step, contrib := contrib }
  let hold := s.updBarrier p g fun y => { y with next := y.next.filter (fun z => z.from_ != src) ++ [k] }
  if x.st == .idle then hold
  else if step = x.step && x.st == .gathering && (x.tree.isEmpty || (treeChildren x.tree).contains src) && !(x.arrivals.any fun y => y.from_ == src) then
    settleBarrier p g 12 ((s.updBarrier p g fun y => { y with arrivals := y.arrivals ++ [k] }).combine p g)
  else if step = x.step + 1 && !(x.next.any fun y => y.from_ == src) then hold
  else s.barrierDrop p g step

/-- A barrier message received (R542); one with a reserved field set is rejected with COLL.RESERVED (R16, R551). -/
def State.barrierMessage (s : State) (q : Packet) (p g : Nat) : State :=
  let ws := wordsOf 4 q.data
  let x := s.barrier p g
  if q.tag = 0 || q.tag != s.tagOf p || q.data.length != 32 then s.barrierStray p
  else if fld ws 1 31 8 != 0 || fld ws 2 63 0 != 0 || fld ws 3 63 0 != 0 then s.record (groupFault .collReserved p)
  else if fld ws 1 7 0 = 1 then s.childArrival p g q.src (fld ws 0 63 0) (fld ws 1 63 32)
  else if fld ws 1 7 0 = 2 && x.st == .sent && fld ws 0 63 0 == x.step && q.src == treeParent x.tree then settleBarrier p g 12 (s.release p g (fld ws 1 63 32))
  else s.barrierDrop p g (fld ws 0 63 0)

end Sys2Proof.Machine
end

