-- ==== Sys2Proof/Machine/PartCtx.lean ====
section
/-! DEFINITION. Partition and context control (R608 to R635): the rows that the CONTROL entries name, and the events that end them. -/
namespace Sys2Proof.Machine

/-- The status of an accepted write (R791), and that of one the present state does not allow (R901). -/
def stOk : Nat := 0
def stState : Nat := 4

/-- The status of a refusal that depends on values held in other entries (R901). -/
def stSum : Nat := 5

/-- The quarter-dies of a mask. -/
def quartersOf (mask : Nat) : List Nat := (List.range 32).filter (bit mask)

/-- The cores of a mask of quarter-dies (R33). -/
def coresOf (mask : Nat) : List Nat := (quartersOf mask).flatMap fun q => (List.range 12).map (12 * q + ·)

/-- Entries of an index set back to their defaults. -/
def State.odClear (s : State) (ix : Nat) : State := { s with od := s.od.filter fun e => e.1 / 256 != ix }

/-- Whether an address lies in the scratchpad of a core of a mask. -/
def inScratch (mask a : Nat) : Bool := region a == 8 && bit mask (offset a / 2 ^ 23 / 12)

/-- The eleven totals of a core (R605). -/
def coreTotals (k : Core) : List Nat := k.busy :: k.unsched :: k.idle

/-- A core's counters zero (R604), CONTEXT 0 (R154), every accumulator element zero (R140). -/
def clearedCore (k : Core) : Core :=
  { k with cur := 0, last := 0, mx := {}, busy := 0, unsched := 0, idle := List.replicate 9 0, vsUp := List.replicate 8 0, vsDown := List.replicate 8 0, switching := false, sliceStart := 0 }

/-- The clearing of a mask of quarter-dies that pass to another partition (R140, R604). -/
def State.clearQuarters (s : State) (mask : Nat) : State :=
  { s with
    mem := s.mem.filter fun c => !inScratch mask c.1
    cores := s.cores.zipIdx.map fun (k, n) => if bit mask (n / 12) then clearedCore k else k }

/-- Quarter-dies held at retention voltage when no partition owns them (R612). -/
def State.retainQuarters (s : State) (mask : Nat) : State :=
  let s1 := (quartersOf mask).foldl (fun t q => t.updIsland q fun x => if x.power = 2 then { x with power := 1, mv := min x.mv 450 } else x) s
  (coresOf mask).foldl (fun t n => t.updCore n fun k => if k.st == .unavailable || k.st == .selfTest then k else { k with st := .retention }) s1

/-- Cores of a mask whose counters are a partition's own: not of quarter-dies that have come to it and have yet to be cleared (R604, R611). -/
def State.ownCores (s : State) (p mask : Nat) : List Nat :=
  if (s.part p).st == .creating then [] else (coresOf mask).filter fun n => !(bit (s.part p).added (n / 12))

/-- The totals of cores that leave a partition added to what it keeps (R605). -/
def State.leaveQuarters (s : State) (p mask : Nat) : State :=
  let s1 := (s.ownCores p mask).foldl (fun t n => t.updPart p fun x => { x with left := List.zipWith (· + ·) x.left (coreTotals (t.core n)) }) s
  s1.retainQuarters mask

/-! Partitions. -/

/-- CREATE (R611): STATE CREATING, and every object of the partition at its starting value. -/
def State.createPart (s : State) (p : Nat) : State × Nat :=
  if (s.part p).st != .absent || s.diag.moduleFault || !s.ready then (s, stState)
  else if s.quarters p = 0 then (s, stSum)
  else
    let s1 := [0x2D00, 0x2D10, 0x6000, 0x6200].foldl (fun t ix => t.odClear (ix + p)) s
    let s2 := s1.updPart p fun _ => {}
    let s3 := { s2 with buckets := s2.buckets ++ s2.newBuckets p, arbReqs := s2.arbReqs ++ s2.newReqs p }
    (s3.setPart p .creating, stOk)

/-- STOP (R615). -/
def State.stopControl (s : State) (p : Nat) : State × Nat := if (s.part p).st = .active then (s.stopPart p, stOk) else (s, stState)

/-- START (R617): quarter-dies added meanwhile are cleared first (R611). -/
def State.startPart (s : State) (p : Nat) : State × Nat :=
  if (s.part p).st != .stopped || s.diag.moduleFault then (s, stState)
  else
    let m := (s.part p).added
    (((if m = 0 then s else s.clearQuarters m).updPart p fun x => { x with added := 0 }).setPart p .active, stOk)

/-- REMOVE (R618). -/
def State.removePart (s : State) (p : Nat) : State × Nat :=
  let named := (List.range 256).filter fun cc => s.partOfCtx cc == some p
  if (s.part p).st != .stopped || named.any (fun cc => (s.ctx cc).cond != .absent) then (s, stState)
  else
    let q := s.quarters p
    let s1 := s.retainQuarters q
    let s2 := { s1 with
      tier := { s1.tier with slots := s1.tier.slots.filter fun c => c.part != p }
      buckets := s1.buckets.filter (fun b => b.part != p)
      arbReqs := s1.arbReqs.filter fun r => r.who != p || r.cls == 3 }
    let s3 := (s2.odSetN 0x4500 (p + 1) 0).odSetN (0x2000 + p) 1 0
    let s4 := [6, 7, 8, 9].foldl (fun t i => t.odSetN (0x2000 + p) i 0) s3
    let s5 := (List.range 7).foldl (fun t r => t.odSetN (0x2010 + p) (r + 1) 0) s4
    let s6 := named.foldl (fun t cc => t.odSetN (0x2200 + cc) 1 0xFF) s5
    ((s6.setPart p .absent).updPart p fun _ => {}, stOk)

/-- A write to a partition's CONTROL with the status it is answered with (R608). -/
def State.partControl (s : State) (p v : Nat) : State × Nat :=
  if 16 ≤ p then (s, 1) else if v = 1 then s.createPart p else if v = 2 then s.stopControl p else if v = 3 then s.startPart p else if v = 4 then s.removePart p else (s, 3)

/-- PARTITION_CREATE (R611). -/
def execPartitionCreate (p : Nat) (s : State) : Host.Outcome State Fault Refusal := answered (0x2000 + p) 3 0 1 (s.partControl p 1)

/-- The clearing of a CREATING partition ended: ACTIVE, or STOPPED where a MODULE fault arose meanwhile (R852). -/
def State.createDone (s : State) (p : Nat) : State :=
  let s1 := s.clearQuarters (s.quarters p)
  if (s1.part p).toStopped then s1.setPart p .stopped else s1.setPart p .active

/-- PARTITION_CREATE_DONE (R611). -/
def execPartitionCreateDone (p : Nat) (s : State) : Host.Outcome State Fault Refusal :=
  .next (if p < 16 && (s.part p).st == .creating then s.createDone p else s)

/-- PARTITION_STOP (R615). -/
def execPartitionStop (p : Nat) (s : State) : Host.Outcome State Fault Refusal := answered (0x2000 + p) 3 0 2 (s.partControl p 2)

/-- Whether nothing of a partition executes or is held by a consumer any more. -/
def State.partQuiet (s : State) (p : Nat) : Bool := s.flying.all fun c => s.partOfCtx c.ctx != some p

/-- PARTITION_STOP_DONE (R616). -/
def execPartitionStopDone (p : Nat) (s : State) : Host.Outcome State Fault Refusal :=
  .next (if (s.part p).st = .stopping && s.partQuiet p then s.setPart p .stopped else s)

/-- PARTITION_START (R617). -/
def execPartitionStart (p : Nat) (s : State) : Host.Outcome State Fault Refusal := answered (0x2000 + p) 3 0 3 (s.partControl p 3)

/-- PARTITION_REMOVE (R618). -/
def execPartitionRemove (p : Nat) (s : State) : Host.Outcome State Fault Refusal := answered (0x2000 + p) 3 0 4 (s.partControl p 4)

/-! Contexts. -/

/-- Whether a run of bytes lies within one of the regions a ring may have (R748). -/
def State.ringFits (s : State) (a n : Nat) : Bool :=
  let r := region a
  if r = 0 then decide (offset a + n ≤ s.hbmSize)
  else if r = 1 then decide (offset a + n ≤ cellarBytes)
  else decide (0x10 ≤ r) && decide (a + n ≤ 0x20 * 2 ^ 44)

/-- Two runs of bytes that overlap. -/
def overlap (a n b m : Nat) : Bool := decide (0 < n) && decide (0 < m) && decide (a < b + m) && decide (b < a + n)

/-- Whether a context's rings allow ADD (R748). -/
def State.ringsOk (s : State) (cc : Nat) : Bool :=
  let ix := 0x2200 + cc
  let sl := s.odN ix 10
  let en := s.odN ix 13
  let rs := [(s.odN ix 9, 64 * sl), (s.odN ix 11, 2 * sl), (s.odN ix 12, 128 * en)]
  let w := s.odN ix 14
  sl != 0 && en != 0 && rs.all (fun r => s.ringFits r.1 r.2) && (w == 0 || s.ringFits w 8)
    && !(overlap (s.odN ix 9) (64 * sl) (s.odN ix 11) (2 * sl)) && !(overlap (s.odN ix 9) (64 * sl) (s.odN ix 12) (128 * en))
    && !(overlap (s.odN ix 11) (2 * sl) (s.odN ix 12) (128 * en))
    && (w == 0 || rs.all fun r => !(overlap w 8 r.1 r.2))

/-- ADD (R623, R748, R749, R805). -/
def State.addCtx (s : State) (cc : Nat) : State × Nat :=
  match s.partOfCtx cc with
  | none => (s, stState)
  | some p =>
    if (s.ctx cc).cond != .absent || (s.part p).st != .active then (s, stState)
    else if !s.ringsOk cc then (s, stSum)
    else
      let room := decide ((s.residents p).length < s.odN (0x2000 + p) 5)
      let s1 := (s.odClear (0x6300 + cc)).updCtx cc fun _ => { resident := room }
      (s1.setCond cc .idle, stOk)

/-- Cores that stopped on a fault of a context and await its recovery made Idle again (R155, R212). -/
def State.recoverCores (s : State) (cc : Nat) : State :=
  { s with cores := s.cores.map fun k => if k.st == .faulted && k.cur == cc then { k with st := .idle } else k }

/-- RESUME (R634). -/
def State.resumeCtx (s : State) (cc : Nat) : State × Nat :=
  match s.partOfCtx cc with
  | none => (s, stState)
  | some p =>
    if (s.ctx cc).cond != .halted || (s.part p).st != .active then (s, stState)
    else ((((s.recoverCores cc).setCond cc .idle).refresh cc).preempt cc, stOk)

/-- ABORT (R635): every command in flight ends ABORTED. -/
def State.abortCtx (s : State) (cc : Nat) : State × Nat :=
  if (s.ctx cc).cond != .halted then (s, stState)
  else
    let s1 := s.setCond cc .aborting
    (((s1.abortCtxs (· == cc) false).recoverCores cc).updCtx cc fun x => { x with fetched := [] }, stOk)

/-- REMOVE of a context (R624). -/
def State.removeCtx (s : State) (cc : Nat) : State × Nat :=
  let x := s.ctx cc
  if (x.cond = .idle || x.cond = .halted) && (s.flyingOf cc).isEmpty then
    ((((s.recoverCores cc).setCond cc .absent).forgetWithdrawn cc).updCtx cc fun y => { y with resident := false, fetched := [], again := [], freed := [] }, stOk)
  else (s, stState)

/-- A write to a context's CONTROL with the status it is answered with (R619). -/
def State.ctxControl (s : State) (cc v : Nat) : State × Nat :=
  if 256 ≤ cc then (s, 1) else if v = 1 then s.addCtx cc else if v = 2 then s.resumeCtx cc else if v = 3 then s.abortCtx cc else if v = 4 then s.removeCtx cc else (s, 3)

/-- CONTEXT_ADD (R623). -/
def execContextAdd (cc : Nat) (s : State) : Host.Outcome State Fault Refusal := answered (0x2200 + cc) 6 0 1 (s.ctxControl cc 1)

/-- CONTEXT_RESUME (R634). -/
def execContextResume (cc : Nat) (s : State) : Host.Outcome State Fault Refusal := answered (0x2200 + cc) 6 0 2 (s.ctxControl cc 2)

/-- CONTEXT_ABORT (R635). -/
def execContextAbort (cc : Nat) (s : State) : Host.Outcome State Fault Refusal := answered (0x2200 + cc) 6 0 3 (s.ctxControl cc 3)

/-- An abort ended: the queue pointers stand after the last command made available, every slot passed over is freed (R755), and the context is IDLE. -/
def State.abortDone (s : State) (cc : Nat) : State :=
  ((s.forgetWithdrawn cc).updCtx cc fun x => { x with next := x.sqTail, sqHead := x.sqTail, again := [], fetched := [], freed := [] }).setCond cc .idle

/-- CONTEXT_ABORT_DONE (R635). -/
def execContextAbortDone (cc : Nat) (s : State) : Host.Outcome State Fault Refusal :=
  .next (if (s.ctx cc).cond = .aborting && (s.flyingOf cc).isEmpty then s.abortDone cc else s)

/-- CONTEXT_REMOVE (R624). -/
def execContextRemove (cc : Nat) (s : State) : Host.Outcome State Fault Refusal := answered (0x2200 + cc) 6 0 4 (s.ctxControl cc 4)

end Sys2Proof.Machine
end

