-- ==== Sys2Proof/Machine/Adder.lean ====
section
/-! DEFINITION. The reduction engine's arithmetic: the plan record (R499 to R501), the adder (R519 to R524), sparsification (R528 to R530) and the landing unit (R507 to R509, R514). -/
namespace Sys2Proof.Machine

/-! Fields of a REDUCE (R494). -/

def CmdInst.rStep (c : CmdInst) : Nat := fld c.words 2 63 0
def CmdInst.rBucket (c : CmdInst) : Nat := fld c.words 3 63 32
def CmdInst.rReady (c : CmdInst) : Nat := fld c.words 3 31 16
def CmdInst.rCtr (c : CmdInst) : Nat := fld c.words 3 15 8
def CmdInst.rSparse (c : CmdInst) : Nat := fld c.words 3 7 4
def CmdInst.rPlan (c : CmdInst) : Nat := fld c.words 5 51 0
def CmdInst.rScale (c : CmdInst) : Nat := fld c.words 6 51 0
def CmdInst.rFlag (c : CmdInst) : Nat := fld c.words 7 51 0

/-! The plan record (R499, R500). -/

def planNin (ws : List Word) : Nat := fld ws 0 11 8
def planCount (ws : List Word) : Nat := fld ws 0 31 16 + 1
def planResMul (ws : List Word) : A32 := BitVec.ofNat 32 (fld ws 0 63 32)
def planOutDst (ws : List Word) : Nat := fld ws 1 11 0
def planOutLand (ws : List Word) : Nat := fld ws 1 31 16
def planOutW (ws : List Word) : Nat := fld ws 1 39 32 + 1
def planInSrc (ws : List Word) (i : Nat) : Nat := fld ws (2 + i) 11 0
def planInLand (ws : List Word) (i : Nat) : Nat := fld ws (2 + i) 31 16
def planInW (ws : List Word) (i : Nat) : Nat := fld ws (2 + i) 39 32 + 1

/-- A chunk entry (R500). -/
structure Chunk where
  first : Nat
  blocks : Nat
  dst : Nat
  own : Bool
  loc : Bool
  mask : Nat
  deriving DecidableEq, Repr

/-- Entry j of a plan. -/
def planChunk (ws : List Word) (j : Nat) : Chunk :=
  { first := fld ws (16 + 2 * j) 63 32, blocks := fld ws (16 + 2 * j) 31 0 + 1, dst := fld ws (17 + 2 * j) 63 32
    own := fld ws (17 + 2 * j) 10 10 == 1, loc := fld ws (17 + 2 * j) 9 9 == 1, mask := fld ws (17 + 2 * j) 7 0 }

/-- The entries of a plan. -/
def planChunks (ws : List Word) : List Chunk := (List.range (planCount ws)).map (planChunk ws)

/-- The inputs of an entry. -/
def Chunk.inputs (k : Chunk) : List Nat := (List.range 8).filter (bit k.mask)

/-- The first entry of a plan with a reserved field set. -/
def reservedEntry (ws : List Word) : Option Nat :=
  (List.range (planCount ws)).find? fun j => fld ws (17 + 2 * j) 31 11 != 0 || fld ws (17 + 2 * j) 8 8 != 0

/-- Whether a reserved field of a plan is set. -/
def planReserved (ws : List Word) : Bool :=
  [10, 11, 12, 13, 14, 15].any (fun i => fld ws i 63 0 != 0)
    || (List.range 8).any (fun i => fld ws (2 + i) 63 40 != 0 || fld ws (2 + i) 15 12 != 0)
    || fld ws 1 63 40 != 0 || fld ws 1 15 12 != 0 || fld ws 0 15 12 != 0 || fld ws 0 7 0 != 0
    || (reservedEntry ws).isSome

/-- Whether two chunks share a block. -/
def chunksMeet (a b : Chunk) : Bool := decide (a.first < b.first + b.blocks) && decide (b.first < a.first + a.blocks)

/-- Whether a chunk entry breaks a condition of R501 by itself or with the entries before it: `bucket` and `own` are the blocks of LOCAL_DESC and of OWN_DESC (0 for none), `fabric` the own address. -/
def chunkBad (ws : List Word) (bucket own fabric : Nat) (before : List Chunk) (k : Chunk) : Bool :=
  decide (2 ^ planNin ws ≤ k.mask) || (!k.loc && k.mask == 0) || decide (bucket < k.first + k.blocks)
    || (if k.own then decide (own < k.dst + k.blocks) else planOutDst ws == fabric) || before.any (chunksMeet k)

/-- The first entry of a plan that breaks a condition of R501. -/
def badEntry (ws : List Word) (bucket own fabric : Nat) : Option Nat :=
  (List.range (planCount ws)).find? fun j => chunkBad ws bucket own fabric ((planChunks ws).take j) (planChunk ws j)

/-- Whether a plan breaks a condition of R501: `first` and `count` are the landing range. -/
def planBad (ws : List Word) (bucket own fabric first count : Nat) : Bool :=
  decide (8 < planNin ws) || (badEntry ws bucket own fabric).isSome
    || (List.range (planNin ws)).any fun i => decide (planInLand ws i < first) || decide (first + count < planInLand ws i + planInW ws i)

/-! The adder (R521, R523). -/

/-- What the adder makes of a block: exponent, raised bit, mantissas with their counters, whether it set the non-finite flag and whether it saturated. -/
structure Added where
  exp : Nat
  raised : Bool
  mants : List (Nat × Kind)
  bad : Bool
  sat : Bool
  deriving DecidableEq, Repr

/-- A contribution to a block: its exponent and the exact values of its 32 elements. -/
abbrev Contribution := Nat × List Val

/-- A value in units of the widened mantissa under exponent e: exact, or rounded stochastically with the draw `u` where it has bits below (R521, R95). -/
def widened (e u : Nat) : Val → Option Int
  | .nan => none
  | .num neg m k =>
    let n : Int := roundAt .stochastic u neg m k ((e : Int) - 142 - 15)
    some (if neg then -n else n)

/-- The sum of element j over the contributions, each rounded with a fresh draw of its own (R95); none where one is NaN (R523). -/
def sumAt (cs : List Contribution) (e : Nat) (draw : Gen) (j : Nat) : Option Int :=
  cs.zipIdx.foldl (fun a (c, i) =>
    match a, (if c.1 = 255 then none else widened e (draw.at i) (nth c.2 j .nan)) with
    | some x, some y => some (x + y)
    | _, _ => none) (some 0)

/-- The smallest k that brings every finite sum within the largest mantissa. -/
def adderShift (ss : List (Option Int)) : Nat :=
  ((List.range 64).find? fun k => ss.all fun s => match s with | some x => decide (x.natAbs ≤ 32767 * 2 ^ (15 + k)) | none => true).getD 64

/-- One mantissa of the result: NaN, clamped, or rounded stochastically. DESIGN CHOICE (log entry 64): R521 rounds stochastically a sum that is not zero and lies below one unit, where R87 would flush it; it is counted flushed where it lands on 0 and not at all where it lands on 1. -/
def mantOf (k : Int) (u : Nat) : Option Int → Nat × Kind
  | none => (0x8000, .nonfinite)
  | some s =>
    if s = 0 then (0, .zero)
    else if !(magLe s.natAbs (256 * (-15 - k)) 32767 0) then (if s < 0 then 65536 - 32767 else 32767, .saturated)
    else
      let n := roundAt .stochastic u (decide (s < 0)) s.natAbs (256 * (-15 - k)) 0
      if n = 0 then (0, .flushed) else (if s < 0 then 65536 - n else n, .none)

/-- The adder (R521): agreed scale `a`, the contributions present, and the engine's generator. -/
def addBlock (a : Nat) (cs : List Contribution) (draw : Gen) : Added × Gen :=
  let e0 := cs.foldl (fun m c => if c.1 = 255 then m else max m c.1) a
  let ss := (List.range 32).map fun j => sumAt cs e0 (draw.skip (cs.length * j)) j
  let d1 := draw.skip (32 * cs.length)
  let k := adderShift ss
  let e1 := e0 + k
  let e := min e1 254
  let ms := ss.zipIdx.map fun (s, j) => mantOf ((k : Int) - (e1 - e : Nat)) (d1.at j) s
  let sat := decide (254 < e1)
  ({ exp := e, raised := decide (a < e), mants := ms, bad := sat || ss.any Option.isNone, sat := sat }, d1.skip 32)

/-- The exact values of a B16 block. -/
def blockVals (exp : Nat) (mants : List Nat) : List Val := mants.map fun m => (readElem .b16 m (some exp)).1

/-- A held block as a contribution. -/
def RedBlock.contribution (b : RedBlock) : Contribution := (b.exp, blockVals b.exp b.mants)

/-- A result as a block to be sent. -/
def Added.block (x : Added) (idx : Nat) : RedBlock := { idx := idx, exp := x.exp, raised := x.raised, mants := x.mants.map Prod.fst }

/-! Sparsification (R522, R528 to R530). -/

/-- The sum of squares of a block's values; none where one is NaN, which counts as largest (R529). -/
def sumSquares (vs : List A32) : Option Val :=
  vs.foldl (fun a v => match a, a32Val v with
    | some x, .num n m k => some (x.add ((Val.num n m k).mul (.num n m k)))
    | _, _ => none) (some Val.pos0)

/-- Whether a sum of squares passes another. -/
def sumBeats : Option Val → Option Val → Bool
  | none, some _ => true
  | none, none => false
  | some _, none => false
  | some a, some b => b.lt a

/-- The blocks selected from a chunk (R529): those that fewer than `n` blocks come before. -/
def selectBlocks (n : Nat) (sums : List (Option Val)) : List Nat :=
  (List.range sums.length).filter fun i =>
    decide ((((List.range sums.length).filter fun j =>
      sumBeats (nth sums j none) (nth sums i none) || (decide (j < i) && !(sumBeats (nth sums i none) (nth sums j none))))).length < n)

/-! The landing unit (R507 to R509). -/

/-- Bytes of a meta entry and the most blocks of a unit. -/
def metaBytes (sparse : Bool) : Nat := if sparse then 8 else 2
def unitLimit (sparse : Bool) : Nat := if sparse then 896 else 960

/-- Offset of the mantissas of a unit of n blocks. -/
def mantOffset (sparse : Bool) (n : Nat) : Nat := 64 + ceilDiv (metaBytes sparse * n) 64 * 64

/-- A unit's header words (R508). -/
structure UnitHead where
  step : Nat
  unit : Nat
  bucket : Nat
  chunk : Nat
  first : Nat
  blocks : Nat
  nonfin : Bool
  sparse : Bool
  last : Bool
  crc : Nat
  deriving DecidableEq, Repr

/-- A bit as a number. -/
def bitNat (b : Bool) : Nat := if b then 1 else 0

/-- The header's words without HCRC. -/
def headBody (h : UnitHead) : List Word :=
  [h.step, h.unit % 2 ^ 16 + h.bucket * 2 ^ 32, h.chunk + h.first * 2 ^ 32,
    (h.blocks - 1) % 2 ^ 16 + bitNat h.nonfin * 2 ^ 17 + bitNat h.sparse * 2 ^ 18 + bitNat h.last * 2 ^ 19 + h.crc * 2 ^ 32, 0, 0, 0].map (BitVec.ofNat 64)

/-- The 64 header bytes (R508). -/
def headBytes (h : UnitHead) : List Byte :=
  let b := headBody h
  bytesOfWords (b ++ [BitVec.ofNat 64 (crc32c (bytesOfWords (b ++ [0#64])) * 2 ^ 32)])

/-- A header read from its words. -/
def headOf (ws : List Word) : UnitHead :=
  { step := fld ws 0 63 0, unit := fld ws 1 15 0, bucket := fld ws 1 63 32, chunk := fld ws 2 31 0, first := fld ws 2 63 32, blocks := fld ws 3 15 0 + 1
    nonfin := fld ws 3 17 17 == 1, sparse := fld ws 3 18 18 == 1, last := fld ws 3 19 19 == 1, crc := fld ws 3 63 32 }

/-- Whether a reserved header field is set. -/
def headReserved (ws : List Word) : Bool :=
  fld ws 1 31 16 != 0 || fld ws 3 16 16 != 0 || fld ws 3 31 20 != 0 || [4, 5, 6].any (fun i => fld ws i 63 0 != 0) || fld ws 7 31 0 != 0

/-- Whether a header's HCRC matches (R508). -/
def headCrcOk (bs : List Byte) : Bool := leNat ((bs.drop 60).take 4) == crc32c (bs.take 60 ++ leBytes 4 0)

/-- A block's meta entry (R509). -/
def metaOf (sparse : Bool) (b : RedBlock) : List Byte :=
  leBytes (metaBytes sparse) (b.exp + bitNat b.raised * 2 ^ 8 + if sparse then b.idx * 2 ^ 32 else 0)

/-- Everything of a unit after its header: meta array, padded, and mantissas (R507). -/
def unitBody (sparse : Bool) (bs : List RedBlock) : List Byte :=
  let m := bs.flatMap (metaOf sparse)
  m ++ List.replicate (mantOffset sparse bs.length - 64 - m.length) 0#8 ++ bs.flatMap fun b => b.mants.flatMap (leBytes 2)

/-- A meta entry as a number. -/
def metaAt (sparse : Bool) (body : List Byte) (i : Nat) : Nat := leNat ((body.drop (metaBytes sparse * i)).take (metaBytes sparse))

/-- Whether a reserved field of a meta entry is set (R509). -/
def metaReserved (sparse : Bool) (x : Nat) : Bool := if sparse then bits x 31 9 != 0 else bits x 15 9 != 0

/-- Block i of a unit as received; `first` is the bucket block of a dense unit's first block. -/
def unitBlock (sparse : Bool) (first n : Nat) (body : List Byte) (i : Nat) : RedBlock :=
  let x := metaAt sparse body i
  let m := body.drop (mantOffset sparse n - 64 + 64 * i)
  { idx := if sparse then bits x 63 32 else first + i, exp := bits x 7 0, raised := bit x 8, mants := (List.range 32).map fun j => leNat ((m.drop (2 * j)).take 2) }

/-- Strictly rising numbers from `lo` on, below `hi`. -/
def strictlyRising : Nat → Nat → List Nat → Bool
  | _, _, [] => true
  | lo, hi, x :: l => decide (lo ≤ x) && decide (x < hi) && strictlyRising (x + 1) hi l

/-- What a REDUCE expects of its next unit from an input. -/
structure UnitWanted where
  step : Nat
  bucket : Nat
  unit : Nat
  chunk : Nat
  /-- Dense: the block that follows the previous unit. Sparse: the first block an index may name. -/
  next : Nat
  /-- One past the chunk's last block. -/
  stop : Nat
  sparse : Bool

/-- The checks of a landed unit, in their order (R514): its meta entries are those of the kind its header gives. -/
def unitFault (w : UnitWanted) (head body : List Byte) : Option Code :=
  let ws := wordsOf 8 head
  let h := headOf ws
  let n := min h.blocks (unitLimit h.sparse)
  let metas := (List.range n).map (metaAt h.sparse body)
  firstCode
    [ (!(headCrcOk head), .collLandHeader),
      (headReserved ws || metas.any (metaReserved h.sparse), .collReserved),
      (h.bucket != w.bucket || h.step != w.step || h.unit != w.unit % 2 ^ 16 || h.chunk != w.chunk, .collLandMismatch),
      (h.sparse != w.sparse || decide (unitLimit w.sparse < h.blocks) || (!w.sparse && (h.first != w.next || decide (w.stop < h.first + h.blocks))), .collLandHeader),
      (h.crc != crc32c (body.take (mantOffset w.sparse n - 64 + 64 * n)), .collCrc),
      (w.sparse && !(strictlyRising w.next w.stop (metas.map fun x => bits x 63 32)), .collSparseOrder) ]

end Sys2Proof.Machine
end

