-- ==== Sys2Proof/Machine/Reduce.lean ====
section
/-! DEFINITION. REDUCE (R494 to R535) and BROADCAST (R544 to R548). -/
namespace Sys2Proof.Machine

/-! The reduction engines' frame. -/

/-- A command a reduction engine holds and has not started. -/
def State.collNext (s : State) (cc slot op : Nat) : Option CmdInst :=
  if s.ready then s.coll.queue.find? fun c => c.ctx == cc && c.slot == slot && c.op == op else none

/-- Whether a command is the one of a context and slot. -/
def CmdInst.isAt (c : CmdInst) (cc slot : Nat) : Bool := c.ctx == cc && c.slot == slot

/-- A command taken from the reduction engines' queue. -/
def State.collTake (s : State) (c : CmdInst) : State := s.withColl fun x => { x with queue := x.queue.filter fun y => !(y.isAt c.ctx c.slot) }

/-- A reduction engine's command ended; after a fault or a rejection the context's commands not started are read again when it resumes (R212, R634). -/
def State.endColl (s : State) (e : Exec) (d : Fin) : State :=
  let c := e.cmd
  let bad := d.status = 1 || d.status = 2
  let back := if bad then s.coll.queue.filter fun y => y.ctx == c.ctx && !(y.isAt c.ctx c.slot) else []
  let s1 := s.withColl fun x =>
    { x with
      queue := x.queue.filter fun y => if bad then y.ctx != c.ctx else !(y.isAt c.ctx c.slot)
      runs := x.runs.filter fun y => !(y.exec.cmd.isAt c.ctx c.slot)
      broadcasts := x.broadcasts.filter fun y => !(y.cmd.isAt c.ctx c.slot) }
  (s1.putBack back).finish c 0x1FF e.start d

/-- The accesses of a command of the reduction engine of a port die. -/
def State.whoRed (s : State) (cc port : Nat) : Who := { s.whoCtx cc none with red := true, die := diePort port }

/-- Whether packets of a reduction engine's command still await DONE. -/
def State.collAwaits (s : State) (c : CmdInst) : Bool :=
  let out := fun (l : List Xfer) => l.any fun x => x.left != 0
  (s.coll.runs.any fun r => r.exec.cmd.isAt c.ctx c.slot && out (r.units.map RedUnit.xfer)) || s.coll.broadcasts.any fun e => e.cmd.isAt c.ctx c.slot && out e.xfers

/-- A reduction engine's command that ends by itself: at once, or once DONE has covered every packet it injected (R407). -/
def State.closeColl (s : State) (e : Exec) (d : Fin) : State :=
  if s.collAwaits e.cmd then
    s.withColl fun x =>
      { x with
        runs := x.runs.map fun r => if r.exec.cmd.isAt e.cmd.ctx e.cmd.slot then { r with exec := { r.exec with ending := some d } } else r
        broadcasts := x.broadcasts.map fun y => if y.cmd.isAt e.cmd.ctx e.cmd.slot then { y with ending := some d } else y }
  else s.endColl e d

/-- Whether a run of bytes lies in the Cellar (R495). -/
def inCellar (a n : Nat) : Bool := region a == 1 && decide (offset a + n ≤ cellarBytes)

/-- An executing REDUCE. -/
def State.findRun (s : State) (cc slot : Nat) : Option RedRun := s.coll.runs.find? fun r => r.exec.cmd.isAt cc slot

/-- An executing REDUCE replaced. -/
def State.putRun (s : State) (r : RedRun) : State :=
  s.withColl fun x => { x with runs := x.runs.map fun y => if y.exec.cmd.isAt r.exec.cmd.ctx r.exec.cmd.slot then r else y }

/-! A REDUCE's records and checks. -/

/-- The descriptor indexes of a REDUCE: LOCAL, OWN, RES_IN, RES_OUT (R494). -/
def CmdInst.redIndexes (c : CmdInst) : List Nat := [fld c.words 4 15 0, fld c.words 4 31 16, fld c.words 4 47 32, fld c.words 4 63 48]

/-- The descriptor reads of a REDUCE, in the order LOCAL, OWN, RES_IN, RES_OUT; `none` for a field that names none. -/
def State.redDescs (s : State) (w : Who) (c : CmdInst) : List (Option RecRead) :=
  [some (s.readDesc w c.ctx (fld c.words 4 15 0))] ++ [fld c.words 4 31 16, fld c.words 4 47 32, fld c.words 4 63 48].map fun i => if i = 0xFFFF then none else some (s.readDesc w c.ctx i)

/-- Descriptor k of an executing REDUCE. -/
def redDesc (e : Exec) (k : Nat) : Option Desc := (e.recs[k]?).bind RecRead.desc

/-- The plan record read whole (R499). -/
def State.readPlan (s : State) (w : Who) (a : Nat) : RecRead :=
  match s.readCellarRec w a 16 with
  | .words ws => s.readCellarRec w a (16 + 2 * planCount ws)
  | .failed f b => .failed f b
  | .beyond => .beyond

/-- Whether a tensor lies in the Cellar (R495). -/
def descInCellar (d : Desc) : Bool := d.spans.all fun x => inCellar x.1 (x.2 - x.1)


/-- The checks of R162 for a REDUCE (R494 to R497). -/
def redChecks (c : CmdInst) (ds : List (Option Desc)) (plan : List Word) : Checks :=
  let d := fun k => nth ds k none
  let blocks := ((d 0).map blockCount).getD 0
  let sp := c.rSparse
  { reserved := fld c.words 7 63 52 != 0 || fld c.words 6 63 52 != 0 || fld c.words 5 63 52 != 0 || fld c.words 3 3 2 != 0
    field := !(sp == 0 || (decide (2 ≤ sp) && decide (sp ≤ 10))) || (if sp = 0 then fld c.words 4 47 32 != 0xFFFF || fld c.words 4 63 48 != 0xFFFF else fld c.words 4 63 48 == 0xFFFF)
      || !(inCellar c.rPlan (8 * plan.length)) || !(inCellar c.rScale blocks) || (c.rFlag != 0 && !(inCellar c.rFlag 8)) || (ds.filterMap id).any fun x => !descInCellar x
    align := c.rPlan % 64 != 0
    format := (d 0).any (fun x => x.fmt != .b16) || (d 1).any fun x => x.fmt != .b16
    shape := match d 0 with
      | some l => (d 2).any (fun x => !sameSizes l x) || (d 3).any fun x => !sameSizes l x
      | none => false }

/-- The rejection of a REDUCE: the reads, R162, COLL.RESERVED and COLL.PLAN (R501, R902), with the plan entry concerned (R533), 0 where it is no entry's. -/
def State.redRejection (s : State) (c : CmdInst) (rs : List (Option RecRead)) (plan : RecRead) : Option Fin :=
  let ds := rs.map fun r => r.bind RecRead.desc
  let p := s.ctxPart c.ctx
  let n := fun k => ((nth ds k none).map blockCount).getD 0
  match firstFailed (rs.filterMap id ++ [plan]) with
  | some f => some (rejectAt f.1 f.2)
  | none => (s.rejection c (rs.filterMap id) (redChecks c ds plan.ws)).orElse fun _ =>
    if planReserved plan.ws then some { rejectFin .collReserved with failInfo := (reservedEntry plan.ws).getD 0 }
    else if planBad plan.ws (n 0) (n 1) s.fabric (s.odN (0x3710 + p) 1) (s.odN (0x3710 + p) 2) then some { rejectFin .collPlan with failInfo := (badEntry plan.ws (n 0) (n 1) s.fabric).getD 0 }
    else none

/-! The working state of a REDUCE. -/

/-- A REDUCE under way: the machine with the command's counters, and its own state. -/
structure Work where
  run : Run
  r : RedRun

/-- A REDUCE taken up. -/
def State.work (s : State) (r : RedRun) : Work := { run := Run.start s r.exec, r := r }

/-- The REDUCE with the counters of its run. -/
def Work.done (x : Work) : RedRun :=
  { x.r with exec := { x.r.exec with ctrs := x.run.ctrs, written := x.run.written, maxAbs := x.run.maxAbs, drained := x.run.tiles } }

def Work.cmd (x : Work) : CmdInst := x.r.exec.cmd
def Work.part (x : Work) : Nat := x.run.st.ctxPart x.cmd.ctx
def Work.who (x : Work) : Who := x.run.st.whoRed x.cmd.ctx x.cmd.port
def Work.sparse (x : Work) : Bool := x.cmd.rSparse != 0
def Work.chunk (x : Work) : Chunk := planChunk x.r.plan x.r.entry
def Work.withSt (x : Work) (f : State → State) : Work := { x with run := { x.run with st := f x.run.st } }

/-- A fault of a REDUCE, naming a plan entry (R533). -/
def Work.faultOf (x : Work) (entry : Nat) (f : Code) (addr : Nat) : Work := { x with run := x.run.stopped { status := 2, fault := some f, failInfo := entry, failAddr := addr } }

/-- A fault met at the entry under way. -/
def Work.fault (x : Work) (f : Code) (addr : Nat) : Work := x.faultOf x.r.entry f addr

/-- A fault met at a local address. -/
def Work.faultAt (x : Work) (f : Code × Nat) : Work := x.fault f.1 (x.run.st.globalAddr f.2)

/-- A run's own fault with the plan entry in FAIL_INFO. -/
def Work.withRun (x : Work) (r : Run) : Work :=
  { x with run := { r with stop := r.stop.map fun d => { d with failInfo := x.r.entry } } }

/-- One block of an operand read and counted. -/
def Work.readBlock (x : Work) (d : Desc) (set b : Nat) : Work × List (Nat × Option Nat) :=
  let r := x.run.readGroup x.who set d (blockIx d b) x.r.entry
  (x.withRun r.1, r.2)

/-- Elements of a B16 block as a contribution, with zeros past the end of a short block (R507). -/
def contributionOf (es : List (Nat × Option Nat)) : Contribution :=
  ((es.head?.bind Prod.snd).getD 0, es.map (fun e => (readElem .b16 e.1 e.2).1) ++ List.replicate (32 - es.length) Val.pos0)

/-- The agreed scale of a bucket block (R520). -/
def Work.agreed (x : Work) (b : Nat) : Nat := min 254 (x.run.st.byte (x.cmd.rScale + b)).toNat

/-! Writing OWN blocks. -/

/-- A block written to OWN_DESC: its mantissas and exponent (R503, R519). -/
def Work.writeOwn (x : Work) (b exp : Nat) (ms : List (Nat × Kind)) : Work :=
  match redDesc x.r.exec 1 with
  | none => x
  | some d =>
    let ixs := blockIx d (x.chunk.dst + (b - x.chunk.first))
    let es := ixs.zip ms |>.map fun y => ({ ix := y.1, code := y.2.1, scale := some exp, kind := y.2.2 } : OutElem)
    x.withRun (x.run.wrote x.who d es {} x.r.entry)

/-- The agreed scale an OWN block leads to (R527). -/
def nextScale (exp : Nat) (ms : List (Nat × Kind)) : Nat :=
  min 254 (blockScale .b16 (blockVals exp (ms.map Prod.fst)) + 2)

/-- Blocks of an OWN chunk that no contribution carried, from chunk position `lo` up to `hi` (R532). -/
def Work.fillOwn (x : Work) (lo hi : Nat) : Work :=
  if x.chunk.own then
    (List.range (hi - lo)).foldl (fun y i => if y.run.stop.isSome then y else y.writeOwn (x.chunk.first + lo + i) 0 (List.replicate 32 (0, .zero))) x
  else x

/-- A block's saturation counted and reported once for the command (R521, R550). -/
def Work.noteSat (x : Work) (sat : Bool) : Work :=
  if sat then
    let y := x.withSt fun s => s.odInc (0x3710 + x.part) 5
    if x.r.sat then y
    else { (y.withSt fun s => s.record { code := .collSaturated, part := s.partOfCtx x.cmd.ctx, ctx := some x.cmd.ctx, unit := { kind := 8, inst := x.cmd.port } }) with r := { y.r with sat := true } }
  else x

/-- Bucket block b added from its contributions and written or held for the output partner (R521, R524, R527). -/
def Work.addOne (x : Work) (b : Nat) (cs : List Contribution) : Work :=
  if x.run.stop.isSome then x
  else match x.run.st.readFault x.who (x.cmd.rScale + b) with
    | some f => x.faultAt f
    | none =>
      let (a, draw) := addBlock (x.agreed b) cs (x.run.st.gen (redUnit x.cmd.port))
      let x1 := { x with run := { x.run with st := x.run.st.drew draw }, r := { x.r with flag := x.r.flag || a.bad } }
      let x2 := x1.noteSat a.sat
      if x.chunk.own then
        let x3 := x2.writeOwn b a.exp a.mants
        if x3.run.stop.isSome then x3
        else
          let x4 := if a.raised then x3.withSt fun s => s.odInc (0x3710 + x.part) 4 else x3
          { x4 with r := { x4.r with scales := x4.r.scales ++ [(b, nextScale a.exp a.mants)] } }
      else { x2 with r := { x2.r with out := x2.r.out ++ [a.block b] } }

/-! Entering an entry: the residuals of a sparse LOCAL entry (R528 to R530). -/

/-- v of one block (R528). -/
def residValues (mul : A32) (gs rs : List (Nat × Option Nat)) (rf : Fmt) : List A32 :=
  gs.zipIdx.map fun (g, j) => a32Fma .nearest 0 mul (match rs[j]? with | some r => widenElem rf r | none => a32Zero) (widenElem .b16 g)

/-- v of every block of the chunk, in order. -/
def Work.values (x : Work) : Work × List (Nat × List A32) :=
  match redDesc x.r.exec 0 with
  | none => (x, [])
  | some l =>
    (List.range x.chunk.blocks).foldl (fun (acc : Work × List (Nat × List A32)) i =>
      if acc.1.run.stop.isSome then acc
      else
        let b := x.chunk.first + i
        let (y, gs) := acc.1.readBlock l 1 b
        match redDesc x.r.exec 2 with
        | none => (y, acc.2 ++ [(b, residValues (planResMul x.r.plan) gs [] .b16)])
        | some d =>
          if y.run.stop.isSome then (y, acc.2)
          else
            let (z, rs) := y.readBlock d 2 b
            (z, acc.2 ++ [(b, residValues (planResMul x.r.plan) gs rs d.fmt)])) (x, [])

/-- One block's residual written (R530). -/
def Work.putResid (x : Work) (b : Nat) (vs : List A32) : Work :=
  match redDesc x.r.exec 3 with
  | none => x
  | some d =>
    let r := encodeElems d .stochastic ((blockIx d b).zip vs) (x.run.st.gen (redUnit x.cmd.port))
    let p := patchOf d r.1
    match x.run.st.patchFault x.who p with
    | some f => x.faultAt f
    | none =>
      { x with run := { x.run with
          st := (x.run.st.putPatch x.who d.hint p).drew r.2
          ctrs := modAt x.run.ctrs 3 fun c => r.1.foldl (fun k e => k.bump e.kind) c } }

/-- The block a sent block carries out of the adder before any input is added (R521, R530), with its exponent by R522. -/
def Work.sentBlock (x : Work) (b : Nat) (vs : List A32) : Work × RedBlock :=
  let vals := vs.map a32Val
  let (a, draw) := addBlock (x.agreed b) [(blockScale .b16 vals, vals ++ List.replicate (32 - vals.length) Val.pos0)] (x.run.st.gen (redUnit x.cmd.port))
  let y : Work := { run := { x.run with st := x.run.st.drew draw }, r := { x.r with flag := x.r.flag || a.sat } }
  (y.noteSat a.sat, a.block b)

/-- v - w, in A32. -/
def residLeft (vs : List A32) (w : RedBlock) : List A32 :=
  vs.zipIdx.map fun (v, j) => a32Round .nearest 0 ((a32Val v).sub (nth (blockVals w.exp w.mants) j .nan))

/-- What a REDUCE does when it comes to an entry: for a sparse LOCAL entry the selection and the residuals. -/
def Work.enter (x : Work) : Work :=
  if planCount x.r.plan ≤ x.r.entry || !x.sparse || !x.chunk.loc then x
  else
    let (y, vs) := x.values
    if y.run.stop.isSome then y
    else
      let n := ceilDiv x.chunk.blocks (2 ^ x.cmd.rSparse)
      let keep := selectBlocks n (vs.map fun v => sumSquares v.2)
      vs.zipIdx.foldl (fun z (v, i) =>
        if z.run.stop.isSome then z
        else if keep.contains i then
          let (z1, w) := z.sentBlock v.1 v.2
          let z2 := z1.putResid v.1 (residLeft v.2 w)
          { z2 with r := { z2.r with sel := z2.r.sel ++ [w] } }
        else z.putResid v.1 v.2) y

/-! Landed units. -/

/-- The local address of a landing unit (R505). -/
def State.landAddr (s : State) (n : Nat) : Nat := 2 ^ 44 + n / max 1 s.coll.units * cellarDieBytes + n % max 1 s.coll.units * 65536

/-- The landing unit an input's next unit lies in (R510). -/
def Work.landOf (x : Work) (i : Nat) : Nat := planInLand x.r.plan i + (nth x.r.inputs i {}).used % planInW x.r.plan i

/-- The header bytes of an input's present unit, and the rest of it. -/
def Work.headOf (x : Work) (i : Nat) : List Byte := memBytes x.run.st.mem (x.run.st.landAddr (x.landOf i)) 64
def Work.bodyLen (x : Work) (i : Nat) : Nat :=
  let h := Machine.headOf (wordsOf 8 (x.headOf i))
  let n := min h.blocks (unitLimit h.sparse)
  mantOffset h.sparse n - 64 + 64 * n
def Work.bodyOf (x : Work) (i : Nat) : List Byte := memBytes x.run.st.mem (x.run.st.landAddr (x.landOf i) + 64) (x.bodyLen i)

/-- The block an input's present unit stands at. -/
def Work.blockOf (x : Work) (i : Nat) : RedBlock :=
  let h := Machine.headOf (wordsOf 8 (x.headOf i))
  unitBlock x.sparse h.first h.blocks (x.bodyOf i) (nth x.r.inputs i {}).pos

/-- What is expected of an input's next unit (R514). -/
def Work.wanted (x : Work) (i : Nat) : UnitWanted :=
  { step := x.cmd.rStep, bucket := x.cmd.rBucket, unit := (nth x.r.inputs i {}).used, chunk := x.chunk.first, next := x.chunk.first + x.r.at_
    stop := x.chunk.first + x.chunk.blocks, sparse := x.sparse }

/-- An input's state changed. -/
def Work.setInput (x : Work) (i : Nat) (f : RedInput → RedInput) : Work := { x with r := { x.r with inputs := modAt x.r.inputs i f } }

/-- An input made ready to give its next block: its unit has landed and passed its checks (R514). None while it has not landed. -/
def Work.prepare (x : Work) (i : Nat) : Option Work :=
  let q := nth x.r.inputs i {}
  if x.run.stop.isSome || q.checked then some x
  else if !(x.run.st.coll.board.contains (x.landOf i)) then none
  else
    let a := x.run.st.landAddr (x.landOf i)
    match x.run.st.loadFault x.who a (64 + x.bodyLen i) with
    | some f => some (x.faultAt f)
    | none =>
      let y := x.withSt fun s => s.touch x.who 0 a (64 + x.bodyLen i)
      match unitFault (x.wanted i) (x.headOf i) (x.bodyOf i) with
      | some c => some (y.fault c 0)
      | none => some { (y.setInput i fun z => { z with checked := true }) with r := { (y.setInput i fun z => { z with checked := true }).r with flag := y.r.flag || (Machine.headOf (wordsOf 8 (x.headOf i))).nonfin } }

/-- Several inputs made ready. -/
def Work.prepareAll (x : Work) : List Nat → Option Work
  | [] => some x
  | i :: l => match x.prepare i with
    | some y => y.prepareAll l
    | none => none

/-- Data of a credit message (R516). -/
def creditData (step land bucket consumed : Nat) : List Byte :=
  leBytes 8 step ++ leBytes 8 (land % 2 ^ 16 * 2 ^ 16 + bucket * 2 ^ 32) ++ leBytes 8 (consumed % 2 ^ 32) ++ leBytes 8 0

/-- Address of the REDUCE credit object of partition p (R516). -/
def reduceObj (p : Nat) : Nat := 0xF0000C020000 + p * 0x40

/-- An input past the block it has given: at the end of its unit the board bit is cleared and the credit sent (R515). -/
def Work.pass (x : Work) (i : Nat) : Work :=
  let q := nth x.r.inputs i {}
  let h := Machine.headOf (wordsOf 8 (x.headOf i))
  if x.run.stop.isSome then x
  else if q.pos + 1 < h.blocks then x.setInput i fun z => { z with pos := z.pos + 1 }
  else
    let n := x.landOf i
    let y := (x.setInput i fun z => { used := z.used + 1, checked := false, pos := 0, last := h.last }).withSt fun s => s.withColl fun c => { c with board := c.board.filter (· != n) }
    let src := planInSrc x.r.plan i
    match y.run.st.message y.who src 0xF0 (reduceObj x.part) (creditData x.cmd.rStep (planInLand x.r.plan i) x.cmd.rBucket (q.used + 1)) with
    | .ok t => { y with run := { y.run with st := t } }
    | .error c => y.fault c (if c = .fabUnreachable then src * 2 ^ 52 + reduceObj x.part else 0)

/-- Elements of a received block counted in set 4 (R533): those the bucket's block has. -/
def Work.received (x : Work) (b : RedBlock) : Work :=
  let n := ((redDesc x.r.exec 0).map fun d => (blockIx d b.idx).length).getD 32
  { x with run := x.run.counted 4 .b16 ((b.mants.take n).map fun m => (m, some b.exp)) }

/-- The next block of a dense entry added; none while an input has not landed (R503). -/
def Work.stepDense (x : Work) : Option Work :=
  let b := x.chunk.first + x.r.at_
  match x.prepareAll x.chunk.inputs with
  | none => none
  | some y =>
    if y.run.stop.isSome then some y
    else
      let bs := x.chunk.inputs.map y.blockOf
      let y1 := bs.foldl Work.received y
      let (y2, own) := match redDesc x.r.exec 0 with
        | some d => if x.chunk.loc then (let r := y1.readBlock d 1 b; (r.1, [contributionOf r.2])) else (y1, [])
        | none => (y1, [])
      let y3 := y2.addOne b (bs.map RedBlock.contribution ++ own)
      let y4 := x.chunk.inputs.foldl Work.pass y3
      some { y4 with r := { y4.r with at_ := x.r.at_ + 1, full := decide (x.chunk.blocks ≤ x.r.at_ + 1) } }

/-- The next block of a sparse entry merged (R531); none while an input's next block has not landed. -/
def Work.stepSparse (x : Work) : Option Work :=
  let live := x.chunk.inputs.filter fun i => !(nth x.r.inputs i {}).last
  match x.prepareAll live with
  | none => none
  | some y =>
    if y.run.stop.isSome then some y
    else
      let heads := live.map fun i => (i, y.blockOf i)
      let idxs := heads.map (fun h => h.2.idx) ++ (y.r.sel.head?.map RedBlock.idx).toList
      match idxs with
      | [] =>
        let z := y.fillOwn y.r.at_ x.chunk.blocks
        some { z with r := { z.r with full := true } }
      | i0 :: rest =>
        let b := rest.foldl min i0
        let mine := heads.filter fun h => h.2.idx == b
        let loc := y.r.sel.head?.filter fun k => k.idx == b
        let y1 := mine.foldl (fun z h => z.received h.2) (y.fillOwn y.r.at_ (b - x.chunk.first))
        let y2 := y1.addOne b (mine.map (fun h => h.2.contribution) ++ loc.toList.map RedBlock.contribution)
        let y3 := mine.foldl (fun z h => z.pass h.1) y2
        some { y3 with r := { y3.r with at_ := b - x.chunk.first + 1, sel := if loc.isSome then y3.r.sel.tail else y3.r.sel } }

/-- The next block of the entry. -/
def Work.step (x : Work) : Option Work := if x.sparse then x.stepSparse else x.stepDense

/-- Units consumed so far from all inputs. -/
def RedRun.consumed (r : RedRun) : Nat := (r.inputs.map RedInput.used).sum

/-- Whether more blocks may be added before a unit is sent: the engine holds one unit's blocks, and one more where a sparse unit's LAST depends on it (log entry 26). -/
def Work.room (x : Work) : Bool := decide (x.r.out.length < unitLimit x.sparse + if x.sparse then 1 else 0)

/-- Blocks added until a unit has been consumed, an input is waited for, the entry is full or a unit's worth of blocks is held. -/
def addLoop : Nat → Work → Work
  | 0, x => x
  | n + 1, x =>
    if x.run.stop.isSome || x.r.full || !x.room then x
    else match x.step with
      | none => x
      | some y => if y.r.consumed = x.r.consumed then addLoop n y else y

/-- The loop with fuel for every block of the entry. -/
def Work.add (x : Work) : Work := addLoop (x.chunk.blocks + 1) x

/-- The end of an OWN chunk: the step flag word (R525) or the next agreed scales (R527). -/
def Work.endOwn (x : Work) : Work :=
  if x.r.flag then
    if x.cmd.rFlag = 0 then x
    else match (x.run.st.loadFault x.who x.cmd.rFlag 8).orElse fun _ => x.run.st.storeFault x.who x.cmd.rFlag 8 with
      | some f => x.faultAt f
      | none => x.withSt fun s => s.store x.who 0 x.cmd.rFlag [s.byte x.cmd.rFlag ||| 1#8]
  else x.r.scales.foldl (fun y b =>
    if y.run.stop.isSome then y
    else match y.run.st.storeFault y.who (y.cmd.rScale + b.1) 1 with
      | some f => y.faultAt f
      | none => y.withSt fun s => s.store y.who 0 (y.cmd.rScale + b.1) [BitVec.ofNat 8 b.2]) x

/-- Entries that need nothing from outside carried to their end, in plan order (R503). -/
def settleWork : Nat → Work → Work
  | 0, x => x
  | n + 1, x =>
    if x.run.stop.isSome || planCount x.r.plan ≤ x.r.entry then x
    else if x.r.full && (x.chunk.own || x.r.out.isEmpty) then
      let y := if x.chunk.own then x.endOwn else x
      if y.run.stop.isSome then y
      else settleWork n ({ y with r := { y.r with entry := y.r.entry + 1, at_ := 0, full := false, flag := false, scales := [], sel := [], inputs := y.r.inputs.map fun q => { q with last := false } } } : Work).enter
    else if x.chunk.own && x.chunk.mask == 0 then settleWork n x.add
    else x

/-- A REDUCE carried on as far as it goes: it ends on a fault, completes (R518), or is kept. -/
def Work.settle (x0 : Work) : State :=
  let x := settleWork (2 * planCount x0.r.plan + 2) x0
  if x.run.stop.isSome then (x.run.st.putRun x.done).closeColl x.r.exec x.run.fin
  else if planCount x.r.plan ≤ x.r.entry && x.r.units.isEmpty then x.run.st.endColl x.r.exec { x.run.fin with status := 0 }
  else x.run.st.putRun x.done

/-! The rows. -/

/-- A REDUCE that has become locally ready (R502). -/
def State.redReady (s : State) (r : RedRun) : State :=
  let q := { r with ready := true, exec := { r.exec with waiting := false } }
  ((s.putRun q).work q).enter.settle.refresh r.exec.cmd.ctx

/-- REDUCE (R498, R502): checked and executing; it joins its counter's order, or is locally ready at once. -/
def execReduce (cc slot : Nat) (s : State) : Host.Outcome State Fault Refusal :=
  .next (match s.collNext cc slot 0x48 with
    | none => s
    | some c =>
      let w := s.whoRed cc c.port
      let rs := s.redDescs w c
      let plan := s.readPlan w c.rPlan
      let e : Exec := { cmd := c, start := s.now, limit := s.limitOf c, recs := rs.map fun r => r.getD .beyond }
      let s1 := s.collTake c
      match s.redRejection c rs plan with
      | some d => s1.endColl e d
      | none =>
        let p := s.ctxPart cc
        if s.fabric = 0xFFFF && (planNin plan.ws != 0 || (planChunks plan.ws).any fun k => !k.own) then s1.endColl e (failFin .fabAddrUnset)
        else
          let r : RedRun := { exec := { e with waiting := true }, plan := plan.ws }
          let s2 := ((s1.touchDescs w cc c.redIndexes).touchRecord w c.rPlan (8 * plan.ws.length)).withColl fun x => { x with runs := x.runs ++ [r] }
          if c.rReady = 0 then s2.redReady r
          else
            let s3 := { s2 with takers := s2.takers ++ [(takerKey p c.rCtr, Consumer.reduction cc, slot)] }
            if (s.headTaker p c.rCtr).isNone && decide (c.rReady ≤ s.credits p c.rCtr) then (s3.takeHead p c.rCtr c.rReady).redReady r else s3.refresh cc)

/-- REDUCE_LOCALLY_READY (R502, R590): the REDUCE at the head of its counter's order takes its credits. -/
def execReduceLocallyReady (cc slot : Nat) (s : State) : Host.Outcome State Fault Refusal :=
  .next (match s.findRun cc slot with
    | none => s
    | some r =>
      let p := s.ctxPart cc
      let c := r.exec.cmd
      if !r.ready && s.headTaker p c.rCtr == some (Consumer.reduction cc, slot) && decide (c.rReady ≤ s.credits p c.rCtr) then (s.takeHead p c.rCtr c.rReady).redReady r else s)

/-- The REDUCE of a context and slot that is locally ready, has met no fault and stands at an entry. -/
def State.runAt (s : State) (cc slot entry : Nat) : Option RedRun := (s.findRun cc slot).filter fun r => r.ready && r.exec.ending.isNone && r.entry == entry && decide (entry < planCount r.plan)

/-- A unit's worth of blocks, or the last blocks of the entry, ready to be sent. -/
def Work.unitReady (x : Work) : Bool :=
  if x.r.full then !x.r.out.isEmpty else decide (unitLimit x.sparse + (if x.sparse then 1 else 0) ≤ x.r.out.length)

/-- The next unit sent, but for its header (R508, R510, R511). -/
def Work.sendUnit (x : Work) : Work :=
  let bs := x.r.out.take (unitLimit x.sparse)
  let rest := x.r.out.drop (unitLimit x.sparse)
  let body := unitBody x.sparse bs
  let a := x.run.st.landAddr (planOutLand x.r.plan + x.r.sent % planOutW x.r.plan)
  let h : UnitHead :=
    { step := x.cmd.rStep, unit := x.r.sent, bucket := x.cmd.rBucket, chunk := x.chunk.first, first := if x.sparse then 0 else (bs.head?.map RedBlock.idx).getD 0
      blocks := bs.length, nonfin := x.r.flag, sparse := x.sparse, last := x.r.full && rest.isEmpty, crc := crc32c body }
  match x.run.st.writeTo x.who (planOutDst x.r.plan) 1 (0xC0 + x.cmd.port) (piecesOf [(a + 64, body)]) with
  | .error f => x.fault f.1 (if f.1 = .fabUnreachable then f.2 else 0)
  | .ok (t, xf) => { run := { x.run with st := t }, r := { x.r with out := rest, sent := x.r.sent + 1, units := x.r.units ++ [{ xfer := xf, entry := x.r.entry, header := some (a, headBytes h) }] } }

/-- Whether the next unit may be started: the window has room (R510), and where it overlaps an earlier unit of the command DONE has covered everything sent before it (R409). -/
def RedRun.mayStart (r : RedRun) : Bool := decide (r.sent < r.credit + planOutW r.plan) && (decide (r.sent < planOutW r.plan) || r.units.isEmpty)

/-- REDUCE_UNIT_SEND (R409, R510, R511). -/
def execReduceUnitSend (cc slot entry : Nat) (s : State) : Host.Outcome State Fault Refusal :=
  .next (match s.runAt cc slot entry with
    | none => s
    | some r =>
      let x := s.work r
      if x.chunk.own || !r.mayStart then s
      else
        let y := if x.chunk.mask = 0 then x.add else x
        if y.run.stop.isSome then y.settle
        else if y.unitReady then y.sendUnit.settle
        else s)

/-- REDUCE_UNIT_CONSUME (R514, R515, R521). -/
def execReduceUnitConsume (cc slot entry : Nat) (s : State) : Host.Outcome State Fault Refusal :=
  .next (match s.runAt cc slot entry with
    | none => s
    | some r => if (planChunk r.plan entry).mask = 0 then s else (s.work r).add.settle)

/-- The transfers of an executing REDUCE after a DONE (R407, R511): a fault ends it; one that has met a fault of its own ends once all are covered; a unit whose other packets are covered gets its header; one whose header is covered is sent. -/
def State.redCovered (s : State) (r : RedRun) : State :=
  match xferFault (r.units.map RedUnit.xfer), r.exec.ending with
  | some f, _ => s.endColl r.exec (remoteFin { (s.work r).run.fin with status := 2 } f)
  | none, some d => (s.putRun { r with units := r.units.filter fun u => u.xfer.left != 0 }).closeColl r.exec d
  | none, none =>
    let x := r.units.foldl (fun (y : Work) u =>
      if y.run.stop.isSome then y
      else if u.xfer.left != 0 then { y with r := { y.r with units := y.r.units ++ [u] } }
      else match u.header with
        | none => y
        | some (a, bs) =>
          match y.run.st.writeTo y.who (planOutDst r.plan) 1 (0xC0 + y.cmd.port) [(a, bs)] with
          | .error f => y.faultOf u.entry f.1 (if f.1 = .fabUnreachable then f.2 else 0)
          | .ok (t, xf) => { run := { y.run with st := t }, r := { y.r with units := y.r.units ++ [{ xfer := xf, entry := u.entry }] } }) (s.work { r with units := [] })
    x.settle

/-- A REDUCE credit message received (R517): delivered to the executing REDUCE of its bucket, step and window, or discarded. -/
def State.reduceCredit (s : State) (q : Packet) (p : Nat) : State :=
  let ws := wordsOf 4 q.data
  let hit := fun (r : RedRun) => s.ctxPart r.exec.cmd.ctx == p && r.exec.cmd.rBucket == fld ws 1 63 32 && r.exec.cmd.rStep == fld ws 0 63 0 && planOutLand r.plan == fld ws 1 31 16
  let bad := q.tag = 0 || q.tag != s.tagOf p || q.data.length != 32 || fld ws 1 15 0 != 0 || fld ws 2 63 32 != 0 || fld ws 3 63 0 != 0
  match s.coll.runs.find? hit with
  | some r => if bad then (s.odInc 0x3700 2).recordLimited (groupFault .collStray p) p else s.putRun { r with credit := fld ws 2 31 0 }
  | none => (s.odInc 0x3700 2).recordLimited (groupFault .collStray p) p

/-! BROADCAST. -/

def CmdInst.bcSrc (c : CmdInst) : Nat := fld c.words 2 51 0
def CmdInst.bcDst (c : CmdInst) : Nat := fld c.words 3 51 0
def CmdInst.bcLen (c : CmdInst) : Nat := fld c.words 4 39 0 + 1
def CmdInst.bcList (c : CmdInst) : Nat := fld c.words 5 51 0
def CmdInst.bcCount (c : CmdInst) : Nat := fld c.words 6 11 0 + 1

/-- Entries of a destination list of so many words. -/
def bcEntries (n : Nat) (ws : List Word) : List Nat := (List.range n).map fun i => fld ws (i / 4) (16 * (i % 4) + 15) (16 * (i % 4))

/-- Whether a list names a value twice. -/
def repeats : List Nat → Bool
  | [] => false
  | a :: l => l.contains a || repeats l

/-- The checks of a BROADCAST (R544, R545). -/
def bcChecks (c : CmdInst) (es : List Nat) : Checks :=
  { reserved := fld c.words 2 63 52 != 0 || fld c.words 3 63 52 != 0 || fld c.words 4 63 40 != 0 || fld c.words 5 63 52 != 0 || fld c.words 6 63 16 != 0 || fld c.words 6 13 12 != 0 || fld c.words 7 63 0 != 0
    field := !(inDie (offset c.bcSrc / cellarDieBytes) c.bcSrc c.bcLen && inCellar c.bcSrc c.bcLen) || decide (1 < region c.bcDst) || repeats (es.map (· % 4096))
    align := c.bcSrc % 64 != 0 || c.bcDst % 64 != 0 || c.bcLen % 64 != 0 }

/-- The destination list read, as bytes rounded up to whole words it names none of. -/
def State.readList (s : State) (w : Who) (c : CmdInst) : RecRead :=
  match s.loadFault w c.bcList (2 * c.bcCount) with
  | some f => .failed f.1 (s.globalAddr f.2)
  | none => .words (wordsOf (ceilDiv c.bcCount 4) (s.bytes c.bcList (2 * c.bcCount)))

/-- A BROADCAST under way: the state, the transfers begun by destination, and the fault that stopped it. -/
structure Casting where
  st : State
  xfers : List (Nat × Xfer) := []
  fault : Option (Code × Nat) := none

/-- Packet j of a BROADCAST to one destination (R547). -/
def castOne (c : CmdInst) (w : Who) (total j : Nat) (bs : List Byte) (x : Casting) (d : Nat) : Casting :=
  if x.fault.isSome then x
  else
    let a := c.bcDst + 4096 * j
    if d = x.st.fabric then
      match x.st.storeFault w a bs.length with
      | some f => { x with fault := some (f.1, x.st.globalAddr f.2) }
      | none => { x with st := x.st.store w 0 a bs }
    else
      let n := match x.xfers.find? fun y => y.1 == d with
        | some y => y.2.xfer
        | none => x.st.freshXfer d
      match x.st.send w { kind := 0, cls := 1, dst := d, flow := 0xC4 + c.port, tag := x.st.tagOf (w.part.getD 0), xfer := n, pktsM1 := total - 1, pkt := j, addr := a, data := bs } with
      | .error f => { x with fault := some (f, if f = .fabUnreachable then d * 2 ^ 52 + a else 0) }
      | .ok t =>
        { x with
          st := if j = 0 then { t with nextXfer := (n + 1) % 65536 } else t
          xfers := if j = 0 then x.xfers ++ [(d, { dst := d, xfer := n, left := total, fault := none })] else x.xfers }

/-- Packet j to every destination, in list order (R547). -/
def castPacket (c : CmdInst) (w : Who) (es : List Nat) (total : Nat) (x : Casting) (j : Nat) : Casting :=
  if x.fault.isSome then x
  else
    let a := c.bcSrc + 4096 * j
    let n := min 4096 (c.bcLen - 4096 * j)
    match x.st.loadFault w a n with
    | some f => { x with fault := some (f.1, x.st.globalAddr f.2) }
    | none => es.foldl (castOne c w total j (x.st.bytes a n)) { x with st := x.st.touch w 0 a n }

/-- The end of a BROADCAST with all its packets covered (R548). -/
def castFin (c : CmdInst) : Fin := { tiles := c.bcCount }

/-- A BROADCAST whose packets are on their way. -/
def Casting.sent (x : Casting) (e : Exec) : State :=
  x.st.withColl fun k => { k with broadcasts := k.broadcasts.map fun y => if y.cmd.isAt e.cmd.ctx e.cmd.slot then { e with phase := 2, xfers := x.xfers.map Prod.snd } else y }

/-- What a BROADCAST does once its packets are on their way: it ends, on the first fault it met, as soon as DONE has covered what it injected (R407). -/
def Casting.finish (x : Casting) (e : Exec) : State :=
  match x.fault with
  | some f => (x.sent e).closeColl e { status := 2, fault := some f.1, failAddr := f.2 }
  | none => (x.sent e).closeColl e (castFin e.cmd)

/-- The packets of a BROADCAST, in order. -/
def State.castPackets (s : State) (e : Exec) (es : List Nat) : Casting :=
  (List.range (ceilDiv e.cmd.bcLen 4096)).foldl (castPacket e.cmd (s.whoRed e.cmd.ctx e.cmd.port) es (ceilDiv e.cmd.bcLen 4096)) { st := s }

/-- A BROADCAST that may start sending (R546, R547). -/
def State.cast (s : State) (e : Exec) (es : List Nat) : State := (s.castPackets e es).finish e

/-- Whether a command of the context that precedes a BROADCAST in its queue, and runs on the update engine of SRC's cellar die, has not completed (R546). -/
def State.castHeld (s : State) (c : CmdInst) : Bool :=
  (((s.ctx c.ctx).fetched ++ s.flyingOf c.ctx).any fun d => decide (d.slot < c.slot) && d.target == 384 + offset c.bcSrc / cellarDieBytes)
    || (s.ctx c.ctx).again.any fun j => decide (j < c.slot) && leNat (s.bytes (s.targetAddr c.ctx j) 2) % 512 == 384 + offset c.bcSrc / cellarDieBytes

/-- The destinations of an executing BROADCAST. -/
def castList (e : Exec) : List Nat := bcEntries e.cmd.bcCount (match e.recs with | .words ws :: _ => ws | _ => [])

/-- BROADCAST (R545, R547): checked, and sending at once where R546 allows. -/
def execBroadcast (cc slot : Nat) (s : State) : Host.Outcome State Fault Refusal :=
  .next (match s.collNext cc slot 0x49 with
    | none => s
    | some c =>
      let w := s.whoRed cc c.port
      let l := s.readList w c
      let e : Exec := { cmd := c, start := s.now, limit := s.limitOf c, recs := [l], phase := 1 }
      let s1 := s.collTake c
      let es := castList e
      match l with
      | .failed f a => s1.endColl e (rejectAt f a)
      | .words _ | .beyond =>
        match (s.rejection c [] (bcChecks c es)).orElse fun _ => if es.any (fun x => 4096 ≤ x) then some (rejectFin .collReserved) else none with
        | some d => s1.endColl e d
        | none =>
          if s.fabric = 0xFFFF then s1.endColl e (failFin .fabAddrUnset)
          else
            let s2 := (s1.touch w 0 c.bcList (2 * c.bcCount)).withColl fun x => { x with broadcasts := x.broadcasts ++ [e] }
            if s2.castHeld c then s2 else s2.cast e es)

/-- BROADCAST_SEND_START (R546). -/
def execBroadcastSendStart (cc slot : Nat) (s : State) : Host.Outcome State Fault Refusal :=
  .next (match s.coll.broadcasts.find? fun e => e.cmd.isAt cc slot && e.phase == 1 with
    | none => s
    | some e => if s.castHeld e.cmd then s else s.cast e (castList e))

/-- A BROADCAST whose packets DONE has covered, or that a DONE ends (R407, R548). -/
def State.castCovered (s : State) (e : Exec) : State :=
  match xferFault e.xfers with
  | some f => s.endColl e (remoteFin {} f)
  | none => if e.xfers.all fun x => x.left == 0 then s.endColl e (e.ending.getD (castFin e.cmd)) else s

end Sys2Proof.Machine
end

