-- ==== Sys2Proof/Machine/Link.lean ====
section
/-! DEFINITION. Links: control, training, lanes and bonds (R366 to R375, R387 to R396), flits and retry (R376 to R386), and the passing of packets (R397 to R400, R414 to R431). -/
namespace Sys2Proof.Machine

/-! State of a link. -/

/-- STATE of a link as a number (R372). -/
def linkStNum : LinkSt → Nat
  | .disabled => 0 | .training => 1 | .up => 2 | .narrow => 3 | .held => 4 | .down => 5 | .isolated => 6 | .member => 7

/-- A link put into a STATE, with its flight-recorder entry (R856). -/
def State.setLink (s : State) (l : Nat) (st : LinkSt) : State :=
  let old := (s.link l).st
  if old = st then s else (s.updLink l fun x => { x with st := st }).flight 4 l (linkStNum old) (linkStNum st) none

/-- A fault of a link. -/
def linkFault (c : Code) (l : Nat) : FaultRec := { code := c, unit := { kind := 9, inst := l } }

/-- The link that carries the stream of link l: the lead of its bond, or itself (R393, R396). -/
def State.leadOf (s : State) (l : Nat) : Nat := (s.link l).lead.getD l

/-- Whether a link is trained with its four lanes as an ordinary link, a lead or a member. -/
def linkUp (k : Link) : Bool := k.st == .up || k.st == .member

/-- The members of a bond, by its lead, ascending (R393); an ordinary link is the one member of its own. -/
def State.membersOf (s : State) (lead : Nat) : List Nat :=
  let ms := (List.range 36).filter fun m => (s.link m).lead == some lead && linkUp (s.link m)
  if ms.isEmpty then [lead] else ms

/-- The skew a lead reports (R394, 0x41ll/0C): the largest its members measured; 0 at any other link. -/
def State.bondSkew (s : State) (l : Nat) : Nat :=
  if (s.link l).lead == some l && linkUp (s.link l) then ((s.membersOf l).map fun m => (s.link m).skew).foldl max 0 else 0

/-- CONTROL of a link (R369). -/
def State.linkCtl (s : State) (l : Nat) : Nat := s.odN (0x4100 + l) 1

/-- Credits of empty input buffers, half of each for a VC (R426, R427). -/
def fullCredit : List Nat := [8, 8, 256, 256, 256, 256, 512, 512]

/-! Sending flits. -/

/-- Words 0 to 14 of a flit and the low half of word 15 (R376). -/
def flitWords (seq ack kind cls vc sop : Nat) (c1 c2 : Nat × Nat × Nat) (body : List Word) : List Word × Nat :=
  ((BitVec.ofNat 64 (seq * 2 ^ 52 + ack * 2 ^ 40 + kind * 2 ^ 36 + cls * 2 ^ 34 + vc * 2 ^ 33 + sop * 2 ^ 32 + c1.1 * 2 ^ 30 + c1.2.2 % 1024 * 2 ^ 10 + c1.2.1 % 1024))
    :: (List.range 14).map fun i => nth body i 0#64,
   c2.1 * 2 ^ 30 + c2.2.2 % 1024 * 2 ^ 10 + c2.2.1 % 1024)

/-- A whole flit with its CRC over bytes 0 to 123 (R376, R378). -/
def sealFlit (w : List Word × Nat) : Flit :=
  { words := w.1 ++ [BitVec.ofNat 64 (w.2 + crc32c (bytesOfWords w.1 ++ leBytes 4 w.2) * 2 ^ 32)] }

/-- Whether a codeword with so many symbols in error, lane by lane, is corrected (R379). -/
def fecOk (errs : List Nat) : Bool := decide (errs.sum ≤ 15)

/-- Whether a flit received passes its FEC and its CRC and is of a defined kind (R377 to R379, R382). -/
def flitOk (f : Flit) : Bool :=
  fecOk f.errs && f.words.length == 16 && fld f.words 15 63 32 == crc32c (bytesOfWords (f.words.take 15) ++ leBytes 4 (fld f.words 15 31 0)) && decide (fld f.words 0 39 36 ≤ 4)

/-- Flits freed of a class, VC0 and VC1. -/
def freedOf (k : Link) (c : Nat) : Nat × Nat × Nat := (c, nth k.freed (2 * c) 0, nth k.freed (2 * c + 1) 0)

/-- The classes with credit to return, at most two in one flit (R376). -/
def returning (k : Link) : List Nat := ((List.range 4).filter fun c => nth k.freed (2 * c) 0 != 0 || nth k.freed (2 * c + 1) 0 != 0).take 2

/-- A flit put on the link whose stream `lead` carries, with ACK and credit returns; a DATA flit travels on the member its SEQ names (R393). -/
def State.putFlit (s : State) (lead kind seq cls vc sop : Nat) (body : List Word) : State × Flit :=
  let k := s.link lead
  let cs := returning k
  let c1 := match cs[0]? with | some c => freedOf k c | none => (0, 0, 0)
  let c2 := match cs[1]? with | some c => freedOf k c | none => (0, 0, 0)
  let f := sealFlit (flitWords seq ((k.rxNext + 4095) % 4096) kind cls vc sop c1 c2 body)
  let ms := s.membersOf lead
  let s1 := s.updLink lead fun x => { x with freed := x.freed.zipIdx.map fun y => if cs.contains (y.2 / 2) then 0 else y.1 }
  (s1.emit (.flit (nth ms (if kind = 1 then seq % ms.length else 0) lead) f), f)

/-- An IDLE flit, which carries ACK and credit returns (R377). -/
def State.idleFlit (s : State) (lead : Nat) : State := (s.putFlit lead 0 0 0 0 0 []).1

/-- A NAK (R382). -/
def State.nakFlit (s : State) (lead : Nat) : State := (s.putFlit lead 2 0 0 0 0 []).1

/-- The 14 body words of flit i of a packet (R399). -/
def packetBody (p : Packet) (i : Nat) : List Word :=
  let bs := ((packetBytes p).drop (112 * i)).take 112
  wordsOf 14 (bs ++ List.replicate (112 - bs.length) 0#8)

/-- The packet an output sends a flit of next for a class: the first of its class and VC for which the next hop has granted credit (R380, R427). -/
def State.nextPacket (s : State) (lead cls : Nat) : Option (Packet × Nat) :=
  let k := s.link lead
  (List.range 2).findSome? fun vc =>
    if nth k.credit (2 * cls + vc) 0 = 0 then none else k.outq.find? fun x => x.1.cls == cls && x.1.vc == vc

/-- The first waiting packet that matches, with one more flit sent, or gone. -/
def bumpPacket (p : Packet) : List (Packet × Nat) → List (Packet × Nat)
  | [] => []
  | x :: l => if x.1 = p then (if x.2 + 1 < flitsFor p.data.length then (x.1, x.2 + 1) :: l else l) else x :: bumpPacket p l

/-- Whether a link sends flits: a HELD one holds nothing but TIME packets (R372). -/
def State.canSend (s : State) (l : Nat) : Bool := s.linkLive l || (decide (l < 36) && (s.link l).st == .held)

/-- A packet as it leaves: a TIME packet carries its send stamp (R397, R435). -/
def Packet.stamped (p : Packet) (now : Nat) : Packet := if p.kind = 3 then { p with stamp := now } else p

/-- One DATA flit of a class sent by an output (R380, R381, R427); none when nothing can be sent. -/
def State.sendClass (s : State) (lead cls : Nat) : Option State :=
  let k := s.link lead
  if !(s.canSend lead) || 1024 ≤ k.replay.length then none
  else match s.nextPacket lead cls with
    | none => none
    | some (p, i) =>
      let r := s.putFlit lead 1 k.txSeq cls p.vc (if i = 0 then 1 else 0) (packetBody (p.stamped s.now) i)
      some (r.1.updLink lead fun x =>
        { x with
          txSeq := (x.txSeq + 1) % 4096, replay := x.replay ++ [r.2], ackAt := if x.replay.isEmpty then s.now else x.ackAt
          credit := modAt x.credit (2 * cls + p.vc) (· - 1), outq := bumpPacket p x.outq })

/-! A link that stops (R386, R395). -/

/-- Flits of the packet a header flit starts (R399). -/
def packetFlits (f : Flit) : Nat := flitsFor (fld f.words 3 11 0 + 1)

/-- How many of the flits of one class and VC make whole packets. -/
def wholeFlits : Nat → List Flit → Nat
  | 0, _ => 0
  | _ + 1, [] => 0
  | n + 1, f :: l => if packetFlits f ≤ l.length + 1 then packetFlits f + wholeFlits n ((f :: l).drop (packetFlits f)) else 0

/-- An input buffer without the packets that will not be finished. -/
def dropPartial (rx : List RxFlit) : List RxFlit :=
  let keep := (List.range 8).map fun c => let fs := (rx.filter fun x => x.key == c).map RxFlit.flit; wholeFlits fs.length fs
  (rx.foldl (fun (acc : List Nat × List RxFlit) x =>
    if 0 < nth acc.1 x.key 0 then (modAt acc.1 x.key (· - 1), acc.2 ++ [x]) else acc) (keep, [])).2

/-- The receiving objects of messages that the manual defines. -/
inductive MsgObject where
  | norm (p g : Nat)
  | barrier (p g : Nat)
  | reduce (p : Nat)
  | fence (p n : Nat)
  | credit (p n : Nat)
  deriving DecidableEq, Repr

/-- The object a MESSAGE's ADDR names, if any (R400, R466, R516, R542, R595). -/
def messageObject (addr : Nat) : Option MsgObject :=
  ((objectOf 0xF0000C000000 0x400 0x40 16 addr).map fun x => MsgObject.norm x.1 x.2).orElse fun _ =>
  ((objectOf 0xF0000C010000 0x400 0x40 16 addr).map fun x => MsgObject.barrier x.1 x.2).orElse fun _ =>
  ((objectOf 0xF0000C020000 0x40 0x40 1 addr).map fun x => MsgObject.reduce x.1).orElse fun _ =>
  ((objectOf 0xF0000C040000 0x1000 0x10 256 addr).map fun x => MsgObject.fence x.1 x.2).orElse fun _ =>
  (objectOf 0xF0000C050000 0x1000 0x10 256 addr).map fun x => MsgObject.credit x.1 x.2

/-- The REDUCE that owes a module the credit an undeliverable message carried (R516, R517). -/
def State.creditSender (s : State) (p : Packet) (q : Nat) : Option RedRun :=
  let ws := wordsOf 4 p.data
  s.coll.runs.find? fun r => s.ctxPart r.exec.cmd.ctx == q && r.exec.cmd.rBucket == fld ws 1 63 32 && r.exec.cmd.rStep == fld ws 0 63 0
    && (List.range (planNin r.plan)).any fun i => planInSrc r.plan i == p.dst && planInLand r.plan i == fld ws 1 31 16

/-- The commands that wait on an own message which cannot be delivered ended with FAB.UNREACHABLE (R419): those of a norm or barrier group whose partial or arrival it was, the REDUCE whose credit it was. FENCE and CREDIT have completed (R595). -/
def State.messageLost (s : State) (p : Packet) (d : Fin) : State :=
  match messageObject p.addr with
  | some (.norm q g) => if (s.group q g).st == .sent && p.dst == treeParent (s.group q g).tree then s.abandon q g d else s
  | some (.barrier q g) => if (s.barrier q g).st == .sent && p.dst == treeParent (s.barrier q g).tree then (s.arrivedOf q g).foldl (fun t e => t.endBarrier e d) s else s
  | some (.reduce q) => match s.creditSender p q with
    | some r => s.closeColl r.exec { ((s.work r).run.fin) with status := 2, fault := d.fault, failAddr := d.failAddr, failInfo := r.entry }
    | none => s
  | some (.fence _ _) | some (.credit _ _) | none => s

/-- The command of an own packet that cannot be delivered ended with FAB.UNREACHABLE (R419). -/
def State.ownUnreachable (s : State) (p : Packet) : State :=
  let hit := fun (x : Xfer) => x.dst == p.dst && x.xfer == p.xfer && x.left != 0
  let d : Fin := { status := 2, fault := some .fabUnreachable, failAddr := p.dst * 2 ^ 52 + p.addr }
  if p.kind = 1 then s.messageLost p d
  else if p.kind != 0 then s
  else match (List.range 384).find? fun n => ((s.core n).exec.map fun e => e.xfers.any hit) == some true with
    | some n => match (s.core n).exec with
      | some e => s.endCore n e { (e.ending.getD {}) with status := 2, fault := d.fault, failAddr := d.failAddr }
      | none => s
    | none =>
      match s.coll.runs.find? fun r => r.units.any fun u => hit u.xfer with
      | some r => s.endColl r.exec { ((s.work r).run.fin) with status := 2, fault := d.fault, failAddr := d.failAddr, failInfo := r.entry }
      | none => match s.coll.broadcasts.find? fun e => e.xfers.any hit with
        | some e => s.endColl e d
        | none => s

/-- Packets routed again after their link stopped (R386, R419). -/
def State.reroute (s : State) (ps : List Packet) : State :=
  ps.foldl (fun t p => match t.forward p with
    | some u => u
    | none => if p.src = t.fabric then t.ownUnreachable p else t.odInc 0x4000 6) s

/-- The stream of a link handed to another: a bond's numbering, replay buffer, credits and queues belong to its lead. -/
def State.moveStream (s : State) (a b : Nat) : State :=
  let k := s.link a
  (s.updLink b fun x =>
    { x with
      txSeq := k.txSeq, replay := k.replay, replayRun := k.replayRun, ackAt := k.ackAt, rxNext := k.rxNext, nakOut := k.nakOut, credit := k.credit, freed := k.freed
      tokens := k.tokens, rx := k.rx, timeIn := k.timeIn, stalled := k.stalled, outq := k.outq, nbHops := k.nbHops, timeOut := k.timeOut, tc0Waited := k.tc0Waited }).updLink a fun x =>
    { x with txSeq := 0, replay := [], replayRun := 0, rxNext := 0, nakOut := false, credit := fullCredit, freed := List.replicate 8 0, rx := [], timeIn := [], stalled := [], outq := [], timeOut := false }

/-- Every unacknowledged flit resent, in order (R383). -/
def State.resend (s : State) (lead : Nat) : State :=
  let k := s.link lead
  let ms := s.membersOf lead
  let s1 := k.replay.foldl (fun t f => t.emit (.flit (nth ms (fld f.words 0 63 52 % ms.length) lead) f)) s
  (s1.odInc (0x4100 + lead) 9).updLink lead fun x => { x with replayRun := x.replayRun + 1, ackAt := s.now }

/-- A link taken out of its bond: the others realign under their lead and replay (R395). -/
def State.leaveBond (s : State) (l : Nat) : State :=
  let lead := s.leadOf l
  let rest := (s.membersOf lead).filter (· != l)
  match rest with
  | [] => s.updLink l fun x => { x with lead := none }
  | h :: _ =>
    let s1 := s.updLink l fun x => { x with lead := none }
    let s2 := if l = lead then (rest.foldl (fun t m => t.updLink m fun x => { x with lead := some h }) (s1.moveStream l h)).setLink h .up else s1
    (s2.resend (s2.leadOf h)).record (linkFault .fabBondMember l)

/-- A link that stops carrying flits: unacknowledged flits are lost, the packets not yet started are routed again (R386); a bond goes on without it (R395). -/
def State.stopLink (s : State) (l : Nat) (st : LinkSt) : State :=
  let s1 := if (s.link l).lead.isSome then s.leaveBond l else s
  let k := s1.link l
  let waiting := (k.outq.filter fun x => x.2 == 0 && x.1.kind != 3).map Prod.fst
  let s2 := (s1.updLink l fun x =>
    { x with replay := [], replayRun := 0, outq := [], rx := dropPartial x.rx, timeIn := [], nakOut := false, skew := 0, timeOut := false, active := 0, good := 0, spareLane := none, loopback := false, lead := none }).setLink l st
  s2.reroute waiting

/-- A link lost with FAB.LINK_DOWN (R385, R386, R390). -/
def State.linkDown (s : State) (l : Nat) : State := (s.stopLink l .down).record (linkFault .fabLinkDown l)

/-- A link that goes to DOWN for another cause: FAB.LINK_DOWN where it was UP, NARROW or a bond's member (R448). -/
def State.linkLost (s : State) (l : Nat) : State :=
  let k := s.link l
  if linkUp k || k.st == .narrow then s.linkDown l else s.stopLink l .down

/-! Control (R369, R370, R374, R375). -/

/-- A write to a link's CONTROL, with the status it is answered with. -/
def State.linkControl (s : State) (l v : Nat) : State × Nat :=
  let s1 := s.odSetN (0x4100 + l) 1 v
  if v = 0 then (s1.stopLink l .disabled, 0)
  else if v = 1 then
    (let st := (s.link l).st
     if st == .disabled || st == .isolated || (st == .down && s.linkCtl l != 1) then (s1.updLink l fun x => { x with bond := s.odN (0x4100 + l) 8 }).setLink l .training else s1, 0)
  else if v = 2 then (s1.stopLink l .isolated, 0)
  else (s, 3)

/-- LINK_DISABLE (R369). -/
def execLinkDisable (l : Nat) (s : State) : Host.Outcome State Fault Refusal := if l < 36 then answered (0x4100 + l) 1 (s.odN (0x4100 + l) 1) 0 (s.linkControl l 0) else .next s

/-- LINK_ENABLE (R370). -/
def execLinkEnable (l : Nat) (s : State) : Host.Outcome State Fault Refusal := if l < 36 then answered (0x4100 + l) 1 (s.odN (0x4100 + l) 1) 1 (s.linkControl l 1) else .next s

/-- LINK_ISOLATE (R375). -/
def execLinkIsolate (l : Nat) (s : State) : Host.Outcome State Fault Refusal := if l < 36 then answered (0x4100 + l) 1 (s.odN (0x4100 + l) 1) 2 (s.linkControl l 2) else .next s

/-! Training (R370 to R374, R392 to R394). -/

/-- A lane put in its place by error rate, the lower lane first at a tie. -/
def insertLane (errs : List Nat) (x : Nat) : List Nat → List Nat
  | [] => [x]
  | y :: l => if nth errs x 0 < nth errs y 0 || (nth errs x 0 == nth errs y 0 && decide (x < y)) then x :: y :: l else y :: insertLane errs x l

/-- The lanes that lock, best first (R371). -/
def laneOrder (tr : Training) : List Nat := ((List.range 5).filter fun i => nth tr.lock i false).foldl (fun l x => insertLane tr.errs x l) []

/-- The mask of some lanes. -/
def laneMask (l : List Nat) : Nat := l.foldl (fun m i => setBit m i true) 0

/-- A trained link made UP or NARROW, or a member or lead of its bond (R392 to R394, R396). -/
def State.joinLink (s : State) (l : Nat) : State :=
  let k := s.link l
  let odd := fun (t : State) => t.record (linkFault .fabBondMember l)
  if popCount k.active < 4 then (if k.bond = 0 then s.setLink l .narrow else odd (s.setLink l .narrow))
  else if k.bond = 0 then s.setLink l .up
  else
    let mates := (List.range 36).filter fun m => m != l && m / 9 == l / 9 && (s.link m).bond == k.bond && (s.link m).lead.isSome && linkUp (s.link m)
    if k.nbBond = 0 || 512 < k.skew || mates.any fun m => (s.link m).nbSerial != k.nbSerial || (s.link m).nbBond != k.nbBond then odd (s.setLink l .up)
    else match mates with
      | [] => (s.updLink l fun x => { x with lead := some l }).setLink l .up
      | m :: _ =>
        let lead := s.leadOf m
        if l < lead then
          let s1 := (s.moveStream lead l).setLink lead .member
          (mates.foldl (fun t x => t.updLink x fun y => { y with lead := some l }) (s1.updLink l fun y => { y with lead := some l })).setLink l .up
        else (s.updLink l fun y => { y with lead := some lead }).setLink l .member

/-- What the module sends of itself while a link trains (R373). -/
def State.sendIdentity (s : State) (l : Nat) : State := s.emit (.train l (s.odN 0x1000 4) l s.fabric (s.link l).bond)

/-- LINK_TRAINED (R371, R373, R374). -/
def execLinkTrained (l : Nat) (tr : Training) (s : State) : Host.Outcome State Fault Refusal :=
  .next (
    let k := s.link l
    let order := laneOrder tr
    if !(decide (l < 36) && s.linkCtl l == 1 && s.time.frefOk && (k.st == .training || k.st == .down) && decide (2 ≤ order.length)) then s
    else
      let narrow := decide (order.length < 4)
      let act := order.take (if narrow then 2 else 4)
      let changed := k.trained && (k.nbSerial != tr.serial || k.nbLink != tr.link)
      let s1 := s.updLink l fun x =>
        { x with
          active := laneMask act, good := laneMask order, spareLane := order[4]?, nbSerial := tr.serial, nbLink := tr.link, nbAddr := tr.addr, nbBond := tr.bond, trained := true
          skew := tr.skew, lead := none, txSeq := 0, replay := [], replayRun := 0, rxNext := 0, nakOut := false, credit := fullCredit, freed := List.replicate 8 0, nbHops := none, timeOut := false
          second := [0, 0, 0, 0, 0] }
      let s2 := if narrow then (s1.sendIdentity l).record (linkFault .fabLinkNarrow l) else s1.sendIdentity l
      if changed then (s2.setLink l .held).record (linkFault .fabNeighbourChanged l) else s2.joinLink l)

/-- LINK_TRAIN_RETRY (R370): a link that finds no neighbour begins its training again and stays in TRAINING. -/
def execLinkTrainRetry (l : Nat) (s : State) : Host.Outcome State Fault Refusal :=
  .next (if decide (l < 36) && s.linkCtl l == 1 && s.time.frefOk && (s.link l).st == .training then
      (s.updLink l fun x => { x with active := 0, good := 0, spareLane := none }).sendIdentity l
    else s)

/-- A write to 0x41ll/0A (R374). -/
def State.heldRelease (s : State) (l : Nat) : State × Nat := (if (s.link l).st = .held then s.joinLink l else s, 0)

/-- LINK_HELD_RELEASE (R374). -/
def execLinkHeldRelease (l : Nat) (s : State) : Host.Outcome State Fault Refusal := if l < 36 then answered (0x4100 + l) 10 0 1 (s.heldRelease l) else .next s

/-! Lanes (R387 to R391). -/

/-- The spare put in the place of a lane (R388 to R390). -/
def State.spareIn (s : State) (l lane sp : Nat) : State :=
  (s.updLink l fun x => { x with active := setBit (setBit x.active lane false) sp true, spareLane := none, loopback := false }).record (linkFault .fabLaneSpared l)

/-- A LANE flit that names the SEQ at which both ends switch: the next the link sends (R388). -/
def State.laneFlit (s : State) (lead : Nat) : State := (s.putFlit lead 4 (s.link lead).txSeq 0 0 0 []).1

/-- LANE_SUBSTITUTE (R387, R388): a second ends in which the stream corrected `symbols` on a lane besides those of the flits received; where all together pass the limit, the spare takes its place at the SEQ agreed with the neighbour. -/
def execLaneSubstitute (l lane symbols : Nat) (s : State) : Host.Outcome State Fault Refusal :=
  .next (if !(decide (l < 36) && decide (lane < 5) && bit (s.link l).active lane) then s
    else
      let s1 := (s.odAdd (0x4100 + l) (13 + lane) symbols).updLink l fun x => { x with second := modAt x.second lane fun _ => 0 }
      match (s.link l).spareLane with
      | some sp => if s.odN 0x4000 7 < symbols + nth (s.link l).second lane 0 then ((s1.laneFlit (s.leadOf l)).spareIn l lane sp).addRepair 5 (5 * l + lane) 0 else s1
      | none => s1)

/-- A LANE flit received (R388): the spare takes the place of the active lane that the neighbour means. How the flit names it the spec does not say: a free value (log entry 77). -/
def State.takeLane (s : State) (l : Nat) (f : Flit) : State :=
  let lanes := (List.range 5).filter (bit (s.link l).active)
  match (s.link l).spareLane, lanes[Config.sparedLane f.words % max 1 lanes.length]? with
  | some sp, some lane => s.spareIn l lane sp
  | _, _ => s

/-- LANE_LOCK_LOSS (R387, R389, R390). -/
def execLaneLockLoss (l lane : Nat) (s : State) : Host.Outcome State Fault Refusal :=
  .next (
    let k := s.link l
    if !(decide (l < 36) && decide (lane < 5) && bit k.good lane) then s
    else
      let s1 := (s.updLink l fun x => { x with good := setBit x.good lane false }).addRepair 5 (5 * l + lane) 0
      if k.spareLane = some lane then s1.updLink l fun x => { x with spareLane := none, loopback := false }
      else if !(bit k.active lane) then s1
      else match k.spareLane with
        | some sp => s1.spareIn l lane sp
        | none =>
          let left := (List.range 5).filter fun i => bit (s1.link l).good i
          if left.length < 2 then s1.linkDown l
          else
            let s2 := if k.lead.isSome then s1.leaveBond l else s1
            let s3 := s2.updLink l fun x => { x with active := laneMask (left.take 2) }
            if k.st == .narrow then s3 else (if k.st == .held then s3 else s3.setLink l .narrow).record (linkFault .fabLinkNarrow l))

/-- LINK_SIGNAL_LOSS (R386). -/
def execLinkSignalLoss (l : Nat) (s : State) : Host.Outcome State Fault Refusal :=
  .next (if decide (l < 36) && (linkUp (s.link l) || (s.link l).st == .narrow || (s.link l).st == .held) then s.linkLost l else s)

/-! Retry (R381 to R385). -/

/-- The replay buffer after ACK: the flits it covers leave it. -/
def ackReplay (ack : Nat) (l : List Flit) : List Flit :=
  match l.findIdx? fun f => fld f.words 0 63 52 == ack with
  | some i => l.drop (i + 1)
  | none => l

/-- ACK and credit returns taken from a flit that passed its checks (R381, R427). -/
def State.takeReturns (s : State) (lead : Nat) (f : Flit) : State :=
  let ack := fld f.words 0 51 40
  let add := fun (c : List Nat) (w hi : Nat) =>
    let cl := fld f.words w hi (hi - 1)
    modAt (modAt c (2 * cl) (· + fld f.words w (hi - 22) (hi - 31))) (2 * cl + 1) (· + fld f.words w (hi - 12) (hi - 21))
  s.updLink lead fun x =>
    let r := ackReplay ack x.replay
    let moved := decide (r.length < x.replay.length)
    { x with
      replay := r, replayRun := if moved then 0 else x.replayRun, ackAt := if moved then s.now else x.ackAt
      credit := (add (add x.credit 0 31) 15 31).zipIdx.map fun y => min y.1 (nth fullCredit y.2 0) }

/-- A replay asked for by NAK or by the timeout (R383 to R385): after 16 without an advance of ACK the link goes to DOWN. -/
def State.replayLink (s : State) (lead : Nat) : State := if 16 ≤ (s.link lead).replayRun then s.linkDown lead else s.resend lead

/-- A NAK taken (R383). -/
def State.takeNak (s : State) (lead ack : Nat) : State :=
  let s1 := s.updLink lead fun x =>
    let r := ackReplay ack x.replay
    { x with replay := r, replayRun := if r.length < x.replay.length then 0 else x.replayRun }
  if (s1.link lead).replay.isEmpty then s1 else s1.replayLink lead

/-- Whether a link carries packets. -/
def State.carries (s : State) (l : Nat) : Bool := decide (l < 36) && (linkUp (s.link l) || (s.link l).st == .narrow)

/-- Whether a link takes flits: a HELD one does too, for its TIME packets (R372). -/
def State.hears (s : State) (l : Nat) : Bool := s.carries l || (decide (l < 36) && (s.link l).st == .held)

/-- The bytes of a packet that some of its flits carry. -/
def flitBytes (fs : List Flit) : List Byte := fs.flatMap fun g => bytesOfWords ((g.words.drop 1).take 14)

/-- The output that a header flit's packet is given when the flit is checked (R414, R417): link, and whether it leaves on VC1 (R423); none for any other flit, and where no slot is live (R419). -/
def State.lookup (s : State) (f : Flit) : Option (Nat × Bool) :=
  let p := parsePacket (flitBytes [f])
  if fld f.words 0 32 32 = 0 || p.kind = 3 || p.dst = s.fabric then none
  else (s.chooseSlot p).map fun x => (x.2, bit (s.routeEntry p.dst) (27 + x.1))

/-- A DATA flit as the input buffer of a link keeps it. -/
def State.rxFlit (s : State) (f : Flit) : RxFlit := { key := fld f.words 0 35 34 * 2 + fld f.words 0 33 33, time := s.now, flit := f, out := s.lookup f }

/-- The corrected symbols of a codeword counted by lane (R379). -/
def State.countSymbols (s : State) (l : Nat) (f : Flit) : State :=
  if fecOk f.errs then
    f.errs.zipIdx.foldl (fun t (e : Nat × Nat) => if e.1 = 0 then t else (t.odAdd (0x4100 + l) (13 + e.2) e.1).updLink l fun x => { x with second := modAt x.second e.2 (· + e.1) }) s
  else s

/-- A flit received by link l on the stream of `lead` (R382, R388): one that is discarded returns no credit. -/
def State.takeFlit (s : State) (l lead : Nat) (f : Flit) : State :=
  let k := s.link lead
  let nak := if k.nakOut then s else (s.updLink lead fun x => { x with nakOut := true }).nakFlit lead
  if !(flitOk f) then nak
  else
    match fld f.words 0 39 36 with
    | 1 =>
      if fld f.words 0 63 52 = k.rxNext then
        ((s.takeReturns lead f).updLink lead fun x => { x with rxNext := (x.rxNext + 1) % 4096, nakOut := false, rx := x.rx ++ [s.rxFlit f] }).idleFlit lead
      else nak
    | 2 => (s.takeReturns lead f).takeNak lead (fld f.words 0 51 40)
    | 4 => (s.takeReturns lead f).takeLane l f
    | _ => s.takeReturns lead f

/-- FLIT_RECEIVE (R382). -/
def execFlitReceive (l : Nat) (f : Flit) (s : State) : Host.Outcome State Fault Refusal :=
  .next (if s.hears l then (s.countSymbols l f).takeFlit l (s.leadOf l) f else s)

/-- NAK_RECEIVE (R383). -/
def execNakReceive (l ack : Nat) (s : State) : Host.Outcome State Fault Refusal :=
  .next (if s.hears l then s.takeNak (s.leadOf l) (ack % 4096) else s)

/-- REPLAY_TIMEOUT (R384, R385). -/
def execReplayTimeout (l : Nat) (s : State) : Host.Outcome State Fault Refusal :=
  .next (if s.hears l && s.leadOf l == l && !(s.link l).replay.isEmpty then (s.advance ((s.link l).ackAt + s.odN 0x4000 3)).replayLink l else s)

/-! Packets through the module (R398 to R400, R413 to R419). -/

/-- Whether a module discards a packet as bad (R400). -/
def State.badPacket (s : State) (p : Packet) : Bool :=
  decide (3 < p.kind) || (p.kind != 0 && p.cls != 0) || decide (4096 < p.data.length) || (p.cls == 0 && decide (128 < p.data.length)) || p.resv != 0
    || (p.kind == 1 && p.dst == s.fabric && (messageObject p.addr).isNone)

/-- A packet in transit put behind those waiting at an output, charged to no partition (R429): all but TC0 cross the mesh between port dies (R431). -/
def State.transit (s : State) (die l : Nat) (p : Packet) : State :=
  let t := (s.updLink l fun x => { x with outq := x.outq ++ [(p, 0)] }).odAdd 0x6010 8 (32 + p.data.length)
  if p.cls = 0 then t.portUnits l none (flitsFor p.data.length) else t.toPort die l none p

/-- A packet in transit sent on by the output its lookup gave it (R417), or looked up again where that link has stopped since (R386); one without a live slot is discarded (R419). -/
def State.passOn (s : State) (die : Nat) (out : Option (Nat × Bool)) (p : Packet) : State :=
  let again := (s.chooseSlot p).map fun x => (x.2, bit (s.routeEntry p.dst) (27 + x.1))
  match out.bind fun o => if s.linkLive o.1 then some o else again with
  | some (l, vc1) => s.transit die l (if vc1 then { p with vc := 1 } else p)
  | none => s.odInc 0x4000 6

/-- A packet that has come in whole on link l, with the arrival of its header flit and the output looked up then: discarded, taken as TIME, delivered within the module, or forwarded (R372, R400, R413, R414, R419). -/
def State.routePacket (s : State) (l time : Nat) (out : Option (Nat × Bool)) (p : Packet) : State :=
  if s.fabric = 0xFFFF && p.kind != 3 then s
  else if s.badPacket p then (s.odInc 0x4000 8).recordLimited { code := .fabBadPacket } 0
  else if p.kind = 3 then s.updLink l fun x => { x with timeIn := x.timeIn ++ [(p, time)] }
  else if (s.link l).st = .held then s
  else if p.dst = s.fabric then { s with inbox := s.inbox ++ [{ p with die := diePort (l / 9) }] }
  else s.passOn (diePort (l / 9)) out p

/-- The first `n` entries of a key taken out of an input buffer. -/
def takeKey (key : Nat) : Nat → List RxFlit → List RxFlit
  | _, [] => []
  | 0, l => l
  | n + 1, x :: l => if x.key = key then takeKey key n l else x :: takeKey key (n + 1) l

/-- PACKET_ROUTE (R414): the first packet of a class and VC at an input, once all its flits are in, goes where its header's lookup sends it; the buffer it held is returned as credit (R427). -/
def execPacketRoute (l cls vc : Nat) (s : State) : Host.Outcome State Fault Refusal :=
  .next (
    let key := cls * 2 + vc
    let fs := (s.link l).rx.filter fun x => x.key == key
    match fs with
    | [] => s
    | f :: _ =>
      let n := packetFlits f.flit
      if fs.length < n || 3 < cls || 1 < vc then s
      else
        let p := parsePacket (flitBytes ((fs.take n).map RxFlit.flit))
        let s1 := s.updLink l fun x => { x with rx := takeKey key n x.rx, freed := modAt x.freed key (· + n), stalled := x.stalled.filter (· != cls) }
        (if s.hears l then s1.idleFlit l else s1).routePacket l f.time f.out p)

/-- The arrival of the oldest header flit of a class at an input. -/
def headerAt (k : Link) (cls : Nat) : Option Nat := (k.rx.find? fun x => x.key / 2 == cls && fld x.flit.words 0 32 32 == 1).map RxFlit.time

/-- FAB_STALL (R425). -/
def execFabStall (l cls : Nat) (s : State) : Host.Outcome State Fault Refusal :=
  .next (match headerAt (s.link l) cls with
    | some t =>
      if (s.link l).stalled.contains cls then s
      else ((s.advance (t + s.odN 0x4000 4 * 1000 + 1)).updLink l fun x => { x with stalled := cls :: x.stalled }).record { linkFault .fabStall l with detail0 := cls }
    | none => s)

/-- TC0_TOKEN_GAIN (R430). -/
def execTc0TokenGain (l : Nat) (s : State) : Host.Outcome State Fault Refusal :=
  .next (s.updLink l fun x => { x with tokens := min 4 (x.tokens + 1) })

/-! Routing tables (R416, R417). -/

/-- The shadow table as the active one. -/
def State.copyRoutes (s : State) : State :=
  (List.range 4096).foldl (fun (t : State) i => t.odSet (0x4220 + i / 256) (i % 256) (s.odW (0x4200 + i / 256) (i % 256))) s

/-- Times put in order. -/
def insertTime (t : Nat) : List Nat → List Nat
  | [] => [t]
  | u :: l => if t ≤ u then t :: u :: l else u :: insertTime t l

/-- A write of T to 0x4210/01 (R417). -/
def State.routeCommit (s : State) (t : Nat) : State × Nat :=
  (if t ≤ s.now then s.copyRoutes else s.withTime fun x => { x with commits := insertTime t x.commits }, 0)

/-- ROUTING_COMMIT (R417). -/
def execRoutingCommit (t : Nat) (s : State) : Host.Outcome State Fault Refusal := answered 0x4210 1 0 t (s.routeCommit t)

/-- ROUTING_TABLE_COPY (R417): at the earliest time committed. -/
def execRoutingTableCopy (s : State) : Host.Outcome State Fault Refusal :=
  .next (match s.time.commits with
    | [] => s
    | t :: l => (((s.advance t).withTime fun x => { x with commits := l }).copyRoutes))

end Sys2Proof.Machine
end

