-- ==== Sys2Proof/Machine/Receive.lean ====
section
/-! DEFINITION. What a module does with packets addressed to it: WRITE with its acceptance (R403 to R406, R512, R513), DONE (R405, R407, R411), and messages to norm groups, barrier groups, REDUCE commands, fences and credits (R466, R474, R517, R542, R596). -/
namespace Sys2Proof.Machine

/-- The first packet in the module that satisfies a test, with the rest. -/
def takePacket (f : Packet → Bool) : List Packet → Option (Packet × List Packet)
  | [] => none
  | p :: l => if f p then some (p, l) else (takePacket f l).map fun x => (x.1, p :: x.2)

/-- A packet that satisfies a test taken by its receiver. -/
def State.onPacket (s : State) (f : Packet → Bool) (g : State → Packet → State) : State :=
  match takePacket f s.inbox with
  | some (p, l) => g { s with inbox := l } p
  | none => s

/-! WRITE. -/

/-- Whether a byte lies outside what a fabric WRITE may reach (R403, R346). -/
def State.writeUnmapped (s : State) (a : Nat) : Bool :=
  match region a with
  | 0x00 | 0x01 => (s.mapFault { red := true } true a).isSome
  | 0x08 => decide (384 ≤ offset a / 2 ^ 23) || decide (0x600000 ≤ offset a % 2 ^ 23)
  | _ => true

/-- The partition whose tag a packet carries (R403). -/
def State.tagPart (s : State) (tag : Nat) : Option Nat :=
  if tag = 0 then none else (List.range 16).find? fun p => (s.part p).st != .absent && s.tagOf p == tag

/-- Whether a scratchpad byte lies in an open range of a partition's core (R137, R403). -/
def State.windowOpen (s : State) (p a : Nat) : Bool :=
  s.partOfCore (offset a / 2 ^ 23) == some p && s.inOpen (offset a / 2 ^ 23) (offset a % 2 ^ 23)

/-- The landing unit a byte of the landing area lies in (R505). -/
def State.unitAt (s : State) (a : Nat) : Nat := offset a / cellarDieBytes * s.coll.units + offset a % cellarDieBytes / 65536

/-- Whether a byte lies in the landing area. -/
def State.landByte (s : State) (a : Nat) : Bool := region a == 1 && s.inLanding (offset a)

/-- The landing units that `n` bytes from `a` touch, ascending. -/
def State.landUnits (s : State) (a n : Nat) : List Nat :=
  (List.range n).foldl (fun l i => if s.landByte (a + i) && l.getLast? != some (s.unitAt (a + i)) then l ++ [s.unitAt (a + i)] else l) []

/-- Whether a unit's header is covered in part, or in whole, by `n` bytes from `a`. -/
def State.coversHead (s : State) (whole : Bool) (a n u : Nat) : Bool :=
  let h := s.landAddr u
  if whole then decide (a ≤ h) && decide (h + 64 ≤ a + n) else decide (a < h + 64) && decide (h < a + n)

/-- Whether a unit lies in a partition's landing range (R550). -/
def State.inRange (s : State) (p u : Nat) : Bool :=
  decide (s.odN (0x3710 + p) 1 ≤ u) && decide (u < s.odN (0x3710 + p) 1 + s.odN (0x3710 + p) 2)

/-- Whether a landing write is rejected (R512). -/
def State.landRejects (s : State) (p a n : Nat) : Bool :=
  (s.landUnits a n).any fun u => !(s.inRange p u) || s.coll.board.contains u || (s.coversHead false a n u && !(s.coversHead true a n u))

/-- Why a WRITE is not accepted, in R403's order, then R512 and an uncorrectable sector (R898); the partition it belongs to where it is. -/
def State.writeCheck (s : State) (q : Packet) : Except Code Nat :=
  let n := q.data.length
  let at_ := fun i => q.addr + i
  if (List.range n).any fun i => s.writeUnmapped (at_ i) then .error .memUnmapped
  else match s.tagPart q.tag with
    | none => .error .fabTagReject
    | some p =>
      if (List.range n).any fun i => region (at_ i) == 8 && !(s.windowOpen p (at_ i)) then .error .memWindowClosed
      else if s.landRejects p q.addr n then .error .collLandReject
      else if (sectorsOf q.addr n).any fun k => s.badSector k && (decide (k < q.addr) || decide (q.addr + n < k + 32)) then .error .memUncorrectable
      else .ok p

/-- Board bits in ascending order with one more. -/
def insertBit (u : Nat) (l : List Nat) : List Nat := l.filter (· < u) ++ [u] ++ l.filter (u < ·)

/-- The packets of a transfer that await DONE, with one more: those that became visible within 200 ns of the oldest share a DONE (R405, R406). -/
def noteDone (now : Nat) (q : Packet) (fault : Option (Nat × Nat)) : List PendingDone → List PendingDone
  | [] => [{ src := q.src, xfer := q.xfer, flow := q.flow, count := 1, since := now, fault := fault }]
  | d :: l => if d.src = q.src && d.xfer = q.xfer && now ≤ d.since + 200 then { d with count := d.count + 1, fault := d.fault.orElse fun _ => fault } :: l else d :: noteDone now q fault l

/-- What a rejected WRITE leaves at the receiver (R406, R512). -/
def State.writeRejected (s : State) (q : Packet) (c : Code) : State :=
  let g := s.globalAddr q.addr
  let r : FaultRec := { code := c, unit := { kind := 0, inst := 0 }, addr := g }
  if c = .fabTagReject then (s.odInc 0x4000 9).record r
  else if c = .collLandReject then (s.odInc 0x3700 3).record r
  else if c = .memUncorrectable then (s.countUncorrectable q.addr).stopOwed
  else s

/-- A WRITE addressed to the module (R403 to R406, R513). -/
def State.takeWrite (s : State) (q : Packet) : State :=
  match s.writeCheck q with
  | .error c =>
    let s1 := s.writeRejected q c
    { s1 with dones := noteDone s.now q (some (codeNum c, s.globalAddr q.addr)) s1.dones }
  | .ok p =>
    let heads := (s.landUnits q.addr q.data.length).filter (s.coversHead true q.addr q.data.length)
    let s1 := (s.store { part := some p, die := q.die } 0 q.addr q.data).withColl fun x => { x with board := heads.foldl (fun l u => insertBit u l) x.board }
    { s1 with dones := noteDone s.now q none s1.dones }

/-- WRITE_RECEIVE. -/
def execWriteReceive (s : State) : Host.Outcome State Fault Refusal := .next (s.onPacket (fun q => q.kind == 0) State.takeWrite)

/-! DONE. -/

/-- The DONE for a transfer's packets (R405, R406). -/
def donePacket (d : PendingDone) : Packet :=
  let f := d.fault.getD (0, 0)
  { kind := 2, cls := 0, dst := d.src, flow := d.flow, tag := 0, xfer := d.xfer, pktsM1 := d.count - 1, data := leBytes 2 f.1 ++ leBytes 6 0 ++ leBytes 8 f.2 }

/-- A DONE sent (R405). One that cannot be routed is lost; its transfer's command then ends in CMD.TIME (R408). -/
def State.sendDone (s : State) (d : PendingDone) : State :=
  let s1 := { s with dones := s.dones.erase d }
  match s1.send {} (donePacket d) with
  | .ok t => t
  | .error _ => s1

/-- DONE_SEND: the oldest that waits for a transfer. -/
def execDoneSend (src xfer : Nat) (s : State) : Host.Outcome State Fault Refusal :=
  .next (match s.dones.find? fun d => d.src == src && d.xfer == xfer with
    | some d => s.sendDone d
    | none => s)

/-- Whether a transfer awaits DONE and is the one a DONE acknowledges (R411). -/
def ofDone (q : Packet) (x : Xfer) : Bool := x.dst == q.src && x.xfer == q.xfer && x.left != 0

/-- A transfer after a DONE: packets covered, and the fault it carries (R406, R407). -/
def coverXfer (q : Packet) (x : Xfer) : Xfer :=
  let f := leNat (q.data.take 2)
  if ofDone q x then { x with left := x.left - (q.pktsM1 + 1), fault := if f = 0 then x.fault else some (f, leNat ((q.data.drop 8).take 8)) } else x

/-- A DONE for a core's transfer (R407). -/
def State.doneCore (s : State) (n : Nat) (e : Exec) (q : Packet) : State :=
  let e' := { e with xfers := e.xfers.map (coverXfer q) }
  let s1 := s.updCore n fun k => { k with exec := some e' }
  if (xferFault e'.xfers).isSome || e'.xfers.all (fun x => x.left == 0) then s1.sendCovered n e' else s1

/-- A DONE taken (R407): by a core's SEND, a REDUCE or a BROADCAST; one that matches no transfer is discarded (R411). -/
def State.takeDone (s : State) (q : Packet) : State :=
  match (List.range 384).findSome? fun n => ((s.core n).exec.filter fun e => e.xfers.any (ofDone q)).map fun e => (n, e) with
  | some (n, e) => s.doneCore n e q
  | none =>
    match s.coll.runs.find? fun r => r.units.any fun u => ofDone q u.xfer with
    | some r => s.redCovered { r with units := r.units.map fun u => { u with xfer := coverXfer q u.xfer } }
    | none =>
      match s.coll.broadcasts.find? fun e => e.xfers.any (ofDone q) with
      | some e =>
        let e' := { e with xfers := e.xfers.map (coverXfer q) }
        (s.withColl fun x => { x with broadcasts := x.broadcasts.map fun y => if y.cmd.isAt e.cmd.ctx e.cmd.slot then e' else y }).castCovered e'
      | none => s

/-- DONE_RECEIVE. -/
def execDoneReceive (s : State) : Host.Outcome State Fault Refusal := .next (s.onPacket (fun q => q.kind == 2) State.takeDone)

/-! Messages. -/

/-- Which kind of receiving object a message names (R400). -/
def MsgObject.isNorm (o : MsgObject) : Bool := match o with | .norm _ _ => true | _ => false
def MsgObject.isBarrier (o : MsgObject) : Bool := match o with | .barrier _ _ => true | _ => false
def MsgObject.isReduce (o : MsgObject) : Bool := match o with | .reduce _ => true | _ => false
def MsgObject.isFence (o : MsgObject) : Bool := match o with | .fence _ _ => true | _ => false
def MsgObject.isCredit (o : MsgObject) : Bool := match o with | .credit _ _ => true | _ => false

/-- Whether a packet is a message to a kind of object. -/
def messageFor (f : MsgObject → Bool) (q : Packet) : Bool := q.kind == 1 && ((messageObject q.addr).map f) == some true

/-- NORM_MESSAGE_RECEIVE (R469, R474). -/
def execNormMessageReceive (s : State) : Host.Outcome State Fault Refusal :=
  .next (s.onPacket (messageFor MsgObject.isNorm) fun t q =>
    match messageObject q.addr with
    | some (.norm p g) => t.normMessage q p g
    | _ => t)

/-- BARRIER_MESSAGE_RECEIVE (R542). -/
def execBarrierMessageReceive (s : State) : Host.Outcome State Fault Refusal :=
  .next (s.onPacket (messageFor MsgObject.isBarrier) fun t q =>
    match messageObject q.addr with
    | some (.barrier p g) => t.barrierMessage q p g
    | _ => t)

/-- REDUCE_CREDIT_RECEIVE (R517). -/
def execReduceCreditReceive (s : State) : Host.Outcome State Fault Refusal :=
  .next (s.onPacket (messageFor MsgObject.isReduce) fun t q =>
    match messageObject q.addr with
    | some (.reduce p) => t.reduceCredit q p
    | _ => t)

/-- A fence or credit message discarded (R596). -/
def State.syncStray (s : State) (p : Nat) : State := (s.odInc 0x2D20 1).recordLimited (groupFault .collStray p) p

/-- Whether a fence or credit message is well formed and carries its partition's tag (R595, R596). -/
def State.syncGood (s : State) (q : Packet) (p : Nat) : Bool := q.tag != 0 && q.tag == s.tagOf p && q.data.length == 16 && fld (wordsOf 2 q.data) 1 63 8 == 0

/-- A fence message applied, or discarded (R596). -/
def State.fenceMessage (s : State) (q : Packet) (p n : Nat) : State :=
  let ws := wordsOf 2 q.data
  if !(s.syncGood q p) then s.syncStray p
  else if fld ws 1 7 0 = 1 then s.fenceAdd p n (fld ws 0 63 0)
  else if fld ws 1 7 0 = 2 then s.fenceMax p n (fld ws 0 63 0)
  else s.syncStray p

/-- A credit message applied, or discarded (R591, R596). -/
def State.creditMessage (s : State) (q : Packet) (p n : Nat) : State :=
  let ws := wordsOf 2 q.data
  if s.syncGood q p && fld ws 1 7 0 == 1 && fld ws 0 63 32 == 0 then (s.creditAdd p n (fld ws 0 31 0)).creditOverflow (s.credits p n) (fld ws 0 31 0) p
  else s.syncStray p

/-- FENCE_MESSAGE_RECEIVE (R596). -/
def execFenceMessageReceive (s : State) : Host.Outcome State Fault Refusal :=
  .next (s.onPacket (messageFor MsgObject.isFence) fun t q =>
    match messageObject q.addr with
    | some (.fence p n) => t.fenceMessage q p n
    | _ => t)

/-- CREDIT_MESSAGE_RECEIVE (R596). -/
def execCreditMessageReceive (s : State) : Host.Outcome State Fault Refusal :=
  .next (s.onPacket (messageFor MsgObject.isCredit) fun t q =>
    match messageObject q.addr with
    | some (.credit p n) => t.creditMessage q p n
    | _ => t)

end Sys2Proof.Machine
end

