-- ==== Sys2Proof/Machine/Cache.lean ====
section
/-! DEFINITION. The Larder as its own rows see it (R281, R282, R284, R898), the landing board's clear (R535) and the imbalance monitor (R270 to R273). -/
namespace Sys2Proof.Machine

/-- The KEEP lines of a partition turned into ordinary ones (R281). -/
def State.clearKeep (s : State) (p : Nat) : State × Nat :=
  if 16 ≤ p then (s, 1)
  else ({ s with larder := { s.larder with lines := s.larder.lines.map fun (x : LarderLine) => if x.owner = some p then { x with keep := false } else x } }, stOk)

/-- KEEP_LINE_CLEAR (R281). -/
def execKeepLineClear (p : Nat) (s : State) : Host.Outcome State Fault Refusal := answered (0x2F10 + p) 10 0 1 (s.clearKeep p)

/-- The landing-board bits of a partition's range cleared (R535, R550). -/
def State.clearBoard (s : State) (p : Nat) : State × Nat :=
  if 16 ≤ p then (s, 1) else (s.withColl fun x => { x with board := x.board.filter fun u => !(s.inRange p u) }, stOk)

/-- LANDING_BOARD_CLEAR (R535). -/
def execLandingBoardClear (p : Nat) (s : State) : Host.Outcome State Fault Refusal := answered (0x3710 + p) 3 0 1 (s.clearBoard p)

/-- Whether an address and a hint can reach a home Larder (R258, R282). -/
def State.larderTakes (s : State) (addr hint : Nat) : Bool := region addr == 0 && decide (offset addr < s.hbmSize) && decide (hint < 4)

/-- An access of these rows that faults: counted and recorded for its partition (R300, R346), and the partition stopped that a lost sector belongs to (R303). -/
def State.larderFault (s : State) (c : Code) (addr : Nat) (part : Option Nat) : State :=
  ((s.countFault c addr).record { code := c, part := part, addr := s.globalAddr addr }).stopOwed

/-- A read of the sector of an address: its bytes, or none in a crate cache (R346) or where an error cannot be corrected (R300). -/
def State.readLarder (s : State) (addr hint : Nat) (part : Option Nat) : State :=
  let a := 32 * (addr / 32)
  match s.readFault { part := part } a with
  | some f => (s.larderFault f.1 f.2 part).emit (.sector a [])
  | none => (s.touch { part := part } hint a 32).emit (.sector a (s.bytes a 32))

/-- LARDER_READ (R282, R283, R285, R286). -/
def execLarderRead (addr hint : Nat) (part : Option Nat) (s : State) : Host.Outcome State Fault Refusal :=
  .next (if s.larderTakes addr hint then s.readLarder addr hint part else s)

/-- A write of some bytes of a sector (R284): part of one that cannot be corrected is not written (R898), nor is any of a crate cache (R346). -/
def State.writeLarder (s : State) (addr hint : Nat) (part : Option Nat) (bytes : List (Option Byte)) : State :=
  let a := 32 * (addr / 32)
  let b := bytes.take 32
  let full := b.length == 32 && b.all Option.isSome
  if b.all Option.isNone then s
  else match (s.mapFault { part := part } true a).orElse fun _ => if s.badSector a && !full then some (.memUncorrectable, a) else none with
    | some f => s.larderFault f.1 f.2 part
    | none =>
      let t := (s.backInvalidate true a 32).passWrite { part := part } hint a 32 [a] fun _ => full
      { t with mem := memPutSome t.mem a b }

/-- LARDER_WRITE (R282, R284). -/
def execLarderWrite (addr hint : Nat) (part : Option Nat) (bytes : List (Option Byte)) (s : State) : Host.Outcome State Fault Refusal :=
  .next (if s.larderTakes addr hint then s.writeLarder addr hint part bytes else s)

/-! The imbalance monitor. -/

/-- What die d's monitor adopted at its last boundary: window length in µs, threshold, consecutive windows. -/
def State.imbMonitor (s : State) (d : Nat) : Nat × Nat × Nat := nth s.hbm.adopted d (1000, 1024, 100)

/-- Sectors a pseudo-channel has served in the present window. -/
def State.servedBy (s : State) (pc : Nat) : Nat := mapGet (fun _ => 0) s.hbm.served pc

/-- The busiest pseudo-channel of a die in the present window, the lowest number of a tie, as its die-level number. -/
def State.busiest (s : State) (d : Nat) : Nat :=
  (List.range 64).foldl (fun b j => if s.servedBy (64 * d + b) < s.servedBy (64 * d + j) then j else b) 0

/-- Sectors a die has served in the present window. -/
def State.servedSum (s : State) (d : Nat) : Nat := ((List.range 64).map fun j => s.servedBy (64 * d + j)).sum

/-- The ratio of the busiest pseudo-channel to the mean, in 1/256 (R270); none below 4,096 sectors (R271). -/
def State.imbalance (s : State) (d : Nat) : Option Nat :=
  if s.servedSum d < 4096 then none else some (s.servedBy (64 * d + s.busiest d) * 256 * s.activeOf d / s.servedSum d)

/-- A window with a ratio judged (R272): the run of windows at or above the threshold, and MEM.IMBALANCE. -/
def State.judge (s : State) (d ratio : Nat) : State :=
  let b := s.busiest d
  let m := s.imbMonitor d
  let s1 := (s.odSetN (0x3010 + d) 5 (min ratio 0xFFFF)).odSetN (0x3010 + d) 6 b
  if ratio < m.2.1 then s1.withHbm fun h => { h with run := modAt h.run d fun _ => 0, armed := modAt h.armed d fun _ => true }
  else
    let s2 := s1.withHbm fun h => { h with run := modAt h.run d (· + 1) }
    if m.2.2 ≤ nth s2.hbm.run d 0 && nth s2.hbm.armed d true then
      (s2.withHbm fun h => { h with armed := modAt h.armed d fun _ => false }).raise { code := .memImbalance, unit := { kind := 4, inst := 64 * d + b } }
    else s2

/-- The next window begun: its counts at zero, its settings adopted (R273). -/
def State.nextWindow (s : State) (d : Nat) : State :=
  s.withHbm fun h => { h with
    served := h.served.filter fun x => x.1 / 64 != d
    adopted := modAt h.adopted d fun _ => (s.odN 0x3020 1, s.odN 0x3020 2, s.odN 0x3020 3)
    began := modAt h.began d fun _ => s.now }

/-- The end of a die's window. -/
def State.endWindow (s : State) (d : Nat) : State :=
  match s.imbalance d with
  | some r => (s.judge d r).nextWindow d
  | none => s.nextWindow d

/-- IMBALANCE_WINDOW_END (R270 to R273). -/
def execImbalanceWindowEnd (d : Nat) (s : State) : Host.Outcome State Fault Refusal :=
  .next (if d < 8 then (s.advance (nth s.hbm.began d 0 + 1000 * (s.imbMonitor d).1)).endWindow d else s)

end Sys2Proof.Machine
end

