-- ==== Sys2Proof/Machine/Clock.lean ====
section
/-! DEFINITION. The decisions of arbiters (R428, R430, R640, R641, R646 to R649) and fabric time: its states, exchanges and FREF (R368, R434 to R437, R441, R442). -/
namespace Sys2Proof.Machine

/-! Decisions. -/

/-- The die whose arbiters an arbiter belongs to, as `charged` numbers them (R806); none for the mesh. -/
def arbDie (k inst : Nat) : Option Nat :=
  if k = 0 then some inst else if k = 1 then some (inst / 64) else if k = 3 then some (14 + inst / 9) else if k = 4 then some (8 + inst / 8) else if k = 5 then some 13 else none

/-- Whether a requester may exist at an arbiter (R643). -/
def mayRequest (k who : Nat) : Bool :=
  if k = 3 then decide (17 ≤ who) && decide (who ≤ 20) else decide (who ≤ 16) || who == 20 || (who == 21 && k != 5)

/-- A request after its regulator: gone while it waits there, spare where R641 lets it pass without a token (R640, R641). -/
def State.pastRegulator (s : State) (r : Request) : Option Request :=
  match r.regClass.bind fun c => findBucket s.buckets r.who c r.regInst with
  | some b => if 0 < b.level then some { r with spare := false } else if b.spare then some { r with spare := true } else none
  | none => some { r with spare := false }

/-- Whether a request is presented at a decision (R649). -/
def State.presents (s : State) (k inst : Nat) (r : Request) : Bool :=
  mayRequest k r.who && decide (0 < r.units)
    && (decide (20 ≤ r.who) || match s.findReq k inst r.who with | some x => decide (x.quietUntil ≤ s.now) | none => false)

/-- The requests that take part of some presented ones (R647): a parked one in rank order, else those of the highest PRIO that are not spare, else the spare ones. -/
def State.contenders (s : State) (k : Nat) (rs : List Request) : List Request :=
  let top := fun (l : List Request) =>
    let m := l.foldl (fun m r => max m ((s.arb k).prio k r.who)) 0
    l.filter fun r => (s.arb k).prio k r.who == m
  match rs.find? (fun r => r.who == 20), rs.find? (fun r => r.who == 21) with
  | some r, _ => [r]
  | none, some r => [r]
  | none, none =>
    let plain := rs.filter fun r => !r.spare
    if plain.isEmpty then top rs else top plain

/-- The counter of a requester, 0 for a parked one. -/
def State.creditAt (s : State) (k inst who : Nat) : Int := ((s.findReq k inst who).map ReqState.credit).getD 0

/-- The requester last granted at an arbiter (R647). -/
def State.lastGrant (s : State) (k inst : Nat) : Nat := ((s.arbLast.find? fun x => x.1 == k && x.2.1 == inst).map fun x => x.2.2).getD 31

/-- The winner of a decision (R647): the fullest counter, a tie to the first in ascending rotation after the requester last granted. -/
def State.winner (s : State) (k inst : Nat) (rs : List Request) : Option Request :=
  let cs := s.contenders k rs
  match cs with
  | [] => none
  | c :: l =>
    let full := l.foldl (fun m r => max m (s.creditAt k inst r.who)) (s.creditAt k inst c.who)
    let tied := cs.filter fun r => s.creditAt k inst r.who == full
    let turn := fun (r : Request) => (r.who + 31 - s.lastGrant k inst) % 32
    tied.foldl (fun b r => match b with | none => some r | some x => if turn r < turn x then some r else some x) none

/-- Tokens and energy units a granted request spends (R640, R806). -/
def State.spend (s : State) (k inst : Nat) (r : Request) (units : Nat) : State :=
  if r.bytes = 0 then s
  else
    let s1 := if r.spare then s else match r.regClass with
      | some c => { s with buckets := s.buckets.map fun b => if b.part == r.who && b.cls == c && b.inst == r.regInst then { b with level := b.level - 1024 * (ceilDiv r.bytes 32 : Nat) } else b }
      | none => s
    match arbDie k inst with
    | some d => let key := d * 17 + min r.who 16
                { s1 with charged := mapPut (fun _ => 0) s1.charged key (mapGet (fun _ => 0) s1.charged key + units) }
    | none => s1

/-- A grant and the losses that go with it (R645, R648, R649). -/
def State.grant (s : State) (k inst : Nat) (rs : List Request) (who units : Nat) : State :=
  let lost := fun (x : ReqState) => x.who != who && rs.any fun r => r.who == x.who
  let s1 := { s with arbReqs := s.arbReqs.map fun (x : ReqState) =>
    if x.cls = k && x.inst = inst then
      (if x.who = who then { x with credit := max (-((s.arb k).burst : Int)) (x.credit - units), losses := 0, quietUntil := 0 }
       else if lost x then { x with losses := x.losses + 1, quietUntil := s.now + backoff (x.losses + 1) }
       else x)
    else x }
  let s2 := if who < 20 then { s1 with arbLast := (k, inst, who) :: s1.arbLast.filter fun x => !(x.1 == k && x.2.1 == inst) } else s1
  s2.emit (.grant k inst who units)

/-- Units one grant serves (R648). -/
def State.served (s : State) (k : Nat) (r : Request) : Nat := if 20 ≤ r.who || r.spare then 1 else min r.units (s.arb k).burst

/-- Flits of a class that wait at an output and that the next hop has room for. -/
def State.waitingFlits (s : State) (l cls : Nat) : Nat := if (s.nextPacket l cls).isSome && s.canSend l && decide ((s.link l).replay.length < 1024) then 1 else 0

/-- A TC0 flit that finds no token: counted once, FAB.TC0_EXCESS at most once a second (R430). -/
def State.tc0Wait (s : State) (l : Nat) : State :=
  if s.waitingFlits l 0 = 0 || 0 < (s.link l).tokens || (s.link l).tc0Waited then s
  else ((s.odInc 0x4000 5).updLink l fun x => { x with tc0Waited := true }).recordLimited (linkFault .fabTc0Excess l) l

/-- What a link output presents to its arbiter (R428, R643): TC0 with a token, parked, and the classes that have a flit to send. -/
def State.linkRequests (s : State) (l : Nat) : List Request :=
  (if 0 < s.waitingFlits l 0 && decide (0 < (s.link l).tokens) then [{ who := 20, units := 1 }] else [])
    ++ [1, 2, 3].flatMap fun c => if 0 < s.waitingFlits l c then [{ who := 16 + c, units := (s.arb 3).burst }] else []

/-- Up to `n` flits of a class sent by an output, with how many were. -/
def State.sendFlits (cls l : Nat) : Nat → Nat → State → State × Nat
  | 0, done, s => (s, done)
  | n + 1, done, s => match s.sendClass l cls with
    | some t => t.sendFlits cls l n (done + 1)
    | none => (s, done)

/-- A decision of a link output: the winner's flits are sent (R428, R430, R648). -/
def State.decideLink (s0 : State) (l : Nat) : State :=
  let s := s0.tc0Wait l
  let rs := (s.linkRequests l).filter (s.presents 3 l)
  match s.winner 3 l rs with
  | none => s
  | some r =>
    let cls := if r.who = 20 then 0 else r.who - 16
    let (t, n) := s.sendFlits cls l (s.served 3 r) 0
    (if r.who = 20 then t.updLink l fun x => { x with tokens := x.tokens - n, tc0Waited := false } else t).grant 3 l rs r.who n

/-- ARBITER_DECISION (R647 to R649, R654): the requests that pass their regulators and are presented take part; those of a link output are its waiting flits. -/
def execArbiterDecision (k inst : Nat) (reqs : List Request) (s : State) : Host.Outcome State Fault Refusal :=
  .next (
    if 6 ≤ k || arbCount k ≤ inst then s
    else if k = 3 then (if s.leadOf inst = inst then s.decideLink inst else s)
    else
      let rs := (reqs.filterMap s.pastRegulator).filter (s.presents k inst)
      match s.winner k inst rs with
      | none => s
      | some r => (s.grant k inst rs r.who (s.served k r)).spend k inst r (s.served k r))

/-! Fabric time. -/

/-- The time state as a number (R441). -/
def timeStNum : TimeSt → Nat
  | .free => 0 | .acquiring => 1 | .locked => 2 | .holdover => 3

/-- The time state changed, with its flight-recorder entry (R856), and FAB.TIME_HOLDOVER on entering HOLDOVER (R442). -/
def State.setTimeSt (s : State) (st : TimeSt) : State :=
  let old := s.time.st
  if old = st then s
  else
    let s1 := (s.withTime fun x => { x with st := st }).flight 9 0 (timeStNum old) (timeStNum st) none
    if st = .holdover then (s1.withTime fun x => { x with good := 0 }).record { code := .fabTimeHoldover } else s1

/-- The module is the time root (R434). -/
def State.isRoot (s : State) : Bool := s.odN 0x4300 1 == 1

/-- The hop count the module sends (R437); 0xFF while unknown. -/
def State.hopCount (s : State) : Nat := if s.isRoot then 0 else s.time.hops.getD 0xFF

/-- Whether a neighbour is better to follow (R437). -/
def betterUp (a b : Nat × Nat × Nat) : Bool :=
  decide (a.1 < b.1) || (a.1 == b.1 && (decide (a.2.1 < b.2.1) || (a.2.1 == b.2.1 && decide (a.2.2 < b.2.2))))

/-- The link a module follows (R437): the UP link whose neighbour has the lowest hop count, address and link number. -/
def State.chooseUp (s : State) : Option (Nat × Nat × Nat) :=
  (List.range 36).foldl (fun b l => match (s.link l).nbHops with
    | some (h, a) =>
      if (s.link l).st == .up && decide (h < 0xFF) then
        (match b with
         | none => some (h, a, l)
         | some x => if betterUp (h, a, l) x then some (h, a, l) else some x)
      else b
    | none => b) none

/-- The upstream link chosen again, with the module's own hop count (R437); a module that begins to follow another link is ACQUIRING (R441). -/
def State.follow (s : State) : State :=
  if s.isRoot then s
  else match s.chooseUp with
    | some (h, _, l) =>
    if s.time.upstream = some l then s.withTime fun x => { x with hops := some (h + 1) }
    else
      let s1 := s.withTime fun x => { x with upstream := some l, hops := some (h + 1), missed := 0, good := 0 }
      if s.time.frefOk then s1.setTimeSt .acquiring else s1
    | none => s

/-- A write to 0x4300/01 (R434, R441, R442): the root is LOCKED, out of HOLDOVER through ACQUIRING, and follows nobody; a module that is no longer the root has no upstream link until it finds one. While FREF is lost the state stays HOLDOVER; writing the value that stands there changes nothing. -/
def State.setRoot (s : State) (v : Nat) : State :=
  if v = s.odN 0x4300 1 then s
  else
    let s1 := (s.odSetN 0x4300 1 v).withTime fun x => { x with upstream := none, hops := none, slew := 0, good := 0, missed := 0 }
    if !s.time.frefOk then s1
    else if v = 1 then (if s.time.st == .holdover then s1.setTimeSt .acquiring else s1).setTimeSt .locked
    else (s1.setTimeSt .free).follow

/-- The intervals for which upstream has not answered, and HOLDOVER after three (R441). -/
def State.missInterval (s : State) : State :=
  match s.time.upstream with
  | some l =>
    let lost := (s.link l).timeOut || (s.link l).st != .up
    let s1 := s.withTime fun x => { x with missed := if lost then x.missed + 1 else 0 }
    if 3 ≤ s1.time.missed then ((s1.updLink l fun x => { x with nbHops := none }).withTime fun x => { x with upstream := none, hops := none, missed := 0 }).setTimeSt .holdover else s1
  | none => s

/-- The data of a TIME packet (DESIGN CHOICE, log entry 77: the spec gives no layout): W0 holds 1 for a request and 2 for an answer, and the hop count above it; W1 and W2 hold an answer's t1 and t2. -/
def timeData : TimeMsg → List Byte
  | .request h => leBytes 8 (1 + h * 2 ^ 8) ++ leBytes 16 0
  | .answer t1 t2 h => leBytes 8 (2 + h * 2 ^ 8) ++ leBytes 8 t1 ++ leBytes 8 t2

/-- What the data of a TIME packet say; none for data that no module of this model sends. -/
def timeOfData (bs : List Byte) : Option TimeMsg :=
  let ws := wordsOf 3 bs
  if bs.length != 24 then none
  else if fld ws 0 7 0 = 1 then some (.request (fld ws 0 15 8))
  else if fld ws 0 7 0 = 2 then some (.answer (fld ws 1 63 0) (fld ws 2 63 0) (fld ws 0 15 8))
  else none

/-- A TIME packet put behind those waiting on a link: TC0, not routed, TAG and FLOW 0 (R397, R398, R401). -/
def State.sendTime (s : State) (l : Nat) (m : TimeMsg) : State :=
  let p : Packet := { kind := 3, cls := 0, dst := (s.link l).nbAddr, src := s.fabric, flow := 0, tag := 0, data := timeData m }
  s.updLink (s.leadOf l) fun x => { x with outq := x.outq ++ [(p, 0)] }

/-- TIME_EXCHANGE_START (R435): one interval of 0x4300/06 after the last. -/
def execTimeExchangeStart (s0 : State) : Host.Outcome State Fault Refusal :=
  .next (
    let t := s0.advance (s0.time.lastExchange + 1000 * s0.odN 0x4300 6)
    let s := t.withTime fun x => { x with lastExchange := t.now }
    let s1 := if s.isRoot then s else s.missInterval
    (List.range 36).foldl (fun t l =>
      if (t.link l).st = .up then (t.sendTime l (.request t.hopCount)).updLink l fun x => { x with timeOut := true } else t) s1)

/-- Delay and offset of an exchange (R436). -/
def exchange (t1 t2 t3 t4 : Nat) : Int × Int :=
  let a := (t2 : Int) - t1
  let b := (t4 : Int) - t3
  ((a + b) / 2, (a - b) / 2)

/-- FREF_LOSS (R368, R441). -/
def execFrefLoss (s : State) : Host.Outcome State Fault Refusal :=
  .next (if !s.time.frefOk then s
    else
      let s1 := (s.withTime fun x => { x with frefOk := false }).record { code := .fabFrefLost }
      let s2 := (List.range 36).foldl (fun t l => if (t.link l).st == .down then t else t.linkLost l) s1
      s2.setTimeSt .holdover)

/-- FREF_RESTORE (R368, R442): the links may train again; the root leaves HOLDOVER through ACQUIRING, another module at its next exchange. -/
def execFrefRestore (s : State) : Host.Outcome State Fault Refusal :=
  .next (if s.time.frefOk then s
    else
      let s1 := s.withTime fun x => { x with frefOk := true }
      if s1.isRoot then (s1.setTimeSt .acquiring).setTimeSt .locked else s1)

end Sys2Proof.Machine
end

