-- ==== Sys2Proof/Machine/Conv.lean ====
section
/-! DEFINITION. Convolution and pooling (R214 to R247): CONV and its weight gradient on the matrix engines, DWCONV and POOL on the sliding-window path. -/
namespace Sys2Proof.Machine

/-- The fields of a CONV, DWCONV or POOL command (R215, R216) with the extents its descriptors give (R217, R218). -/
structure ConvDims where
  kw : Nat
  kh : Nat
  sx : Nat
  sy : Nat
  dx : Nat
  dy : Nat
  padL : Nat
  padT : Nat
  padR : Nat
  padB : Nat
  groups : Nat
  row0 : Nat
  rows : Nat
  flip : Bool
  transW : Bool
  accIn : Bool
  rbEn : Bool
  rbBoard : Nat
  padVal : A32
  alpha : A32
  wIn : Nat
  hIn : Nat
  cIn : Nat
  samples : Nat
  cg : Nat
  cOut : Nat
  wOut : Int
  hOut : Int

/-- R217 along one axis. -/
def outExtent (n padA padB dil k str : Nat) : Int := ((n + padA + padB : Nat) - (dil * (k - 1) : Nat) - 1 : Int) / (str : Int) + 1

/-- The fields and extents of a command with input X, weights W and output Y. -/
def convDims (c : CmdInst) (x w y : Desc) (pool : Bool) : ConvDims :=
  let transW := fld c.words 4 2 2 == 1 && !pool
  let kw := plus1 c 3 4 0
  let kh := plus1 c 3 9 5
  let sx := plus1 c 3 12 10
  let sy := plus1 c 3 15 13
  let dx := plus1 c 3 23 16
  let dy := plus1 c 3 31 24
  let padL := fld c.words 3 39 32
  let padT := fld c.words 3 47 40
  let padR := fld c.words 3 55 48
  let padB := fld c.words 3 63 56
  { kw := kw, kh := kh, sx := sx, sy := sy, dx := dx, dy := dy, padL := padL, padT := padT, padR := padR, padB := padB
    groups := if pool then 1 else plus1 c 4 31 16
    row0 := fld c.words 4 47 32, rows := plus1 c 4 63 48
    flip := fld c.words 4 3 3 == 1 && !pool, transW := transW, accIn := fld c.words 4 4 4 == 1 && !pool
    rbEn := fld c.words 6 6 6 == 1, rbBoard := fld c.words 6 5 0
    padVal := BitVec.ofNat 32 (fld c.words 5 63 32), alpha := BitVec.ofNat 32 (fld c.words 5 31 0)
    wIn := x.n0, hIn := x.n1, cIn := x.n2, samples := x.n3
    cg := if pool then 1 else if transW then w.n1 else w.n0
    cOut := if pool then y.n2 else if transW then w.n0 else w.n1
    wOut := outExtent x.n0 padL padR dx kw sx, hOut := outExtent x.n1 padT padB dy kh sy }

/-- Output channels of a group (R219). -/
def ConvDims.coutG (d : ConvDims) : Nat := d.cOut / d.groups

/-- The output extents as numbers. -/
def ConvDims.ow (d : ConvDims) : Nat := d.wOut.toNat
def ConvDims.oh (d : ConvDims) : Nat := d.hOut.toNat

/-- The input position a tap reads (R220); none where it is padded (R221). -/
def ConvDims.tapAt (d : ConvDims) (ox oy tap : Nat) : Option (Nat × Nat) :=
  let ix : Int := (ox * d.sx + tap % d.kw * d.dx : Nat) - (d.padL : Int)
  let iy : Int := (oy * d.sy + tap / d.kw * d.dy : Nat) - (d.padT : Int)
  if 0 ≤ ix && ix < d.wIn && 0 ≤ iy && iy < d.hIn then some (ix.toNat, iy.toNat) else none

/-- The weight position of a tap (R220). -/
def ConvDims.wTap (d : ConvDims) (tap : Nat) : Nat × Nat :=
  let kx := tap % d.kw
  let ky := tap / d.kw
  if d.flip then (d.kw - 1 - kx, d.kh - 1 - ky) else (kx, ky)

/-- The element of W for input channel ci of the group and output channel co (R118, R217). -/
def ConvDims.wIx (d : ConvDims) (ci co tap : Nat) : Ix :=
  let t := d.wTap tap
  if d.transW then { i0 := co, i1 := ci, i2 := t.1, i3 := t.2 } else { i0 := ci, i1 := co, i2 := t.1, i3 := t.2 }

/-- Whether a tap is fully padded for a run of output columns of a row (R234). -/
def ConvDims.fullyPadded (d : ConvDims) (oy tap ox n : Nat) : Bool := (List.range n).all fun r => (d.tapAt (ox + r) oy tap).isNone

/-- Whether PAD_VAL is zero (R235). -/
def ConvDims.padZero (d : ConvDims) : Bool := (a32Val d.padVal).isZero

/-- PAD_VAL converted to X's format (R221). -/
def ConvDims.padCode (d : ConvDims) (x : Desc) : Nat := (convElem x.fmt 0 .nearest 0 (a32Val d.padVal)).1

/-- The row-board bit of an output row (R246). -/
def ConvDims.boardBit (d : ConvDims) (s oy : Nat) : Option Nat := if d.rbEn then some (d.rbBoard * 16384 + s * d.oh + oy) else none

/-! Checks. -/

/-- The shape checks of CONV and DWCONV (R214, R217, R218). -/
def convShape (d : ConvDims) (x w y : Desc) (dd : Option Desc) : Bool :=
  x.layout != 1 || y.layout != 1 || w.layout != 0 || dd.any (fun q => q.layout != 0)
    || decide (d.wOut < 1) || decide (d.hOut < 1) || y.n0 != d.ow || y.n1 != d.oh
    || x.n2 != d.groups * d.cg || y.n2 != d.cOut || d.cOut % d.groups != 0
    || w.n2 != d.kw || w.n3 != d.kh || x.n3 != y.n3
    || dd.any fun q => q.n0 != d.cOut || q.n1 != 1 || q.n2 != 1 || q.n3 != 1

/-- The stripe's last row, and the last row-board bit, out of range (R219, R247). -/
def ConvDims.badRows (d : ConvDims) : Bool :=
  decide (d.hOut ≤ (d.row0 + (d.rows - 1) : Nat))
    || (d.rbEn && decide (16383 < ((d.samples - 1 : Nat) : Int) * d.hOut + (d.row0 + (d.rows - 1) : Nat)))

/-- D of a CONV or DWCONV, when it was read. -/
def convD (c : CmdInst) (e : Exec) : Option Desc := if fld c.words 2 63 48 = 0xFFFF then none else some (descAt e 3)

/-- The checks of a forward CONV. -/
def convChecks (c : CmdInst) (e : Exec) : Checks :=
  let x := descAt e 0
  let w := descAt e 1
  let y := descAt e 2
  let d := convDims c x w y false
  { reserved := fld c.words 4 15 8 != 0 || fld c.words 4 1 0 != 0 || fld c.words 6 63 7 != 0 || fld c.words 7 63 0 != 0
    field := decide (1 < fld c.words 4 7 6) || decide (6 < c.sub) || d.badRows
    format := x.fmt == .b16 || w.fmt == .b16
    mix := x.fmt != w.fmt
    axis := x.scaled || (w.scaled && d.transW)
    shape := convShape d x w y (convD c e) }

/-- The checks of a CONV with WGRAD = 1 (R231). -/
def wgradChecks (c : CmdInst) (e : Exec) : Checks :=
  let x := descAt e 0
  let w := descAt e 1
  let y := descAt e 2
  let d := convDims c x w y false
  { reserved := fld c.words 4 15 8 != 0 || fld c.words 4 1 0 != 0 || fld c.words 6 63 7 != 0 || fld c.words 7 63 0 != 0
    field := fld c.words 4 7 6 != 0 || fld c.words 4 3 2 != 0 || fld c.words 6 6 6 != 0 || c.sub != 0 || fld c.words 2 63 48 != 0xFFFF || d.badRows
    format := x.fmt == .b16 || y.fmt == .b16
    mix := x.fmt != y.fmt
    shape := convShape d x w y none }

/-- The checks of a DWCONV (R216, R236, R237). -/
def dwChecks (c : CmdInst) (e : Exec) : Checks :=
  let x := descAt e 0
  let w := descAt e 1
  let y := descAt e 2
  let d := convDims c x w y false
  { reserved := fld c.words 4 15 5 != 0 || fld c.words 4 2 0 != 0 || fld c.words 6 63 7 != 0 || fld c.words 7 63 0 != 0
    field := decide (6 < c.sub) || d.badRows || decide (16 < d.cg) || d.coutG == 0 || decide (16 < d.coutG)
    format := x.fmt == .b16 || w.fmt == .b16 || y.fmt == .b16
    shape := convShape d x w y (convD c e) }

/-- The checks of a POOL (R214, R216 to R218, R237, R243). -/
def poolChecks (c : CmdInst) (e : Exec) : Checks :=
  let x := descAt e 0
  let y := descAt e 1
  let d := convDims c x x y true
  { reserved := fld c.words 2 31 16 != 0 || fld c.words 2 63 48 != 0 || fld c.words 4 31 2 != 0 || fld c.words 4 0 0 != 0 || fld c.words 5 31 0 != 0
      || fld c.words 6 63 7 != 0 || fld c.words 7 63 0 != 0
    field := decide (2 < c.sub) || d.badRows
    format := x.fmt == .b16 || y.fmt == .b16
    shape := x.layout != 1 || y.layout != 1 || decide (d.wOut < 1) || decide (d.hOut < 1) || y.n0 != d.ow || y.n1 != d.oh || x.n2 != y.n2 || x.n3 != y.n3 }

/-! CONV as visits. -/

/-- Channel tiles of a group, and output tiles of a row (R222, R224). -/
def ConvDims.chTiles (d : ConvDims) : Nat := ceilDiv d.coutG 64
def ConvDims.rowTiles (d : ConvDims) : Nat := ceilDiv d.ow 64 * d.groups * d.chTiles

/-- First output column, group and first output channel of the tile of index j within its row (R222, R224). -/
def ConvDims.tileCol (d : ConvDims) (j : Nat) : Nat := 64 * (j / (d.groups * d.chTiles))
def ConvDims.tileGroup (d : ConvDims) (j : Nat) : Nat := j / d.chTiles % d.groups
def ConvDims.tileChan (d : ConvDims) (j : Nat) : Nat := d.tileGroup j * d.coutG + 64 * (j % d.chTiles)

/-- An output tile of a forward CONV. -/
def ConvDims.tile (d : ConvDims) (s oy j : Nat) : Tile :=
  { b := s, m := oy, n := j, mv := min 64 (d.ow - d.tileCol j), nv := min 64 (d.coutG - 64 * (j % d.chTiles)) }

/-- The K tiles of an output tile (R223), those of fully padded taps skipped when PAD_VAL is zero (R235). -/
def ConvDims.kTiles (d : ConvDims) (t : Tile) : List KTile :=
  let nch := ceilDiv d.cg 64
  (List.range (d.kh * d.kw * nch)).map fun k =>
    let tap := k / nch
    let ch := k % nch
    { id := k, ks := (List.range (min 64 (d.cg - 64 * ch))).map fun i => tap * d.cg + 64 * ch + i
      skip := d.padZero && d.fullyPadded t.m tap (d.tileCol t.n) t.mv }

/-- The visits of a forward CONV in loop order (R224). -/
def ConvDims.visits (d : ConvDims) (loop : Nat) : List Visit :=
  (List.range d.samples).flatMap fun s => (List.range d.rows).flatMap fun r =>
    let tiles := (List.range d.rowTiles).map (d.tile s (d.row0 + r))
    if loop = 0 then tiles.map fun t => { tile := t, kts := d.kTiles t, opens := true, closes := true }
    else
      let nk := d.kh * d.kw * ceilDiv d.cg 64
      (List.range nk).flatMap fun k => tiles.map fun t => { tile := t, kts := (d.kTiles t).filter fun x => x.id == k, opens := k == 0, closes := k + 1 == nk }

/-- A forward CONV as a matrix command (R222 to R226). -/
def convGemm (c : CmdInst) (e : Exec) : Gemm :=
  let x := descAt e 0
  let y := descAt e 2
  let d := convDims c x (descAt e 1) y false
  { visits := d.visits (fld c.words 4 7 6)
    a := x, b := descAt e 1, c := y, d := convD c e
    aIx := fun t r k => (d.tapAt (d.tileCol t.n + r) t.m (k / d.cg)).map fun q => { i0 := q.1, i1 := q.2, i2 := d.tileGroup t.n * d.cg + k % d.cg, i3 := t.b }
    bIx := fun t r k => some (d.wIx (k % d.cg) (d.tileChan t.n + r) (k / d.cg))
    cIx := fun t r q => { i0 := d.tileCol t.n + r, i1 := t.m, i2 := d.tileChan t.n + q, i3 := t.b }
    dIx := fun t _ q => { i0 := d.tileChan t.n + q }
    padA := d.padCode x, join := false, accIn := d.accIn, alpha := d.alpha, act := c.sub
    limit := e.accLimit, mode := e.sumMode (d.cg * d.kh * d.kw)
    share := fun t k => if fld c.words 4 7 6 = 1 then some (t.b, t.m, k, t.n % (d.groups * d.chTiles)) else none
    board := fun t => if t.n + 1 = d.rowTiles then d.boardBit t.b t.m else none }

/-- The visits of a weight gradient: tap, input-channel chunk, output-channel chunk across groups, each covering every K tile (R229). -/
def ConvDims.wgradVisits (d : ConvDims) : List Visit :=
  (List.range (d.kh * d.kw)).flatMap fun tap => (List.range (ceilDiv d.cg 64)).flatMap fun m => (List.range (d.groups * d.chTiles)).map fun n =>
    let ng := ceilDiv d.ow 64
    { tile := { b := tap, m := m, n := n, mv := min 64 (d.cg - 64 * m), nv := min 64 (d.coutG - 64 * (n % d.chTiles)) }
      kts := (List.range (d.samples * d.rows * ng)).map fun k =>
        let oy := d.row0 + k / ng % d.rows
        let ox := 64 * (k % ng)
        { id := k, ks := (List.range (min 64 (d.ow - ox))).map fun i => k / ng * d.ow + ox + i, skip := d.padZero && d.fullyPadded oy tap ox (min 64 (d.ow - ox)) }
      opens := true, closes := true }

/-- A weight gradient as a matrix command (R228 to R230). -/
def wgradGemm (c : CmdInst) (e : Exec) : Gemm :=
  let x := descAt e 0
  let d := convDims c x (descAt e 1) (descAt e 2) false
  let oy := fun k => d.row0 + k / d.ow % d.rows
  let smp := fun k => k / d.ow / d.rows
  { visits := d.wgradVisits
    a := x, b := descAt e 2, c := descAt e 1, d := none
    aIx := fun t r k => (d.tapAt (k % d.ow) (oy k) t.b).map fun q => { i0 := q.1, i1 := q.2, i2 := t.n / d.chTiles * d.cg + 64 * t.m + r, i3 := smp k }
    bIx := fun t r k => some { i0 := k % d.ow, i1 := oy k, i2 := t.n / d.chTiles * d.coutG + 64 * (t.n % d.chTiles) + r, i3 := smp k }
    cIx := fun t r q => { i0 := 64 * t.m + r, i1 := t.n / d.chTiles * d.coutG + 64 * (t.n % d.chTiles) + q, i2 := t.b % d.kw, i3 := t.b / d.kw }
    dIx := fun _ _ _ => { i0 := 0 }
    padA := d.padCode x, join := false, accIn := d.accIn, alpha := d.alpha, act := 0
    setB := 3, setOld := 2
    limit := e.accLimit, mode := e.sumMode (d.samples * d.rows * d.ow) }

/-- The run of a forward CONV. -/
def convRun (upTo : Option Nat) (s : State) (n : Nat) (e : Exec) : Run := ((convGemm e.cmd e).go s (s.whoExec n e) e upTo).run

/-- The run of a weight gradient. -/
def wgradRun (upTo : Option Nat) (s : State) (n : Nat) (e : Exec) : Run := ((wgradGemm e.cmd e).go s (s.whoExec n e) e upTo).run

/-- Whether a CONV command computes a weight gradient. -/
def isWgrad (c : CmdInst) : Bool := c.op == 0x02 && fld c.words 4 5 5 == 1

/-- CONV (R225). -/
def execConv (n : Nat) (s : State) : Host.Outcome State Fault Refusal :=
  .next (s.runCore n (fun c => c.op == 0x02 && !isWgrad c) convChecks (convRun none))

/-- CONV_WGRAD (R228). -/
def execConvWgrad (n : Nat) (s : State) : Host.Outcome State Fault Refusal :=
  .next (s.runCore n isWgrad wgradChecks (wgradRun none))

/-! TILE_DRAIN. -/

/-- The matrix command a core executes, when it passes its checks. -/
def Exec.gemmOf (e : Exec) : Option Gemm :=
  if e.cmd.op = 0x01 then (if (e.rejection (matChecks e.cmd e)).isNone then some (matGemm e.cmd e) else none)
  else if isWgrad e.cmd then (if (e.rejection (wgradChecks e.cmd e)).isNone then some (wgradGemm e.cmd e) else none)
  else if e.cmd.op = 0x02 then (if (e.rejection (convChecks e.cmd e)).isNone then some (convGemm e.cmd e) else none)
  else none

/-- The next closed tile of a core's executing matrix command drained: its results are written, and the command goes on. -/
def State.drainNext (s : State) (n : Nat) (e : Exec) (g : Gemm) : State :=
  let x := g.go s (s.whoExec n e) e (some (e.drained + 1))
  if x.run.tiles = e.drained + 1 then
    x.run.st.updCore n fun k => { k with exec := some { e with drained := x.run.tiles, made := x.made, ctrs := x.run.ctrs, written := x.run.written, maxAbs := x.run.maxAbs } }
  else s

/-- TILE_DRAIN (R178, R187). -/
def execTileDrain (n : Nat) (s : State) : Host.Outcome State Fault Refusal :=
  .next (match (s.core n).exec with
    | some e => match e.gemmOf with
      | some g => s.drainNext n e g
      | none => s
    | none => s)

/-! The sliding-window path. -/

/-- Segments of a row (R236). -/
def ConvDims.segs (d : ConvDims) : Nat := ceilDiv d.ow 256

/-- Sample, output row, output channel, first column and columns of segment j in the order of R238. -/
structure Segment where
  s : Nat
  oy : Nat
  co : Nat
  seg : Nat
  ox : Nat
  n : Nat

/-- Segment j of a command. -/
def ConvDims.segment (d : ConvDims) (j : Nat) : Segment :=
  let seg := j % d.segs
  { s := j / (d.segs * d.cOut * d.rows), oy := d.row0 + j / (d.segs * d.cOut) % d.rows, co := j / d.segs % d.cOut, seg := seg
    ox := 256 * seg, n := min 256 (d.ow - 256 * seg) }

/-- How many segments a command has. -/
def ConvDims.segCount (d : ConvDims) : Nat := d.samples * d.rows * d.cOut * d.segs

/-- The failure fields of a segment (R233, R242). -/
def segFin (g : Segment) (j : Nat) : Fin := { status := 2, failB := g.s, failM := g.oy, failN := g.co, failK := g.seg, failInfo := j }

/-- The row-board bit that a segment completes (R246). -/
def ConvDims.segBoard (d : ConvDims) (g : Segment) : Option Nat := if g.co + 1 = d.cOut && g.seg + 1 = d.segs then d.boardBit g.s g.oy else none

/-- The taps whose steps a segment runs (R235): all but the fully padded ones when PAD_VAL is zero and `skip`. -/
def ConvDims.taps (d : ConvDims) (g : Segment) (skip : Bool) : List Nat :=
  (List.range (d.kh * d.kw)).filter fun t => !(skip && d.padZero && d.fullyPadded g.oy t g.ox g.n)

/-- Elements of a segment read and counted, padded positions filled in; or the fault that stops the command there. -/
def Run.readSegment (r : Run) (w : Who) (set pad : Nat) (d : Desc) (ixs : List (Option Ix)) (g : Segment) (j : Nat) : Run × List Elem :=
  let x := r.st.fetchGrid w d pad ixs
  let r1 := r.counted set d.fmt x.reads
  match x.fault with
  | some f => (r1.stopped (r1.accessFin f j (segFin g j)), [])
  | none => (r1.touched w d (ixs.filterMap id), x.elems)

/-- A segment's results written, and the row's bit set when the segment is its last. -/
def Run.wroteSegment (r : Run) (w : Who) (y : Desc) (d : ConvDims) (g : Segment) (j : Nat) (xs : List A32) : Run :=
  let is := (List.range g.n).map fun i => ({ i0 := g.ox + i, i1 := g.oy, i2 := g.co, i3 := g.s } : Ix)
  let r1 := r.wrote w y (encodeElems y .nearest (List.zip is xs) {}).1 (segFin g j) j
  if r1.stop.isSome then r1 else { r1 with st := setBoard (w.part.getD 0) (d.segBoard g) r1.st }

/-- The elements a segment's windows span staged on a core's shelf, each in 2 bytes (R239). -/
def State.stage (s : State) (n : Nat) (xs : List Elem) : State := s.updCore n fun k => { k with mx := { k.mx with shelf := xs.map Prod.fst } }

/-- The shelf read for a segment (R833): a word that its check code corrects is counted, one that it cannot correct faults the command, with no address. -/
def Run.readShelf (r : Run) (n : Nat) (g : Segment) (j : Nat) : Run :=
  let m := (r.st.core n).mx
  let t := r.st.updCore n fun k => { k with mx := { k.mx with shelfWeak := false, shelfBad := false } }
  if m.shelfBad then { r with st := t }.stopped { segFin g j with fault := some .memUncorrectable }
  else if m.shelfWeak then { r with st := t.odInc 0x8010 6 } else r

/-- One column's sum of products over its taps and channels, each a fused step (R238, R241; log entry 18). -/
def dwSum (mode : Mode) (fx fw : Fmt) (xs ws : List Elem) (draw : Gen) : A32 × Gen :=
  (List.zip xs ws).foldl (fun a p =>
    match mode with
    | .nearest => (a32Fma .nearest 0 (widenElem fx p.1) (widenElem fw p.2) a.1, a.2)
    | .stochastic => (a32Fma .stochastic (a.2.at 0) (widenElem fx p.1) (widenElem fw p.2) a.1, a.2.skip 1)) (a32Zero, draw)

/-- The sums of a segment's columns; `xs` holds for each step the elements of every column. -/
def dwColumns (mode : Mode) (fx fw : Fmt) (n : Nat) (xs : List Elem) (ws : List Elem) (draw : Gen) : List A32 × Gen :=
  let rows := rowsOf n ws.length xs
  let t := (List.range n).foldl (fun (a : List A32 × Gen) i =>
    let y := dwSum mode fx fw (rows.map fun r => nth r i (0, none)) ws a.2
    (y.1 :: a.1, y.2)) ([], draw)
  (t.1.reverse, t.2)

/-- One segment of a DWCONV. -/
def dwSegment (w : Who) (c : CmdInst) (e : Exec) (d : ConvDims) (mode : Mode) (r : Run) (j : Nat) : Run :=
  let x := descAt e 0
  let wt := descAt e 1
  let y := descAt e 2
  let g := d.segment j
  let grp := g.co / max 1 d.coutG
  let steps := (d.taps g true).flatMap fun t => (List.range d.cg).map fun ci => (t, ci)
  let xi := steps.flatMap fun (t, ci) => (List.range g.n).map fun i => (d.tapAt (g.ox + i) g.oy t).map fun q => ({ i0 := q.1, i1 := q.2, i2 := grp * d.cg + ci, i3 := g.s } : Ix)
  let (r1, xs) := r.readSegment w 1 (d.padCode x) x xi g j
  if r1.stop.isSome then r1
  else
    let (r2, ws) := r1.readSegment w 2 0 wt (steps.map fun (t, ci) => some (d.wIx ci g.co t)) g j
    if r2.stop.isSome then r2
    else
      let t := dwColumns mode x.fmt wt.fmt g.n xs ws (r2.st.gen (vecUnit w))
      let r3 := ({ r2 with st := (r2.st.drew t.2).stage (w.core.getD 0) (xs ++ ws) } : Run).readShelf (w.core.getD 0) g j
      if r3.stop.isSome then r3 else
      let (r4, old) := if d.accIn then r3.readSegment w 3 0 y ((List.range g.n).map fun i => some { i0 := g.ox + i, i1 := g.oy, i2 := g.co, i3 := g.s }) g j else (r3, [])
      if r4.stop.isSome then r4
      else
        let (r5, ds) := match convD c e with
          | some q => r4.readSegment w 4 0 q ((List.range g.n).map fun _ => some { i0 := g.co }) g j
          | none => (r4, [])
        if r5.stop.isSome then r5
        else
          let res := t.1.zipIdx.map fun (acc, i) =>
            let x0 := a32Mul d.alpha acc
            let x1 := if d.accIn then a32Add .nearest 0 x0 (widenElem y.fmt (nth old i (0, none))) else x0
            let x2 := match convD c e with
              | some q => a32Add .nearest 0 x1 (widenElem q.fmt (nth ds i (0, none)))
              | none => x1
            (activation c.sub x2).getD x2
          r5.wroteSegment w y d g j res

/-- The shelf's need in bytes (R239). -/
def ConvDims.shelfNeed (d : ConvDims) (pool : Bool) : Nat :=
  if pool then (d.dy * (d.kh - 1) + 1) * d.wIn * 2
  else (d.dy * (d.kh - 1) + 1) * d.wIn * d.cg * 2 + d.cg * d.coutG * d.kh * d.kw * 2

/-- Segments run in order; a shelf that is too small stops the command at the first (R240). -/
def segRun (d : ConvDims) (pool : Bool) (f : Run → Nat → Run) (upTo : Option Nat) (r : Run) : Run :=
  if 131072 < d.shelfNeed pool then r.stopped { segFin (d.segment 0) 0 with fault := some .tileShelfOvf }
  else runGroups f upTo r (List.range d.segCount)

/-- The run of a DWCONV. -/
def dwRun (upTo : Option Nat) (s : State) (n : Nat) (e : Exec) : Run :=
  let d := convDims e.cmd (descAt e 0) (descAt e 1) (descAt e 2) false
  let mode := e.sumMode (d.cg * d.kh * d.kw)
  segRun d false (dwSegment (s.whoExec n e) e.cmd e d mode) upTo (Run.start s e)

/-- DWCONV (R238). -/
def execDwconv (n : Nat) (s : State) : Host.Outcome State Fault Refusal :=
  .next (s.runCore n (fun c => c.op == 0x03) dwChecks (dwRun none))

/-- The A32 pattern of a small whole number. -/
def a32Nat (n : Nat) : A32 := toA32 (.num false n 0)

/-- What POOL makes of one window: its elements, with whether each is padded (R243). -/
def poolWindow (sub : Nat) (countPad : Bool) (mode : Mode) (f : Fmt) (xs : List (Elem × Bool)) (draw : Gen) : A32 × Gen :=
  if sub = 0 then reduceMax (xs.map fun e => widenElem f e.1) draw
  else if sub = 1 then
    let ys := if countPad then xs else xs.filter fun e => !e.2
    let t := sumOf (ys.map fun e => widenElem f e.1) draw
    (if ys.isEmpty then a32Zero else a32Div t.1 (a32Nat ys.length), t.2)
  else
    let t := squares (xs.map fun e => widenElem f e.1) draw
    (a32Fn .sqrt t.1, t.2)
where
  reduceMax (l : List A32) (dr : Gen) : A32 × Gen :=
    match l with
    | [] => (a32Zero, dr)
    | x :: l => (l.foldl a32Max2 x, dr)
  sumOf (l : List A32) (dr : Gen) : A32 × Gen :=
    match l with
    | [] => (a32Zero, dr)
    | x :: l => a32Sum mode x l dr
  squares (l : List A32) (dr : Gen) : A32 × Gen :=
    l.foldl (fun a x =>
      match mode with
      | .nearest => (a32Fma .nearest 0 x x a.1, a.2)
      | .stochastic => (a32Fma .stochastic (a.2.at 0) x x a.1, a.2.skip 1)) (a32Zero, dr)

/-- One segment of a POOL. -/
def poolSegment (w : Who) (c : CmdInst) (e : Exec) (d : ConvDims) (mode : Mode) (r : Run) (j : Nat) : Run :=
  let x := descAt e 0
  let y := descAt e 1
  let g := d.segment j
  let taps := List.range (d.kh * d.kw)
  let xi := taps.flatMap fun t => (List.range g.n).map fun i => (d.tapAt (g.ox + i) g.oy t).map fun q => ({ i0 := q.1, i1 := q.2, i2 := g.co, i3 := g.s } : Ix)
  let (r1, xs) := r.readSegment w 1 (d.padCode x) x xi g j
  if r1.stop.isSome then r1
  else
    let rows := rowsOf g.n taps.length xs
    let t := (List.range g.n).foldl (fun (a : List A32 × Gen) i =>
      let win := (List.zip taps rows).map fun (t, row) => (nth row i (0, none), (d.tapAt (g.ox + i) g.oy t).isNone)
      let v := poolWindow c.sub (fld c.words 4 1 1 == 1) mode x.fmt win a.2
      (v.1 :: a.1, v.2)) ([], r1.st.gen (vecUnit w))
    let r2 := ({ r1 with st := (r1.st.drew t.2).stage (w.core.getD 0) xs } : Run).readShelf (w.core.getD 0) g j
    if r2.stop.isSome then r2 else r2.wroteSegment w y d g j t.1.reverse

/-- The run of a POOL. -/
def poolRun (upTo : Option Nat) (s : State) (n : Nat) (e : Exec) : Run :=
  let d := convDims e.cmd (descAt e 0) (descAt e 0) (descAt e 1) true
  let mode := e.sumMode (d.kh * d.kw)
  segRun d true (poolSegment (s.whoExec n e) e.cmd e d mode) upTo (Run.start s e)

/-- POOL (R243). -/
def execPool (n : Nat) (s : State) : Host.Outcome State Fault Refusal :=
  .next (s.runCore n (fun c => c.op == 0x04) poolChecks (poolRun none))

end Sys2Proof.Machine
end

