-- ==== Sys2Proof/Machine/Start.lean ====
section
/-! DEFINITION. CORE_SCHEDULE: the start of a core's command, with the checks that decide whether its open range opens (R162, R195); and the runs of the core commands that take time. -/
namespace Sys2Proof.Machine

/-- The checks of a core's command that takes time, and its run. -/
def timedRow (c : CmdInst) : Option ((CmdInst → Exec → Checks) × (Option Nat → State → Nat → Exec → Run)) :=
  match c.op with
  | 0x01 => some (matChecks, matRun)
  | 0x02 => some (if isWgrad c then (wgradChecks, wgradRun) else (convChecks, convRun))
  | 0x03 => some (dwChecks, dwRun)
  | 0x04 => some (poolChecks, poolRun)
  | 0x10 => some (vopChecks, vopRun)
  | 0x11 => some (vreduceChecks, vreduceRun)
  | 0x20 => some (copyChecks, copyRun)
  | 0x21 => some (gatherChecks, listRun (if c.sub = 1 then scatterOne else gatherOne))
  | 0x23 => some ((fun x _ => tierChecks false x), fun upTo s n e => tierRun upTo s (s.whoExec n e) e)
  | 0x30 => if c.sub = 4 && !c.remote then some (fenceChecks, sendRun) else none
  | _ => none

/-- The checks of a command that a core executes, by its opcode (R162). -/
def coreChecks (c : CmdInst) : CmdInst → Exec → Checks :=
  match timedRow c with
  | some (k, _) => k
  | none => match c.op with
    | 0x00 => nopChecks
    | 0x30 => fenceChecks
    | 0x31 => creditChecks
    | 0x32 => rowFenceChecks
    | _ => fun _ _ => {}

/-- The open range of a core's command opened when it starts, unless a check rejects it (R162, R195). -/
def State.openRange (s : State) (n : Nat) : State :=
  s.updCore n fun k => { k with exec := k.exec.map fun e => { e with opened := (e.rejection (coreChecks e.cmd e.cmd e)).isNone } }

/-- CORE_SCHEDULE (R626). -/
def execCoreSchedule (n : Nat) (s : State) : Host.Outcome State Fault Refusal :=
  .next (if n < 384 && s.coreFree n then (s.schedule n).openRange n else s)

end Sys2Proof.Machine
end

