-- ==== Sys2Proof/Machine/CmdTime.lean ====
section
/-! DEFINITION. CMD_TIME: a command whose time limit expires (R202 to R208, R254, R408, R475, R534, R587). -/
namespace Sys2Proof.Machine

/-- How a command ends on its limit with what it has written and counted so far (R205). -/
def timeOf (e : Exec) : Fin := { abortOf e with status := 2, fault := some .cmdTime }

/-- How a run turns out whose limit expired after `closed` tiles: on the fault it met (R208); on the limit, with the fields of the tile, group or crate that would come next (R205), or of none where all of them had closed and the last write was still to be issued. None where more than there are had closed: the last write had been issued (R206). -/
def lateFin (closed : Nat) (r : Run) : Option Fin :=
  match r.stop with
  | some d => some (if d.status = 0 then { r.fin with status := 2, fault := some .cmdTime } else r.fin)
  | none => if closed ≤ r.tiles then some { r.fin with status := 2, fault := some .cmdTime } else none

/-- The instant at which a command's limit expires (R204), once it has started. -/
def Exec.due (e : Exec) : Nat := e.start + 1000 * e.limit

/-- A taker that ends leaves its counter's order (R907). -/
def State.leaveOrder (s : State) (who : Consumer) (slot : Nat) : State := { s with takers := s.takers.filter fun t => !(t.2.1 == who && t.2.2 == slot) }

/-- The limit of a core's executing command: a waiting command ends with nothing written (R254, R607), a transfer with what it sent (R408, R587), any other with its first `closed` tiles, groups, segments, entries or crates. -/
def State.timeCore (s : State) (n closed : Nat) (e : Exec) : State :=
  let s1 := s.advance e.due
  if e.waiting then (s1.leaveOrder (.core n) 0).endCore n e (timeOf e)
  else if e.phase != 0 then s1.endCore n e { e.ending.getD (timeOf e) with status := 2, fault := some .cmdTime }
  else match timedRow e.cmd with
    | none => s
    | some (checks, run) =>
      if (e.rejection (checks e.cmd e)).isSome then s
      else
        let r := run (some (max closed e.drained)) s1 n e
        match lateFin closed r with
        | some d => r.st.endCore n e d
        | none => s

/-- The limit of a hub-die command: a BARRIER that waits, or a TIER_MOVE after `closed` crates. -/
def State.timeHub (s : State) (cc closed : Nat) : State :=
  match s.hubExec cc fun _ => true with
  | none => s
  | some e =>
    if e.cmd.isBarrier then (if e.phase = 0 then s else (s.advance e.due).endHub e (timeOf e))
    else if !s.ready || e.cmd.op != 0x23 || (s.rejection e.cmd [] (tierChecks true e.cmd)).isSome then s
    else
      let e1 := { e with start := s.now, limit := s.limitOf e.cmd }
      let s1 := s.advance e1.due
      let r := tierRun (some closed) s1 { s1.whoCtx cc none with die := dieAttic } e1
      match lateFin closed r with
      | some d => r.st.endHub e1 d
      | none => s

/-- The limit of an update engine's command: a NORM_REDUCE that waits abandons its step (R475), an APPLY has stored `closed` groups (R488), a NORM_PART leaves its slot as it was. -/
def State.timeUpdate (s : State) (k closed : Nat) : State :=
  match (s.engine k).exec with
  | some e =>
    let p := s.ctxPart e.cmd.ctx
    let g := e.cmd.uGroup
    let s1 := (s.advance e.due).endUpdate k e (timeOf e)
    if e.phase = 1 && (s.group p g).step == e.cmd.uStep then State.settleGroup p g 12 (s1.abandon p g (failFin .updNormAbandoned)) else s1
  | none =>
    match s.nextUpdate k fun x => x.sub == 0 || x.sub == 2 with
    | none => s
    | some c =>
      let x := s.updReads (s.whoCtx c.ctx none) c
      let sl := s.slot k (s.ctxPart c.ctx) c.uSlot
      let late := if c.sub = 2 then decide (closed < ceilDiv (((streamAt x.streams 0x11).map Desc.count).getD 0) 256) && sl.st == .go && sl.step == c.uStep else true
      if (s.updRejection k c x).isSome || !late then s
      else s.runUpdate k (fun y => y.sub == c.sub) fun t e y =>
        let t1 := t.advance e.due
        let l : Late := { closed := closed, code := .cmdTime }
        if c.sub = 2 then t1.apply k e y (some l) else t1.normPart k e y (some l)

/-- The executing commands of a context on the reduction engines, with the plan entry each stands at. -/
def State.collExecs (s : State) (cc : Nat) : List (Exec × Nat) :=
  (s.coll.runs.filter fun r => r.exec.cmd.ctx == cc).map (fun r => (r.exec, r.entry)) ++ (s.coll.broadcasts.filter fun e => e.cmd.ctx == cc).map fun e => (e, 0)

/-- Of some executing commands the one whose limit expires first, the oldest of a tie. -/
def firstDue : List (Exec × Nat) → Option (Exec × Nat)
  | [] => none
  | x :: l => match firstDue l with
    | none => some x
    | some y => if y.1.due < x.1.due then some y else some x

/-- The limit of a REDUCE or BROADCAST (R534, R547): of those of a context, the one whose limit expires first. -/
def State.timeColl (s : State) (cc : Nat) : State :=
  match firstDue (s.collExecs cc) with
  | none => s
  | some (e, entry) => (((s.advance e.due).leaveOrder (.reduction cc) e.cmd.slot).endColl e { e.ending.getD (timeOf e) with status := 2, fault := some .cmdTime, tiles := e.drained, failInfo := entry })

/-- CMD_TIME (R205): `closed` says how many output tiles have closed. A command that would be rejected, that completes, or that takes no time meets no limit. -/
def execCmdTime (c : Consumer) (closed : Nat) (s : State) : Host.Outcome State Fault Refusal :=
  .next (match c with
    | .core n => match (s.core n).exec with
      | some e => s.timeCore n closed e
      | none => s
    | .hub cc => s.timeHub cc closed
    | .update k => s.timeUpdate k closed
    | .reduction cc => s.timeColl cc
    | .media _ => s)

end Sys2Proof.Machine
end

