-- ==== Sys2Proof/Machine/Shape.lean ====
section
/-! DEFINITION. The geometry and colour unit (R669 to R674, R709) and the spectral-feature chain (R675 to R677), as functions of the decoded sample. -/
namespace Sys2Proof.Machine

/-! The augmentation record of an image (R669), words 4 to 7 of a sample descriptor or route entry. -/

def augX (ws : List Word) : Nat := fld ws 4 15 0
def augY (ws : List Word) : Nat := fld ws 4 31 16
def augW (ws : List Word) : Nat := fld ws 4 47 32 + 1
def augH (ws : List Word) : Nat := fld ws 4 63 48 + 1
def augAngle (ws : List Word) : Nat := fld ws 5 14 0
def augFlipH (ws : List Word) : Bool := fld ws 5 16 16 == 1
def augFlipV (ws : List Word) : Bool := fld ws 5 17 17 == 1
def augMethod (ws : List Word) : Nat := fld ws 5 19 18

/-- A BF16 field as A32. -/
def bf16A32 (x : Nat) : A32 := widenElem .bf16 (x, none)

def augFill (ws : List Word) : A32 := bf16A32 (fld ws 5 35 20)
def augMean (ws : List Word) (c : Nat) : A32 := bf16A32 (fld ws 6 (16 * c + 15) (16 * c))
def augScale (ws : List Word) (c : Nat) : A32 := bf16A32 (fld ws 7 (16 * c + 15) (16 * c))

/-- Reserved bits of the record (R669). -/
def augReserved (ws : List Word) : Bool := fld ws 5 15 15 != 0 || fld ws 5 63 36 != 0 || fld ws 6 63 48 != 0 || fld ws 7 63 48 != 0

/-- Values of the record that are not defined (R669). -/
def augBad (ws : List Word) : Bool := augMethod ws == 3 || decide (23039 < augAngle ws)

/-! Sampling (R672, R673). -/

/-- A plane of a picture: its width, its height and the value at a column and row inside it. -/
structure Plane where
  w : Nat
  h : Nat
  get : Nat → Nat → A32

/-- A tap: the sample's column and row, its weight's numerator and denominator. -/
abbrev Tap := (Int × Int) × Int × Nat

/-- Whether a place lies inside a plane. -/
def Plane.has (p : Plane) (x y : Int) : Bool := decide (0 ≤ x) && decide (x < p.w) && decide (0 ≤ y) && decide (y < p.h)

/-- The sum of taps: exact where one tap has all the weight; otherwise its order and roundings are not given (log entry 10). -/
def Plane.sum (p : Plane) (ts : List Tap) : A32 :=
  let ts' := ts.filter fun t => t.2.1 != 0
  let v := fun (t : Tap) => if p.has t.1.1 t.1.2 then p.get t.1.1.toNat t.1.2.toNat else a32Zero
  match ts' with
  | [t] => if t.2.1 = t.2.2 && p.has t.1.1 t.1.2 then v t else Config.blend [(v t, p.has t.1.1 t.1.2, t.2.1, t.2.2)]
  | l => Config.blend (l.map fun t => (v t, p.has t.1.1 t.1.2, t.2.1, t.2.2))

/-- Weights along one axis at output place o of n from a source of m: bilinear, centres at halves (R672): place, numerator, denominator 2n. -/
def linearTaps (m n o : Nat) : List (Int × Int × Nat) :=
  let num : Int := (2 * o + 1) * m - n
  let i := num / (2 * n : Nat)
  let f := num - i * (2 * n : Nat)
  [(i, (2 * n : Nat) - f, 2 * n), (i + 1, f, 2 * n)]

/-- The cubic convolution weight at distance `t / d` with a = -0.5, times `2 d^3`. -/
def cubicWeight (t d : Int) : Int :=
  let a := t.natAbs
  if (a : Int) ≤ d then 3 * a ^ 3 - 5 * a ^ 2 * d + 2 * d ^ 3
  else if (a : Int) < 2 * d then -(a : Int) ^ 3 + 5 * a ^ 2 * d - 8 * a * d ^ 2 + 4 * d ^ 3
  else 0

/-- Weights along one axis: bicubic (R672). -/
def cubicTaps (m n o : Nat) : List (Int × Int × Nat) :=
  let num : Int := (2 * o + 1) * m - n
  let d : Int := 2 * n
  let i := num / d
  ([-1, 0, 1, 2] : List Int).map fun k => (i + k, cubicWeight (num - (i + k) * d) d, (2 * d ^ 3).toNat)

/-- Weights along one axis: area where it reduces, bilinear where it enlarges (R672). -/
def areaTaps (m n o : Nat) : List (Int × Int × Nat) :=
  if m ≤ n then linearTaps m n o
  else (List.range m).filterMap fun i =>
    let lo := max (o * m) (i * n)
    let hi := min ((o + 1) * m) ((i + 1) * n)
    if lo < hi then some ((i : Int), ((hi - lo : Nat) : Int), m) else none

/-- Weights along one axis by METHOD. -/
def axisTaps (method m n o : Nat) : List (Int × Int × Nat) := if method = 1 then cubicTaps m n o else if method = 2 then areaTaps m n o else linearTaps m n o

/-- A plane resized to `W` columns and `H` rows (R672, step 4). -/
def Plane.resize (p : Plane) (method W H : Nat) : Plane :=
  { w := W, h := H, get := fun ox oy =>
      p.sum ((axisTaps method p.h H oy).flatMap fun ty => (axisTaps method p.w W ox).map fun tx => ((tx.1, ty.1), tx.2.1 * ty.2.1, tx.2.2 * ty.2.2)) }

/-- The crop of a plane: positions outside the picture take FILL (R672, step 1). -/
def Plane.crop (p : Plane) (ws : List Word) : Plane :=
  { w := augW ws, h := augH ws, get := fun x y => if p.has (x + augX ws : Nat) (y + augY ws : Nat) then p.get (x + augX ws) (y + augY ws) else augFill ws }

/-- A quarter turn anticlockwise. -/
def Plane.turn (p : Plane) : Plane := { w := p.h, h := p.w, get := fun x y => p.get (p.w - 1 - y) x }

/-- Flips, horizontal before vertical (R672, step 3). -/
def Plane.flip (p : Plane) (h v : Bool) : Plane :=
  { p with get := fun x y => p.get (if h then p.w - 1 - x else x) (if v then p.h - 1 - y else y) }

/-- A plane repeated a number of times through a map. -/
def turns : Nat → Plane → Plane
  | 0, p => p
  | n + 1, p => turns n p.turn

/-- Steps 1 to 4 of R672 on one plane: crop, rotate, flip, resize; one sampling where ANGLE is no quarter turn (R673). -/
def Plane.place (p : Plane) (ws : List Word) (W H : Nat) : Plane :=
  let c := p.crop ws
  if augAngle ws % 5760 = 0 then (((turns (augAngle ws / 5760) c).flip (augFlipH ws) (augFlipV ws))).resize (augMethod ws) W H
  else
    let all := (List.range c.h).flatMap fun y => (List.range c.w).map fun x => c.get x y
    ({ w := W, h := H, get := fun x y => Config.rotated (augFill ws :: all) [c.w, c.h, augAngle ws, W, H, x, y] } : Plane).flip (augFlipH ws) (augFlipV ws)

/-! Colour (R671, R674, R709). -/

/-- A sample value of `b` bits over its largest value (R671). -/
def unitSample (v b : Nat) : A32 := a32Div (toA32 (valOfInt v)) (toA32 (valOfInt (2 ^ b - 1)))

/-- A value clamped to [0, 1] (R674). -/
def clamp01 (x : A32) : A32 := a32Min (a32Max2 x a32Zero) a32One

/-- A coefficient of R674 as A32: a decimal of so many millionths. -/
def millionths (n : Nat) : A32 := a32Div (toA32 (valOfInt n)) (toA32 (valOfInt 1000000))

/-- The four coefficients that form RGB from Y, Cb and Cr. -/
structure Matrix where
  rcr : A32
  gcb : A32
  gcr : A32
  bcb : A32
  deriving DecidableEq, Repr

/-- The full-range matrix of JPEG colour (R674). -/
def jpegMatrix : Matrix := { rcr := millionths 1402000, gcb := millionths 344136, gcr := millionths 714136, bcb := millionths 1772000 }

/-- The matrix a stream signals (R709): 0 BT.601, 1 BT.709, 2 BT.2020; the numbers are those standards' (log entry 10). -/
def streamMatrix (m : Nat) : Matrix := { rcr := Config.colour m 0, gcb := Config.colour m 1, gcr := Config.colour m 2, bcb := Config.colour m 3 }

/-- Round-to-nearest sum and difference in A32 (R671). -/
def plus (a b : A32) : A32 := a32Add .nearest 0 a b
def minus (a b : A32) : A32 := a32Add .nearest 0 a (a32Neg b)

/-- One half. -/
def a32Half : A32 := 0x3F000000#32

/-- RGB from Y, Cb and Cr, clamped (R674). -/
def rgbOf (m : Matrix) (y cb cr : A32) : List A32 :=
  let u := minus cb a32Half
  let v := minus cr a32Half
  [clamp01 (plus y (a32Mul m.rcr v)), clamp01 (minus (minus y (a32Mul m.gcb u)) (a32Mul m.gcr v)), clamp01 (plus y (a32Mul m.bcb u))]

/-- The kinds of colour a source has (R674). -/
inductive Colour where
  | grey | luma (m : Matrix) | rgb
  deriving Repr

/-- The tensor's `n` channels from a source's values at a place (R674): `alpha` where the source has one. -/
def channels (k : Colour) (n : Nat) (vs : List A32) (alpha : Option A32) : List A32 :=
  let v := fun i => nth vs i a32Zero
  let a := alpha.getD a32One
  match k with
  | .grey => if n = 1 then [v 0] else if n = 3 then [v 0, v 0, v 0] else [v 0, v 0, v 0, a]
  | .luma m => if n = 1 then [v 0] else if n = 3 then rgbOf m (v 0) (v 1) (v 2) else rgbOf m (v 0) (v 1) (v 2) ++ [a32One]
  | .rgb =>
    if n = 1 then [plus (plus (a32Mul (millionths 299000) (v 0)) (a32Mul (millionths 587000) (v 1))) (a32Mul (millionths 114000) (v 2))]
    else if n = 3 then [v 0, v 1, v 2] else [v 0, v 1, v 2, a]

/-- Normalisation (R672, step 6). -/
def normalise (ws : List Word) (c : Nat) (x : A32) : A32 := if c < 3 then a32Mul (minus x (augMean ws c)) (augScale ws c) else x

/-- A decoded picture as the unit takes it: its colour planes at full resolution, its alpha, and how its channels form. -/
structure Picture where
  planes : List Plane
  alpha : Option Plane
  colour : Colour

/-- The values a picture gives a slot, as elements of the batch tensor (R672 to R674). -/
def shapeImage (ws : List Word) (pic : Picture) (d : Desc) (slot : Nat) : List (Ix × A32) :=
  let ps := pic.planes.map fun p => p.place ws d.n0 d.n1
  let al := pic.alpha.map fun p => p.place ws d.n0 d.n1
  (List.range d.n1).flatMap fun y => (List.range d.n0).flatMap fun x =>
    let cs := channels pic.colour d.n2 (ps.map fun p => p.get x y) (al.map fun p => p.get x y)
    (List.range d.n2).map fun c => ({ i0 := x, i1 := y, i2 := c, i3 := slot }, normalise ws c (nth cs c a32Zero))

/-- A decoded JPEG or PNG (R666, R671): chroma planes are brought to full resolution by bilinear interpolation with centred places. -/
def stillPicture (codec : Nat) (bs : List Byte) : Picture :=
  let f := Config.sampleInfo codec bs
  let full := fun i => ({ w := f 1, h := f 2, get := fun x y => unitSample (Config.imageSample codec bs i x y) (f 4) } : Plane)
  let sub := fun i => (({ w := f 5, h := f 6, get := fun x y => unitSample (Config.imageSample codec bs i x y) (f 4) } : Plane)).resize 0 (f 1) (f 2)
  let n := f 3 % 10
  if n = 1 then { planes := [full 0], alpha := if 10 ≤ f 3 then some (full 1) else none, colour := .grey }
  else if codec = 0 then { planes := [full 0, sub 1, sub 2], alpha := none, colour := .luma jpegMatrix }
  else { planes := [full 0, full 1, full 2], alpha := if 10 ≤ f 3 then some (full 3) else none, colour := .rgb }

/-- A sample of a video picture (R709): luma or chroma, full or limited range, of `b` bits. -/
def videoSample (full chroma : Bool) (v b : Nat) : A32 :=
  if full then unitSample v b
  else
    let n : Int := if chroma then (v : Int) - 128 * 2 ^ (b - 8) else (v : Int) - 16 * 2 ^ (b - 8)
    let q := a32Div (toA32 (valOfInt n)) (toA32 (valOfInt ((if chroma then 224 else 219) * 2 ^ (b - 8))))
    if chroma then plus q a32Half else q

/-! The spectral-feature chain (R675 to R677). -/

def audRate (ws : List Word) : Nat := fld ws 4 31 0
def audStart (ws : List Word) : Nat := fld ws 4 63 32
def audFrame (ws : List Word) : Nat := fld ws 5 12 0
def audHop (ws : List Word) : Nat := fld ws 5 25 13
def audWindow (ws : List Word) : Nat := fld ws 5 26 26
def audPower (ws : List Word) : Nat := fld ws 5 27 27
def audMel (ws : List Word) : Nat := fld ws 5 36 28
def audLog (ws : List Word) : Bool := fld ws 5 37 37 == 1
def audMix (ws : List Word) : Nat := fld ws 5 39 38
def audFmin (ws : List Word) : Nat := fld ws 6 15 0
def audFmax (ws : List Word) : Nat := fld ws 6 31 16
def audFloor (ws : List Word) : A32 := bf16A32 (fld ws 6 47 32)

/-- Reserved bits of the record (R675). -/
def audReserved (ws : List Word) : Bool := fld ws 5 63 40 != 0 || fld ws 6 63 48 != 0 || fld ws 7 63 0 != 0

/-- Values of the record outside their ranges (R675). -/
def audBad (ws : List Word) : Bool :=
  decide (audRate ws < 8000) || decide (192000 < audRate ws) || decide (audFrame ws < 128) || decide (4096 < audFrame ws) || audFrame ws % 16 != 0
    || audHop ws == 0 || decide (4096 < audHop ws) || decide (256 < audMel ws) || decide (1 < audMix ws)
    || decide (audRate ws < 2 * audFmax ws) || decide (audFmax ws ≤ audFmin ws) || !((a32Val a32Zero).lt (a32Val (audFloor ws)))

/-- Rows and channels the record asks of the tensor (R676). -/
def audShapeOk (ws : List Word) (d : Desc) : Bool :=
  d.n1 == (if audMel ws = 0 then audFrame ws / 2 + 1 else audMel ws) && (audMix ws == 0 || d.n2 == 1)

/-- A clip's sample of a channel: zero outside the clip (R677, steps 1 and 3). -/
def clipSample (codec : Nat) (bs : List Byte) (c : Nat) (i : Int) : A32 :=
  if 0 ≤ i && i < Config.sampleInfo codec bs 3 then Config.soundSample codec bs c i else a32Zero

/-- The signal the chain frames: the channel or the mean of all, at RATE (R677, steps 1 and 2). -/
def chainSignal (codec : Nat) (bs : List Byte) (ws : List Word) (c : Nat) (i : Int) : A32 :=
  let n := Config.sampleInfo codec bs 1
  let src := fun (j : Int) =>
    if audMix ws = 1 && n != 1 then Config.mean ((List.range n).map fun k => clipSample codec bs k j) else clipSample codec bs c j
  if Config.sampleInfo codec bs 2 = audRate ws then src i else Config.resampled src (Config.sampleInfo codec bs 2) (audRate ws) i

/-- The feature at a row of frame j (R677, steps 3 to 7). -/
def chainValue (codec : Nat) (bs : List Byte) (ws : List Word) (c j row : Nat) : A32 :=
  let frame := (List.range (audFrame ws)).map fun n => chainSignal codec bs ws c (audStart ws + j * audHop ws + n : Nat)
  let bin := Config.spectrum frame (audWindow ws) (audPower ws)
  let x := if audMel ws = 0 then bin row else Config.melBand ((List.range (audFrame ws / 2 + 1)).map bin) [audFmin ws, audFmax ws, audRate ws, audMel ws, row]
  if audLog ws then a32Fn .log (a32Max2 x (audFloor ws)) else x

/-- The values a clip gives a slot. -/
def shapeSound (codec : Nat) (bs : List Byte) (ws : List Word) (d : Desc) (slot : Nat) : List (Ix × A32) :=
  (List.range d.n2).flatMap fun c => (List.range d.n1).flatMap fun r => (List.range d.n0).map fun j =>
    ({ i0 := j, i1 := r, i2 := c, i3 := slot }, chainValue codec bs ws c j r)

end Sys2Proof.Machine
end

