-- ==== Sys2Proof/Machine/Media.lean ====
section
/-! DEFINITION. Batches of the media die: MEDIA_SAMPLE (R656 to R664), the order of work (R678), the resolving of slots (R680 to R687) and the validity mask (R689, R690). -/
namespace Sys2Proof.Machine

/-! Commands of the media die. -/

/-- Who makes the media die's accesses for a command of a context (R37). -/
def State.whoMedia (s : State) (cc : Nat) : Who := { s.whoCtx cc none with die := dieMedia }

/-- The command of a context that the media die takes next: its oldest one there that has not started. -/
def State.mediaNext (s : State) (cc : Nat) (mine : CmdInst → Bool) : Option Exec :=
  if !s.ready then none else (s.media.queue.find? fun e => e.cmd.ctx == cc && e.phase == 0).filter fun e => mine e.cmd

/-- A media-die command ended; after a fault or a rejection the context's commands it has not started are read again when the context resumes (R212, R634). -/
def State.endMedia (s : State) (e : Exec) (d : Fin) : State :=
  let c := e.cmd
  let same : Exec → Bool := fun x => x.cmd.ctx == c.ctx && x.cmd.slot == c.slot
  let bad := d.status = 1 || d.status = 2
  let back : Exec → Bool := fun x => bad && x.cmd.ctx == c.ctx && !(same x) && x.phase == 0
  let s1 := s.withMedia fun x => { x with queue := x.queue.filter fun y => !(same y) && !(back y) }
  (s1.putBack ((s.media.queue.filter back).map Exec.cmd)).finish c 0x1FF s.now d

/-- A media-die command checked and run: `recs` are its descriptors, `list` a record of another kind, if it reads one. -/
def State.runMedia (s : State) (cc : Nat) (mine : CmdInst → Bool) (recs : State → CmdInst → List RecRead) (list : State → CmdInst → Option RecRead)
    (checks : CmdInst → List RecRead → Checks) (body : State → Exec → List RecRead → List Word → State) : State :=
  match s.mediaNext cc mine with
  | none => s
  | some e0 =>
    let e := { e0 with start := s.now }
    let c := e.cmd
    let rs := recs s c
    match firstFailed (rs ++ (list s c).toList) with
    | some f => s.endMedia e (rejectAt f.1 f.2)
    | none =>
      match s.rejection c rs (checks c rs) with
      | some d => s.endMedia e d
      | none => body s e rs (match list s c with | some (.words ws) => ws | _ => [])

/-- A rejection by one of the media die's own checks. -/
def State.rejectMedia (s : State) (e : Exec) (c : Code) (info addr : Nat) : State := s.endMedia e { status := 1, fault := some c, failInfo := info, failAddr := addr }

/-- Words read as one record of `n` words, or the fault met. -/
def State.readWords (s : State) (w : Who) (a n : Nat) : RecRead :=
  match s.loadFault w a (8 * n) with
  | some f => .failed f.1 (s.globalAddr f.2)
  | none => .words (s.words a n)

/-- Eight words of a list of 64-byte records. -/
def recordAt (ws : List Word) (i : Nat) : List Word := (ws.drop (8 * i)).take 8

/-! Batches. -/

/-- The open batch of a handle. -/
def State.batch (s : State) (b : Nat) : Option Batch := s.media.batches.find? fun x => x.handle == b

/-- A batch replaced. -/
def State.putBatch (s : State) (x : Batch) : State :=
  s.withMedia fun m => { m with batches := m.batches.map fun y => if y.handle == x.handle then x else y }

/-- A slot of a batch. -/
def Batch.slot (x : Batch) (i : Nat) : BatchSlot := nth x.slots i {}

/-- A slot of a batch changed. -/
def Batch.updSlot (x : Batch) (i : Nat) (f : BatchSlot → BatchSlot) : Batch := { x with slots := modAt x.slots i f }

/-- A slot that is resolved. -/
def BatchSlot.resolved (x : BatchSlot) : Bool := x.res == .valid || x.res == .invalid || x.res == .late

/-- The tensor of a batch. -/
def Batch.desc (x : Batch) : Desc := descOf x.tensor

/-- Fields of OPEN (R657). -/
def batchKind (ws : List Word) : Nat := fld ws 2 49 49
def batchFenceOn (ws : List Word) : Bool := fld ws 2 48 48 == 1
def batchFence (ws : List Word) : Nat := fld ws 2 47 40
def batchMask (ws : List Word) : Nat := fld ws 3 51 0

/-- Bytes of the validity mask of S slots (R689). -/
def maskBytes (n : Nat) : Nat := 64 + 64 * ceilDiv n 32 + n

/-- Who makes the media die's accesses for a batch (R679). -/
def Batch.who (x : Batch) : Who := { part := some x.part, ctx := some x.ctx, die := dieMedia }

/-- The checks of an OPEN (R656 to R658). -/
def openChecks (c : CmdInst) (rs : List RecRead) : Checks :=
  let ws := c.words
  match descs rs with
  | d :: _ =>
    let m := batchMask ws
    { reserved := fld ws 2 31 16 != 0 || fld ws 2 63 50 != 0 || fld ws 3 63 52 != 0 || fld ws 4 63 32 != 0 || fld ws 6 63 0 != 0 || fld ws 7 63 0 != 0
      field := c.sub != 0 || region d.base != 0 || region m != 0 || m % 64 != 0
        || (decide (m < d.endAddr) && decide (d.base < m + maskBytes d.n3))
        || (!(batchFenceOn ws) && (batchFence ws != 0 || fld ws 5 63 0 != 0))
      format := d.fmt == .l4 || d.fmt == .b16 || d.scaled
      shape := d.layout != 1 || decide (1024 < d.n3) }
  | [] => { reserved := fld ws 6 63 0 != 0 || fld ws 7 63 0 != 0, field := c.sub != 0 }

/-- The first byte of a run that cannot be reached. -/
def State.firstUnmapped (s : State) (w : Who) (a n : Nat) : Option Nat := ((List.range n).find? fun i => (s.mapFault w true (a + i)).isSome).map (a + ·)

/-- The first byte of a batch's tensor or mask that cannot be reached (R659): the tensor row by row. -/
def State.batchUnmapped (s : State) (w : Who) (d : Desc) (m : Nat) : Option Nat :=
  ((List.range (d.n1 * d.n2 * d.n3)).findSome? fun r => s.firstUnmapped w (d.addr (d.at (r * d.n0))) (d.n0 * d.width)).orElse fun _ => s.firstUnmapped w m (maskBytes d.n3)

/-- MEDIA_OPEN (R657 to R660); it also rejects an undefined SUBOP. -/
def execMediaOpen (cc : Nat) (s : State) : Host.Outcome State Fault Refusal :=
  .next (s.runMedia cc (fun c => c.op == 0x50 && (c.sub == 0 || decide (2 < c.sub))) (fun t c => [t.readDesc (t.whoMedia cc) cc (fld c.words 2 15 0)]) (fun _ _ => none) openChecks
    fun t0 e rs _ =>
      let ws := e.cmd.words
      let p := t0.ctxPart cc
      let b := fld ws 2 39 32
      let t := t0.touchDescs (t0.whoMedia cc) cc [fld ws 2 15 0]
      match rs, descs rs with
      | .words tensor :: _, d :: _ =>
        match t.batchUnmapped (t.whoMedia cc) d (batchMask ws) with
        | some a => t.rejectMedia e .memUnmapped 0 (t.globalAddr a)
        | none =>
          if (t.batch b).isSome then t.rejectMedia e .mediaBatchState 0 0
          else
            let us := if fld ws 4 31 0 = 0 then t.odN (0x5010 + p) 1 else fld ws 4 31 0
            let x : Batch := { handle := b, part := p, ctx := cc, words := ws, tensor := tensor, opened := t.now, slots := List.replicate d.n3 { deadline := t.now + 1000 * us } }
            (t.withMedia fun m => { m with batches := m.batches ++ [x] }).endMedia e {}
      | _, _ => t)

/-! Admission. -/

/-- Fields of a sample descriptor or route entry (R665, R707). -/
def smpCodec (ws : List Word) : Nat := fld ws 0 63 60
def smpSrc (ws : List Word) : Nat := fld ws 0 51 0
def smpLen (ws : List Word) : Nat := fld ws 1 31 0
def smpSlot (ws : List Word) : Nat := fld ws 1 41 32
def smpWait (ws : List Word) : Bool := fld ws 1 48 48 == 1
def smpPrio (ws : List Word) : Nat := fld ws 1 50 49
def smpLive (ws : List Word) : Bool := fld ws 1 51 51 == 1
def smpDeadline (ws : List Word) : Nat := fld ws 2 31 0

/-- Reserved bits of a sample descriptor (R665). -/
def smpReserved (ws : List Word) : Bool := fld ws 0 59 52 != 0 || fld ws 1 47 42 != 0 || fld ws 1 63 52 != 0 || fld ws 2 63 32 != 0 || fld ws 3 63 0 != 0

/-- Whether a codec is of sound (R666). -/
def codecSound (k : Nat) : Bool := decide (2 ≤ k)

/-- The faults an admission checks of a batch and a slot (R662, 3 to 5), `taken` being the slots named before in the same command. -/
def slotCheck (p : Nat) (b : Option Batch) (shape : Bool) (sl : Nat) (taken : List Nat) : Option Code :=
  firstCode
    [ (shape, .cmdShape),
      ((match b with | some x => x.part != p || x.slots.all BatchSlot.resolved | none => true), .mediaBatchState),
      ((match b with | some x => (x.slot sl).res != .empty | none => false) || taken.contains sl, .mediaSlotTaken) ]

/-- The first fault of a sample descriptor, with the address of an unmapped source byte (R662). -/
def State.sampleCheck (s : State) (p : Nat) (b : Option Batch) (ws : List Word) (taken : List Nat) : Option (Code × Nat) :=
  let sound := codecSound (smpCodec ws)
  let resv := smpReserved ws || (if sound then audReserved ws else augReserved ws)
  let field := decide (5 < smpCodec ws) || smpLen ws == 0 || (if sound then audBad ws else augBad ws)
    || (match b with | some x => sound != (batchKind x.words == 1) || decide (x.slots.length ≤ smpSlot ws) | none => false)
  let shape := match b with
    | some x => if sound then !(audShapeOk ws x.desc) else !([1, 3, 4].contains x.desc.n2)
    | none => false
  match firstCode [(resv, .mediaReserved), (field, .cmdField)] with
  | some c => some (c, 0)
  | none =>
    match slotCheck p b shape (smpSlot ws) taken with
    | some c => some (c, 0)
    | none => ((List.range (smpLen ws)).find? fun i =>
        let a := smpSrc ws + i
        region a == 8 || region a == 15 || (s.mapFault { part := some p } false a).map Prod.fst == some .memUnmapped).map fun i => (.memUnmapped, s.globalAddr (smpSrc ws + i))

/-- The first fault of a list of records, with its index (R662). -/
def firstBad (chk : List Word → List Nat → Option (Code × Nat)) (sl : List Word → Nat) : Nat → List Nat → List (List Word) → Option (Nat × Code × Nat)
  | _, _, [] => none
  | i, taken, r :: rs => match chk r taken with
    | some f => some (i, f.1, f.2)
    | none => firstBad chk sl (i + 1) (sl r :: taken) rs

/-- Sample-table entries a partition holds (R664). -/
def State.samplesOf (s : State) (p : Nat) : Nat := ((s.media.batches.filter fun x => x.part == p).map fun x => (x.slots.filter fun y => y.res == .admitted).length).sum

/-- Whether the table can take `n` more samples of a partition (R664). -/
def State.tableRoom (s : State) (p n : Nat) : Bool := decide (s.samplesOf p + n ≤ 32 * s.odN (0x2000 + p) 8)

/-- A record admitted into its slot (R663, R668). -/
def State.enrol (s : State) (b : Nat) (stream : Option Nat) (ws : List Word) : State :=
  match s.batch b with
  | none => s
  | some x =>
    let i := smpSlot ws
    let y := x.updSlot i fun z =>
      { z with
        res := .admitted, wait := smpWait ws, words := ws, stream := stream, order := s.media.admitted
        deadline := if smpDeadline ws = 0 then z.deadline else x.opened + 1000 * smpDeadline ws }
    (s.putBatch y).withMedia fun m => { m with admitted := m.admitted + 1 }

/-- The record of a list a command names: its address and how many 64-byte records. -/
def State.readList64 (s : State) (w : Who) (c : CmdInst) : RecRead := s.readWords w (fld c.words 2 51 0) (8 * (fld c.words 3 9 0 + 1))

/-- The checks of an ADD's words (R661). -/
def addChecks (c : CmdInst) (_ : List RecRead) : Checks :=
  let ws := c.words
  { reserved := fld ws 2 63 52 != 0 || fld ws 3 15 10 != 0 || fld ws 3 63 24 != 0 || [4, 5, 6, 7].any fun i => fld ws i 63 0 != 0
    field := fld ws 2 51 0 % 64 != 0 }

/-- MEDIA_ADD (R661 to R664): it does not start until the sample table can take its samples. -/
def execMediaAdd (cc : Nat) (s : State) : Host.Outcome State Fault Refusal :=
  .next (s.runMedia cc (fun c => c.op == 0x50 && c.sub == 1 && s.tableRoom (s.ctxPart cc) (fld c.words 3 9 0 + 1)) (fun _ _ => []) (fun t c => some (t.readList64 (t.whoMedia cc) c)) addChecks
    fun t e _ list =>
      let c := e.cmd
      let n := fld c.words 3 9 0 + 1
      let b := fld c.words 3 23 16
      let rs := (List.range n).map (recordAt list)
      let t1 := t.touchRecord (t.whoMedia cc) (fld c.words 2 51 0) (64 * n)
      match firstBad (t.sampleCheck (t.ctxPart cc) (t.batch b)) smpSlot 0 [] rs with
      | some (i, f, a) => t1.rejectMedia e f i a
      | none => (rs.foldl (fun u r => u.enrol b none r) t1).endMedia e { tiles := n })

/-! Resolving slots. -/

/-- A patch without the bytes of uncorrectable sectors that it writes only in part (R898), and whether there are any. -/
def State.writable (s : State) (p : Patch) : Patch × Bool :=
  let bad := (patchSectors p).filter fun k => s.badSector (32 * k) && !(patchFull p k)
  (p.filter fun e => !bad.contains (e.1 / 32), !bad.isEmpty)

/-- A patch of bytes. -/
def bytesPatch (a : Nat) (bs : List Byte) : Patch := bs.zipIdx.map fun x => (a + x.2, (x.1.toNat, 255))

/-- The zero-fill of a slot (R682). -/
def State.zeroFill (s : State) (x : Batch) (i : Nat) : State :=
  let d := x.desc
  let z := (convElem d.fmt 0 .nearest 0 Val.pos0).1
  let es : List OutElem := ((List.range (d.n0 * d.n1 * d.n2)).map fun j => { d.at j with i3 := i }).map fun ix => { ix := ix, code := z, scale := none, kind := .none }
  s.putPatch x.who d.hint (s.writable (patchOf d es)).1

/-- A slot resolved (R680, R682, R692): all but VALID are zero-filled; the counters, the INFO fault, and the time at which the last slot resolves. -/
def State.resolve (s : State) (b i : Nat) (r : SlotRes) (reason : Nat) : State :=
  match s.batch b with
  | none => s
  | some x =>
    if (x.slot i).resolved || x.slots.length ≤ i then s
    else
      let y := x.updSlot i fun z => { z with res := r, reason := reason, phase := 0 }
      let z := if y.slots.all BatchSlot.resolved then { y with resolvedAt := s.now } else y
      let s1 := s.putBatch z
      let info := fun (t : State) (c : Code) => t.recordLimited { code := c, part := some x.part, ctx := some x.ctx, unit := { kind := 16, inst := x.part } } x.part
      match r with
      | .invalid => info ((s1.zeroFill x i).odInc (0x5010 + x.part) 2) .mediaSampleInvalid
      | .late => info ((s1.zeroFill x i).odInc (0x5010 + x.part) 3) .mediaSampleLate
      | .valid | .empty | .admitted => s1

/-- What happens to a slot at its deadline (R680, R684): its PASSED bit is set; a WAIT slot is counted and MEDIA.WAIT_PAST raised, a MASK slot resolves LATE. -/
def State.passDeadline (s : State) (b i : Nat) : State :=
  match s.batch b with
  | none => s
  | some x =>
    let y := x.slot i
    if y.resolved || x.slots.length ≤ i || y.passed then s
    else
      let s1 := s.putBatch (x.updSlot i fun z => { z with passed := true })
      if y.wait then (s1.odInc (0x5010 + x.part) 4).recordLimited { code := .mediaWaitPast, part := some x.part, ctx := some x.ctx, unit := { kind := 16, inst := x.part } } x.part
      else s1.resolve b i .late (if y.res == .empty then 6 else 0)

/-- A slot brought up to the present time: past its deadline, what happens there has happened (R680, R684, R685). -/
def State.bringSlot (s : State) (b i : Nat) : State :=
  match s.batch b with
  | some x => if (x.slot i).deadline < s.now then s.passDeadline b i else s
  | none => s

/-- MEDIA_CLOSE (R661, R680, R685). -/
def execMediaClose (cc : Nat) (s : State) : Host.Outcome State Fault Refusal :=
  .next (s.runMedia cc (fun c => c.op == 0x50 && c.sub == 2) (fun _ _ => []) (fun _ _ => none)
    (fun c _ => { reserved := fld c.words 2 63 8 != 0 || [3, 4, 5, 6, 7].any fun i => fld c.words i 63 0 != 0 })
    fun t e _ _ =>
      let b := fld e.cmd.words 2 7 0
      match t.batch b with
      | some x =>
        if x.part != t.ctxPart cc then t.endMedia e {}
        else ((List.range x.slots.length).foldl (fun u i => (u.bringSlot b i).resolve b i .late (if (x.slot i).res == .empty then 6 else 5)) t).endMedia e {}
      | none => t.endMedia e {})

/-! Work (R678). -/

/-- Whether sample a comes before sample b: LIVE, PRIORITY, deadline, admission, slot. -/
def workBefore (a b : BatchSlot) (sa sb : Nat) : Bool :=
  let k := fun (x : BatchSlot) (i : Nat) => [if smpLive x.words then 0 else 1, 3 - smpPrio x.words, x.deadline, x.order, i]
  decide (k a sa < k b sb)

/-- Whether a slot may still resolve VALID now (R680, R684). -/
def State.inTime (s : State) (y : BatchSlot) : Bool := y.wait || decide (s.now ≤ y.deadline)

/-- The waiting samples of all batches that satisfy a test: handle and slot; one past its deadline waits no more. -/
def State.waitingSamples (s : State) (f : Batch → BatchSlot → Bool) : List (Nat × Nat × BatchSlot) :=
  s.media.batches.flatMap fun x => x.slots.zipIdx.filterMap fun y => if y.1.res == .admitted && y.1.stream.isNone && s.inTime y.1 && f x y.1 then some (x.handle, y.2, y.1) else none

/-- The sample that comes first. -/
def firstSample (l : List (Nat × Nat × BatchSlot)) : Option (Nat × Nat × BatchSlot) :=
  l.foldl (fun m x => match m with | none => some x | some y => if workBefore x.2.2 y.2.2 x.2.1 y.2.1 then some x else some y) none

/-- Decoders, audio engines and geometry units (R679), as SAMPLE_DECODE_START numbers them. -/
def engineCount (k : Nat) : Nat := if k = 0 then 32 else if k = 1 then 8 else if k = 2 then 1 else 0

/-- Whether a sample waits for an engine of a kind. -/
def waitsFor (k : Nat) (x : Batch) (y : BatchSlot) : Bool :=
  let sound := batchKind x.words == 1
  if k = 0 then !sound && y.phase == 0 else if k = 1 then sound && y.phase == 0 else !sound && y.phase == 1

/-- A field of what the bitstream says of a picture (log entry 9). -/
def Pic.f (p : Pic) (k : Nat) : Nat := nth p.info k 0

/-- Slots routed from a context, admitted and not resolved: handle, slot and what it holds. -/
def State.routes (s : State) (sc : Nat) : List (Nat × Nat × BatchSlot) :=
  s.media.batches.flatMap fun b => b.slots.zipIdx.filterMap fun y => if y.1.res == .admitted && y.1.stream == some sc then some (b.handle, y.2, y.1) else none

/-- The output index a route names (R707). -/
def routeOut (y : BatchSlot) : Nat := fld y.words 0 31 0

/-- Whether a picture may be taken by the geometry and colour unit: output, reconstructed, whole, and not taken yet (R709). -/
def Pic.toShape (p : Pic) : Bool := p.out && p.phase == 2 && p.broken == 0 && !p.shaped

/-- The slots routed from a context that wait for one of its pictures. -/
def State.routesTo (s : State) (sc : Nat) (p : Pic) : List (Nat × Nat × BatchSlot) :=
  (s.routes sc).filter fun y => routeOut y.2.2 + 1 == p.f 1 && s.inTime y.2.2

/-- The samples that wait for an engine; video frames wait for the geometry and colour unit with the still images (R678). -/
def State.waitingFor (s : State) (k : Nat) : List (Nat × Nat × BatchSlot) :=
  s.waitingSamples (waitsFor k) ++ (if k = 2 then s.media.streams.flatMap fun x => (x.pics.filter Pic.toShape).flatMap (s.routesTo x.num) else [])

/-- Whether an engine is at work on a sample. -/
def State.engineBusy (s : State) (k i : Nat) : Bool :=
  s.media.batches.any fun x => x.slots.any fun y => y.res == .admitted && y.stream.isNone && s.inTime y && y.engine == i
    && (if k = 0 then batchKind x.words == 0 && y.phase == 1 else if k = 1 then batchKind x.words == 1 && y.phase == 2 else batchKind x.words == 0 && y.phase == 2)

/-- SAMPLE_DECODE_START (R678): the engine's next sample; one whose source cannot be read is INVALID at once (R680). A video frame that comes first at the geometry and colour unit is taken by ROUTED_PICTURE_SHAPE. -/
def execSampleDecodeStart (engine inst : Nat) (s : State) : Host.Outcome State Fault Refusal :=
  .next (if engineCount engine ≤ inst || s.engineBusy engine inst || s.unitOut (mediaUnit engine inst) || !s.ready then s
    else match firstSample (s.waitingFor engine) with
      | none => s
      | some (b, i, y) =>
        match s.batch b with
        | none => s
        | some x =>
          if y.stream.isSome then s else
          let a := smpSrc y.words
          let n := smpLen y.words
          if engine = 2 then s.putBatch (x.updSlot i fun z => { z with phase := 2, engine := inst })
          else match s.loadFault x.who a n with
            | some f => ((s.countFault f.1 f.2).resolve b i .invalid 3).stopOwed
            | none => (s.putBatch (x.updSlot i fun z => { z with phase := if engine = 1 then 2 else 1, engine := inst })).touch x.who 0 a n)

/-- The elements a decoded sample gives its slot, converted (R672, R677). -/
def State.sampleElems (s : State) (x : Batch) (i : Nat) (ws : List Word) : List OutElem :=
  let bs := s.bytes (smpSrc ws) (smpLen ws)
  let d := x.desc
  (encodeElems d .nearest (if codecSound (smpCodec ws) then shapeSound (smpCodec ws) bs ws d i else shapeImage ws (stillPicture (smpCodec ws) bs) d i) {}).1

/-- Elements written into a slot, which resolves VALID; INVALID where a sector of it cannot be merged (R680, R898). -/
def State.fillSlot (s : State) (x : Batch) (i : Nat) (es : List OutElem) : State :=
  let p := patchOf x.desc es
  if (s.writable p).2 then s.resolve x.handle i .invalid 3
  else ((s.putPatch x.who x.desc.hint p).putBatch { x with ctr := es.foldl (fun k e => k.bump e.kind) x.ctr }).resolve x.handle i .valid 0

/-- Whether the decoder and the chain can take a sample (R667, R676). -/
def State.sampleFits (s : State) (x : Batch) (ws : List Word) : Bool :=
  let f := Config.sampleInfo (smpCodec ws) (s.bytes (smpSrc ws) (smpLen ws))
  f 0 == 1 && (!codecSound (smpCodec ws) || audMix ws == 1 || f 1 == x.desc.n2)

/-- The outcome of a sample applied to its slot: one past its deadline meets its deadline first (R680, R684). -/
def State.sampleDone (s : State) (b sl : Nat) (f : State → Batch → BatchSlot → State) : State :=
  let s1 := s.bringSlot b sl
  match s1.batch b with
  | none => s1
  | some x => if (x.slot sl).res == .admitted && (x.slot sl).stream.isNone then f s1 x (x.slot sl) else s1

/-- SAMPLE_VALID (R680). -/
def execSampleValid (b sl : Nat) (s : State) : Host.Outcome State Fault Refusal :=
  .next (s.sampleDone b sl fun t x y => if y.phase == 2 && t.sampleFits x y.words then t.fillSlot x sl (t.sampleElems x sl y.words) else t)

/-- SAMPLE_INVALID (R680): REASON 1 to 4 (R690), of which 4 is a clip whose channels are kept. -/
def execSampleInvalid (b sl reason : Nat) (s : State) : Host.Outcome State Fault Refusal :=
  .next (s.sampleDone b sl fun t x y =>
    let may := reason == 1 || reason == 2 || reason == 3 || (reason == 4 && batchKind x.words == 1 && audMix y.words == 0)
    if decide (1 ≤ y.phase) && may then t.resolve b sl .invalid reason else t)

/-- SLOT_DEADLINE (R680, R684). -/
def execSlotDeadline (b sl : Nat) (s : State) : Host.Outcome State Fault Refusal :=
  .next (match s.batch b with
    | none => s
    | some x =>
      if (x.slot sl).resolved || x.slots.length ≤ sl || (x.slot sl).passed then s
      else (s.advance (x.slot sl).deadline).passDeadline b sl)

/-! Completion (R686 to R690). -/

/-- How many slots of a batch resolved so. -/
def Batch.countRes (x : Batch) (r : SlotRes) : Nat := (x.slots.filter fun y => y.res == r).length

/-- The header of the validity mask (R689). -/
def maskHeader (x : Batch) : List Nat :=
  [ x.opened, x.resolvedAt,
    x.countRes .valid + x.countRes .invalid * 2 ^ 16 + x.countRes .late * 2 ^ 32 + x.slots.length * 2 ^ 48,
    x.handle + x.part * 2 ^ 8, sat32 x.ctr.sat + sat32 x.ctr.flush * 2 ^ 32, sat32 x.ctr.zero + sat32 x.ctr.nonfin * 2 ^ 32, 0, 0 ]

/-- The status byte of a slot (R690). -/
def statusByte (y : BatchSlot) : Nat :=
  (match y.res with | .invalid => 1 | .late => 2 | .valid | .empty | .admitted => 0) + (if y.passed then 4 else 0) + y.reason % 16 * 16

/-- Bytes the media die writes, but for parts of uncorrectable sectors (R898). -/
def State.mediaPut (s : State) (w : Who) (a : Nat) (bs : List Byte) : State := s.putPatch w 0 (s.writable (bytesPatch a bs)).1

/-- BATCH_COMPLETE (R686): the arrays of the mask, its header, then the fence; the handle is then free. -/
def execBatchComplete (b : Nat) (s : State) : Host.Outcome State Fault Refusal :=
  .next (match s.batch b with
    | none => s
    | some x =>
      if !(x.slots.all BatchSlot.resolved) then s
      else
        let m := batchMask x.words
        let n := x.slots.length
        let s1 := s.mediaPut x.who (m + 64) (x.slots.flatMap fun y => leBytes 2 (if y.res == .valid then 0x3F80 else 0))
        let s2 := s1.mediaPut x.who (m + 64 + 64 * ceilDiv n 32) (x.slots.map fun y => BitVec.ofNat 8 (statusByte y))
        let s3 := s2.mediaPut x.who m (bytesOfWords ((maskHeader x).map (BitVec.ofNat 64)))
        let v := fld x.words 5 63 0
        let s4 := if batchFenceOn x.words then s3.odSetN (0x2D00 + x.part) (batchFence x.words) (min (s3.odN (0x2D00 + x.part) (batchFence x.words) + v) (2 ^ 64 - 1)) else s3
        s4.withMedia fun k => { k with batches := k.batches.filter fun y => y.handle != b })

end Sys2Proof.Machine
end

