-- ==== Sys2Proof/Machine/Restart.lean ====
section
/-! DEFINITION. What a loss of power or a module reset takes away and what it leaves (R260, R314, R355, R357, R362, R788, R800, R814, R821, R855, R859, R864, R866, R880, R891). -/
namespace Sys2Proof.Machine

/-- A persistent entry as the store holds it (R800). -/
def State.nvN (s : State) (ix sub : Nat) : Nat := (mapGet odDefault s.nv (odKey ix sub)).toNat

/-- Whether an address lies in host memory (R17), which no event of the module clears. -/
def hostCell (c : Host.Cell) : Bool := decide (0x10 ≤ region c.1) && decide (region c.1 < 0x20)

/-- The contents of HBM and of the Cellar lost, and with them the Larders and the crate caches; lost bytes read as log entry 3 says, and a sector beyond correction stays one until it is written whole (R898). -/
def State.loseMemory (s : State) : State :=
  { s with
    mem := s.mem.filter fun c => region c.1 != 0 && region c.1 != 1
    larder := {}
    hbm := { s.hbm with served := [] }
    tier := { s.tier with slots := [] } }

/-- The contents of every memory outside the hub die and the Attic lost: HBM, the Cellar and the scratchpads. -/
def State.loseAll (s : State) : State :=
  let t := s.loseMemory
  { t with mem := t.mem.filter fun c => region c.1 != 8 }

/-- A core whose stage is switched off. -/
def darkCore (k : Core) : Core := { k with window := [], exec := none, switching := false, st := if k.st == .unavailable then .unavailable else .retention }

/-- The links of port dies that are switched off. -/
def State.dropLinks (s : State) : State :=
  (List.range 36).foldl (fun t l => if (t.link l).st == .disabled || (t.link l).st == .isolated || (t.link l).st == .down then t else t.linkLost l) s

/-- Every stage but the hub die's switched off (R869, R880): the commands there end without records, memories lose their contents. -/
def State.darken (s : State) : State :=
  let s1 := s.loseMemory.dropLinks
  { s1 with
    mem := s1.mem.filter fun c => region c.1 != 8
    cores := s1.cores.map darkCore
    takers := []
    upd := List.replicate 4 {}
    coll := { barriers := s1.coll.barriers, units := s1.coll.units }
    media := {}
    inbox := []
    dones := []
    pwr := { s1.pwr with corePower := [], islands := s1.pwr.islands.zipIdx.map fun (x, i) => if i < 42 then {} else x } }

/-- Every context but those ABSENT halted (R880). -/
def State.haltAll (s : State) : State :=
  (List.range 256).foldl (fun t cc => if (t.ctx cc).cond == .absent then t else t.setCond cc .halted) s

/-- A firmware type as a reset finds it (R813, R814): its slots, its fuses and its preference. -/
def resetFirmware (f : Firmware) : Firmware := { f with runningB := false, version := 0, svn := 0, staging := .empty }

/-- KIND, UNIT and LOCATION of an entry (R840). -/
def repKind (w : Word) : Nat := bits w.toNat 63 60
def repUnit (w : Word) : Nat := bits w.toNat 59 48
def repLoc (w : Word) : Nat := bits w.toNat 47 0

/-- The Larder ways that stay withheld (R842): those of a die with a KIND 6 entry, but for one that is only in a slice. -/
def State.waysOut (s : State) : List TestUnit :=
  s.diag.withheld.filter fun u => u.kind == 3 && !(s.diag.slices.any fun x => x.1 == u) && s.diag.repair.any fun w => repKind w == 6 && repUnit w == u.inst / 16

/-- The persistent entries read again from the store's records (R364). -/
def State.reload (s : State) : State := { s with nv := nvApply s.flash }

/-- The machine as a module reset leaves it, at the beginning of stage 3 (R864, R891), with the cause it records: what flash, fuses and the flight recorder hold, the levels on the module's pins, and host memory stay; an Attic write under way is cut off (R360). -/
def State.restart (s0 : State) (cause : Nat) : State :=
  let s := s0.cutWrites.reload
  { State.reset with
    pending := s.pending
    mem := s.mem.filter hostCell
    od := s.nv
    nv := s.nv
    flash := s.flash
    hbm := { bad := s.hbm.bad, weak := s.hbm.weak }
    time := { frefOk := s.time.frefOk }
    tier := { records := s.tier.records, gen := s.tier.gen, turn := s.tier.turn, blocks := s.tier.blocks, opens := s.tier.opens, queue := s.tier.queue, spares := s.tier.spares }
    mgmt := { base := s.nvN 0x1100 2, manager := s.nvN 0x1100 3, port := s.nvN 0x1100 4, plca := s.nvN 0x1100 5, addrIn := s.mgmt.addrIn }
    sec := { fw := s.sec.fw.map resetFirmware, startups := s.sec.startups, nonces := s.sec.nonces + 1, ownerCert := s.sec.ownerCert }
    diag := { repair := s.diag.repair, recorder := s.diag.recorder, recSeq := s.diag.recSeq, frozen := s.diag.frozen, cause := cause, withheld := s.waysOut }
    pwr := { mv := s.pwr.mv, limit := s.nvN 0xA000 4, tripSensors := s.pwr.tripSensors, resetHeld := s.pwr.resetHeld, inRangeSince := if 40000 ≤ s.pwr.mv && s.pwr.mv ≤ 60000 then some 0 else none }
    host := { perst := s.host.perst, offCellar := s.nvN 0x3800 1, offHbm := s.nvN 0x3800 3 }
    draws := []
    out := s.out }

/-- The module without power (R866): flash alone survives, the Attic with it. -/
def State.off (s : State) (hubTrip : Bool) : State :=
  let t := s.restart 0
  { t with
    diag := { repair := s.diag.repair, withheld := s.waysOut }
    pwr := { on := false, mv := s.pwr.mv, stage := 0, hubTrip := hubTrip, resetHeld := s.pwr.resetHeld, islands := List.replicate 43 {}, inRangeSince := none } }

end Sys2Proof.Machine
end

