-- ==== Sys2Proof/Machine/Power.lean ====
section
/-! DEFINITION. Power and heat: sensors and twins (R836), junction and stack samples (R305 to R309, R879 to R882), the power controller (R885, R886), island voltages (R871, R872, R875, R876), coolant (R884), the input (R866 to R869), stage faults (R897) and alerts (R894).
Sensors are numbered by the model (log entry 31): islands 0 to 42, NAND stacks 43 to 50, HBM stacks 51 to 66, coolant inlet 67 and outlet 68, uncores VU0 to VU7 69 to 76. -/
namespace Sys2Proof.Machine

/-- The first multiple of an interval at or after the present time. -/
def State.tickOf (s : State) (n : Nat) : Nat := ceilDiv s.now n * n

/-- A number of degrees Celsius in units of 1/16 °C. -/
def deg (c : Int) : Int := 16 * c

/-- One sensor's disagreements with its twin counted (R836): those in a row. -/
def State.countTwin (s : State) (sensor n : Nat) : State :=
  s.withDiag fun d => { d with twin := (if n = 0 then [] else [(sensor, n)]) ++ d.twin.filter fun x => x.1 != sensor }

/-- A sensor and its twin compared (R836): BIST.SENSOR at the third disagreement in a row. -/
def State.checkTwin (s : State) (sensor : Nat) (t twin : Int) : State :=
  let n := if 32 < (t - twin).natAbs then ((s.diag.twin.find? fun x => x.1 == sensor).map Prod.snd).getD 0 + 1 else 0
  let s1 := s.countTwin sensor n
  if 3 ≤ n && !(s.diag.badSensors.contains sensor) then
    (s1.withDiag fun d => { d with badSensors := sensor :: d.badSensors }).raise { code := .bistSensor, unit := { kind := 13, inst := sensor }, detail0 := 5 * 2 ^ 56 }
  else s1

/-- The reading of a sensor: the higher of the two once the twins have disagreed (R836). -/
def State.reading (s : State) (sensor : Nat) (t twin : Int) : Int := if s.diag.badSensors.contains sensor then max t twin else t

/-! Thermal trips. -/

/-- A hardware thermal trip outside the hub die (R880): a record that a command of the hub die's queues ends with reaches no memory that is off. -/
def State.trip (s : State) (sensor : Nat) : State :=
  let s1 := s.darken.withPwr fun x => { x with tripped := true, tripSensors := if x.tripSensors.contains sensor then x.tripSensors else sensor :: x.tripSensors }
  ((s1.alert 0).raise { code := .pwrThermalTrip, unit := { kind := 13, inst := sensor } }).haltAll.loseAll

/-- THERMAL_TRIP (R880): once, until a module reset. -/
def execThermalTrip (sensor : Nat) (s : State) : Host.Outcome State Fault Refusal :=
  .next (if s.pwr.on && !s.pwr.tripped && sensor != 42 then s.trip sensor else s)

/-- HUB_THERMAL_TRIP (R881). -/
def execHubThermalTrip (s : State) : Host.Outcome State Fault Refusal := .next (if s.pwr.on then s.off true else s)

/-! Junction temperatures (R879, R911). -/

/-- Whether a ceiling may change now (R307, R879). -/
def mayStep (now : Nat) (at_ : Option Nat) : Bool :=
  match at_ with
  | some t => decide (t + 1000000 ≤ now)
  | none => true

/-- A ceiling 25 mV lower, imposed if there was none. -/
def lowered (perf c : Nat) : Nat := max 600 ((if c = 0 then perf else c) - 25)

/-- A ceiling 25 mV higher, lifted when it reaches the performance state. -/
def lifted (perf c : Nat) : Nat := if perf ≤ c + 25 then 0 else c + 25

/-- The unit a junction record names (R912). -/
def islandUnit (i : Nat) : FaultUnit := if i < 32 then { kind := 2, inst := i } else { kind := 17, inst := i - 32 }

/-- The junction ceiling after a sample (R879). -/
def State.junctionCeiling (s : State) (i : Nat) (t : Int) : State :=
  let x := s.island i
  if i = 42 || !(mayStep s.now x.ceilAt) then s
  else if deg 105 ≤ t then
    (let c := lowered (s.perfMv i) x.ceiling
     let s1 := (if c = x.ceiling then s else s.updIsland i fun y => { y with ceiling := c, ceilAt := some s.now }).alert 4
     if x.ceiling = 0 then s1.raise { code := .pwrJunctionHot, unit := islandUnit i } else s1)
  else if t < deg 100 && x.ceiling != 0 then s.updIsland i fun y => { y with ceiling := lifted (s.perfMv i) x.ceiling, ceilAt := some s.now }
  else s

/-- An island's sample taken (R879, R911). -/
def State.sampleIsland (s : State) (i : Nat) (t0 twin : Int) : State :=
  let s1 := s.checkTwin i t0 twin
  let t := s1.reading i t0 twin
  let s2 := s1.updIsland i fun x => { x with temp := t, sampled := true }
  let s3 := s2.junctionCeiling i t
  if deg 115 ≤ t then (if i = 42 then s3.off true else s3.trip i) else s3

/-- A NAND stack's sample (R879): Attic writes to it pause and resume. -/
def State.sampleNand (s : State) (k : Nat) (t0 twin : Int) : State :=
  let s1 := s.checkTwin (43 + k) t0 twin
  let t := s1.reading (43 + k) t0 twin
  if deg 85 ≤ t then s1.withTier fun x => { x with paused := if x.paused.contains k then x.paused else k :: x.paused }
  else if t < deg 80 then s1.withTier fun x => { x with paused := x.paused.filter (· != k) }
  else s1

/-- A sample of VU k, the uncore of compute die k: its junction temperature acts only through the trip (R879). -/
def State.sampleUncore (s : State) (k : Nat) (t0 twin : Int) : State :=
  let s1 := s.checkTwin (69 + k) t0 twin
  if deg 115 ≤ s1.reading (69 + k) t0 twin then s1.trip (69 + k) else s1

/-- Whether the uncore of a compute die is powered: its stage has not been switched off, nor have the quarter-dies that depend on it. -/
def State.uncoreOn (s : State) (k : Nat) : Bool := !(s.pwr.stagesOff.contains (32 + k)) && (List.range 4).any fun j => (s.island (4 * k + j)).power != 0

/-- JUNCTION_SAMPLE (R879): an island that is powered, or a NAND stack or an uncore by its sensor number. -/
def execJunctionSample (isl : Nat) (t twin : Int) (s : State) : Host.Outcome State Fault Refusal :=
  let s1 := s.advance (s.tickOf 50000)
  .next (if !s.pwr.on then s
    else if isl < 43 then (if (s.island isl).power != 0 then s1.sampleIsland isl t twin else s)
    else if isl < 51 && (s.island 41).power != 0 then s1.sampleNand (isl - 43) t twin
    else if 69 ≤ isl && isl < 77 && s.uncoreOn (isl - 69) then s1.sampleUncore (isl - 69) t twin
    else s)

/-! HBM stacks (R305 to R309). -/

/-- The higher performance-state voltage of the two quarter-dies beneath a stack. -/
def State.stackPerf (s : State) (st : Nat) : Nat := max (s.perfMv (2 * st)) (s.perfMv (2 * st + 1))

/-- A stack's ceiling set, with its flight-recorder entry (R856). -/
def State.setStackCeiling (s : State) (st c : Nat) : State :=
  let old := (s.stack st).ceiling
  if old = c then s else (s.updStack st fun x => { x with ceiling := c, ceilAt := some s.now }).flight 5 st old c none

/-- The stack's ceiling after a sample (R306, R307, R309). -/
def State.stackCeiling (s : State) (st : Nat) (t : Int) : State :=
  let x := s.stack st
  if !(mayStep s.now x.ceilAt) then s
  else if deg 95 ≤ t then
    (let s1 := (s.setStackCeiling st (lowered (s.stackPerf st) x.ceiling)).alert 4
     if x.ceiling = 0 then s1.raise { code := .memStackHot, unit := { kind := 5, inst := st } } else s1)
  else if t < deg 92 && x.ceiling != 0 then s.setStackCeiling st (lifted (s.stackPerf st) x.ceiling)
  else s

/-- Whether a stack's refresh is doubled after a sample (R306). -/
def refreshAfter (old : Bool) (t : Int) : Bool := decide (deg 85 ≤ t) || (old && decide (deg 82 ≤ t))

/-- The effective temperature offset of a stack (R809, R810). -/
def State.stackOffset (s : State) (st : Nat) : Int := toSigned 16 (s.odN (0x7010 + st) 1 % 65536) + toSigned 16 (s.odN (0x7810 + st) 1 % 65536)

/-- A stack's sample taken (R306). -/
def State.sampleStack (s : State) (st : Nat) (t0 twin : Int) : State :=
  let s1 := s.checkTwin (51 + st) t0 twin
  let t := s1.reading (51 + st) t0 twin + s1.stackOffset st
  let s2 := (s1.updStack st fun x => { x with temp := t, doubled := refreshAfter x.doubled t }).stackCeiling st t
  if deg 105 ≤ t then s2.trip (51 + st) else s2

/-- Whether a stack is sampled: while a quarter-die beneath it is powered (R305). -/
def State.stackOn (s : State) (st : Nat) : Bool := (s.island (2 * st)).power != 0 || (s.island (2 * st + 1)).power != 0

/-- STACK_SAMPLE (R306). -/
def execStackSample (st : Nat) (t twin : Int) (s : State) : Host.Outcome State Fault Refusal :=
  .next (if st < 16 && s.pwr.on && s.stackOn st then (s.advance (s.tickOf 50000)).sampleStack st t twin else s)

/-! The power limit (R885, R886). -/

/-- The highest performance-state voltage of any powered island. -/
def State.topPerf (s : State) : Nat :=
  (List.range 43).foldl (fun m i => if (s.island i).power = 0 then m else max m (s.perfMv i)) 600

/-- PWR.CURRENT_LIMIT raised. -/
def State.raiseLimit (s : State) : State :=
  ((s.withPwr fun x => { x with limitAt := s.now }).alert 4).raise { code := .pwrCurrentLimit, unit := { kind := 0, inst := 0 } }

/-- The module ceiling after 1 ms with an average power, against the limit, both in mW (R885, R886). -/
def State.moveCeiling (s : State) (avg limit : Nat) : State :=
  let c := s.pwr.ceiling
  if limit < avg then
    (if c = 0 then (s.withPwr fun x => { x with ceiling := max 600 (s.topPerf - 25) }).raiseLimit
     else if 600 < c then s.withPwr fun x => { x with ceiling := max 600 (c - 25) }
     else if s.pwr.limitAt + 1000000000 ≤ s.now then s.raiseLimit
     else s)
  else if c != 0 && avg * 100 ≤ limit * 95 then s.withPwr fun x => { x with ceiling := lifted s.topPerf c }
  else s

/-- The end of 1 ms: the limit that 0xA000/04 holds takes effect, capped at 100 A (R885). -/
def State.powerTick (s : State) (avgMw ma : Nat) : State :=
  let s1 := s.withPwr fun x => { x with ma := ma, watts := avgMw / 1000, limit := s.odN 0xA000 4 }
  s1.moveCeiling avgMw (min (1000 * s1.pwr.limit) (100 * s1.pwr.mv))

/-- POWER_CONTROLLER_TICK (R885). -/
def execPowerControllerTick (avgMw ma : Nat) (s : State) : Host.Outcome State Fault Refusal :=
  .next (if s.pwr.on then (s.advance (s.tickOf 1000000)).powerTick avgMw ma else s)

/-! Island voltages. -/

/-- One 25 mV step toward a voltage. -/
def stepMv (mv target : Nat) : Nat := if mv < target then min target (mv + 25) else max target (mv - 25)

/-- ISLAND_VOLTAGE_STEP (R871): one step, 10 µs after the last. -/
def execIslandVoltageStep (isl : Nat) (s : State) : Host.Outcome State Fault Refusal :=
  .next (
    let x := s.island isl
    if isl < 43 && x.power == 2 && x.mv != s.targetMv isl then
      let s1 := if x.stepAt = 0 then s else s.advance (x.stepAt + 10000)
      s1.updIsland isl fun y => { y with mv := stepMv y.mv (s.targetMv isl), stepAt := s1.now }
    else s)

/-- Index of an island's entries (R896). -/
def islandIx (i : Nat) : Nat := if i < 32 then 0xA020 + i else 0xA040 + (i - 32)

/-- A write to an island's performance state (R875): VH refuses every value. -/
def State.writePerf (s : State) (i mv : Nat) : State × Nat :=
  if 43 ≤ i then (s, 1)
  else if i = 42 then (s, 2)
  else if mv < 600 || 850 < mv || mv % 25 != 0 then (s, 3)
  else (s.odSetN (islandIx i) 1 mv, 0)

/-- PERFORMANCE_STATE_WRITE (R875). -/
def execPerformanceStateWrite (isl mv : Nat) (s : State) : Host.Outcome State Fault Refusal :=
  answered (islandIx isl) 1 (s.odN (islandIx isl) 1) mv (s.writePerf isl mv)

/-- Whether the cores of a quarter-die hold no command and are in no slice (R876). -/
def State.quarterQuiet (s : State) (q : Nat) : Bool :=
  (List.range 12).all fun j => (coreCmds (s.core (12 * q + j))).isEmpty && (s.core (12 * q + j)).st != .selfTest

/-- When the last of a quarter-die's cores ended a command. -/
def State.lastExecOf (s : State) (q : Nat) : Nat := (List.range 12).foldl (fun m j => max m (s.core (12 * q + j)).lastExec) 0

/-- A quarter-die put into retention: 450 mV, its idle cores in STATE 0 (R870, R876). -/
def State.retain (s : State) (q : Nat) : State :=
  let s1 := s.updIsland q fun x => { x with power := 1, mv := 450 }
  (List.range 12).foldl (fun t j => t.updCore (12 * q + j) fun k => if k.st == .idle then { k with st := .retention } else k) s1

/-- QUARTER_RETENTION_ENTRY (R876). -/
def execQuarterRetentionEntry (q : Nat) (s : State) : Host.Outcome State Fault Refusal :=
  .next (if q < 32 && (s.island q).power == 2 && s.quarterQuiet q then (s.advance (s.lastExecOf q + 1000 * s.odN 0xA000 6)).retain q else s)

/-! Coolant (R884). -/

/-- Whether coolant temperatures are out of limits. -/
def coolantOut (tin tout : Int) : Bool := decide (deg 45 < tin) || decide (deg 18 < tout - tin)

/-- A coolant measurement taken (R884). -/
def State.coolant (s : State) (tin tout : Int) : State :=
  let bad := coolantOut tin tout
  let p := s.pwr
  let since := p.coolBad.getD s.now
  let good := p.coolGood.getD s.now
  let armed := p.coolArmed || (!bad && decide (good + 10000000000 ≤ s.now))
  let s1 := s.withPwr fun x => { x with
    coolIn := tin
    coolOut := tout
    coolBad := if bad then some since else none
    coolGood := if bad then none else some good
    coolArmed := armed }
  if bad && armed && decide (since + 1000000000 ≤ s.now) then
    ((s1.withPwr fun x => { x with coolArmed := false }).alert 5).raise { code := .pwrCoolant, unit := { kind := 13, inst := if deg 45 < tin then 67 else 68 } }
  else s1

/-- COOLANT_SAMPLE (R884). -/
def execCoolantSample (tin tout : Int) (s : State) : Host.Outcome State Fault Refusal :=
  .next (if s.pwr.on then (s.advance (s.tickOf 100000000)).coolant tin tout else s)

/-! The input. -/

/-- Whether the input lies within 40 V to 60 V (R866). -/
def inputGood (mv : Nat) : Bool := decide (40000 ≤ mv) && decide (mv ≤ 60000)

/-- P50V_ON (R866): start-up begins at stage 1 with an empty flight recorder. -/
def execP50vOn (mv : Nat) (s : State) : Host.Outcome State Fault Refusal :=
  .next (if !s.pwr.on && !s.pwr.hubTrip && decide (38000 < mv) then
      let t := s.off false
      { t with
        pwr := { mv := mv, stage := 1, alert := if inputGood mv then 0 else 4,  limit := s.nvN 0xA000 4, resetHeld := s.pwr.resetHeld, islands := List.replicate 43 {}, inRangeSince := if 40000 ≤ mv && mv ≤ 60000 then some 0 else none } }
    else s)

/-- An input outside 40 V to 60 V (R868). -/
def State.inputRange (s : State) (mv : Nat) : State :=
  let armed := s.pwr.rangeArmed || (match s.pwr.inRangeSince with | some t => decide (t + 1000000000 ≤ s.now) | none => false)
  let s1 := (s.withPwr fun x => { x with mv := mv, inRangeSince := none, rangeArmed := false, inputLost := false }).alert 2
  if armed then s1.raise { code := .pwrInputRange, unit := { kind := 0, inst := 0 } } else s1

/-- P50V_OUT_OF_RANGE (R868). -/
def execP50vOutOfRange (mv : Nat) (s : State) : Host.Outcome State Fault Refusal :=
  .next (if s.pwr.on && decide (38000 < mv) && decide (mv < 62000) && !(inputGood mv) then s.inputRange mv else s)

/-- Every quarter-die and every other clockless island lowered to retention (R869). -/
def State.lowerIslands (s : State) : State :=
  { s with pwr := { s.pwr with islands := s.pwr.islands.zipIdx.map fun (x, i) => if i < 42 && x.power == 2 then { x with power := 1, mv := 450 } else x } }

/-- A loss of input (R869). -/
def State.inputLoss (s : State) (mv : Nat) : State :=
  let s1 := (s.withPwr fun x => { x with mv := mv, inputLost := true, inRangeSince := none }).alert 2
  let s2 := s1.raise { code := .pwrInputLoss, unit := { kind := 0, inst := 0 } }
  if 62000 ≤ mv then s2.darken else s2.lowerIslands.loseMemory

/-- P50V_INPUT_LOSS (R869). -/
def execP50vInputLoss (mv : Nat) (s : State) : Host.Outcome State Fault Refusal :=
  .next (if s.pwr.on && !s.pwr.inputLost && (decide (mv < 38000) || decide (62000 ≤ mv)) then s.inputLoss mv else s)

/-- P50V_RETURN_TO_RANGE (R868, R869): the islands that R869 lowered rise again; a quarter-die rises when a command reaches it. -/
def execP50vReturnToRange (mv : Nat) (s : State) : Host.Outcome State Fault Refusal :=
  .next (if s.pwr.on && inputGood mv && !(inputGood s.pwr.mv) then
      let s1 := s.withPwr fun x => { x with mv := mv, inRangeSince := some s.now, inputLost := false }
      (List.range 10).foldl (fun t n => t.updIsland (32 + n) fun x => if x.power = 1 then { x with power := 2, mv := s1.targetMv (32 + n) } else x) s1
    else s)

/-- P50V_OFF (R866, R881). -/
def execP50vOff (s : State) : Host.Outcome State Fault Refusal :=
  .next (if s.pwr.on || s.pwr.hubTrip then let t := s.off false; t.withPwr fun x => { x with mv := 0 } else s)

/-! Stages (R897). Numbered by the model (log entry 31): 0 to 31 VQ, 32 to 39 VU, 40 to 43 VP, 44 to 47 VC, 48 VM, 49 VA, 50 VH, 51 to 74 HBM, 75 to 90 LPDDR5X, 91 and 92 NAND, from 93 on the PHYs, two for each of compute dies 0 to 7, cellar dies 0 to 3, the attic die, port dies 0 to 3 and the hub die (127 and 128). -/

/-- The islands that go dark with a stage: its own, and a compute die's quarter-dies with its uncore. -/
def stageIslands (g : Nat) : List Nat :=
  if g < 32 then [g] else if g < 40 then [4 * (g - 32), 4 * (g - 32) + 1, 4 * (g - 32) + 2, 4 * (g - 32) + 3] else if g < 50 then [g - 8] else []

/-- A stage reported faulty and switched off with what depends on it (R897). -/
def State.faultStage (s : State) (g : Nat) : State :=
  let s1 := (s.withPwr fun x => { x with stagesOff := if x.stagesOff.contains g then x.stagesOff else g :: x.stagesOff }).alert 1
  let s2 := s1.raise { code := .pwrStage, unit := { kind := 14, inst := g } }
  ((stageIslands g).foldl (fun t i => t.updIsland i fun _ => {}) s2).loseMemory

/-- STAGE_FAULT (R897): a hub-die stage makes the module OFF. -/
def execStageFault (stage : Nat) (s : State) : Host.Outcome State Fault Refusal :=
  .next (if !s.pwr.on || s.pwr.stagesOff.contains stage then s else if stage = 50 || stage = 127 || stage = 128 then (s.faultStage stage).off true else s.faultStage stage)

/-! Alerts (R894). -/

/-- Whether the condition of an alert cause still holds (R894, R896). -/
def State.alertHolds (s : State) (i : Nat) : Bool :=
  match i with
  | 0 => s.pwr.tripped
  | 1 => !s.pwr.stagesOff.isEmpty
  | 2 => !(inputGood s.pwr.mv)
  | 3 => s.diag.moduleFault
  | 4 => s.pwr.ceiling != 0 || s.pwr.islands.any (fun x => x.ceiling != 0) || s.pwr.heats.any (fun x => x.ceiling != 0)
  | 5 => s.pwr.coolBad.isSome
  | _ => false

/-- A write of a mask to 0xA000/0A (R894). -/
def State.clearAlerts (s : State) (mask : Nat) : State × Nat :=
  if 256 ≤ mask then (s, 3)
  else (s.withPwr fun x => { x with alert := (List.range 8).foldl (fun a i => if bit mask i && !(s.alertHolds i) then setBit a i false else a) x.alert }, 0)

/-- ALERT_CLEAR (R894). -/
def execAlertClear (mask : Nat) (s : State) : Host.Outcome State Fault Refusal := answered 0xA000 10 0 mask (s.clearAlerts mask)

end Sys2Proof.Machine
end

