-- ==== Sys2Proof/Machine/SelfTest.lean ====
section
/-! DEFINITION. Self-test while the module runs: slices and their results (R826 to R835), HBM windows (R838), failures and the repair table (R839 to R846). -/
namespace Sys2Proof.Machine

/-- Class of a unit (R826): 0 logic and SRAM, 1 HBM, 2 analogue. -/
def unitClass (k : Nat) : Nat := if k = 4 then 1 else if k = 9 || k = 10 || k = 13 then 2 else 0

/-- Interval of a class in ns (0x8010/01 to /03). -/
def State.interval (s : State) (c : Nat) : Nat :=
  if c = 0 then s.odN 0x8010 1 * 3600000000000 else if c = 1 then s.odN 0x8010 2 * 3600000000000 else s.odN 0x8010 3 * 60000000000

/-- Whether a class is enabled (R832). -/
def State.classOn (s : State) (c : Nat) : Bool := bit (s.odN 0x8010 4) c

/-- Units that slices are started on by number (R826, R849): cores, Larder ways (die * 16 + way), update engines, reduction engines, media-die engines, the hub front end, lane PLLs (link * 5 + lane) and sensors. -/
def sliceUnit (u : TestUnit) : Bool :=
  let n := u.inst
  if u.kind = 1 then decide (n < 384) else if u.kind = 3 then decide (n < 128) else if u.kind = 6 || u.kind = 8 then decide (n < 4)
  else if u.kind = 11 then decide (n ≤ 256) else if u.kind = 12 then n == 0 else if u.kind = 10 then decide (n < 180) else u.kind == 13 && decide (n < 77)

/-- Whether a unit executes something (R827, R829). -/
def State.unitBusy (s : State) (u : TestUnit) : Bool :=
  if u.kind = 1 then (s.core u.inst).exec.isSome
  else if u.kind = 6 then (s.engine u.inst).exec.isSome
  else if u.kind = 8 then s.coll.runs.any (fun r => r.exec.cmd.port == u.inst) || s.coll.broadcasts.any fun e => e.cmd.port == u.inst
  else if u.kind = 11 then (if u.inst = 256 then !s.media.queue.isEmpty else s.engineBusy (u.inst / 64) (u.inst % 64))
  else if u.kind = 12 then !s.hub.isEmpty
  else false

/-- Whether a core may start a slice (R827, R828, R911): idle or in retention, and no other core of its quarter-die in one. -/
def State.coreTestable (s : State) (n : Nat) : Bool :=
  (s.shownSt n == .idle || s.shownSt n == .retention) && (s.island (n / 12)).sampled
    && !((List.range 12).any fun j => (s.core (12 * (n / 12) + j)).st == .selfTest)

/-- Whether a slice may start on a unit now. -/
def State.sliceMay (s : State) (u : TestUnit) : Bool :=
  s.ready && sliceUnit u && s.classOn (unitClass u.kind) && !(s.unitOut u) && !(s.unitBusy u) && (u.kind != 1 || s.coreTestable u.inst)

/-- The lines of a Larder way written back and dropped (R834). -/
def State.flushWay (s : State) (d w : Nat) : State := (s.larder.lines.filter fun x => x.die == d && x.way == w).foldl State.evict s

/-- A unit's pass begun, if none is under way (R828, R831). -/
def State.beginPass (s : State) (u : TestUnit) : State :=
  if s.diag.passes.any fun x => x.1 == u then s else s.withDiag fun d => { d with passes := (u, 0, s.now) :: d.passes }

/-- A slice begun (R827, R834, R877): a core is in STATE 5, a quarter-die leaves retention, a Larder way is withheld. -/
def State.startSlice (s : State) (u : TestUnit) : State :=
  let s1 := (s.withDiag fun d => { d with slices := d.slices ++ [(u, s.now)] }).beginPass u
  if u.kind = 1 then (s1.wake (u.inst / 12)).updCore u.inst fun k => { k with st := .selfTest }
  else if u.kind = 3 then (s1.flushWay (u.inst / 16) (u.inst % 16)).withDiag fun d => { d with withheld := u :: d.withheld }
  else s1

/-- SLICE_START (R827, R829). -/
def execSliceStart (u : TestUnit) (s : State) : Host.Outcome State Fault Refusal := .next (if s.sliceMay u then s.startSlice u else s)

/-! Results. -/

/-- A unit as a record names it (R848): a core with its logical and its physical number. -/
def State.unitOf (s : State) (u : TestUnit) : FaultUnit :=
  if u.kind = 1 then { kind := 1, inst := u.inst + (s.core u.inst).phys * 65536 } else { kind := u.kind, inst := u.inst }

/-- A failure's record (R839). -/
def State.bistRec (s : State) (c : Code) (u : TestUnit) (addr d0 d1 : Nat) : FaultRec :=
  { code := c, part := if u.kind = 1 then s.partOfCore u.inst else none, unit := s.unitOf u, addr := addr, detail0 := d0, detail1 := d1 }

/-- A failed core, way or media-die engine taken out of service (R843): BIST.FENCED, and an entry where a repair exists. -/
def State.fenceUnit (s : State) (u : TestUnit) (addr d0 d1 : Nat) : State :=
  let s1 := s.raise (s.bistRec .bistFenced u addr d0 d1)
  if u.kind = 1 then (s1.updCore u.inst fun k => { k with st := .unavailable }).addRepair 2 (s.core u.inst).phys 0
  else
    let s2 := s1.withDiag fun d => { d with withheld := if d.withheld.contains u then d.withheld else u :: d.withheld }
    if u.kind = 3 then s2.addRepair 6 (u.inst / 16) 0 else s2

/-- A scratchpad word with a failed cell, which R833 corrects at every read until a spare row takes its place (R842). -/
def State.markCell (s : State) (addr : Nat) : State :=
  let a := addr % 2 ^ 52
  if region a = 8 then s.withDiag fun d => { d with sramStuck := if d.sramStuck.contains (a / 8) then d.sramStuck else a / 8 :: d.sramStuck } else s

/-- A failure found by a slice (R839, R842, R843, R846). -/
def State.sliceFailed (s : State) (u : TestUnit) (kind : Nat) (correctable : Bool) (addr d0 d1 location : Nat) : State :=
  if u.kind = 13 then
    (if s.diag.badSensors.contains u.inst then s
     else (s.withDiag fun d => { d with badSensors := u.inst :: d.badSensors }).raise (s.bistRec .bistSensor u addr d0 d1))
  else if u.kind = 10 then
    (if kind = 5 then (s.raise (s.bistRec .bistLane u addr d0 d1)).addRepair 5 u.inst 0 else s.raise (s.bistRec .bistPll u addr d0 d1))
  else if u.kind = 1 || u.kind = 3 then
    (if kind = 1 && correctable then
      ((s.raise (s.bistRec .bistSram u addr d0 d1)).markCell addr).addRepair 1 (if u.kind = 1 then (s.core u.inst).phys else u.inst / 16) location
     else s.fenceUnit u addr d0 d1)
  else if u.kind = 11 then s.fenceUnit u addr d0 d1
  else s.raise (s.bistRec .bistUnitFail u addr d0 d1)

/-- A part of a pass covered, in 1/10,000 of it; a pass that is whole is followed by the next (R828). -/
def State.cover (s : State) (u : TestUnit) (n : Nat) : State :=
  s.withDiag fun d => { d with
    passes := d.passes.map fun x => if x.1 = u then (if 10000 ≤ x.2.1 + n then (u, 0, s.now) else (u, x.2.1 + n, x.2.2)) else x
    overdue := if (d.passes.any fun x => x.1 == u && decide (10000 ≤ x.2.1 + n)) then d.overdue.filter (· != u) else d.overdue }

/-- Units whose pass has run past its interval by more than 10 % (R831, R832). -/
def State.late (s : State) : List TestUnit :=
  (s.diag.passes.filter fun x => s.classOn (unitClass x.1.kind) && !(s.diag.overdue.contains x.1)
    && decide (11 * s.interval (unitClass x.1.kind) < 10 * (s.now - x.2.2))).map Prod.fst

/-- BIST.OVERDUE for each of them, once in a pass (R831). -/
def State.raiseOverdue (s : State) : State :=
  s.late.foldl (fun t u => (t.withDiag fun d => { d with overdue := u :: d.overdue }).raise { code := .bistOverdue, unit := s.unitOf u }) s

/-- OBJECT of a slice in the flight recorder (R856). -/
def State.sliceObject (s : State) (u : TestUnit) : Nat := u.kind * 2 ^ 32 + (s.unitOf u).inst

/-- A unit out of its slice: a core idle again, a Larder way back in use, a spare lane out of loopback (R834, R835). DESIGN CHOICE (log entry 71): the bytes of a scratchpad that a slice has tested are those from before it. -/
def State.leaveSlice (s : State) (u : TestUnit) : State :=
  let s1 := s.withDiag fun d => { d with slices := d.slices.filter fun x => x.1 != u }
  if u.kind = 1 then s1.updCore u.inst fun k => { k with st := if k.st == .selfTest then .idle else k.st }
  else if u.kind = 3 then s1.withDiag fun d => { d with withheld := d.withheld.filter (· != u) }
  else if u.kind = 10 then s1.updLink (u.inst / 5) fun x => { x with loopback := false }
  else s1

/-- What a slice found taken into account (R828, R839). -/
def State.sliceResult (s : State) (u : TestUnit) : SliceResult → State
  | .pass covered => (s.flight 6 (s.sliceObject u) (unitClass u.kind) 0 none).cover u covered
  | .fail covered kind correctable _ addr d0 d1 location =>
    ((s.sliceFailed u kind correctable addr d0 d1 location).flight 6 (s.sliceObject u) (unitClass u.kind) 1 none).cover u covered

/-- SLICE_END (R828). -/
def execSliceEnd (u : TestUnit) (r : SliceResult) (s : State) : Host.Outcome State Fault Refusal :=
  .next (if s.diag.slices.any fun x => x.1 == u then ((s.leaveSlice u).sliceResult u r).raiseOverdue else s)

/-- Whether a core in a slice is called for by a context of higher priority (R629, R830). -/
def State.calledFor (s : State) (n : Nat) : Bool :=
  (List.range 256).any fun cc => s.partOfCtx cc == s.partOfCore n && (s.partOfCtx cc).isSome && (s.ctx cc).resident && condLive (s.ctx cc).cond
    && decide (s.prio (s.core n).cur < s.prio cc) && (s.queuedTargets cc).contains n

/-- SLICE_ABANDON (R830). -/
def execSliceAbandon (n : Nat) (s : State) : Host.Outcome State Fault Refusal :=
  let u : TestUnit := { kind := 1, inst := n }
  .next (if s.diag.slices.any (fun x => x.1 == u) && s.calledFor n then
      ((s.leaveSlice u).odInc 0x8010 5).flight 6 (s.sliceObject u) 0 2 none
    else s)

/-! HBM windows (R838). -/

/-- Windows of a pseudo-channel (R838). -/
def windowCount : Nat := 538

/-- The window that serves as a pseudo-channel's reserve, once it has moved. -/
def State.reserve (s : State) (pc : Nat) : Option Nat := (s.diag.windows.find? fun x => x.1 == pc).map Prod.snd

/-- The next window moved into the reserve: the vacated one is the new reserve, and every address stays where it was (R838). -/
def State.moveWindow (s : State) (pc : Nat) : State :=
  let w := match s.reserve pc with
    | some x => (x + 1) % windowCount
    | none => 0
  (s.withDiag fun d => { d with windows := (pc, w) :: d.windows.filter fun x => x.1 != pc }).beginPass { kind := 4, inst := pc }

/-- A failure of a march test on HBM (R839, R842): KIND 3 a row, KIND 4 the pseudo-channel. -/
def State.windowResult (s : State) (pc : Nat) : SliceResult → State
  | .pass covered => (s.flight 6 (4 * 2 ^ 32 + pc) 1 0 none).cover { kind := 4, inst := pc } covered
  | .fail covered kind _ _ addr d0 d1 location =>
    let s1 := (s.raise (s.bistRec .bistHbm { kind := 4, inst := pc } addr d0 d1)).addRepair (if kind = 4 then 4 else 3) pc (if kind = 4 then 0 else location)
    (s1.flight 6 (4 * 2 ^ 32 + pc) 1 1 none).cover { kind := 4, inst := pc } covered

/-- Whether a pseudo-channel is active (R258). -/
def State.channelOn (s : State) (pc : Nat) : Bool := bit (nth s.hbm.active (pc / 32) 0) (pc % 32)

/-- HBM_WINDOW_MOVE (R838). -/
def execHbmWindowMove (pc : Nat) (r : SliceResult) (s : State) : Host.Outcome State Fault Refusal :=
  .next (if s.ready && s.classOn 1 && decide (pc < 512) && s.channelOn pc then ((s.moveWindow pc).windowResult pc r).raiseOverdue else s)

/-! Spare lanes (R835). -/

/-- Whether a spare lane's turn has come: no loopback of it began within the analogue interval (R835). -/
def State.laneDue (s : State) (u : TestUnit) : Bool :=
  !(s.diag.passes.any fun x => x.1 == u && decide (s.now < x.2.2 + s.interval 2))

/-- A lane's loopback begun (R835); SLICE_END ends it. -/
def State.startLoopback (s : State) (l : Nat) (u : TestUnit) : State :=
  (s.updLink l fun x => { x with loopback := true }).withDiag fun d => { d with
    slices := d.slices ++ [(u, s.now)]
    passes := (u, 0, s.now) :: d.passes.filter fun x => x.1 != u }

/-- LANE_LOOPBACK (R835). -/
def execLaneLoopback (l : Nat) (s : State) : Host.Outcome State Fault Refusal :=
  .next (match (s.link l).spareLane with
    | some k =>
      let u : TestUnit := { kind := 10, inst := 5 * l + k }
      if s.ready && s.classOn 2 && decide (l < 36) && !(s.unitOut u) && s.laneDue u then s.startLoopback l u else s
    | none => s)

/-! The repair table (R840). -/

/-- REPAIR_ENTRY_COMMIT (R840): the oldest entry found reaches the flash. -/
def execRepairEntryCommit (s : State) : Host.Outcome State Fault Refusal :=
  .next (match s.diag.repairNew with
    | w :: l => s.withDiag fun d => { d with repair := d.repair ++ [w], repairNew := l }
    | [] => s)

end Sys2Proof.Machine
end

