-- ==== Sys2Proof/Machine/Security.lean ====
section
/-! DEFINITION. Firmware images and their slots (R811 to R814), debug tokens (R820 to R822), measurements and the SPDM responder (R815 to R819). -/
namespace Sys2Proof.Machine

/-! Images (R811, R812). -/

/-- A byte of a slot or of the token buffer; one that no BLOB has written reads 0 (log entry 5). -/
def cellByte (m : List (Nat × Byte)) (i : Nat) : Byte := mapGet memDefault m i

/-- `n` bytes of a slot from `a`. -/
def cellBytes (m : List (Nat × Byte)) (a n : Nat) : List Byte := (List.range n).map fun i => cellByte m (a + i)

/-- Header words of an image or a token. -/
def headWords (m : List (Nat × Byte)) : List Word := wordsOf 8 (cellBytes m 0 64)

/-- Whether the key and the signature after a header hold for it under a fused digest (R812, R821). -/
def signedBy (fused : List Byte) (m : List (Nat × Byte)) : Bool :=
  let key := cellBytes m 64 1312
  Config.sha3 key == fused && Config.mlDsa key (cellBytes m 1376 2420) (Config.sha3 (cellBytes m 0 64))

/-- Whether an image of a type verifies against a fuse counter (R812). -/
def imageGood (m : List (Nat × Byte)) (t fuse : Nat) : Bool :=
  let h := headWords m
  let len := fld h 1 31 0
  fld h 0 63 32 == 0x51494D47 && fld h 0 23 16 == 1 && fld h 0 15 8 == t && fld h 0 31 24 == 0 && fld h 6 63 0 == 0 && fld h 7 63 0 == 0
    && decide (1 ≤ len) && decide (len ≤ 16777216) && decide (fld h 0 7 0 < 64)
    && signedBy Config.firmwareKey m
    && Config.sha3 (cellBytes m 3796 len) == cellBytes m 16 32
    && decide (fuse ≤ fld h 0 7 0)

/-- A firmware type, 1 to 5 (R811). -/
def State.fw (s : State) (t : Nat) : Firmware := nth s.sec.fw (t - 1) {}

/-- A firmware type changed. -/
def State.updFw (s : State) (t : Nat) (f : Firmware → Firmware) : State := s.withSec fun x => { x with fw := modAt x.fw (t - 1) f }

/-- Whether the image in a slot verifies (R812). -/
def slotGood (f : Firmware) (t : Nat) (b : Bool) : Bool :=
  if b then imageGood f.slotB t f.fuse
  else if f.factoryA then decide (f.fuse ≤ (Config.factorySvn t).toNat)
  else imageGood f.slotA t f.fuse

/-- VERSION and SVN of the image in a slot. -/
def slotVersion (f : Firmware) (t : Nat) (b : Bool) : Nat × Nat :=
  if !b && f.factoryA then ((Config.factoryVersion t).toNat, (Config.factorySvn t).toNat)
  else
    let h := headWords (if b then f.slotB else f.slotA)
    (fld h 1 63 32, fld h 0 7 0)

/-- The 64-byte header of the image in a slot. -/
def slotHeader (f : Firmware) (t : Nat) (b : Bool) : List Byte :=
  if !b && f.factoryA then Config.factoryHeader t else cellBytes (if b then f.slotB else f.slotA) 0 64

/-- A type's image loaded from a slot (R813). -/
def loadSlot (f : Firmware) (t : Nat) (b : Bool) : Firmware :=
  { f with runningB := b, version := (slotVersion f t b).1, svn := (slotVersion f t b).2 }

/-- The boot ROM's choice for a type (R813): the preferred slot, else the other with SEC.IMAGE_FALLBACK, else none. -/
def bootChoice (f : Firmware) (t : Nat) : Option Bool :=
  if slotGood f t f.preferB then some f.preferB else if slotGood f t (!f.preferB) then some (!f.preferB) else none

/-- A type's image loaded at start-up. -/
def State.bootType (s : State) (t : Nat) : State :=
  let f := s.fw t
  match bootChoice f t with
  | some b =>
    let s1 := s.updFw t fun _ => loadSlot f t b
    if b = f.preferB then s1 else s1.raise { code := .secImageFallback, unit := { kind := 12, inst := 0 } }
  | none => s

/-- Whether every type has an image that verifies (R813). -/
def State.bootable (s : State) : Bool := [1, 2, 3, 4, 5].all fun t => (bootChoice (s.fw t) t).isSome

/-! Firmware entries (R814). -/

/-- COMMIT of a staging slot. -/
def State.fwCommit (s : State) (t : Nat) : State × Nat :=
  let f := s.fw t
  if f.staging = .receiving && slotGood f t (!f.runningB) then (s.updFw t fun x => { x with staging := .committed, preferB := !x.runningB }, 0)
  else ((s.updFw t fun x => { x with staging := .failed }).raise { code := .secImageVerify, unit := { kind := 12, inst := 0 } }, 4)

/-- ADVANCE of a fuse counter. -/
def State.fwAdvance (s : State) (t : Nat) : State × Nat :=
  let f := s.fw t
  if f.fuse < f.svn then (s.updFw t fun x => { x with fuse := x.svn }, 0) else (s, 4)

/-- A write to 0x901t/06 (R814). -/
def State.fwControl (s : State) (t v : Nat) : State × Nat :=
  if t = 0 || 6 ≤ t then (s, 1) else if v = 1 then s.fwCommit t else if v = 2 then s.fwAdvance t else (s, 3)

/-- FIRMWARE_COMMIT (R814). -/
def execFirmwareCommit (t : Nat) (s : State) : Host.Outcome State Fault Refusal := answered (0x9010 + t) 6 0 1 (s.fwControl t 1)

/-- FIRMWARE_ADVANCE (R814). -/
def execFirmwareAdvance (t : Nat) (s : State) : Host.Outcome State Fault Refusal := answered (0x9010 + t) 6 0 2 (s.fwControl t 2)

/-- Bytes of a BLOB put at an offset of a cell map. -/
def putCells (m : List (Nat × Byte)) (a : Nat) (bs : List Byte) : List (Nat × Byte) := memPutBytes m a bs

/-- A BLOB with a firmware target (R814): at offset 0 it erases the staging slot and cancels an earlier commit. -/
def State.fwBlob (s : State) (t offset : Nat) (bs : List Byte) : State :=
  s.updFw t fun f =>
    let g := if offset = 0 then
        { f with staging := Staging.receiving
                 preferB := if f.staging = .committed then f.runningB else f.preferB
                 slotA := if f.runningB then [] else f.slotA
                 factoryA := f.factoryA && !f.runningB
                 slotB := if f.runningB then f.slotB else [] }
      else f
    if g.runningB then { g with slotA := putCells g.slotA offset bs, factoryA := false } else { g with slotB := putCells g.slotB offset bs }

/-! Debug tokens (R820 to R822). -/

/-- Whether the token in BLOB target 8 is accepted (R821). -/
def State.tokenGood (s : State) : Bool :=
  let m := s.sec.token
  let h := headWords m
  fld h 0 63 32 == 0x4442544B && fld h 0 31 3 == 0 && [3, 4, 5, 6, 7].all (fun i => fld h i 63 0 == 0)
    && fld h 1 63 0 == s.odN 0x1000 4 && fld h 2 63 0 == (Config.nonce s.sec.nonces).toNat
    && signedBy Config.debugKey m

/-- A token submitted (R821, R822): a new nonce is drawn either way. -/
def State.submitToken (s : State) : State × Nat :=
  if s.tokenGood then
    ((s.withSec fun x => { x with levels := x.levels ||| fld (headWords x.token) 0 2 0, outcome := 1, accepted := x.token, nonces := x.nonces + 1 }).raise
      { code := .secDebugUnlocked, unit := { kind := 12, inst := 0 } }, 0)
  else ((s.withSec fun x => { x with outcome := 2, nonces := x.nonces + 1 }).raise { code := .secTokenReject, unit := { kind := 12, inst := 0 } }, 4)

/-- DEBUG_TOKEN_SUBMIT (R821). -/
def execDebugTokenSubmit (s : State) : Host.Outcome State Fault Refusal := answered 0x9300 2 0 1 s.submitToken

/-! Attestation (R816 to R819). -/

/-- The persistent entries of 0x9000 to 0x9FFF in ascending order, each in its own width (R779, R818, R823). -/
def State.securityEntries (s : State) : List Byte := leBytes 1 (s.odN 0x9100 1) ++ leBytes 1 (s.odN 0x9200 2)

/-- Measurement blocks 1 to 9 (R818). -/
def State.measurements (s : State) : List (List Byte) :=
  [Config.sha3 Config.bootRom]
    ++ [1, 2, 3, 4, 5].map (fun t => Config.sha3 (slotHeader (s.fw t) t (s.fw t).runningB))
    ++ [[1, 2, 3, 4, 5].flatMap fun t => leBytes 1 (s.fw t).svn ++ leBytes 1 (s.fw t).fuse,
        leBytes 1 s.sec.levels ++ (if s.sec.accepted.isEmpty then List.replicate 32 0#8 else Config.sha3 (cellBytes s.sec.accepted 0 3796)),
        Config.sha3 s.securityEntries]

/-- What the responder's answer rests on besides the message: start-up, messages before it, path, secured, slot 1. -/
def State.spdmPast (s : State) (tchioz secured : Bool) : List Nat :=
  [s.sec.startups, s.sec.spdmSeen, if tchioz then 1 else 0, if secured then 1 else 0, s.sec.ownerCert.length]

/-- An SPDM message answered: the sessions, the owner chain and, over DOE, the IDE keys it changes (R773, R816, R817). -/
def State.answerSpdm (s : State) (tchioz secured : Bool) (msg : List Byte) : State :=
  let past := s.spdmPast tchioz secured
  let n := Config.spdmSessions past msg % 5
  let s1 := s.emit (.spdm tchioz (Config.spdmReply past s.measurements msg))
  let s2 := s1.withSec fun x => { x with
    spdmSeen := x.spdmSeen + 1
    doeSessions := if tchioz then x.doeSessions else n
    tchSessions := if tchioz then n else x.tchSessions
    ownerCert := if secured then (Config.spdmCertificate past msg).getD x.ownerCert else x.ownerCert }
  let k := Config.spdmIde past msg
  if tchioz || !secured || 4 ≤ k then s2
  else
    let s3 := s2.withHost fun h => { h with ide := k }
    if (k == 2) == (s.host.ide == 2) then s3 else s3.msix 0

/-- Whether the management controller runs: the hub die is powered and start-up has reached stage 4 (R861, R888). -/
def State.mgmtUp (s : State) : Bool := s.pwr.on && decide (4 ≤ s.pwr.stage)

/-- SPDM_MESSAGE (R816): over Tchioz to a module with a node ID, or over DOE, which R773 and R778 leave open; a secured message that fails its check is discarded (R819). -/
def execSpdmMessage (tchioz secured : Bool) (msg : List Byte) (s : State) : Host.Outcome State Fault Refusal :=
  .next (if !s.mgmtUp || (if tchioz then s.mgmt.node == 0 else !s.host.up) then s
    else if secured && !(Config.spdmIntact (s.spdmPast tchioz secured) msg) then s.raise { code := .secSessionFail, unit := { kind := 12, inst := 0 } }
    else s.answerSpdm tchioz secured msg)

end Sys2Proof.Machine
end

