-- ==== Sys2Proof/Machine/Startup.lean ====
section
/-! DEFINITION. Start-up stage by stage (R888 to R891) with what each applies: images (R813), the repair table and spares (R151, R152, R842, R845), the short self-test (R847), the HBM map (R258 to R262), the Cellar and the Attic (R315, R361, R363), the windows (R767, R768); and module reset (R864, R893). -/
namespace Sys2Proof.Machine

/-- Start-up at a stage, with its flight-recorder entry (R856). -/
def State.goStage (s : State) (k : Nat) : State := (s.withPwr fun x => { x with stage := k }).flight 8 0 s.pwr.stage k none

/-- Start-up stopped (R890). -/
def State.stopStart (s : State) : State := s.goStage 0xFF

/-! Stage 5: repair table, spares, power. -/

/-- Entries of the repair table found so far, committed or not. -/
def State.repairAll (s : State) : List Word := s.diag.repair ++ s.diag.repairNew

/-- Units marked by entries of a kind. -/
def State.repaired (s : State) (kind : Nat) : List Nat := (s.repairAll.filter fun w => repKind w == kind).map repUnit

/-- Rows of one scratchpad bank marked for a physical core (R842). -/
def bankRows (l : List Word) (w : Word) : Nat :=
  (l.filter fun x => repKind x == 1 && repUnit x == repUnit w && bits (repLoc x) 47 32 == bits (repLoc w) 47 32).length

/-- A core with a scratchpad bank that has no spare row left becomes a failed core (R842). -/
def State.failBanks (s : State) : State :=
  (s.repairAll.filter fun w => repKind w == 1 && bits (repLoc w) 47 40 == 1 && decide (8 < bankRows s.repairAll w)).foldl (fun t w => t.addRepair 2 (repUnit w) 0) s

/-- Physical cores of a half-die that fail, of its 25 (R151). -/
def State.failedIn (s : State) (h : Nat) : List Nat := (s.repaired 2).filter fun x => x / 25 == h

/-- Working physical cores of a half-die, ascending. -/
def State.workingIn (s : State) (h : Nat) : List Nat := ((List.range 25).map (25 * h + ·)).filter fun x => !((s.repaired 2).contains x)

/-- Whether a half-die has more failed cores than spares (R845). -/
def State.short (s : State) (h : Nat) : Bool := decide ((s.workingIn h).length < 24)

/-- The physical core of a logical one (R152, R845): its own, or the spare for a failed one; where too many fail, the working ones in ascending order, and none for the last. -/
def State.physOf (s : State) (n : Nat) : Option Nat :=
  let h := n / 24
  if s.short h then (s.workingIn h)[n % 24]?
  else if (s.repaired 2).contains (25 * h + n % 24) then some (25 * h + 24)
  else some (25 * h + n % 24)

/-- Every logical core given its physical one, and these alone powered: a spare that stands for none is not (R152). A logical core left without one shows the number it would have had (DESIGN CHOICE, log entry 70). -/
def State.placeCores (s : State) : State :=
  { s with
    cores := (List.range 384).map fun n =>
      match s.physOf n with
      | some x => ({ phys := x, spare := x % 25 == 24, st := .retention } : Core)
      | none => { phys := 25 * (n / 24) + n % 24, st := .unavailable }
    pwr := { s.pwr with corePower := (List.range 384).filterMap s.physOf } }

/-- The islands that stage 5 powers: quarter-dies in retention, since no partition owns them (R612), the others at their performance state. -/
def State.powerIslands (s : State) : State :=
  { s with pwr := { s.pwr with islands := s.pwr.islands.zipIdx.map fun (x, i) =>
      if i < 32 then ({ mv := 450, power := 1 } : Island) else if i < 42 then { mv := s.perfMv i, power := 2 } else x } }

/-- Stage 5 (R842, R882): a sensor of a trip that is still hot stops it. -/
def State.stageFive (s : State) (r : StageResult) : State :=
  if r.stillHot && !s.pwr.tripSensors.isEmpty then s.raise { code := .pwrThermalTrip, unit := { kind := 13, inst := s.pwr.tripSensors.headD 0 } }
  else ((s.failBanks.placeCores).powerIslands.withPwr fun x => { x with tripSensors := [] }).goStage 6

/-! Stage 6: the short self-test. -/

/-- BIST.SPARE_SHORT once for each half-die with too few cores (R845). -/
def State.reportShort (s : State) : State :=
  (List.range 16).foldl (fun t h => if t.short h then t.raise { code := .bistSpareShort, unit := { kind := 2, inst := 2 * h } } else t) s

/-- A core found failed (R839, R843, R847). -/
def State.startupFail (s : State) (x : Nat) : State :=
  let n := (List.range 384).find? fun n => (s.core n).phys == x
  (s.raise { code := .bistFenced, unit := { kind := 1, inst := n.getD 0xFFFF + x * 65536 }, detail0 := 7 * 2 ^ 56 }).addRepair 2 x 0

/-- Stage 6 (R847): failed cores add entries and stages 5 and 6 run once more; a unit that cannot be withheld stops start-up. A core without power is not tested (R152). -/
def State.stageSix (s : State) (r : StageResult) : State :=
  let s1 := (r.badCores.filter s.pwr.corePower.contains).foldl State.startupFail s
  if r.unitFail then s1.raise { code := .bistStartup, unit := { kind := 0, inst := 0 } }
  else ((if r.badCores.isEmpty then s1 else s1.placeCores).reportShort).goStage 7

/-! Stage 7: memories. -/

/-- The active pseudo-channels of a stack (R258, R261): those no entry marks as failed. -/
def State.stackMask (s : State) (st : Nat) : Nat := (List.range 32).foldl (fun m j => if (s.repaired 4).contains (32 * st + j) then m else m + 2 ^ j) 0

/-- Whether more than 8 pseudo-channels of a stack are marked as failed (R262). -/
def State.overMapped (s : State) (st : Nat) : Bool := decide (popCount (s.stackMask st) < 24)

/-- MEM.MAPOUT for each die with a mapped-out pseudo-channel (R261). -/
def State.reportMapout (s : State) : State :=
  (List.range 8).foldl (fun t d => if s.activeOf d < 64 then t.raise { code := .memMapout, unit := { kind := 3, inst := d } } else t) s

/-- The map that the applied records give (R361, R362): for each index the record of highest generation, unless it is a DISCARD's. The contexts of the moves are forgotten. -/
def atticMap (l : List AtticCrate) : List AtticCrate :=
  let good := l.filter goodRecord
  (good.filter fun r => r.units && good.all fun q => q.index != r.index || decide (q.gen ≤ r.gen)).map fun r => { r with ctx := none }

/-- The Attic as recovery leaves it (R361 to R363): the records ignored are counted. -/
def State.recoverAttic (s : State) (r : StageResult) : State :=
  if r.atticLost then (s.withTier fun t => { t with offline := true }).raise { code := .tierAtticOffline, unit := { kind := 7, inst := 0 } }
  else
    let n := (s.tier.records.filter fun x => !(goodRecord x)).length
    let t := s.withTier fun t => { t with crates := atticMap t.records, gen := t.records.foldl (fun m x => max m (x.gen + 1)) 0, ignored := n }
    if n = 0 then t else t.raise { code := .tierRecovered, unit := { kind := 7, inst := 0 } }

/-- The first byte at or after an offset that a list of areas covers, none of which begins beyond `lim`. -/
def firstIn (areas : List (Nat × Nat)) (o lim : Nat) : Nat :=
  areas.foldl (fun m a => if a.2 ≤ a.1 || a.2 ≤ o then m else min m (max o a.1)) (max o lim)

/-- A window's length in effect (R768): ended before the first byte it may not reach, in whole 256 MiB. -/
def windowLen (areas : List (Nat × Nat)) (o len lim : Nat) : Nat :=
  let room := firstIn areas o lim - o
  if len ≤ room then len else room / 268435456 * 268435456

/-- The landing areas and crate caches of the Cellar (R344, R505). -/
def State.cellarAreas (s : State) : List (Nat × Nat) :=
  (List.range 4).flatMap fun c => [(c * cellarDieBytes, c * cellarDieBytes + s.coll.units * 65536), ((c + 1) * cellarDieBytes - s.tier.cacheK * 16640, (c + 1) * cellarDieBytes)]

/-- The crate caches of HBM (R344). -/
def State.hbmAreas (s : State) : List (Nat × Nat) := (List.range 8).map fun d => (s.sliceBase (d + 1) - s.tier.cacheH * 16640, s.sliceBase (d + 1))

/-- The windows mapped (R767, R768). -/
def State.mapWindows (s : State) : State :=
  let c := windowLen s.cellarAreas s.host.offCellar (s.odN 0x3800 2) cellarBytes
  let h := windowLen s.hbmAreas s.host.offHbm (s.odN 0x3800 4) s.hbmSize
  let s1 := s.withHost fun x => { x with winCellar := c, winHbm := h }
  if c < s.odN 0x3800 2 || h < s.odN 0x3800 4 then s1.raise { code := .hostHdmShrunk, unit := { kind := 12, inst := 0 } } else s1

/-- What start-up fixes of the memories (R259, R344, R505). -/
def State.fixMaps (s : State) : State :=
  { s with
    hbm := { active := (List.range 16).map s.stackMask, began := List.replicate 8 s.now, bad := s.hbm.bad, weak := s.hbm.weak }
    tier := { s.tier with cacheH := s.odN 0x3200 1, cacheK := s.odN 0x3200 2 }
    coll := { s.coll with units := s.odN 0x3700 1 }
    sec := { s.sec with startups := s.sec.startups + 1 } }

/-- Stage 7 (R258 to R262, R315, R361, R363). -/
def State.stageSeven (s : State) (r : StageResult) : State :=
  let s1 := (r.badChannels.filter (· < 512)).foldl (fun t x => t.addRepair 4 x 0) s
  if r.cellarBad then s1.raise { code := .memCellarTrain, unit := { kind := 6, inst := 0 } }
  else match (List.range 16).find? s1.overMapped with
    | some st => s1.raise { code := .memMapoutLimit, unit := { kind := 5, inst := st } }
    | none => ((s1.fixMaps.reportMapout).recoverAttic r).goStage 8

/-! The stages in order (R888). -/

/-- A stage that ended well. -/
def State.stageDone (s : State) (r : StageResult) : State :=
  match s.pwr.stage with
  | 1 => s.goStage 2
  | 2 => (s.updIsland 42 fun _ => { mv := 750, power := 2 }).goStage 3
  | 3 => if s.bootable then ([1, 2, 3, 4, 5].foldl State.bootType s).goStage 4 else s.raise { code := .secNoImage, unit := { kind := 12, inst := 0 } }
  | 4 => s.goStage 5
  | 5 => s.stageFive r
  | 6 => s.stageSix r
  | 7 => s.stageSeven r
  | 8 => s.mapWindows.goStage 9
  | 9 => (s.goStage 10).msix 0
  | _ => s

/-- STARTUP_STAGE_END (R888, R890): stage 3 does not begin while RESET_IN_N is held low (R893). -/
def execStartupStageEnd (r : StageResult) (s : State) : Host.Outcome State Fault Refusal :=
  .next (if !s.pwr.on || s.pwr.stage = 0 || 10 ≤ s.pwr.stage || (s.pwr.stage = 3 && s.pwr.resetHeld) then s
    else if r.ok then s.stageDone r else s.stopStart)

/-! Module reset (R864). -/

/-- A reset with the flight recorder's entry of the stage (R856). -/
def State.restarted (s : State) (cause : Nat) : State := (s.restart cause).flight 8 0 s.pwr.stage 3 none

/-- MODULE_RESET (R864). -/
def execModuleReset (s : State) : Host.Outcome State Fault Refusal :=
  .next (if s.mgmtUp then ((State.noteWrite 0x8000 5 0 0xA5 (s, 0)).restarted 2).emit (.status 0x8000 5 0) else s)

/-- RESET_IN (R864, R893): held low until its release. -/
def execResetIn (s : State) : Host.Outcome State Fault Refusal :=
  .next (
    let t := s.withPwr fun x => { x with resetHeld := true }
    if s.pwr.on && decide (3 ≤ s.pwr.stage) then t.restarted 1 else t)

/-- RESET_IN_RELEASE (R893). -/
def execResetInRelease (s : State) : Host.Outcome State Fault Refusal := .next (s.withPwr fun x => { x with resetHeld := false })

end Sys2Proof.Machine
end

