-- ==== Sys2Proof/Machine/Video.lean ====
section
/-! DEFINITION. Video: stream contexts (R697 to R705), routes (R706 to R712, R714), the order of work and reconstruction (R713 to R724), and encoding (R727 to R738). -/
namespace Sys2Proof.Machine

/-! Stream contexts. -/

/-- A stream context that is not FREE. -/
def State.stream (s : State) (sc : Nat) : Option Stream := s.media.streams.find? fun x => x.num == sc

/-- A stream context replaced. -/
def State.putStream (s : State) (x : Stream) : State :=
  s.withMedia fun m => { m with streams := m.streams.map fun y => if y.num == x.num then x else y }

/-- Fields of SOPEN (R698). -/
def strCodec (ws : List Word) : Nat := fld ws 2 11 8
def strPrio (ws : List Word) : Nat := fld ws 2 13 12
def Stream.codec (x : Stream) : Nat := strCodec x.words
def Stream.prio (x : Stream) : Nat := strPrio x.words
def Stream.live (x : Stream) : Bool := fld x.words 2 14 14 == 1
def Stream.who (x : Stream) : Who := { part := some x.part, ctx := some x.ctx, die := dieMedia }

/-- An INFO fault of video: at most once a second for each stream context (R740). -/
def State.streamFault (s : State) (x : Stream) (c : Code) : State :=
  s.recordLimited { code := c, part := some x.part, ctx := some x.ctx, unit := { kind := 11, inst := x.num } } x.num

/-- Round up to a multiple of 64. -/
def up64 (n : Nat) : Nat := ceilDiv n 64 * 64

/-- The picture size P (R699), of a largest width and height, and d. -/
def pictureSize (w h : Nat) (ten : Bool) : Nat := 4096 * ceilDiv (up64 w * up64 h * (192 * (if ten then 2 else 1) + 1)) (128 * 4096)

/-- Whether a reference area is refused (R700). -/
def State.refAreaBad (s : State) (w : Who) (base pages need : Nat) : Bool :=
  decide (pages * 4096 < need) || base % 4096 != 0 || region base != 0 || (s.firstUnmapped w base (pages * 4096)).isSome

/-- The checks of SOPEN (R698, R700). -/
def sopenChecks (c : CmdInst) (_ : List RecRead) : Checks :=
  let ws := c.words
  { reserved := fld ws 2 31 15 != 0 || fld ws 3 63 52 != 0 || fld ws 5 63 5 != 0 || fld ws 6 63 0 != 0 || fld ws 7 63 0 != 0
    field := c.sub != 0 || decide (2 < strCodec ws) || decide (4351 < fld ws 2 63 48) || decide (8191 < fld ws 2 47 32) }

/-- SOPEN (R700); it also rejects an undefined SUBOP. -/
def execSopen (cc : Nat) (s : State) : Host.Outcome State Fault Refusal :=
  .next (s.runMedia cc (fun c => c.op == 0x51 && (c.sub == 0 || decide (3 < c.sub))) (fun _ _ => []) (fun _ _ => none) sopenChecks
    fun t e _ _ =>
      let ws := e.cmd.words
      let need := (fld ws 5 3 0 + 3) * pictureSize (fld ws 2 47 32 + 1) (fld ws 2 63 48 + 1) (fld ws 5 4 4 == 1)
      if (t.stream (fld ws 2 7 0)).isSome then t.rejectMedia e .mediaStreamState 0 0
      else if t.refAreaBad (t.whoMedia cc) (fld ws 3 51 0) (fld ws 4 31 0) need then t.rejectMedia e .mediaRefArea 0 0
      else
        let x : Stream := { num := fld ws 2 7 0, part := t.ctxPart cc, ctx := cc, st := .decoding, words := ws }
        (t.withMedia fun m => { m with streams := m.streams ++ [x] }).endMedia e {})

/-- The decode context a command of a partition may name (R701). -/
def State.decodeCtx (s : State) (p sc : Nat) : Option Stream := (s.stream sc).filter fun x => x.part == p && x.st != .encoding

/-- The encode context a command of a partition may name (R701). -/
def State.encodeCtx (s : State) (p sc : Nat) : Option Stream := (s.stream sc).filter fun x => x.part == p && x.st == .encoding

/-! Pictures. -/

/-- The pictures a picture references. -/
def Pic.refs (p : Pic) : List Nat := (p.info.drop 19).filter (· < p.n)

/-- What the bitstream says of picture n. -/
def Stream.info (x : Stream) (n : Nat) : List Nat :=
  let f := fun k => Config.streamInfo x.codec x.fed x.ends n k
  (List.range (19 + min 16 (f 18))).map f

/-- The pictures that have become complete, appended (R705, R713). -/
def Stream.grown (x : Stream) (now : Nat) : Stream :=
  let n := Config.streamInfo x.codec x.fed x.ends 0 0
  { x with pics := x.pics ++ (List.range (n - x.pics.length)).map fun i => { n := x.pics.length + i, info := x.info (x.pics.length + i), arrival := now } }

/-- Whether a picture's sequence is beyond what the context may decode (R694, R723). -/
def Stream.beyond (x : Stream) (p : Pic) : Bool :=
  p.f 8 == 1 || decide (8192 < p.f 9) || decide (4352 < p.f 10) || decide (fld x.words 2 47 32 + 1 < p.f 9) || decide (fld x.words 2 63 48 + 1 < p.f 10)
    || (p.f 11 == 1 && fld x.words 5 4 4 == 0) || decide (fld x.words 5 3 0 + 1 < p.f 12)

/-- Routes resolved, those that satisfy a test. -/
def State.resolveRoutes (s : State) (sc : Nat) (f : BatchSlot → Bool) (r : SlotRes) (reason : Nat) : State :=
  (s.routes sc).foldl (fun t y => if f y.2.2 then (t.bringSlot y.1 y.2.1).resolve y.1 y.2.1 r reason else t) s

/-- A context that becomes FAILED (R723). -/
def State.failStream (s : State) (x : Stream) : State :=
  ((s.putStream { x with st := .failed }).streamFault x .mediaStreamLimit).resolveRoutes x.num (fun _ => true) .invalid 2

/-- Whether a file context may output picture k (R710). -/
def State.mayOutput (s : State) (x : Stream) (k : Nat) : Bool := x.live || x.st == .ended || (s.routes x.num).any fun y => decide (k ≤ routeOut y.2.2)

/-- Whether a picture has an output index of its own that is due: reconstructed or skipped. -/
def Pic.due (p : Pic) (k : Nat) : Bool := p.f 1 == k + 1 && decide (2 ≤ p.phase)

/-- How many pictures a stream outputs in all, as far as it is parsed. -/
def Stream.outputs (x : Stream) : Nat := (x.pics.filter fun p => p.f 1 != 0).length

/-- Pictures output while they may be (R706, R710); broken ones resolve their routes INVALID (R722). -/
def settleStream (sc : Nat) : Nat → State → State
  | 0, s => s
  | fuel + 1, s =>
    match s.stream sc with
    | none => s
    | some x =>
      match x.pics.find? fun p => p.due x.next with
      | none => s
      | some p =>
        if !(s.mayOutput x x.next) then s
        else
          let y := { x with next := x.next + 1, pics := x.pics.map fun q => if q.n == p.n then { q with out := true } else q }
          let s1 := s.putStream y
          let s2 := if p.broken != 0 then s1.resolveRoutes sc (fun z => routeOut z == x.next) .invalid p.broken else s1
          settleStream sc fuel s2

/-- Routes that can no longer be served, once END has been parsed (R711). -/
def State.lateRoutes (s : State) (sc : Nat) : State :=
  match s.stream sc with
  | some x => if x.st == .ended then s.resolveRoutes sc (fun y => decide (x.outputs ≤ routeOut y)) .late 8 else s
  | none => s

/-- A stream context brought up to date: outputs, then routes of no picture. -/
def State.settle (s : State) (sc : Nat) : State :=
  let n := ((s.stream sc).map fun x => x.pics.length).getD 0
  (settleStream sc (n + 1) s).lateRoutes sc

/-- The deadline of a live picture (R713). -/
def State.picDeadline (s : State) (x : Stream) (p : Pic) : Nat := p.arrival + 1000 * (if fld x.words 4 63 32 = 0 then s.odN (0x5010 + x.part) 6 else fld x.words 4 63 32)

/-- The picture with an output index. -/
def Stream.picOf (x : Stream) (k : Nat) : Option Pic := x.pics.find? fun p => p.f 1 == k + 1

/-- Routes of live pictures that have arrived brought to their picture's deadline (R714). -/
def State.tightenRoutes (s : State) (sc : Nat) : State :=
  match s.stream sc with
  | none => s
  | some x =>
    if !x.live then s
    else (s.routes sc).foldl (fun t y =>
      match x.picOf (routeOut y.2.2), t.batch y.1 with
      | some p, some b => t.putBatch (b.updSlot y.2.1 fun z => { z with deadline := min z.deadline (t.picDeadline x p) })
      | _, _ => t) s

/-! DATA (R702, R703). -/

/-- The checks of DATA. -/
def dataChecks (c : CmdInst) (_ : List RecRead) : Checks :=
  let ws := c.words
  { reserved := fld ws 2 63 52 != 0 || fld ws 3 63 42 != 0 || [4, 5, 6, 7].any fun i => fld ws i 63 0 != 0, field := fld ws 3 31 0 == 0 }

/-- Whether a byte of a run cannot be read, though it exists (R720). -/
def State.unreadable (s : State) (w : Who) (a : Nat) : Bool := (s.readFault w a).isSome

/-- A decode context that waits for routes before it decodes on (R710). -/
def State.paused (s : State) (x : Stream) : Bool := (x.pics.any fun p => p.due x.next) && !(s.mayOutput x x.next)

/-- The bytes of a DATA command taken by its stream context (R703, R705, R713, R723): they join those fed before, the sectors that cannot be read are noted, NAL units and pictures that are now whole are parsed. -/
def State.feedStream (s : State) (w : Who) (x : Stream) (ws : List Word) : State :=
  let a := fld ws 2 51 0
  let n := fld ws 3 31 0
  let bad := (List.range n).filter fun i => s.unreadable w (a + i)
  let closes := fld ws 3 40 40 == 1 || fld ws 3 41 41 == 1
  let y := { x with
    fed := x.fed ++ s.bytes a n
    bad := x.bad ++ bad.map fun i => (x.fed.length + i, 1)
    ends := if closes then x.ends ++ [x.fed.length + n] else x.ends
    st := if fld ws 3 40 40 = 1 then .ended else x.st }
  let z := y.grown s.now
  let t := (s.touch w 0 a n).putStream z
  if z.pics.any z.beyond then t.failStream z else (t.tightenRoutes z.num).settle z.num

/-- STREAM_DATA (R703, R705, R713, R723): a context that waits for routes takes no bytes (R710). -/
def execStreamData (cc : Nat) (s : State) : Host.Outcome State Fault Refusal :=
  .next (s.runMedia cc (fun c => c.op == 0x51 && c.sub == 1 && !(((s.decodeCtx (s.ctxPart cc) (fld c.words 3 39 32)).map s.paused) == some true)) (fun _ _ => []) (fun _ _ => none) dataChecks
    fun t e _ _ =>
      let ws := e.cmd.words
      let a := fld ws 2 51 0
      let n := fld ws 3 31 0
      let w := t.whoMedia cc
      match t.decodeCtx (t.ctxPart cc) (fld ws 3 39 32) with
      | none => t.rejectMedia e .mediaStreamState 0 0
      | some x =>
        if x.st = .ended then t.rejectMedia e .mediaStreamState 0 0
        else if x.st = .failed then t.endMedia e { tiles := n }
        else match (List.range n).find? fun i => region (a + i) == 8 || region (a + i) == 15 || (t.mapFault w false (a + i)).map Prod.fst == some .memUnmapped with
          | some i => t.endMedia e { status := 2, fault := some .memUnmapped, failAddr := t.globalAddr (a + i) }
          | none =>
            (t.feedStream w x ws).endMedia e { tiles := n })

/-! ROUTE (R707, R708, R711). -/

/-- Reserved bits of a route entry (R707). -/
def routeReserved (ws : List Word) : Bool :=
  fld ws 0 63 32 != 0 || fld ws 1 31 8 != 0 || fld ws 1 47 42 != 0 || fld ws 1 63 49 != 0 || fld ws 2 63 32 != 0 || fld ws 3 63 0 != 0 || augReserved ws

/-- The first fault of a route entry (R708). -/
def State.routeCheck (s : State) (p : Nat) (live : Bool) (ws : List Word) (taken : List Nat) : Option (Code × Nat) :=
  let b := s.batch (fld ws 1 7 0)
  let field := augBad ws || (live && smpWait ws)
    || (match b with | some x => batchKind x.words == 1 || decide (x.slots.length ≤ smpSlot ws) | none => false)
  let shape := match b with | some x => !([1, 3, 4].contains x.desc.n2) | none => false
  ((firstCode [(routeReserved ws, .mediaReserved), (field, .cmdField)]).orElse fun _ => slotCheck p b shape (smpSlot ws) (taken.filterMap fun k => if k / 1024 = fld ws 1 7 0 then some (k % 1024) else none)).map fun c => (c, 0)

/-- A route entry admitted with its context's LIVE and PRIORITY; its deadline is the picture's where that is earlier (R714). -/
def State.admitRoute (s : State) (x : Stream) (ws : List Word) : State :=
  let w1 : Word := BitVec.ofNat 64 ((nth ws 1 0#64).toNat % 2 ^ 49 + x.prio * 2 ^ 49 + (if x.live then 2 ^ 51 else 0))
  s.enrol (fld ws 1 7 0) (some x.num) (modAt ws 1 fun _ => w1)

/-- Checked route records admitted in order: one whose output has passed is LATE, one of a FAILED context INVALID (R711, R723). -/
def State.admitRoutes (s : State) (x : Stream) (rs : List (List Word)) : State :=
  let t := rs.foldl (fun (u : State) r =>
    let v := u.admitRoute x r
    if x.st != .failed && decide (fld r 0 31 0 < x.next) then v.resolve (fld r 1 7 0) (smpSlot r) .late 8
    else if x.st = .failed then v.resolve (fld r 1 7 0) (smpSlot r) .invalid 2
    else v) s
  (t.settle x.num).tightenRoutes x.num

/-- ROUTE (R707, R708, R711). -/
def execRoute (cc : Nat) (s : State) : Host.Outcome State Fault Refusal :=
  .next (s.runMedia cc (fun c => c.op == 0x51 && c.sub == 2 && s.tableRoom (s.ctxPart cc) (fld c.words 3 9 0 + 1)) (fun _ _ => []) (fun t c => some (t.readList64 (t.whoMedia cc) c)) addChecks
    fun t e _ list =>
      let c := e.cmd
      let n := fld c.words 3 9 0 + 1
      let p := t.ctxPart cc
      let rs := (List.range n).map (recordAt list)
      let t1 := t.touchRecord (t.whoMedia cc) (fld c.words 2 51 0) (64 * n)
      match t.decodeCtx p (fld c.words 3 23 16) with
      | none => t1.rejectMedia e .mediaStreamState 0 0
      | some x =>
        match firstBad (t.routeCheck p x.live) (fun r => fld r 1 7 0 * 1024 + smpSlot r) 0 [] rs with
        | some (i, f, a) => t1.rejectMedia e f i a
        | none =>
          (t1.admitRoutes x rs).endMedia e { tiles := n })

/-! Engines (R715 to R718). -/

/-- A picture's deadline: its earliest slot deadline; none comes last (R716). -/
def State.pictureDue (s : State) (x : Stream) (p : Pic) : Option Nat :=
  ((s.routes x.num).filter fun y => routeOut y.2.2 + 1 == p.f 1).foldl (fun m y => match m with | none => some y.2.2.deadline | some d => some (min d y.2.2.deadline)) none

/-- The order of work of pictures (R716), as a list to compare. -/
def State.pictureKey (s : State) (x : Stream) (p : Pic) : List Nat :=
  let d := s.pictureDue x p
  [if x.live then 0 else 1, 3 - x.prio, if d.isSome then 0 else 1, d.getD 0, p.arrival, x.num, p.n]

/-- Bytes of the buffer between the engines that hold decoded syntax (R717). -/
def State.syntaxHeld (s : State) : Nat := (s.media.streams.map fun x => ((x.pics.filter fun p => p.phase == 1).map fun p => p.f 17).sum).sum

/-- The pictures an entropy engine may take (R716, R717, R710). -/
def State.entropyReady (s : State) : List (Stream × Pic) :=
  s.media.streams.flatMap fun x =>
    if x.st == .encoding || x.st == .failed || s.paused x then []
    else (x.pics.filter fun p => p.phase == 0 && (x.live || decide (s.syntaxHeld + 8 * 2 ^ 20 ≤ 32 * 2 ^ 20))).map fun p => (x, p)

/-- A picture of a context changed. -/
def State.updPic (s : State) (sc n : Nat) (f : Pic → Pic) : State :=
  match s.stream sc with
  | some x => s.putStream { x with pics := x.pics.map fun p => if p.n == n then f p else p }
  | none => s

/-- PICTURE_ENTROPY_START (R716, R717). -/
def execPictureEntropyStart (engine : Nat) (s : State) : Host.Outcome State Fault Refusal :=
  .next (if 16 ≤ engine || s.unitOut (mediaUnit 3 engine) || !s.ready then s
    else
      let first := s.entropyReady.foldl (fun (m : Option (Stream × Pic)) z =>
        match m with
        | none => some z
        | some y => if s.pictureKey z.1 z.2 < s.pictureKey y.1 y.2 then some z else some y) none
      match first with
      | some (x, p) => s.updPic x.num p.n fun q => { q with phase := 1 }
      | none => s)

/-- Whether the bytes of a picture could not all be read (R720). -/
def Stream.bytesBad (x : Stream) (p : Pic) : Bool := x.bad.any fun b => decide (p.f 6 ≤ b.1) && decide (b.1 < p.f 7)

/-- The REASON for which a picture is broken, 0 for none (R720 to R722): a recovery signalled after the last failure makes whole what the references would break. -/
def Stream.brokenOf (x : Stream) (p : Pic) : Nat :=
  let recovered := p.f 4 != 0 && (match x.lastFail with | some n => decide (n < p.f 4 - 1) | none => true)
  if x.bytesBad p then 3 else if p.f 5 = 1 then 1
  else if recovered || p.f 3 == 1 then 0
  else if p.refs.any fun r => (x.pics.any fun q => q.n == r && q.broken != 0) then 7 else 0

/-! The reference area (R719). -/

/-- P of a context (R699). -/
def Stream.picSize (x : Stream) : Nat :=
  pictureSize (fld x.words 2 47 32 + 1) (fld x.words 2 63 48 + 1) (if x.st == .encoding then fld x.words 2 8 8 == 1 else fld x.words 5 4 4 == 1)

/-- Base of a context's reference area. -/
def Stream.areaBase (x : Stream) : Nat := fld x.words 3 51 0

/-- The bytes a decoded picture takes in the area: at most P, since a block that does not compress is stored raw (R719). -/
def Stream.kept (x : Stream) (p : Pic) : List Byte := (Config.keptPicture x.codec x.fed x.ends p.n).take x.picSize

/-- Where a decoded picture is put: one of the DPB_M1 + 3 places of P bytes (R699); which one is free (log entry 79). -/
def Stream.keptAt (x : Stream) (p : Pic) : Nat := x.areaBase + Config.keptPlace x.codec x.fed x.ends p.n % (fld x.words 5 3 0 + 3) * x.picSize

/-- The runs that the references of a picture take. -/
def Stream.refRuns (x : Stream) (p : Pic) : List (Nat × Nat) := (x.pics.filter fun q => p.refs.contains q.n).map Pic.area

/-- Runs of a reference area read (R719): charged to the partition that holds the context. -/
def State.readArea (s : State) (w : Who) (runs : List (Nat × Nat)) : State := runs.foldl (fun t r => t.touch w 0 r.1 r.2) s

/-- The first error met in runs of a reference area that are read. -/
def State.areaFault (s : State) (w : Who) (runs : List (Nat × Nat)) : Option (Code × Nat) := runs.findSome? fun r => s.loadFault w r.1 r.2

/-- A reconstructed picture stored in its place (R719); into a sector that cannot be merged nothing is written. -/
def State.keepPicture (s : State) (x : Stream) (p : Pic) : State :=
  if (s.storeFault x.who (x.keptAt p) (x.kept p).length).isSome then s
  else (s.store x.who 0 (x.keptAt p) (x.kept p)).updPic x.num p.n fun q => { q with area := (x.keptAt p, (x.kept p).length) }

/-- PICTURE_RECONSTRUCT (R718 to R722): the references are read and the picture written in the context's reference area (R719). -/
def execPictureReconstruct (sc pic : Nat) (s : State) : Host.Outcome State Fault Refusal :=
  .next (match s.stream sc with
    | none => s
    | some x =>
      match x.pics.find? fun p => p.n == pic with
      | none => s
      | some p =>
        let before := x.pics.all fun q => decide (pic ≤ q.n) || decide (2 ≤ q.phase)
        if p.phase != 1 || !before || x.st == .failed then s
        else
          let lost := (s.areaFault x.who (x.refRuns p)).orElse fun _ => s.storeFault x.who (x.keptAt p) (x.kept p).length
          let b := if (x.brokenOf p == 0 || x.brokenOf p == 7) && lost.isSome then 3 else x.brokenOf p
          let own := b == 1 || b == 3
          let y := { x with
            pics := x.pics.map fun q => if q.n == pic then { q with phase := 2, broken := b } else q
            lastFail := if own then some pic else x.lastFail }
          let s1 := ((s.putStream y).readArea x.who (x.refRuns p)).keepPicture x p
          let s2 := match lost with | some f => s1.countFault f.1 f.2 | none => s1
          let s3 := if b = 0 then s2 else (s2.odInc (0x5300 + sc) 4).streamFault x .mediaStreamError
          (s3.settle sc).stopOwed)

/-- A picture of a stream as the geometry unit takes it (R709). -/
def streamPicture (x : Stream) (p : Pic) : Picture :=
  let smp := fun i cx cy => Config.pictureSample x.codec x.fed x.ends [p.n, i, cx, cy]
  let full := p.f 14 == 1
  let luma : Plane := { w := p.f 9, h := p.f 10, get := fun cx cy => videoSample full false (smp 0 cx cy) (p.f 15) }
  let chroma := fun i => (({ w := ceilDiv (p.f 9) 2, h := ceilDiv (p.f 10) 2, get := fun cx cy => videoSample full true (smp i cx cy) (p.f 15) } : Plane)).resize 0 (p.f 9) (p.f 10)
  if p.f 16 = 1 then { planes := [luma], alpha := none, colour := .grey } else { planes := [luma, chroma 1, chroma 2], alpha := none, colour := .luma (streamMatrix (p.f 13)) }

/-- ROUTED_PICTURE_SHAPE (R709, R714), when a slot of the picture comes first at the unit (R678): the output picture is read from the reference area (R719), and every slot that waits for it is filled, in the order of admission; one whose deadline has passed is left to its deadline. A picture that cannot be read there makes its slots INVALID, reason 3 (DESIGN CHOICE, log entry 79). -/
def execRoutedPictureShape (sc pic : Nat) (s : State) : Host.Outcome State Fault Refusal :=
  .next (match s.stream sc with
    | none => s
    | some x =>
      match x.pics.find? fun p => p.n == pic with
      | none => s
      | some p =>
        let mine := s.routesTo sc p
        if !p.toShape || s.engineBusy 2 0 || !(((firstSample (s.waitingFor 2)).map fun y => mine.contains y) == some true) then s
        else
          let s1 := (s.updPic sc pic fun q => { q with shaped := true }).readArea x.who [p.area]
          match s.areaFault x.who [p.area] with
          | some f => mine.foldl (fun t y => t.resolve y.1 y.2.1 .invalid 3) (s1.countFault f.1 f.2).stopOwed
          | none => mine.foldl (fun t y =>
            match t.batch y.1 with
            | some b => t.fillSlot b y.2.1 (encodeElems b.desc .nearest (shapeImage y.2.2.words (streamPicture x p) b.desc y.2.1) {}).1
            | none => t) s1)

/-- Every slot that waits for the output picture `p` of decode context `sc` resolves LATE (R714, R715). -/
def State.lateSlots (s : State) (sc : Nat) (p : Pic) : State :=
  (s.routes sc).foldl (fun t y =>
    if routeOut y.2.2 + 1 == p.f 1 then
      t.passDeadline y.1 y.2.1
    else t) s

/-- LIVE_PICTURE_DEADLINE (R713 to R715). -/
def execLivePictureDeadline (sc pic : Nat) (s : State) : Host.Outcome State Fault Refusal :=
  .next (match s.stream sc with
    | none => s
    | some x =>
      match x.pics.find? fun p => p.n == pic with
      | none => s
      | some p =>
        if !x.live || p.shaped || p.phase == 3 || (x.st != .decoding && x.st != .ended) then s
        else
          let s1 := s.advance (s.picDeadline x p)
          let s2 := s1.lateSlots sc p
          if p.f 2 = 0 && p.phase == 0 then (((s2.updPic sc pic fun q => { q with phase := 3 }).odInc (0x5300 + sc) 5).streamFault x .mediaFrameDropped).settle sc
          else s2)

/-- A decode context closed (R724, R725): its DATA commands end ABORTED, its slots whose picture has not reached the geometry and colour unit resolve LATE. -/
def State.closeStream (s : State) (x : Stream) : State :=
  let data : Exec → Bool := fun e => e.cmd.op == 0x51 && e.cmd.sub == 1 && fld e.cmd.words 3 39 32 == x.num && s.ctxPart e.cmd.ctx == x.part
  let gone := s.media.queue.filter data
  let s1 := (s.withMedia fun m => { m with queue := m.queue.filter fun e => !(data e) }).abortExecs gone
  (s1.resolveRoutes x.num (fun _ => true) .late 8).withMedia fun m => { m with streams := m.streams.filter fun y => y.num != x.num }

/-- The checks of SCLOSE and ECLOSE (R724, R727). -/
def closeChecks (c : CmdInst) (_ : List RecRead) : Checks := { reserved := fld c.words 2 63 8 != 0 || [3, 4, 5, 6, 7].any fun i => fld c.words i 63 0 != 0 }

/-- SCLOSE (R724). -/
def execSclose (cc : Nat) (s : State) : Host.Outcome State Fault Refusal :=
  .next (s.runMedia cc (fun c => c.op == 0x51 && c.sub == 3) (fun _ _ => []) (fun _ _ => none) closeChecks
    fun t e _ _ => match t.decodeCtx (t.ctxPart cc) (fld e.cmd.words 2 7 0) with
      | some x => (t.closeStream x).endMedia e {}
      | none => t.rejectMedia e .mediaStreamState 0 0)

/-! Encode (R727 to R738). -/

/-- The checks of EOPEN (R728, R729). -/
def eopenChecks (c : CmdInst) (_ : List RecRead) : Checks :=
  let ws := c.words
  let w := fld ws 2 47 32 + 1
  let h := fld ws 2 63 48 + 1
  let n := fld ws 4 47 32
  { reserved := fld ws 2 31 10 != 0 || fld ws 3 63 52 != 0 || fld ws 4 63 48 != 0 || [5, 6, 7].any fun i => fld ws i 63 0 != 0
    field := c.sub != 0 || w % 8 != 0 || h % 8 != 0 || decide (w < 64) || decide (8192 < w) || decide (h < 64) || decide (4352 < h) || decide (35651584 < w * h)
      || (fld ws 2 9 9 == 1 && (decide (n < 2) || decide (256 < n))) }

/-- EOPEN (R729); it also rejects an undefined SUBOP. -/
def execEopen (cc : Nat) (s : State) : Host.Outcome State Fault Refusal :=
  .next (s.runMedia cc (fun c => c.op == 0x52 && (c.sub == 0 || decide (2 < c.sub))) (fun _ _ => []) (fun _ _ => none) eopenChecks
    fun t e _ _ =>
      let ws := e.cmd.words
      if (t.stream (fld ws 2 7 0)).isSome then t.rejectMedia e .mediaStreamState 0 0
      else if t.refAreaBad (t.whoMedia cc) (fld ws 3 51 0) (fld ws 4 31 0) (2 * pictureSize (fld ws 2 47 32 + 1) (fld ws 2 63 48 + 1) (fld ws 2 8 8 == 1)) then t.rejectMedia e .mediaRefArea 0 0
      else
        let x : Stream := { num := fld ws 2 7 0, part := t.ctxPart cc, ctx := cc, st := .encoding, words := ws }
        (t.withMedia fun m => { m with streams := m.streams ++ [x] }).endMedia e {})

/-- The checks of PICTURE (R730). -/
def pictureChecks (c : CmdInst) (_ : List RecRead) : Checks :=
  let ws := c.words
  { reserved := fld ws 2 63 52 != 0 || fld ws 3 63 52 != 0 || fld ws 4 63 39 != 0 || fld ws 5 63 52 != 0 || fld ws 6 63 40 != 0 || fld ws 7 63 52 != 0
    field := decide (51 < fld ws 4 37 32) || fld ws 4 31 0 % 64 != 0 || fld ws 7 51 0 % 64 != 0 }

/-- The runs of bytes an input picture takes: luma rows, then Cb and Cr rows (R730, R731). -/
def inputRuns (x : Stream) (ws : List Word) : List (Nat × Nat) :=
  let w := fld x.words 2 47 32 + 1
  let h := fld x.words 2 63 48 + 1
  let b := if fld x.words 2 8 8 = 1 then 2 else 1
  let pitch := fld ws 4 31 0
  let ca := fld ws 3 51 0
  let chroma := fun base => (List.range (h / 2)).map fun r => (base + r * (pitch / 2), b * (w / 2))
  (List.range h).map (fun r => (fld ws 2 51 0 + r * pitch, b * w)) ++ chroma ca ++ chroma (ca + pitch / 2 * (h / 2))

/-- Whether an address lies where PICTURE may read or write (R731). -/
def pictureRegion (a : Nat) : Bool := region a == 0 || region a == 1 || (decide (0x10 ≤ region a) && decide (region a < 0x20))

/-- The fault a PICTURE's access to a run meets. -/
def State.pictureFault (s : State) (w : Who) (write : Bool) (r : Nat × Nat) : Option (Code × Nat) :=
  (((List.range r.2).find? fun i => !(pictureRegion (r.1 + i))).map fun i => (Code.memUnmapped, r.1 + i)).orElse fun _ =>
    if write then s.storeFault w r.1 r.2 else s.loadFault w r.1 r.2

/-- The refresh columns of a position (R733): first and last, 0xFFFF where there are none. -/
def refreshColumns (x : Stream) (pos : Nat) : Nat × Nat :=
  let c := ceilDiv (fld x.words 2 47 32 + 1) 64
  let n := fld x.words 4 47 32
  if fld x.words 2 9 9 = 0 || n = 0 || pos * c / n = (pos + 1) * c / n then (0xFFFF, 0xFFFF) else (pos * c / n, (pos + 1) * c / n - 1)

/-- Whether the picture at a distance from the last IDR is an IDR by PERIOD (R732). -/
def idrDue (x : Stream) (since : Nat) : Bool := fld x.words 2 9 9 == 0 && fld x.words 4 47 32 != 0 && since == fld x.words 4 47 32

/-! What the encoder may choose (R733 to R735). -/

/-- The CTU columns of a coded picture. -/
def ctuColumns (x : Stream) : Nat := ceilDiv (fld x.words 2 47 32 + 1) 64

/-- The clean boundary of a position (R734). -/
def cleanColumn (x : Stream) (pos : Nat) : Nat := pos * ctuColumns x / fld x.words 4 47 32

/-- The tile-column boundary of a position (R734): 0 where there is none. -/
def tileColumn (x : Stream) (pos : Nat) : Nat := let t := (pos + 1) * ctuColumns x / fld x.words 4 47 32; if t < ctuColumns x then t else 0

/-- The samples of one direction that a block's prediction reads, lowest and highest, from a start, a size and a vector in `d` steps a sample; `before` and `after` are the taps beyond, of which a whole vector needs none. -/
def readSpan (start size : Nat) (mv d : Int) (before after : Int) : Int × Int :=
  let a : Int := start + mv.fdiv d
  let frac := mv.fmod d != 0
  (if frac then a - before else a, a + size - 1 + (if frac then after else 0))

/-- Whether a span of luma samples and one of chroma samples lie in a search window that begins at `lo` and ends at `hi` (R735). -/
def inWindow (luma chroma : Int × Int) (lo hi : Int) : Bool :=
  decide (lo ≤ luma.1) && decide (luma.2 ≤ hi) && decide (lo ≤ 2 * chroma.1) && decide (2 * chroma.2 ≤ hi)

/-- What a block reads along a row and along a column: the 8 luma taps and the 4 chroma taps of HEVC included. -/
def InterBlock.spans (b : InterBlock) : ((Int × Int) × (Int × Int)) × ((Int × Int) × (Int × Int)) :=
  ((readSpan b.x b.w b.mvx 4 3 4, readSpan (b.x / 2) (b.w / 2) b.mvx 8 1 2), (readSpan b.y b.h b.mvy 4 3 4, readSpan (b.y / 2) (b.h / 2) b.mvy 8 1 2))

/-- Whether a block may be chosen in a picture of a context at a position: inside the picture and one CTU, its reads inside that CTU's window (R735); in low-latency mode outside the refresh columns (R733), and below the clean boundary only from columns below it (R734). -/
def blockMay (x : Stream) (pos : Nat) (b : InterBlock) : Bool :=
  let s := b.spans
  let x0 : Int := (b.x / 64 * 64 : Nat)
  let y0 : Int := (b.y / 64 * 64 : Nat)
  let c := cleanColumn x pos
  let cols := refreshColumns x pos
  decide (0 < b.w) && decide (0 < b.h) && b.x / 64 == (b.x + b.w - 1) / 64 && b.y / 64 == (b.y + b.h - 1) / 64
    && decide (b.x + b.w ≤ fld x.words 2 47 32 + 1) && decide (b.y + b.h ≤ fld x.words 2 63 48 + 1)
    && inWindow s.1.1 s.1.2 (x0 - 128) (x0 + 191) && inWindow s.2.1 s.2.2 (y0 - 64) (y0 + 127)
    && (fld x.words 2 9 9 == 0
      || ((cols.1 == 0xFFFF || decide (b.x / 64 < cols.1) || decide (cols.2 < b.x / 64))
        && (decide (c ≤ b.x / 64) || (decide (s.1.1.2 < 64 * c) && decide (2 * s.1.2.2 + 1 < 64 * c)))))

/-- The parameters a picture is coded with (R732 to R734): TYPE, QP and position; first and last refresh column; in low-latency mode the tile-column boundary, with loop filtering across tiles (0) and temporal motion-vector prediction (0) off, and whether a recovery point SEI with recovery_poc_cnt N - 1 and exact_match_flag 1 is carried, with its recovery_poc_cnt. -/
def codingRules (x : Stream) (typ qp pos : Nat) : List Nat :=
  let cols := refreshColumns x pos
  [typ, qp, pos, cols.1, cols.2] ++
    (if fld x.words 2 9 9 = 1 then [tileColumn x pos, 0, 0, if pos = 0 && typ != 0 then 1 else 0, fld x.words 4 47 32 - 1] else [])

/-- Samples as the encoder takes them: of a 10-bit sample the upper six bits are ignored (R731). -/
def samplesOf10 (ten : Bool) (bs : List Byte) : List Byte := if ten then bs.zipIdx.map fun x => if x.2 % 2 = 1 then x.1 &&& 3#8 else x.1 else bs

/-- One coded picture: its access unit, its inter blocks, the bytes written at OUT, whether the unit is longer than OUT_CAP, the words of its result record, what it was coded from, and its distance from the last IDR. -/
structure Coded where
  unit : List Byte
  blocks : List InterBlock
  written : List Byte
  spill : Bool
  result : List Nat
  hist : List (List Byte)
  dist : Nat

/-- The picture an encode context codes next from the input a PICTURE names (R732 to R737). -/
def State.codedPicture (s : State) (x : Stream) (ws : List Word) : Coded :=
  let period := fld x.words 4 47 32
  let low := fld x.words 2 9 9 == 1
  let idr := x.needIdr || fld ws 4 38 38 == 1 || idrDue x x.sinceIdr
  let dist := if idr then 0 else x.sinceIdr
  let pos := if low then dist % period else 0
  let cols := refreshColumns x pos
  let typ := if idr then 0 else if cols.1 = 0xFFFF then 2 else 1
  let input := (inputRuns x ws).flatMap fun r => samplesOf10 (fld x.words 2 8 8 == 1) (s.bytes r.1 r.2)
  let hist := (if idr then [] else x.coded) ++ [input]
  let blocks := if idr then [] else (Config.proposed x.words hist [fld ws 4 37 32, pos]).filter (blockMay x pos)
  let au := Config.accessUnit x.words hist (codingRules x typ (fld ws 4 37 32) pos) blocks
  let cap := fld ws 6 31 0
  let spill := decide (cap < au.length)
  { unit := au, blocks := blocks, spill := spill, hist := hist, dist := dist
    written := if spill then (List.range cap).map (Config.spilt au) else au
    result := [(if spill then 2 ^ 40 else au.length) + typ * 2 ^ 32, dist, s.now, s.now, cols.1 + cols.2 * 2 ^ 16, 0, 0, 0] }

/-- The two places of P bytes of an encode context's area take its pictures in turn (R729). -/
def Stream.nextPlace (x : Stream) : Nat := if x.area.1 = x.areaBase then x.areaBase + x.picSize else x.areaBase

/-- The reference picture's samples as a coded picture loads them (R735): for each CTU row the rows above and below it too, in shares of the stored bytes that the model takes as even (log entry 79). -/
def Stream.windowRuns (x : Stream) : List (Nat × Nat) :=
  let n := ceilDiv (fld x.words 2 63 48 + 1) 64
  (List.range n).map fun r =>
    let a := (r - 1) * x.area.2 / n
    (x.area.1 + a, min n (r + 2) * x.area.2 / n - a)

/-- A coded picture's reconstruction kept as the next one's reference (R719, R732). -/
def State.keepCoded (s : State) (w : Who) (x : Stream) (k : Coded) : State :=
  let bs := (Config.keptPicture 3 k.unit [] 0).take x.picSize
  if (s.storeFault w x.nextPlace bs.length).isSome then s
  else match s.stream x.num with
    | some y => (s.store w 0 x.nextPlace bs).putStream { y with area := (x.nextPlace, bs.length), blocks := k.blocks }
    | none => s

/-- A coded picture and its result record stored, and the context moved on; an overflow is raised and makes the next picture an IDR (R738). -/
def State.storeCoded (s : State) (w : Who) (x : Stream) (ws : List Word) (k : Coded) : State :=
  let t := ((s.store w 0 (fld ws 5 51 0) k.written).store w 0 (fld ws 7 51 0) (bytesOfWords (k.result.map (BitVec.ofNat 64)))).putStream
    { x with coded := k.hist, sinceIdr := k.dist + 1, needIdr := k.spill, next := if k.spill || idrDue x (k.dist + 1) then 0 else k.dist + 1 }
  if k.spill then t.streamFault x .mediaEncOverflow else t

/-- ENCODE_PICTURE (R730 to R738). -/
def execEncodePicture (cc : Nat) (s : State) : Host.Outcome State Fault Refusal :=
  .next (s.runMedia cc (fun c => c.op == 0x52 && c.sub == 1) (fun _ _ => []) (fun _ _ => none) pictureChecks
    fun t e _ _ =>
      let ws := e.cmd.words
      let w := t.whoMedia cc
      match t.encodeCtx (t.ctxPart cc) (fld ws 6 39 32) with
      | none => t.rejectMedia e .mediaStreamState 0 0
      | some x =>
        let runs := inputRuns x ws
        let k := t.codedPicture x ws
        let refs := if k.dist = 0 then [] else x.windowRuns
        match (runs.findSome? (t.pictureFault w false)).orElse fun _ => t.areaFault w refs with
        | some f => t.endMedia e { status := 2, fault := some f.1, failAddr := t.globalAddr f.2 }
        | none =>
          let t1 := (t.readArea w runs).readArea w refs
          match (t1.pictureFault w true (fld ws 5 51 0, k.written.length)).orElse fun _ => t1.pictureFault w true (fld ws 7 51 0, 64) with
          | some f => t1.endMedia e { status := 2, fault := some f.1, failAddr := t.globalAddr f.2 }
          | none => ((t1.storeCoded w x ws k).keepCoded w x k).endMedia e { tiles := if k.spill then 0 else k.unit.length })

/-- ECLOSE (R727). -/
def execEclose (cc : Nat) (s : State) : Host.Outcome State Fault Refusal :=
  .next (s.runMedia cc (fun c => c.op == 0x52 && c.sub == 2) (fun _ _ => []) (fun _ _ => none) closeChecks
    fun t e _ _ => match t.encodeCtx (t.ctxPart cc) (fld e.cmd.words 2 7 0) with
      | some x => (t.withMedia fun m => { m with streams := m.streams.filter fun y => y.num != x.num }).endMedia e {}
      | none => t.rejectMedia e .mediaStreamState 0 0)

end Sys2Proof.Machine
end

