-- ==== Sys2Proof/Machine/Entries.lean ====
section
/-! DEFINITION. Reading the object dictionary (R13, R790, R791, R799): entries that show other state, and those that hold a value of their own. -/
namespace Sys2Proof.Machine

/-- State of a norm group in 0x362p. -/
def groupNum : GroupSt → Nat
  | .idle => 0 | .gathering => 1 | .sent => 2 | .go => 3 | .skip => 4 | .abandoned => 5

/-- State of a barrier group in 0x372p. -/
def barNum : BarSt → Nat
  | .idle => 0 | .gathering => 1 | .sent => 2 | .released => 3

/-- State of a stream context in 0x53cc/01. -/
def streamNum : StreamSt → Nat
  | .decoding => 1 | .ended => 2 | .failed => 3 | .encoding => 4

/-- STATE of a context, bits as 0x22cc/07 shows them (R621): the condition in [2:0], RESIDENT in [7]. -/
def State.ctxStateNum (s : State) (cc : Nat) : Nat := condNum (s.ctx cc).cond + (if (s.ctx cc).resident then 128 else 0)

/-- Identity and management entries (R804). -/
def State.readMgmt (s : State) (ix sub : Nat) : Option Nat :=
  if ix = 0x1000 then (if sub = 6 then some s.pwr.stage else none)
  else if ix = 0x1100 then
    (if sub = 1 then some s.mgmt.node
     else if sub = 8 then some (flagNum s.mgmt.addrIn + 2 * flagNum s.mgmt.addrOut + 4 * flagNum s.mgmt.confirmed)
     else none)
  else none

/-- Partition, context and arbiter entries (R608, R619, R644). -/
def State.readSched (s : State) (ix sub : Nat) : Option Nat :=
  if ix / 16 = 0x200 then (if sub = 2 then some (partStNum (s.part (ix % 16)).st) else none)
  else if ix / 256 = 0x22 then
    (if sub = 7 then some (s.ctxStateNum (ix % 256)) else if sub = 8 then some (s.ctx (ix % 256)).blockedAt else none)
  else if ix = 0x2AF0 then (if sub = 2 then some ((s.arbPending.map fun x => 2 ^ x.1).sum) else none)
  else none

/-- HBM entries (R265). -/
def State.readHbm (s : State) (ix sub : Nat) : Option Nat :=
  let d := ix % 16
  if ix = 0x3000 then (if sub = 1 then some s.hbmSize else some ((List.range 8).map s.activeOf).sum)
  else if ix / 16 = 0x301 then
    (if sub = 1 then some (s.sliceBase d) else if sub = 2 then some (s.sliceSize d)
     else if sub = 3 then some (nth s.hbm.active (2 * d) 0) else if sub = 4 then some (nth s.hbm.active (2 * d + 1) 0) else none)
  else none

/-- Attic and crate-cache entries. -/
def State.readTier (s : State) (ix sub : Nat) : Option Nat :=
  let p := ix % 16
  let held := fun (cellar : Bool) => (s.tier.slots.filter fun x => x.part == p && x.cellar == cellar).length
  if ix = 0x3300 then
    (if sub = 2 then some (7812500000 - (s.tier.crates.map fun c => crateUnits c.bytes).sum)
     else if sub = 4 then some s.tier.spares.sum else if sub = 6 then some s.tier.ignored else if sub = 9 then some s.tierStatus else none)
  else if ix / 16 = 0x340 then
    (if sub = 4 then some (held false) else if sub = 5 then some (held true) else if sub = 6 then some (s.atticHeld p) else none)
  else none

/-- Group, window and identity entries of the host and of jobs (R492, R550, R779). -/
def State.readJob (s : State) (ix sub : Nat) : Option Nat :=
  let p := ix % 16
  if ix / 16 = 0x362 then (let g := s.group p (sub - 1); some (g.step % 2 ^ 60 + groupNum g.st * 2 ^ 61))
  else if ix / 16 = 0x372 then (let g := s.barrier p (sub - 1); some (g.step % 2 ^ 60 + barNum g.st * 2 ^ 61))
  else if ix = 0x3800 then (if sub = 7 then some s.host.winCellar else if sub = 8 then some s.host.winHbm else none)
  else none

/-- Link and time entries (R446, R447). -/
def State.readFabric (s : State) (ix sub : Nat) : Option Nat :=
  let k := s.link (ix % 256)
  if 0x4100 ≤ ix && ix < 0x4124 then
    (if sub = 2 then some (linkStNum k.st) else if sub = 3 then some k.active else if sub = 4 then some k.nbSerial else if sub = 5 then some k.nbLink
     else if sub = 6 then some k.nbAddr else if sub = 7 then some k.nbBond else if sub = 11 then some k.delay else if sub = 12 then some (s.bondSkew (ix % 256)) else none)
  else if ix = 0x4300 then
    (if sub = 2 then some (timeStNum s.time.st) else if sub = 3 then some (s.time.upstream.getD 0xFF) else if sub = 4 then some s.hopCount
     else if sub = 5 then some (ofSigned 32 s.time.offset)
     else if sub = 7 then some (match s.time.lastPulse with | some t => flagNum (decide (s.now ≤ t + 2000000000)) | none => 0)
     else none)
  else none

/-- Whether every slot of a batch is resolved. -/
def Batch.allResolved (b : Batch) : Bool := b.slots.all fun x => x.res != .empty && x.res != .admitted

/-- 0x51bb/01. -/
def State.batchNum (s : State) (b : Nat) : Nat :=
  match s.media.batches.find? fun x => x.handle == b with
  | some x => (if x.allResolved then 2 else 1) + x.part * 16 + (x.slots.filter fun y => y.res != .empty && y.res != .admitted).length * 2 ^ 16
  | none => 0

/-- Media entries (R691, R739). -/
def State.readMedia (s : State) (ix sub : Nat) : Option Nat :=
  if ix = 0x5000 then (if sub = 1 then some s.media.batches.length else some (((List.range 16).map s.samplesOf).sum))
  else if ix / 16 = 0x501 then (if sub = 5 then some (s.samplesOf (ix % 16)) else none)
  else if ix / 256 = 0x51 then some (s.batchNum (ix % 256))
  else if ix / 256 = 0x53 then
    (let x := s.media.streams.find? fun y => y.num == ix % 256
     if sub = 1 then some ((x.map fun y => streamNum y.st).getD 0)
     else if sub = 2 then some ((x.map Stream.part).getD 0xFF)
     else if sub = 3 then some ((x.map Stream.next).getD 0)
     else none)
  else none

/-- The eleven totals of a partition (R605): those of its cores and those that cores left behind. -/
def State.totals (s : State) (p : Nat) : List Nat :=
  (s.ownCores p (s.quarters p)).foldl (fun a n => List.zipWith (· + ·) a (coreTotals (s.core n))) (s.part p).left

/-- Counting entries that show other state (R150, R605, R804). -/
def State.readCounts (s : State) (ix sub : Nat) : Option Nat :=
  let cc := ix % 256
  if ix = 0x6020 then (if sub = 1 then some s.flying.length else none)
  else if ix / 16 = 0x610 then some (if (s.part (ix % 16)).st = .absent then 0 else nth (s.totals (ix % 16)) (sub - 1) 0)
  else if ix / 256 = 0x63 then
    (if sub = 5 then some (s.tier.slots.filter fun x => x.ctx == some cc && !x.cellar).length
     else if sub = 6 then some (s.tier.slots.filter fun x => x.ctx == some cc && x.cellar).length
     else if sub = 7 then some ((s.tier.crates.filter fun x => x.ctx == some cc).map fun x => crateUnits x.bytes).sum
     else none)
  else none

/-- The sum of a factory value and a user offset, as numbers of `n` bits. -/
def offsetSum (n a b : Nat) : Nat := ofSigned n (toSigned n (a % 2 ^ n) + toSigned n (b % 2 ^ n))

/-- Effective calibration values (R808, R809). -/
def State.readCal (s : State) (ix sub : Nat) : Option Nat :=
  if sub < 0x81 || ix < 0x7800 || 0x7FFF < ix then none
  else
    let f := s.odN (ix - 0x800) (sub - 0x80)
    if 0x7900 ≤ ix then some (if s.odN ix (sub - 0x40) = 1 then s.odN ix (sub - 0x80) else f)
    else some (offsetSum (if ix = 0x7850 then 32 else 16) f (s.odN ix 1))

/-- The record that 0x8000/03 selects (R853): its words, or zeros once overwritten. -/
def State.selected (s : State) : List Nat :=
  match s.diag.ring.find? fun r => r.seq == s.odN 0x8000 3 with
  | some r => (faultWords r).map BitVec.toNat
  | none => List.replicate 8 0

/-- Fault, repair and recorder entries (R865). -/
def State.readDiag (s : State) (ix sub : Nat) : Option Nat :=
  if ix = 0x8000 then
    (if sub = 1 || sub = 2 then some s.diag.raised else if sub = 4 then some s.diag.silent else if sub = 6 then some s.diag.cause else none)
  else if ix = 0x8001 then some (nth s.selected (sub - 1) 0)
  else if ix = 0x8020 then
    (if sub = 1 then some s.diag.repair.length else if sub = 3 then some (nth s.diag.repair (s.odN 0x8020 2) 0#64).toNat else none)
  else if ix = 0x8200 then (if sub = 1 then some (s.diag.recSeq - 1) else if sub = 2 then some (flagNum s.diag.frozen) else none)
  else none

/-- Staging state in 0x901t/05. -/
def stagingNum : Staging → Nat
  | .empty => 0 | .receiving => 1 | .committed => 2 | .failed => 3

/-- Firmware and security entries (R814, R823). -/
def State.readSec (s : State) (ix sub : Nat) : Option Nat :=
  let f := s.fw (ix % 16)
  if ix / 16 = 0x901 then
    (if sub = 1 then some f.version else if sub = 2 then some f.svn else if sub = 3 then some f.fuse else if sub = 4 then some (flagNum f.runningB)
     else if sub = 5 then some (stagingNum f.staging) else none)
  else if ix = 0x9100 then (if sub = 2 then some s.host.ide else none)
  else if ix = 0x9200 then
    (if sub = 1 then some Config.spdmAlgorithm.toNat else if sub = 3 then some (s.sec.doeSessions + 8 * s.sec.tchSessions) else none)
  else if ix = 0x9300 then
    (if sub = 1 then some (Config.nonce s.sec.nonces).toNat else if sub = 3 then some s.sec.levels else if sub = 4 then some s.sec.outcome else none)
  else none

/-- What 0xA01s/02 shows (R306): 2 while a ceiling is in force, also when refresh is no longer doubled (log entry 76), 1 while refresh is doubled. -/
def stackSt (x : Stack) : Nat := if x.ceiling != 0 then 2 else if x.doubled then 1 else 0

/-- Power and thermal entries (R306, R896, R911). -/
def State.readPower (s : State) (ix sub : Nat) : Option Nat :=
  let p := s.pwr
  if ix = 0xA000 then
    (if sub = 1 then some p.mv else if sub = 2 then some p.ma else if sub = 3 then some p.watts else if sub = 5 then some p.ceiling
     else if sub = 7 then some (ofSigned 16 p.coolIn) else if sub = 8 then some (ofSigned 16 p.coolOut) else if sub = 9 then some p.alert else none)
  else if ix / 16 = 0xA01 then
    (let x := s.stack (ix % 16)
     if sub = 1 then some (ofSigned 16 x.temp) else if sub = 2 then some (stackSt x) else if sub = 3 then some x.ceiling else none)
  else if 0xA020 ≤ ix && ix < 0xA04B then
    (let x := s.island (ix - 0xA020)
     if sub = 2 then some x.mv else if sub = 3 then some (ofSigned 16 x.temp)
     else if sub = 4 then some (if x.power = 2 && x.sampled then rateOf x.mv x.temp else 0)
     else if sub = 5 then some x.ceiling else if sub = 6 then some x.power else none)
  else none

/-- What an entry that shows other state reads as; none for one that holds its own value. -/
def State.derived (s : State) (ix sub : Nat) : Option Nat :=
  match ix / 4096 with
  | 1 => s.readMgmt ix sub
  | 2 => s.readSched ix sub
  | 3 => ((s.readHbm ix sub).orElse fun _ => s.readTier ix sub).orElse fun _ => s.readJob ix sub
  | 4 => s.readFabric ix sub
  | 5 => s.readMedia ix sub
  | 6 => s.readCounts ix sub
  | 7 => s.readCal ix sub
  | 8 => s.readDiag ix sub
  | 9 => s.readSec ix sub
  | 10 => s.readPower ix sub
  | _ => none

/-- An entry's value, as its own type's bits (R785: zero-extended); a write-only entry reads as zero (R13). -/
def State.odValue (s : State) (r : OdRow) (ix sub : Nat) : Nat :=
  if r.acc = .wo then 0 else (if r.acc = .ro then s.derived ix sub else none).getD (s.odN ix sub) % 2 ^ r.bits

/-! The bridge to the dies (R860, R862). -/

/-- The die, by its bit of 0x8000/04, whose registers hold an entry that only shows or counts: Larder and HBM counters and stack sensors a compute die's, links' entries a port die's, update engines' a cellar die's, the Attic's and the media engines' their own die's. Which entries are a die's registers is the model's choice (log entry 78); those of R896 are the power controller's. -/
def bridged (ix sub : Nat) : Option Nat :=
  if ix / 16 = 0x301 && 5 ≤ sub then some (ix % 16)
  else if ix / 16 = 0xA01 then some (ix % 16 / 2)
  else if 0x4100 ≤ ix && ix < 0x4124 && sub != 1 && sub != 8 && sub != 10 then some (8 + (ix - 0x4100) / 9)
  else if ix / 16 = 0x361 then some (12 + ix % 16)
  else if ix = 0x3300 && sub != 3 && sub != 5 then some 16
  else if ix = 0x5000 || (ix / 16 = 0x501 && 2 ≤ sub && sub ≤ 5) || ix / 256 = 0x51 || ix / 256 = 0x53 then some 17
  else none

/-- Whether a die answers the bridge, by its bit of 0x8000/04: while it is powered (DEDUCED, log entry 78). -/
def State.dieAnswers (s : State) (b : Nat) : Bool :=
  if b < 8 then s.uncoreOn b else if b < 12 then (s.island (32 + (b - 8))).power != 0 else if b < 16 then (s.island (36 + (b - 12))).power != 0
  else if b = 16 then (s.island 41).power != 0 else (s.island 40).power != 0

/-- What a die delivered for an entry remembered, and the die seen to answer. -/
def State.deliver (s : State) (b key v : Nat) : State :=
  s.withDiag fun d => { d with delivered := mapPut (fun _ => 0) d.delivered key v, silent := setBit d.silent b false }

/-- What the bridge last had from a die for an entry (R862): 0 where nothing was. -/
def State.lastDelivered (s : State) (key : Nat) : Nat := mapGet (fun _ => 0) s.diag.delivered key

/-- A read of an entry (R790, R791): status, value, and an RC entry cleared (R13); one held by a die that does not answer has the die's last delivered value, and the die's bit is set (R862). -/
def State.odRead (s : State) (ix sub : Nat) : State × Nat × Nat :=
  match odFind ix sub with
  | none => (s, 1, 0)
  | some r =>
    let t := if r.acc = .rc then s.odSetN ix sub 0 else s
    match bridged ix sub with
    | none => (t, 0, s.odValue r ix sub)
    | some b =>
      if s.dieAnswers b then (t.deliver b (odKey ix sub) (s.odValue r ix sub), 0, s.odValue r ix sub)
      else (s.withDiag fun d => { d with silent := setBit d.silent b true }, 0, s.lastDelivered (odKey ix sub))

end Sys2Proof.Machine
end

