-- ==== Sys2Proof/Machine/OdWrite.lean ====
section
/-! DEFINITION. Writing the object dictionary (R801): what is refused and with which status (R791, R901), what a write does besides holding its value, the persistent store (R800), and the rows that are writes. -/
namespace Sys2Proof.Machine

/-! Whether a value may be written at all (R901: ACCESS, RANGE). -/

/-- The number that a written value stands for: for a signed type its bits, zero-extended or sign-extended to 64 (R785). -/
def writtenAs (r : OdRow) (v : Nat) : Option Int :=
  if r.signed then
    (if v < 2 ^ r.bits then some (toSigned r.bits v)
     else if 2 ^ 64 - 2 ^ (r.bits - 1) ≤ v && v < 2 ^ 64 then some ((v : Int) - 2 ^ 64) else none)
  else if v < 2 ^ r.bits then some (v : Int) else none

/-- A power of two. -/
def isPow2 (v : Nat) : Bool := (List.range 64).any fun i => v == 2 ^ i

/-- Values beyond a row's bounds that its rule names besides: thresholds that are off (R552). -/
def extraValue (ix sub v : Nat) : Bool := ix / 256 == 0x2E && decide (5 ≤ sub) && decide (sub ≤ 8) && v == 0xFFFFFFFF

/-- Whether a value keeps the entry's own form: its multiple, its power of two, or one of the values its rule names (R412, R415, R416, R553, R619, R747, R779, R804, R810, R875). -/
def formOk (ix sub v : Nat) : Bool :=
  if ix / 256 = 0x22 then
    (match sub with
     | 1 => decide (v < 16) || v == 0xFF
     | 3 => v % 32 == 0
     | 5 => v == 0 || decide (100 ≤ v)
     | 9 | 11 | 12 => v % 4096 == 0
     | 10 | 13 => isPow2 v
     | 14 => v % 64 == 0
     | 15 => decide (v < 2048) || v == 0xFFFF
     | _ => true)
  else if ix / 256 = 0x2E then sub != 1 || v % 128 == 0
  else if ix = 0x1100 then sub != 6 || v == 0 || decide (100 ≤ v)
  else if ix = 0x3800 then (if sub ≤ 4 then v % 268435456 == 0 else sub != 5 || decide (v < 16) || v == 0xFF)
  else if ix = 0x4000 then sub != 1 || decide (v < 4096) || v == 0xFFFF
  else if ix / 16 = 0x420 then
    decide (bits v 26 24 ≤ 4) && (List.range 4).all fun i => decide (bits v 26 24 ≤ i) || decide (bits v (6 * i + 5) (6 * i) ≤ 35)
  else if 0xA020 ≤ ix && ix < 0xA04B then sub != 1 || v % 25 == 0
  else if ix = 0x8000 then sub != 5 || v == 0xA5
  else true

/-- Whether a user value keeps the effective value in its range (R809, R810). -/
def State.calOk (s : State) (ix sub : Nat) (v : Int) : Bool :=
  let sum := fun (n : Nat) => toSigned n (s.odN (ix - 0x800) sub % 2 ^ n) + v
  if 0x7810 ≤ ix && ix < 0x7820 then decide ((sum 16).natAbs ≤ 160)
  else if 0x7830 ≤ ix && ix < 0x7850 then decide ((sum 16).natAbs ≤ 25)
  else if ix = 0x7850 then decide ((sum 32).natAbs ≤ 50000000)
  else if 0x7900 ≤ ix && ix < 0x7924 then decide (6 ≤ sub) || decide (v ≤ 15)
  else true

/-- Whether an entry's rule refuses every value (R901): VH, and class 3 of the arbiters (R644). -/
def refusesAll (ix sub : Nat) : Bool := (ix == 0xA04A && sub == 1) || ((ix / 16 == 0x2A1 || ix / 16 == 0x2A2) && sub == 4)

/-- RANGE (R901): what the value alone decides. -/
def State.rangeOk (s : State) (r : OdRow) (ix sub v : Nat) : Bool :=
  match writtenAs r v with
  | none => false
  | some x => ((decide (r.mn ≤ x) && decide (x ≤ r.mx)) || extraValue ix sub v) && formOk ix sub v && s.calOk ix sub x

/-! Whether the present state allows it (R901: STATE). -/

/-- Whether every link is in a state in which the fabric address may change (R412). -/
def State.linksQuiet (s : State) : Bool := s.links.all fun k => k.st == .disabled || k.st == .training || k.st == .down

/-- Whether a write to partition p's QUARTERS or landing range is allowed by the state (R550, R610). -/
def State.partStateOk (s : State) (ix sub p : Nat) : Bool :=
  if ix / 16 = 0x200 && sub = 1 then (s.part p).st == .absent || (s.part p).st == .stopped
  else if ix / 16 = 0x371 && sub ≤ 2 then !(s.coll.runs.any fun r => s.partOfCtx r.exec.cmd.ctx == some p)
  else true

/-- STATE (R901): what the state of a partition, context, group, link or command decides. -/
def State.stateOk (s : State) (ix sub : Nat) : Bool :=
  let cc := ix % 256
  if ix / 256 = 0x22 then
    (if sub = 1 || (9 ≤ sub && sub ≤ 14) then (s.ctx cc).cond == .absent
     else if sub = 3 || sub = 4 then (s.flyingOf cc).isEmpty else true)
  else if ix / 256 = 0x2E then sub != 1 && sub != 2 || (s.flyingOf cc).isEmpty
  else if ix / 16 = 0x2F3 then (let g := (s.group (ix % 16) ((sub - 1) / 16)).st; g != .gathering && g != .sent)
  else if ix = 0x4000 then sub != 1 || s.linksQuiet
  else s.partStateOk ix sub (ix % 16)

/-! Whether other entries allow it (R901: SUM). -/

/-- The sum over all partitions of an entry, with one of them taken as `v`. -/
def State.sumWith (s : State) (base sub p v : Nat) : Nat := ((List.range 16).map fun q => if q = p then v else s.odN (base + q) sub).sum

/-- Whether a write to an entry of partition p keeps its sums (R354, R356, R610, R613, R637). -/
def State.partSumOk (s : State) (ix sub p v : Nat) : Bool :=
  if ix / 16 = 0x200 then
    (if sub = 1 then (List.range 16).all fun q => q == p || v &&& s.quarters q == 0
     else if sub = 6 || sub = 9 then decide (s.sumWith 0x2000 sub p v ≤ 128)
     else if sub = 7 then decide (s.sumWith 0x2000 sub p v ≤ 256)
     else sub != 8 || decide (s.sumWith 0x2000 sub p v ≤ 512))
  else if ix / 16 = 0x201 then decide (8 ≤ sub) || decide (s.sumWith 0x2010 sub p v ≤ 1024)
  else if ix / 16 = 0x340 then
    (if sub = 1 then decide (s.sumWith 0x3400 1 p v ≤ s.tier.cacheH)
     else if sub = 2 then decide (s.sumWith 0x3400 2 p v ≤ s.tier.cacheK)
     else sub != 3 || (decide (s.atticHeld p ≤ v) && decide (s.sumWith 0x3400 3 p v ≤ 7812500000)))
  else true

/-- Whether a landing range of partition p stays within 4U units and clear of the others (R550). -/
def State.landOk (s : State) (p first count : Nat) : Bool :=
  decide (first + count ≤ 4 * s.coll.units) && (List.range 16).all fun q =>
    q == p || !(overlap first count (s.odN (0x3710 + q) 1) (s.odN (0x3710 + q) 2))

/-- Whether L, MIN and MAX of a group agree once one of them is `x` (R565). -/
def State.lossOk (s : State) (ix sub : Nat) (x : Int) : Bool :=
  let g := (sub - 1) / 16
  let k := (sub - 1) % 16 + 1
  let at_ := fun (j : Nat) => if k = j then x else toSigned 8 (s.odN ix (16 * g + j) % 256)
  if k = 1 || k = 5 || k = 6 then decide (at_ 5 ≤ at_ 6) && decide (at_ 5 ≤ at_ 1) && decide (at_ 1 ≤ at_ 6) else true

/-- Whether a statistics buffer of T records at an address lies where R553 allows. -/
def State.bufferOk (s : State) (a t : Nat) : Bool :=
  let n := 128 * t
  if a = 0 then true
  else if region a = 0 then decide (offset a + n ≤ s.hbmSize) && s.hbmAreas.all fun e => !(overlap (offset a) n e.1 (e.2 - e.1))
  else decide (0x10 ≤ region a) && decide (a + n ≤ 0x20 * 2 ^ 44)

/-- SUM (R901): what values held elsewhere decide. -/
def State.sumOk (s : State) (r : OdRow) (ix sub v : Nat) : Bool :=
  if ix / 16 = 0x2F3 then s.lossOk ix sub ((writtenAs r v).getD 0)
  else if ix / 256 = 0x2E then (if sub = 1 then s.bufferOk v (s.odN ix 2) else sub != 2 || s.bufferOk (s.odN ix 1) v)
  else if ix / 16 = 0x371 then
    (if sub = 1 then s.landOk (ix % 16) v (s.odN ix 2) else sub != 2 || s.landOk (ix % 16) (s.odN ix 1) v)
  else if ix = 0x4500 then v == 0 || (List.range 16).all fun q => q + 1 == sub || s.odN 0x4500 (q + 1) != v
  else s.partSumOk ix sub (ix % 16) v

/-! Applying a write. -/

/-- A write to the CONTROL or command entry of an operation that has a row of its own; none for another entry. -/
def State.controlWrite (s : State) (ix sub v : Nat) : Option (State × Nat) :=
  if ix / 16 = 0x200 && sub = 3 then some (s.partControl (ix % 16) v)
  else if ix / 256 = 0x22 && sub = 6 then some (s.ctxControl (ix % 256) v)
  else if ix / 16 = 0x2F1 && sub = 10 then some (s.clearKeep (ix % 16))
  else if ix / 16 = 0x371 && sub = 3 then some (s.clearBoard (ix % 16))
  else if ix = 0x2AF0 then some (s.arbCommit v)
  else if 0x4100 ≤ ix && ix < 0x4124 && sub = 1 then some (s.linkControl (ix - 0x4100) v)
  else if 0x4100 ≤ ix && ix < 0x4124 && sub = 10 then some (s.heldRelease (ix - 0x4100))
  else if ix = 0x4210 then some (s.routeCommit v)
  else if ix = 0x4300 && sub = 1 then some (s.setRoot v, 0)
  else if ix = 0x8000 && sub = 5 then some (s.restarted 2, 0)
  else if ix / 16 = 0x901 && sub = 6 then some (s.fwControl (ix % 16) v)
  else if ix = 0x9300 && sub = 2 then some s.submitToken
  else if ix = 0xA000 && sub = 10 then some (s.clearAlerts v)
  else if 0xA020 ≤ ix && ix < 0xA04B && sub = 1 then some (s.writePerf (ix - 0xA020) v)
  else none

/-- QUARTERS of a STOPPED partition changed (R611): removed quarter-dies leave at once, added ones are cleared at START. -/
def State.changeQuarters (s : State) (p v : Nat) : State :=
  if (s.part p).st = .stopped then
    let old := s.quarters p
    let gone := (List.range 32).foldl (fun m q => if bit old q && !(bit v q) then m + 2 ^ q else m) 0
    let new := (List.range 32).foldl (fun m q => if bit v q && (!(bit old q) || bit (s.part p).added q) then m + 2 ^ q else m) 0
    (s.leaveQuarters p gone).updPart p fun x => { x with added := new }
  else s

/-- What a write does besides setting the entry (R564, R570, R611): a group whose L is raised above MIN may report MIN again. -/
def State.beforeWrite (s : State) (ix sub v : Nat) : State :=
  if ix / 16 = 0x200 && sub = 1 then s.changeQuarters (ix % 16) v
  else if ix / 16 = 0x2F3 && (sub - 1) % 16 = 0 then
    s.updGroup (ix % 16) ((sub - 1) / 16) fun g =>
      { g with clean := 0, skips := 0, minOnce := g.minOnce && decide (toSigned 8 (v % 256) ≤ s.lossZ (ix % 16) ((sub - 1) / 16) 5) }
  else s

/-- What an entry holds after a write: the value; of 0x6020/02 the highest count since, which is at least the commands in flight now (R150). DESIGN CHOICE (log entry 72): R150 states what a write of 0 there does; any other 16-bit value is held as the highest count until more commands are in flight. -/
def State.heldAs (s : State) (r : OdRow) (ix sub v : Nat) : Word :=
  if ix = 0x6020 && sub = 2 then BitVec.ofNat 64 (max v s.flying.length) else BitVec.ofInt 64 ((writtenAs r v).getD 0)

/-- An entry set, and stored when it is persistent (R800). -/
def State.setEntry (s : State) (r : OdRow) (ix sub v : Nat) : State :=
  let w := s.heldAs r ix sub v
  let s1 := (s.beforeWrite ix sub v).odSet ix sub w
  if r.pers then s1.nvSet ix sub w else s1

/-- A write that nothing refuses (R800): where the entry is persistent and the store does not commit the value, the entry stays, status 7 and MGMT.STORE_FAIL. -/
def State.commitEntry (s : State) (r : OdRow) (ix sub v : Nat) : State × Nat :=
  if r.pers && s.storeFails != 0 then ({ s with storeFails := s.storeFails - 1 }.raise { code := .mgmtStoreFail, unit := { kind := 12, inst := 0 } }, 7)
  else (s.setEntry r ix sub v, 0)

/-- A write to an entry with its status (R791, R901). -/
def State.odWrite (s : State) (ix sub v : Nat) : State × Nat :=
  match odFind ix sub with
  | none => (s, 1)
  | some r =>
    if r.acc = .ro || r.acc = .rc || refusesAll ix sub then (s, 2)
    else if !(s.rangeOk r ix sub v) then (s, 3)
    else match s.controlWrite ix sub v with
      | some x => x
      | none => if !(s.stateOk ix sub) then (s, 4) else if !(s.sumOk r ix sub v) then (s, 5) else s.commitEntry r ix sub v

/-- What an entry shows before a write, for the flight recorder (R856). -/
def State.shown (s : State) (ix sub : Nat) : Nat :=
  match odFind ix sub with
  | some r => s.odValue r ix sub
  | none => 0

/-- A write with its flight-recorder entry (R856); that of a module reset comes before the reset. -/
def State.odWriteNoted (s : State) (ix sub v : Nat) : State × Nat :=
  let old := s.shown ix sub
  if ix = 0x8000 && sub = 5 && v = 0xA5 then (State.noteWrite ix sub old v (s, 0)).odWrite ix sub v
  else
    let r := s.odWrite ix sub v
    (State.noteWrite ix sub old v r, r.2)

/-- OD_WRITE (R801): while the management controller runs. -/
def execOdWrite (ix sub v : Nat) (s : State) : Host.Outcome State Fault Refusal :=
  .next (if s.mgmtUp then let r := s.odWriteNoted ix sub v; r.1.emit (.status ix sub r.2) else s)

end Sys2Proof.Machine
end

