-- ==== Sys2Proof/Machine/Mgmt.lean ====
section
/-! DEFINITION. The management controller: Tchioz messages and the mailbox (R781 to R803), events and heartbeats (R804, R825), the flight recorder's dump (R857 to R859) and the watchdog (R863). -/
namespace Sys2Proof.Machine

/-! Requests and their replies. -/

/-- A REJECT's type and payload (R785). -/
def reject (reason : Nat) : Nat × List Byte := (0x1F, [BitVec.ofNat 8 reason])

/-- A reference or item of `n` bytes at place i of a payload. -/
def item (n i : Nat) (bs : List Byte) : List Byte := (bs.drop (n * i)).take n

/-- Index and sub-index that an item begins with (R785). -/
def itemIx (x : List Byte) : Nat := leNat (x.take 2)
def itemSub (x : List Byte) : Nat := leNat ((x.drop 2).take 1)

/-- The items of a payload of 1 to 96 of `n` bytes each, whose byte 3 is reserved; none when the payload is not so (R785). -/
def items (n : Nat) (bs : List Byte) : Option (List (List Byte)) :=
  let k := bs.length / n
  if k = 0 || 96 < k || bs.length != k * n then none
  else
    let l := (List.range k).map fun i => item n i bs
    if l.all fun x => leNat ((x.drop 3).take 1) == 0 then some l else none

/-- READ (R790): every reference at one fabric time. -/
def State.serveRead (s : State) (bs : List Byte) : State × Nat × List Byte :=
  match items 4 bs with
  | none => (s, reject 3)
  | some l =>
    let r := l.foldl (fun (a : State × List Byte) x =>
      let e := a.1.odRead (itemIx x) (itemSub x)
      (e.1, a.2 ++ leBytes 2 (itemIx x) ++ leBytes 1 (itemSub x) ++ leBytes 1 e.2.1 ++ leBytes 8 e.2.2)) (s, [])
    (r.1, 0x06, r.2)

/-- WRITE (R801): the items in list order, each on its own. -/
def State.serveWrite (s : State) (bs : List Byte) : State × Nat × List Byte :=
  match items 12 bs with
  | none => (s, reject 3)
  | some l =>
    let r := l.foldl (fun (a : State × List Byte) x =>
      let e := a.1.odWriteNoted (itemIx x) (itemSub x) (leNat ((x.drop 4).take 8))
      (e.1, a.2 ++ leBytes 2 (itemIx x) ++ leBytes 1 (itemSub x) ++ leBytes 1 e.2)) (s, [])
    (r.1, 0x08, r.2)

/-- Bytes a firmware slot and a token can hold (R811, R820). -/
def slotBytes : Nat := 3796 + 16777216
def tokenBytes : Nat := 3796

/-- Data of a BLOB put where its target says, with the status (R814, R821). -/
def State.putBlob (s : State) (target off : Nat) (d : List Byte) : State × Nat :=
  if target = 8 then
    (if tokenBytes < off + d.length then (s, 3)
     else (s.withSec fun x => { x with token := putCells (if off = 0 then [] else x.token) off d }, 0))
  else if slotBytes < off + d.length then (s, 3)
  else (s.fwBlob target off d, 0)

/-- BLOB (R785, R814). -/
def State.serveBlob (s : State) (bs : List Byte) : State × Nat × List Byte :=
  let target := leNat (bs.take 1)
  if bs.length < 9 || 1032 < bs.length || leNat ((bs.drop 1).take 3) != 0 || !((1 ≤ target && target ≤ 5) || target == 8) then (s, reject 3)
  else
    let r := s.putBlob target (leNat ((bs.drop 4).take 4)) (bs.drop 8)
    (r.1, 0x0A, leBytes 8 r.2)

/-- The 128 bytes of a flight-recorder entry (R856). -/
def entryBytes (e : FlightEntry) : List Byte :=
  bytesOfWords ([e.time, e.seq, e.kind, e.object, e.old, e.new, 0, 0].map (BitVec.ofNat 64))
    ++ (match e.body with | some r => bytesOfWords (faultWords r) | none => List.replicate 64 0#8)

/-- SEQ of the oldest entry held (R858). -/
def State.oldestEntry (s : State) : Nat := s.diag.recSeq - s.diag.recorder.length

/-- DUMP_DATA from an entry on (R858). -/
def State.dump (s : State) (first count : Nat) : List Byte :=
  let a := max first s.oldestEntry
  let es := (s.diag.recorder.reverse.drop (a - s.oldestEntry)).take count
  leBytes 8 a ++ leBytes 8 s.oldestEntry ++ leBytes 2 es.length ++ leBytes 1 (flagNum s.diag.frozen) ++ leBytes 5 0 ++ es.flatMap entryBytes

/-- DUMP_REQ (R857, R859). -/
def State.serveDump (s : State) (bs : List Byte) : State × Nat × List Byte :=
  let count := leNat ((bs.drop 8).take 2)
  let action := leNat ((bs.drop 10).take 1)
  if bs.length != 16 || count = 0 || 11 < count || 2 < action || leNat (bs.drop 11) != 0 then (s, reject 3)
  else
    let s1 := if action = 0 then s else s.withDiag fun d => { d with frozen := action == 1 }
    (s1, 0x0C, s1.dump (leNat (bs.take 8)) count)

/-- A request by its TYPE (R785, R803). -/
def State.serveType (s : State) (typ : Nat) (bs : List Byte) : State × Nat × List Byte :=
  if typ = 0x05 then s.serveRead bs
  else if typ = 0x07 then s.serveWrite bs
  else if typ = 0x09 then s.serveBlob bs
  else if typ = 0x0B then s.serveDump bs
  else (s, reject 2)

/-- The REJECT reason of a message's header (R784, R785); none when it is good. -/
def headerFault (m : MgmtMsg) : Option Nat :=
  if m.ver != 1 || m.resv != 0 then some 1 else if m.len != m.payload.length || 1456 < m.len then some 3 else none

/-! The Tchioz path. -/

/-- Whether a message comes from the manager (R786). -/
def ofManager (m : MgmtMsg) : Bool := m.fromManager && m.src == 0

/-- Whether a message's DST names this module (R786). -/
def State.toMe (s : State) (m : MgmtMsg) : Bool := m.dst == 0xFF || (m.dst == s.mgmt.node && s.mgmt.node != 0)

/-- Whether the secured-management level excludes a message (R819). -/
def State.levelOut (s : State) (typ : Nat) (m : MgmtMsg) : Bool :=
  !m.secured && ((s.odN 0x9200 2 == 1 && (typ == 0x07 || typ == 0x09))
    || (s.odN 0x9200 2 == 2 && typ != 0x01 && typ != 0x03 && typ != 0x04 && typ != 0x0D))

/-- A Tchioz message past the checks that every message meets (R786, R819), handed to `f`; a good one whose DST names another node is neither served nor counted (log entry 80). -/
def State.tchioz (s : State) (typ : Nat) (m : MgmtMsg) (f : State → State) : State :=
  if !s.mgmtUp then s
  else if !(ofManager m) then s.odInc 0x1100 9
  else match headerFault m with
    | some r => s.sendMgmt 0x1F m.seq [BitVec.ofNat 8 r]
    | none => if !(s.toMe m) then s else if s.levelOut typ m then s.sendMgmt 0x1F m.seq [BitVec.ofNat 8 4] else f s

/-- A reply sent, and kept among the last 16 (R787). -/
def State.reply (s : State) (typ seq : Nat) (r : Nat × List Byte) : State :=
  let t := s.sendMgmt r.1 seq r.2
  if r.1 = 0x1F then t
  else t.withMgmt fun x => { x with replies := ({ typ := typ, seq := seq, time := s.now, bytes := r.2 } :: x.replies).take 16 }

/-- A request on the Tchioz path: one of the last 16 again gets its stored reply and is not executed (R787, R788). -/
def State.tchiozRequest (s : State) (typ : Nat) (m : MgmtMsg) : State :=
  s.tchioz typ m fun t =>
    match t.mgmt.replies.find? fun x => x.typ == typ && x.seq == m.seq with
    | some x => if t.mgmt.node = 0 then t else t.emit (.mgmt (typ + 1) m.seq x.time x.bytes)
    | none =>
      let r := t.serveType typ m.payload
      r.1.reply typ m.seq r.2

/-! The mailbox (R802, R803). -/

/-- A whole message as bytes (R784). -/
def messageBytes (typ seq node time : Nat) (payload : List Byte) : List Byte :=
  leBytes 1 1 ++ leBytes 1 typ ++ leBytes 2 payload.length ++ leBytes 1 node ++ leBytes 1 0 ++ leBytes 2 seq ++ leBytes 8 time ++ payload

/-- A mailbox reply written: DONE set, GO cleared, vector 1 signalled (R803). -/
def State.mailboxReply (s : State) (seq : Nat) (r : Nat × List Byte) : State :=
  (s.withMgmt fun x => { x with reply := messageBytes r.1 seq s.mgmt.node s.now r.2, done := true, go := false }).msix 1

/-- A request on the mailbox path; SRC and DST do not count. -/
def State.mailboxRequest (s : State) (typ : Nat) (m : MgmtMsg) : State :=
  if !s.mgmtUp || !s.barOpen then s
  else match headerFault m with
    | some r => s.mailboxReply m.seq (reject r)
    | none =>
      let r := s.serveType typ m.payload
      r.1.mailboxReply m.seq r.2

/-- A request on the path it came by. -/
def State.request (s : State) (typ : Nat) (m : MgmtMsg) : State := if m.mailbox then s.mailboxRequest typ m else s.tchiozRequest typ m

/-- The message in the request buffer (R784, R803), with its TYPE. -/
def State.bufferMessage (s : State) : Nat × MgmtMsg :=
  let b := s.mgmt.request ++ List.replicate (1472 - s.mgmt.request.length) 0#8
  let n := leNat ((b.drop 2).take 2)
  (leNat ((b.drop 1).take 1),
    { mailbox := true, ver := leNat (b.take 1) % 16, resv := leNat (b.take 1) / 16, src := leNat ((b.drop 4).take 1), dst := leNat ((b.drop 5).take 1)
      seq := leNat ((b.drop 6).take 2), len := n, payload := (b.drop 16).take n })

/-- What the host has put into the request buffer since it was last submitted; bytes past those stay as they were. -/
def State.fillRequest (s : State) (bytes : List Byte) : State :=
  s.withMgmt fun x => { x with request := (bytes ++ x.request.drop bytes.length).take 1472 }

/-- What a write to the mailbox's control register clears (R13, R802): DONE, where bit 1 is written as 1. -/
def State.clearDone (s : State) (v : Nat) : State := s.withMgmt fun x => { x with done := x.done && !(bit v 1) }

/-- MAILBOX_GO (R802, R803): the host's bytes stand in the request buffer, and `v` is written to the control register: bit 1 clears DONE, bit 0 submits the buffer. -/
def execMailboxGo (v : Nat) (bytes : List Byte) (s : State) : Host.Outcome State Fault Refusal :=
  .next (if !s.mgmtUp || !s.barOpen then s
    else if s.mgmt.go then (if bytes.isEmpty then s else s.odInc 0x6030 1).clearDone v
    else
      let t := (s.fillRequest bytes).clearDone v
      let q := t.bufferMessage
      if bit v 0 then t.mailboxRequest q.1 q.2 else t)

/-- READ (R790). -/
def execRead (m : MgmtMsg) (s : State) : Host.Outcome State Fault Refusal := .next (s.request 0x05 m)

/-- WRITE (R801). -/
def execWrite (m : MgmtMsg) (s : State) : Host.Outcome State Fault Refusal := .next (s.request 0x07 m)

/-- BLOB (R814, R821). -/
def execBlob (m : MgmtMsg) (s : State) : Host.Outcome State Fault Refusal := .next (s.request 0x09 m)

/-- DUMP_REQ (R857). -/
def execDumpReq (m : MgmtMsg) (s : State) : Host.Outcome State Fault Refusal := .next (s.request 0x0B m)

/-! Node addresses (R792 to R797). -/

/-- A message without a reply of its own on the path it came by: the mailbox serves none of these (R803). -/
def State.notice (s : State) (typ : Nat) (m : MgmtMsg) (f : State → State) : State :=
  if m.mailbox then s.mailboxRequest typ m else s.tchioz typ m f

/-- A REJECT for a bad payload (R785). -/
def State.badPayload (s : State) (m : MgmtMsg) : State := s.sendMgmt 0x1F m.seq [BitVec.ofNat 8 3]

/-- The module's serial number (0x1000/04). -/
def State.serial (s : State) : Nat := s.odN 0x1000 4

/-- ASSIGN_ACK (R785). -/
def State.sendAssignAck (s : State) (m : MgmtMsg) : State := s.sendMgmt 0x02 m.seq (leBytes 8 s.serial ++ leBytes 1 s.pwr.stage ++ leBytes 7 0)

/-- An ASSIGN taken (R793). -/
def State.takeAssign (s : State) (m : MgmtMsg) : State :=
  let id := leNat (m.payload.take 1)
  if m.payload.length != 8 || id = 0 || 31 < id || leNat (m.payload.drop 1) != 0 then s.badPayload m
  else if s.mgmt.node = 0 && s.mgmt.addrIn then (s.withMgmt fun x => { x with node := id, confirmed := false }).sendAssignAck m
  else if s.mgmt.node = id && !s.mgmt.confirmed then s.sendAssignAck m
  else s

/-- ASSIGN (R793). -/
def execAssign (m : MgmtMsg) (s : State) : Host.Outcome State Fault Refusal := .next (s.notice 0x01 m fun t => t.takeAssign m)

/-- A CONFIRM taken (R794). -/
def State.takeConfirm (s : State) (m : MgmtMsg) : State :=
  let id := leNat (m.payload.take 1)
  if m.payload.length != 16 || id = 0 || 31 < id || leNat ((m.payload.drop 1).take 7) != 0 then s.badPayload m
  else if s.mgmt.node = id && leNat (m.payload.drop 8) = s.serial then s.withMgmt fun x => { x with confirmed := true, addrOut := x.addrIn }
  else s

/-- CONFIRM (R794). -/
def execConfirm (m : MgmtMsg) (s : State) : Host.Outcome State Fault Refusal := .next (s.notice 0x03 m fun t => t.takeConfirm m)

/-- A RELEASE taken (R797). -/
def State.takeRelease (s : State) (m : MgmtMsg) : State :=
  let a := leNat (m.payload.take 1)
  let b := leNat ((m.payload.drop 1).take 1)
  if m.payload.length != 8 || a = 0 || 31 < a || b = 0 || 31 < b || leNat (m.payload.drop 2) != 0 then s.badPayload m
  else if s.mgmt.node != 0 && a ≤ s.mgmt.node && s.mgmt.node ≤ b then s.withMgmt fun x => { x with node := 0, confirmed := false, addrOut := false }
  else s

/-- RELEASE (R797). -/
def execRelease (m : MgmtMsg) (s : State) : Host.Outcome State Fault Refusal := .next (s.notice 0x04 m fun t => t.takeRelease m)

/-- ADDR_IN_CHANGE (R792, R794, R796). -/
def execAddrInChange (level : Bool) (s : State) : Host.Outcome State Fault Refusal :=
  .next (if s.mgmt.addrIn == level then s
    else
      let s1 := s.withMgmt fun x => { x with addrIn := level, addrOut := level && x.confirmed }
      if !level && s.mgmt.node != 0 then s1.raise { code := .mgmtChainBreak, unit := { kind := 12, inst := 0 } } else s1)

/-! Events, heartbeats, the rest of the segment. -/

/-- EVENT_ACK (R825): it covers every EVENT up to its number. -/
def execEventAck (m : MgmtMsg) (s : State) : Host.Outcome State Fault Refusal :=
  .next (s.notice 0x0F m fun t =>
    if m.payload.length != 4 then t.badPayload m
    else t.withMgmt fun x => { x with events := x.events.filter fun e => decide (leNat m.payload < e.num) })

/-- EVENT_RESEND (R825). -/
def execEventResend (s : State) : Host.Outcome State Fault Refusal :=
  .next (if s.mgmtUp then s.mgmt.events.foldl (fun t e => t.sendMgmt 0x0E 0 (eventBytes e)) s else s)

/-- HEARTBEAT (R785, R804): at the end of the interval in 0x1100/06; none for 0. -/
def execHeartbeat (s : State) : Host.Outcome State Fault Refusal :=
  .next (if s.mgmtUp && s.odN 0x1100 6 != 0 then
      let t := s.advance (s.mgmt.lastBeat + 1000000 * s.odN 0x1100 6)
      (t.sendMgmt 0x10 0 (leBytes 8 t.serial ++ leBytes 1 t.pwr.stage ++ leBytes 4 t.diag.raised)).withMgmt fun x => { x with lastBeat := t.now }
    else s)

/-- The module's MAC address (R783): 0x02, then bits [39:0] of the serial number. -/
def State.macAddress (s : State) : Nat := 2 * 2 ^ 40 + s.serial % 2 ^ 40

/-- A frame that another MAC address sends with the module's IPv4 address as its own (R824). -/
def State.conflict (s : State) (mac src : Nat) : State :=
  if src == s.mgmt.base + s.mgmt.node && mac != s.macAddress then s.raise { code := .mgmtNodeConflict, unit := { kind := 12, inst := 0 } } else s

/-- ARP_REQUEST (R783, R824): a frame that is no Tchioz message, `mac` and `src` being its sender's addresses. A module with a node ID answers an ARP request for its own address and discards every other frame. -/
def execArpRequest (arp : Bool) (ip mac src : Nat) (s : State) : Host.Outcome State Fault Refusal :=
  .next (if s.mgmtUp && s.mgmt.node != 0 then
      let t := s.conflict mac src
      if arp && ip == s.mgmt.base + s.mgmt.node then t.emit (.arp ip) else t
    else s)

/-- WATCHDOG_EXPIRY (R863): the controller alone restarts, its stored replies kept. -/
def execWatchdogExpiry (s : State) : Host.Outcome State Fault Refusal :=
  .next (if s.mgmtUp then s.raise { code := .mgmtWatchdog, unit := { kind := 12, inst := 0 } } else s)

end Sys2Proof.Machine
end

