-- ==== Sys2Proof/Machine/Host.lean ====
section
/-! DEFINITION. The host's end of CXL: the link and its loss (R742, R775, R776), managed removal (R777), bad BAR accesses (R746), MSI-X (R761), the memory windows and the snoop filter (R767 to R772), IDE failure (R774), failing host accesses (R765, R899) and snoops of host lines (R763). -/
namespace Sys2Proof.Machine

/-! MSI-X. -/

/-- Pending messages of unmasked vectors sent while the link is up (R761). -/
def State.sendPending (s : State) : State :=
  if s.host.up then
    let go := s.host.pendingBits.filter fun v => s.host.unmasked.contains v
    (go.foldl (fun (t : State) v => t.emit (.msix v)) s).withHost fun h => { h with pendingBits := h.pendingBits.filter fun v => !(h.unmasked.contains v) }
  else s

/-- A vector masked or unmasked (R761). -/
def State.maskVector (s : State) (v : Nat) (masked : Bool) : State :=
  let rest := s.host.unmasked.filter (· != v)
  (s.withHost fun h => { h with unmasked := if masked then rest else v :: rest }).sendPending

/-- MSIX_TABLE_WRITE (R761): BAR2 holds 2,048 vectors (R741, R743). -/
def execMsixTableWrite (v : Nat) (masked : Bool) (s : State) : Host.Outcome State Fault Refusal :=
  .next (if s.barOpen && decide (v < 2048) then s.maskVector v masked else s)

/-! The link. -/

/-- LINK of HOST_STATUS (R745); 0 for a link too narrow or too slow for CXL (R742). -/
def linkCode (lanes rate : Nat) : Nat :=
  if lanes < 8 || rate < 32 then 0 else (if rate < 64 then 1 else 3) + (if 16 ≤ lanes then 1 else 0)

/-- The link trained (R742): a change of LINK signals vector 0 (R762). -/
def State.trainCxl (s : State) (k : Nat) : State :=
  let s1 := s.withHost fun h => { h with up := true, link := k, pcieOnly := k == 0 }
  let s2 := if s.host.link = k then s1 else s1.msix 0
  (if k = 0 then s2.raise { code := .hostLinkReduced, unit := { kind := 12, inst := 0 } } else s2).sendPending

/-- CXL_LINK_TRAIN (R742): once the endpoint is up (stage 8 of R888) and PERST_N is released. -/
def execCxlLinkTrain (lanes rate : Nat) (s : State) : Host.Outcome State Fault Refusal :=
  .next (if s.pwr.on && decide (8 ≤ s.pwr.stage) && decide (s.pwr.stage ≤ 10) && !s.host.perst && !s.host.up then s.trainCxl (linkCode lanes rate) else s)

/-- Whether a context has a ring or its status word in host memory (R776). -/
def State.hostRings (s : State) (cc : Nat) : Bool := [9, 11, 12, 14].any fun sub => inHost (s.odN (0x2200 + cc) sub)

/-- The contexts that can no longer reach their rings halted (R776). -/
def State.haltHostRings (s : State) : State :=
  (List.range 256).foldl (fun t cc =>
    if t.hostRings cc && (t.ctx cc).cond != .absent && (t.ctx cc).cond != .aborting then t.setCond cc .halted else t) s

/-- What the loss of the link does to the module (R776): the device cache and the snoop filter dropped, contexts halted, HOST.LINK_LOST. -/
def State.loseHost (s : State) : State :=
  ((s.withHost fun h => { h with cache := [], snoop := [] }).haltHostRings).raise { code := .hostLinkLost, unit := { kind := 12, inst := 0 } }

/-- The link down: with the effect of R776 unless removal has completed. -/
def State.hostDown (s : State) : State :=
  let t := s.withHost fun h => { h with up := false }
  if s.host.up && !s.host.quiesced then t.loseHost else t

/-- HOST_LINK_LOSS (R776). -/
def execHostLinkLoss (s : State) : Host.Outcome State Fault Refusal := .next (if s.host.up then s.hostDown else s)

/-- The endpoint reset (R775): what the device keeps of the module's windows stays. -/
def endpointReset (h : HostPort) : HostPort :=
  { perst := true, winCellar := h.winCellar, winHbm := h.winHbm, offCellar := h.offCellar, offHbm := h.offHbm }

/-- PERST (R775): asserted or released. -/
def execPerst (asserted : Bool) (s : State) : Host.Outcome State Fault Refusal :=
  .next (if asserted then s.hostDown.withHost endpointReset else s.withHost fun h => { h with perst := false })

/-- IDE_FAIL (R774): every stream insecure; with IDE required, R776 until new keys are active. -/
def State.failIde (s : State) : State :=
  let s1 := (s.withHost fun h => { h with ide := 3 }).msix 0
  let s2 := s1.raise { code := .hostIdeFail, unit := { kind := 12, inst := 0 } }
  if s.odN 0x9100 1 = 1 then s2.loseHost else s2

/-- IDE_FAIL (R774): of an active stream. -/
def execIdeFail (s : State) : Host.Outcome State Fault Refusal := .next (if s.host.up && s.host.ide == 2 then s.failIde else s)

/-! Managed removal. -/

/-- QUIESCE (R777): every ACTIVE partition stopped. -/
def execQuiesce (s : State) : Host.Outcome State Fault Refusal :=
  .next (if s.barOpen && !s.host.quiesce then
      (List.range 16).foldl (fun t p => t.stopPart p) (s.withHost fun h => { h with quiesce := true })
    else s)

/-- The lines of the snoop filter back-invalidated (R777). -/
def State.emptyFilter (s : State) : State :=
  (s.host.snoop.foldl (fun (t : State) l => t.emit (.snoop l true)) s).withHost fun h => { h with snoop := [] }

/-- QUIESCE_DONE (R777): no partition runs, the device cache is written back and dropped, the host holds no window line. -/
def execQuiesceDone (s : State) : Host.Outcome State Fault Refusal :=
  .next (if s.host.quiesce && !s.host.quiesced && s.parts.all (fun p => p.st != .active && p.st != .stopping) then
      ((s.emptyFilter.withHost fun h => { h with cache := [] }).msix 0).withHost fun h => { h with quiesced := true }
    else s)

/-- BAR_ACCESS_BAD (R746): counted; a read answers Unsupported Request or zero, a write is dropped. -/
def execBarAccessBad (write badSize : Bool) (s : State) : Host.Outcome State Fault Refusal :=
  .next (if s.barOpen then
      let t := s.odInc 0x6030 1
      if write then t else t.emit (.barBad badSize)
    else s)

/-! The windows. -/

/-- The local address of a device physical address (R767): the Cellar window first, the HBM window after it. -/
def State.windowAddr (s : State) (dpa : Nat) : Option Nat :=
  let h := s.host
  if dpa < h.winCellar then some (2 ^ 44 + h.offCellar + dpa)
  else if dpa < h.winCellar + h.winHbm then some (h.offHbm + (dpa - h.winCellar))
  else none

/-- The partition charged with window traffic (R766). -/
def State.winPart (s : State) : Option Nat :=
  let p := s.odN 0x3800 5
  if p < 16 then some p else none

/-- A window line recorded in the snoop filter; a full one back-invalidates its oldest line first (R770). -/
def State.recordLine (s : State) (l : Nat) : State :=
  if s.host.snoop.contains l then s
  else match s.host.snoop with
    | x :: r =>
      if 2097152 ≤ s.host.snoop.length then (s.emit (.snoop x true)).withHost fun h => { h with snoop := r ++ [l] }
      else s.withHost fun h => { h with snoop := h.snoop ++ [l] }
    | [] => s.withHost fun h => { h with snoop := [l] }

/-- A window access that met an uncorrectable sector (R772): counted here and for its memory, HOST.MEM_POISON at most once a second for the partition charged, or for the module. -/
def State.poisoned (s : State) (a : Nat) : State :=
  (((s.countUncorrectable a).odInc 0x3800 9).recordLimited { code := .hostMemPoison, part := s.winPart, unit := { kind := 12, inst := 0 }, addr := s.globalAddr a } (s.winPart.getD 16)).stopOwed

/-- The bad sectors of a line. -/
def State.badIn (s : State) (a : Nat) : List Nat := (sectorsOf a 64).filter s.badSector

/-- A window line read (R769, R770, R772), through the home Larder with the STREAM hint. -/
def State.readWindow (s : State) (dpa a : Nat) : State :=
  let bad := s.badIn a
  let own := s.host.snoop.contains (a / 64)
  let s0 := s.withHost fun h => { h with snoop := h.snoop.filter (· != a / 64) }
  let s1 := ((sectorsOf a 64).filter fun x => !(bad.contains x)).foldl (fun (t : State) x => t.touch { part := s.winPart } 1 x 32) s0
  let s2 := (if own then s1.withHost fun h => { h with snoop := s.host.snoop } else s1).recordLine (a / 64)
  let s3 := match bad with
    | x :: _ => s2.poisoned x
    | [] => s2
  s3.emit (.hostData dpa (s.bytes a 64) (!bad.isEmpty))

/-- HOST_WINDOW_READ (R769, R772). -/
def execHostWindowRead (dpa : Nat) (s : State) : Host.Outcome State Fault Refusal :=
  let d := dpa / 64 * 64
  .next (if s.hostReach then (match s.windowAddr d with
      | some a => s.readWindow d a
      | none => s)
    else s)

/-- The bytes of one sector written through a window: part of an uncorrectable one is dropped (R772, R898). -/
def State.writeSectorBytes (s : State) (a : Nat) (b : List (Option Byte)) : State :=
  let whole := b.length == 32 && b.all Option.isSome
  if b.all Option.isNone then s
  else if s.badSector a && !whole then s.poisoned a
  else
    let t := (s.backInvalidate true a 32).passWrite { part := s.winPart } 1 a (b.filter Option.isSome).length [a] fun _ => whole
    let u := if whole then t.healed a 32 else t
    { u with mem := memPutSome u.mem a b }

/-- A window line written (R769, R770, R772): the host's own copy needs no snoop. -/
def State.writeWindow (s : State) (a : Nat) (b : List (Option Byte)) : State :=
  let s0 := s.withHost fun h => { h with snoop := h.snoop.filter (· != a / 64) }
  ((s0.writeSectorBytes a (b.take 32)).writeSectorBytes (a + 32) ((b.drop 32).take 32)).recordLine (a / 64)

/-- HOST_WINDOW_WRITE (R769, R772): `none` leaves a byte of the line as it is. -/
def execHostWindowWrite (dpa : Nat) (bytes : List (Option Byte)) (s : State) : Host.Outcome State Fault Refusal :=
  .next (if s.hostReach then (match s.windowAddr (dpa / 64 * 64) with
      | some a => s.writeWindow a bytes
      | none => s)
    else s)

/-! Accesses that the host does not answer. -/

/-- How a run that has closed its first tiles ends when an access of the next one fails: with that tile's fields; on the fault it met before, if any; on its last access, the read-back of R764, when every tile has closed. -/
def failRun (r : Run) (code : Code) (addr : Nat) : Fin :=
  match r.stop with
  | some d => if d.status = 0 then { r.fin with status := 2, fault := some code, failAddr := addr } else r.fin
  | none => { r.fin with status := 2, fault := some code, failAddr := addr }

/-- The executing command of a consumer ended, after its first `closed` tiles, groups, entries or crates (of a context's commands on the reduction engines, the one of that number, the oldest 0), because an access of its own did not succeed; none when it makes no access. -/
def State.failBy (s : State) (by_ : Consumer) (closed : Nat) (code : Code) (addr : Nat) : Option State :=
  let g := s.globalAddr addr
  match by_ with
  | .core n =>
    match (s.core n).exec with
    | none => none
    | some e =>
      if e.waiting then none
      else match timedRow e.cmd with
        | none => none
        | some (checks, run) =>
          if (e.rejection (checks e.cmd e)).isSome then none
          else
            let r := run (some (max closed e.drained)) s n e
            some (r.st.endCore n e (failRun r code g))
  | .hub cc =>
    match s.hubExec cc fun c => c.op == 0x23 with
    | none => none
    | some e =>
      if !s.ready || (s.rejection e.cmd [] (tierChecks true e.cmd)).isSome then none
      else
        let e1 := { e with start := s.now, limit := s.limitOf e.cmd }
        let r := tierRun (some closed) s { s.whoCtx cc none with die := dieAttic } e1
        some (r.st.endHub e1 (failRun r code g))
  | .update k =>
    match s.nextUpdate k fun _ => true with
    | none => none
    | some c =>
      let l : Late := { closed := closed, code := code, addr := g }
      if (s.updRejection k c (s.updReads (s.whoCtx c.ctx none) c)).isSome then none
      else some (s.runUpdate k (fun _ => true) fun t e x =>
        match c.sub with
        | 0 => t.normPart k e x (some l)
        | 2 => t.apply k e x (some l)
        | _ => t.endUpdate k e { status := 2, fault := some code, failAddr := g })
  | .reduction cc => (((s.collExecs cc).filter fun x => x.1.ending.isNone)[closed]?).map fun x => s.closeColl x.1 { (abortOf x.1) with status := 2, fault := some code, failAddr := g, failInfo := x.2 }
  | .media cc => (s.mediaNext cc fun _ => true).map fun e => s.endMedia { e with start := s.now } (rejectAt code g)

/-- The context of a consumer's executing command. -/
def State.ctxOf (s : State) (by_ : Consumer) : Nat :=
  match by_ with
  | .core n => (s.core n).cur
  | .update k => (((s.engine k).queue.head?).map CmdInst.ctx).getD 0
  | .hub cc | .reduction cc | .media cc => cc

/-- Whether an address lies in a context's completion ring or status word (R899). -/
def State.writesAt (s : State) (cc addr : Nat) : Bool :=
  let a := s.odN (0x2200 + cc) 12
  let w := s.odN (0x2200 + cc) 14
  (decide (a ≤ addr) && decide (addr < a + 128 * s.entries cc)) || (w != 0 && decide (w ≤ addr) && decide (addr < w + 8))

/-- Whether an address lies in the line of the next slot, or of its target entry, that the front end reads for a context. -/
def State.fetchesAt (s : State) (cc addr : Nat) : Bool :=
  s.mayFetch cc && (nextSlot (s.ctx cc)).any fun i => s.slotAddr cc i / 64 == addr / 64 || s.targetAddr cc i / 64 == addr / 64

/-- A line that gets no answer noted: the next record or status word written there is dropped (R899). -/
def State.killLine (s : State) (addr : Nat) : State := s.withHost fun h => { h with dead := addr / 64 :: h.dead.filter (· != addr / 64) }

/-- A sample of a context's batches that an engine reads from a line. -/
def State.readsAt (s : State) (cc addr : Nat) : Option (Nat × Nat) :=
  s.media.batches.findSome? fun x => if x.ctx != cc then none else
    (x.slots.zipIdx.find? fun y => y.1.res == .admitted && y.1.stream.isNone && decide (1 ≤ y.1.phase)
      && decide (addr / 64 * 64 < smpSrc y.1.words + smpLen y.1.words) && decide (smpSrc y.1.words < addr / 64 * 64 + 64)).map fun y => (x.handle, y.2)

/-- An access of the hub die's front end or of the media die's engines, outside any command, that meets an uncorrectable error (R680, R771, R899, R904); none where none is made there. -/
def State.failOwn (s : State) (by_ : Consumer) (addr : Nat) : Option State :=
  match by_ with
  | .hub cc => if s.fetchesAt cc addr then some (s.queueFault cc .memUncorrectable addr) else if s.writesAt cc addr then some (s.killLine addr) else none
  | .media cc => (s.readsAt cc addr).map fun x => s.resolve x.1 x.2 .invalid 3
  | .core _ | .update _ | .reduction _ => none

/-- BI_TIMEOUT (R771): HOST.BI_TIMEOUT, and the waiting access fails as an uncorrectable error; the line stays recorded. -/
def execBiTimeout (line : Nat) (by_ : Consumer) (closed : Nat) (s : State) : Host.Outcome State Fault Refusal :=
  let cc := s.ctxOf by_
  let t := s.record { code := .hostBiTimeout, part := s.partOfCtx cc, ctx := some cc, unit := { kind := 15, inst := cc }, addr := s.globalAddr (64 * line) }
  .next (if s.host.snoop.contains line then ((t.failOwn by_ (64 * line)).orElse fun _ => t.failBy by_ closed .memUncorrectable (64 * line)).getD s else s)

/-- HOST_COMPLETION_TIMEOUT (R765, R899): of a fetch or, where the address is that of a record or the status word, of the next write there of context `cc`; or of an access of the command that consumer `by_` executes. -/
def execHostCompletionTimeout (cc : Nat) (by_ : Option Consumer) (closed addr : Nat) (s : State) : Host.Outcome State Fault Refusal :=
  .next (if !(inHost addr) || !s.hostReach then s
    else match by_ with
      | none =>
        if 256 ≤ cc || (s.ctx cc).cond == .absent || !(s.hostRings cc) then s
        else if s.writesAt cc addr then s.killLine addr
        else s.queueFault cc .hostQueue addr
      | some c => (s.failBy c closed .hostAccess addr).getD s)

/-! Host lines. -/

/-- A line of the device cache invalidated, or left clean (R763). -/
def State.snoopCache (s : State) (line : Nat) (inv : Bool) : State :=
  s.withHost fun h => { h with cache := if inv then h.cache.filter (fun e => e.1 != line) else h.cache.map fun e => if e.1 = line then (line, false) else e }

/-- HOST_SNOOP (R763): the host takes the line back, and what it then writes there stands in its memory. -/
def execHostSnoop (line : Nat) (inv : Bool) (bytes : List Byte) (s : State) : Host.Outcome State Fault Refusal :=
  .next (if inHost (64 * line) then
      let t := s.snoopCache line inv
      if inv then { t with mem := memPutBytes t.mem (64 * line) (bytes.take 64) } else t
    else s)

end Sys2Proof.Machine
end

