-- ==== Sys2Proof/Machine/Timers.lean ====
section
/-! DEFINITION. Fabric time stepped and slewed (R438 to R440), the timers whose deadlines a step passes (R439), and the rows that step it: TIME_RECEIVE (R435 to R438) and TPULSE_EDGE (R440). -/
namespace Sys2Proof.Machine

/-! Timers. -/

/-- What a command's row leaves, where it leaves a state. -/
def State.fire (s : State) (f : State → Host.Outcome State Fault Refusal) : State :=
  match f s with
  | .next t => t
  | .fault _ => s
  | .refused _ => s

/-- Whether the limit of an executing command has passed. -/
def State.overdue (s : State) (e : Exec) : Bool := decide (e.due ≤ s.now)

/-- The command limits that have passed (R204). -/
def State.fireLimits (s : State) : State :=
  let s1 := ((List.range 384).filter fun n => (s.core n).exec.any s.overdue).foldl (fun t n => t.fire (execCmdTime (.core n) 0)) s
  let s2 := (s1.hub.filter fun e => e.cmd.isBarrier && e.phase != 0 && s1.overdue e).foldl (fun t e => t.fire (execCmdTime (.hub e.cmd.ctx) 0)) s1
  let s3 := ((List.range 4).filter fun k => (s2.engine k).exec.any s2.overdue).foldl (fun t k => t.fire (execCmdTime (.update k) 0)) s2
  ((List.range 256).flatMap fun cc => ((s3.collExecs cc).filter fun x => s3.overdue x.1).map fun _ => cc).foldl (fun t cc => t.fire (execCmdTime (.reduction cc) 0)) s3

/-- The slot and picture deadlines that have passed (R680, R713). -/
def State.fireDeadlines (s : State) : State :=
  let slots := s.media.batches.flatMap fun b => (b.slots.zipIdx.filter fun y => !y.1.resolved && !y.1.passed && decide (y.1.deadline ≤ s.now)).map fun y => (b.handle, y.2)
  let s1 := slots.foldl (fun t x => t.fire (execSlotDeadline x.1 x.2)) s
  let pics := s1.media.streams.flatMap fun x => (x.pics.filter fun p => x.live && decide (s1.picDeadline x p ≤ s1.now)).map fun p => (x.num, p.n)
  pics.foldl (fun t x => t.fire (execLivePictureDeadline x.1 x.2)) s1

/-- The fabric's timers that have passed: routing commits (R417), replay timeouts (R384), stalls (R425), DONE (R405). -/
def State.fireFabric (s : State) : State :=
  let s1 := (s.time.commits.filter (· ≤ s.now)).foldl (fun t _ => t.fire execRoutingTableCopy) s
  let s2 := ((List.range 36).filter fun l => decide ((s1.link l).ackAt + s1.odN 0x4000 3 ≤ s1.now)).foldl (fun t l => t.fire (execReplayTimeout l)) s1
  let late := fun (l cls : Nat) => (headerAt (s2.link l) cls).any fun a => decide (a + s2.odN 0x4000 4 * 1000 < s2.now)
  let s3 := ((List.range 144).filter fun i => late (i / 4) (i % 4)).foldl (fun t i => t.fire (execFabStall (i / 4) (i % 4))) s2
  (s3.dones.filter fun d => decide (d.since + 200 ≤ s3.now)).foldl State.sendDone s3

/-- The other timers that have passed: interrupt hold-offs (R761), imbalance windows (R270), retention (R876), time exchanges (R435), the heartbeat (R804). -/
def State.fireRest (s : State) : State :=
  let s1 := ((List.range 256).filter fun cc => decide ((s.ctx cc).lastMsg.getD 0 + s.odN (0x2200 + cc) 16 ≤ s.now)).foldl (fun t cc => t.fire (execInterruptHoldoffEnd cc)) s
  let s2 := ((List.range 8).filter fun d => decide (nth s1.hbm.began d 0 + 1000 * (s1.imbMonitor d).1 ≤ s1.now)).foldl (fun t d => t.fire (execImbalanceWindowEnd d)) s1
  let s3 := ((List.range 32).filter fun q => decide (s2.lastExecOf q + 1000 * s2.odN 0xA000 6 ≤ s2.now)).foldl (fun t q => t.fire (execQuarterRetentionEntry q)) s2
  let s4 := if s3.time.lastExchange + 1000 * s3.odN 0x4300 6 ≤ s3.now then s3.fire execTimeExchangeStart else s3
  if s4.mgmt.lastBeat + 1000000 * s4.odN 0x1100 6 ≤ s4.now then s4.fire execHeartbeat else s4

/-- Fabric time stepped forward to `t` (R438, R440): the windows it passes (R655), and every timer whose deadline it passes fires (R439). -/
def State.stepForward (s : State) (t : Nat) : State := (s.stepTime t).fireFabric.fireLimits.fireDeadlines.fireRest

/-! Exchanges and TPULSE. -/

/-- An offset to upstream taken (R438, R441). -/
def State.takeOffset (s : State) (o : Int) : State :=
  let s1 := s.withTime fun x => { x with offset := o, missed := 0, good := if o.natAbs ≤ 4 then x.good + 1 else 0 }
  let s2 := if 1000 < o then ((s1.stepForward (s.now + o.toNat)).withTime fun x => { x with slew := 0 }).record { code := .fabTimeStep } else s1.withTime fun x => { x with slew := o }
  if !s.time.frefOk then s2
  else if s.time.st = .holdover then s2.setTimeSt .acquiring
  else s2.setTimeSt (if 3 ≤ s2.time.good then .locked else .acquiring)

/-- A TIME packet taken from a link (R435 to R438): a request is answered, an answer used. Its stamps are the sender's STAMP and the arrival here. -/
def State.takeTime (s : State) (l : Nat) (p : Packet) (arrival : Nat) : State :=
  match timeOfData p.data with
  | none => s
  | some (.request h) =>
    let s1 := (s.updLink l fun x => { x with nbHops := some (h, p.src) }).follow
    s1.sendTime l (.answer p.stamp arrival s1.hopCount)
  | some (.answer t1 t2 h) =>
    if !(s.link l).timeOut then s
    else
      let (d, o) := exchange t1 t2 p.stamp arrival
      let s1 := (s.updLink l fun x => { x with nbHops := some (h, p.src), timeOut := false, delay := d.toNat }).follow
      if !s1.isRoot && s1.time.upstream == some l then s1.takeOffset o else s1

/-- TIME_RECEIVE (R372, R435 to R438): the oldest TIME packet of a sender that has come in on a link. -/
def execTimeReceive (l src : Nat) (s : State) : Host.Outcome State Fault Refusal :=
  .next (match (s.link l).timeIn.find? fun x => x.1.src == src with
    | some (p, t) => if s.hears l then (s.updLink l fun x => { x with timeIn := x.timeIn.erase (p, t) }).takeTime l p t else s
    | none => s)

/-- The next whole multiple of a second at or after a time (R440). -/
def nextSecond (t : Nat) : Nat := (t + 999999999) / 1000000000 * 1000000000

/-- TPULSE_EDGE (R440): only the root takes notice of it, but for the presence that 0x4300/07 shows. -/
def execTpulseEdge (s : State) : Host.Outcome State Fault Refusal :=
  .next (
    let seen := fun (t : State) => t.withTime fun x => { x with lastPulse := some t.now }
    if !s.isRoot then seen s
    else if !s.time.pulsed then seen ((s.stepForward (nextSecond s.now)).withTime fun x => { x with pulsed := true })
    else
      let near := (s.now + 500000000) / 1000000000 * 1000000000
      seen (s.withTime fun x => { x with slew := (near : Int) - s.now }))

end Sys2Proof.Machine
end

