-- ==== Sys2Proof/Machine/Dispatch.lean ====
section
/-! DEFINITION. The dispatch of a command to its meaning: one arm for each constructor. -/
namespace Sys2Proof.Machine

/-- The effect of one command on everything but the queue of those that wait. -/
def exec (i : Instr) (s : State) : Host.Outcome State Fault Refusal :=
  match i with
  | .nop n => Sys2Proof.Machine.execNop n s
  | .matmul n => Sys2Proof.Machine.execMatmul n s
  | .tileDrain n => Sys2Proof.Machine.execTileDrain n s
  | .conv n => Sys2Proof.Machine.execConv n s
  | .convWgrad n => Sys2Proof.Machine.execConvWgrad n s
  | .dwconv n => Sys2Proof.Machine.execDwconv n s
  | .pool n => Sys2Proof.Machine.execPool n s
  | .vop n => Sys2Proof.Machine.execVop n s
  | .vreduce n => Sys2Proof.Machine.execVreduce n s
  | .copy n => Sys2Proof.Machine.execCopy n s
  | .gather n => Sys2Proof.Machine.execGather n s
  | .scatter n => Sys2Proof.Machine.execScatter n s
  | .tierMoveMove c => Sys2Proof.Machine.execTierMoveMove c s
  | .tierMoveSeal c => Sys2Proof.Machine.execTierMoveSeal c s
  | .tierMoveStage c => Sys2Proof.Machine.execTierMoveStage c s
  | .tierMoveDiscard c => Sys2Proof.Machine.execTierMoveDiscard c s
  | .tierMoveDrop c => Sys2Proof.Machine.execTierMoveDrop c s
  | .fenceWait n => Sys2Proof.Machine.execFenceWait n s
  | .fenceAdd n => Sys2Proof.Machine.execFenceAdd n s
  | .fenceMax n => Sys2Proof.Machine.execFenceMax n s
  | .fenceSet n => Sys2Proof.Machine.execFenceSet n s
  | .fenceSend n => Sys2Proof.Machine.execFenceSend n s
  | .fenceWaitComplete n => Sys2Proof.Machine.execFenceWaitComplete n s
  | .creditTake n => Sys2Proof.Machine.execCreditTake n s
  | .creditGive n => Sys2Proof.Machine.execCreditGive n s
  | .creditSet n => Sys2Proof.Machine.execCreditSet n s
  | .creditTakeComplete p k => Sys2Proof.Machine.execCreditTakeComplete p k s
  | .rowFenceWait n => Sys2Proof.Machine.execRowFenceWait n s
  | .rowFenceClear n => Sys2Proof.Machine.execRowFenceClear n s
  | .rowFenceWaitComplete n => Sys2Proof.Machine.execRowFenceWaitComplete n s
  | .barrierLocal cc => Sys2Proof.Machine.execBarrierLocal cc s
  | .barrierStep cc => Sys2Proof.Machine.execBarrierStep cc s
  | .barrierArrive cc => Sys2Proof.Machine.execBarrierArrive cc s
  | .normPart c => Sys2Proof.Machine.execNormPart c s
  | .normReduce c => Sys2Proof.Machine.execNormReduce c s
  | .apply c => Sys2Proof.Machine.execApply c s
  | .normRead c => Sys2Proof.Machine.execNormRead c s
  | .normLoad c => Sys2Proof.Machine.execNormLoad c s
  | .reduce cc slot => Sys2Proof.Machine.execReduce cc slot s
  | .reduceLocallyReady cc slot => Sys2Proof.Machine.execReduceLocallyReady cc slot s
  | .reduceUnitSend cc slot entry => Sys2Proof.Machine.execReduceUnitSend cc slot entry s
  | .reduceUnitConsume cc slot entry => Sys2Proof.Machine.execReduceUnitConsume cc slot entry s
  | .broadcast cc slot => Sys2Proof.Machine.execBroadcast cc slot s
  | .broadcastSendStart cc slot => Sys2Proof.Machine.execBroadcastSendStart cc slot s
  | .mediaOpen cc => Sys2Proof.Machine.execMediaOpen cc s
  | .mediaAdd cc => Sys2Proof.Machine.execMediaAdd cc s
  | .mediaClose cc => Sys2Proof.Machine.execMediaClose cc s
  | .sampleDecodeStart engine inst => Sys2Proof.Machine.execSampleDecodeStart engine inst s
  | .sampleValid b sl => Sys2Proof.Machine.execSampleValid b sl s
  | .sampleInvalid b sl reason => Sys2Proof.Machine.execSampleInvalid b sl reason s
  | .slotDeadline b sl => Sys2Proof.Machine.execSlotDeadline b sl s
  | .batchComplete b => Sys2Proof.Machine.execBatchComplete b s
  | .sopen cc => Sys2Proof.Machine.execSopen cc s
  | .streamData cc => Sys2Proof.Machine.execStreamData cc s
  | .route cc => Sys2Proof.Machine.execRoute cc s
  | .sclose cc => Sys2Proof.Machine.execSclose cc s
  | .pictureEntropyStart engine => Sys2Proof.Machine.execPictureEntropyStart engine s
  | .pictureReconstruct sc pic => Sys2Proof.Machine.execPictureReconstruct sc pic s
  | .routedPictureShape sc pic => Sys2Proof.Machine.execRoutedPictureShape sc pic s
  | .livePictureDeadline sc pic => Sys2Proof.Machine.execLivePictureDeadline sc pic s
  | .eopen cc => Sys2Proof.Machine.execEopen cc s
  | .encodePicture cc => Sys2Proof.Machine.execEncodePicture cc s
  | .eclose cc => Sys2Proof.Machine.execEclose cc s
  | .cmdTime c closed => Sys2Proof.Machine.execCmdTime c closed s
  | .doorbellSqTail cc v => Sys2Proof.Machine.execDoorbellSqTail cc v s
  | .doorbellCqHead cc v => Sys2Proof.Machine.execDoorbellCqHead cc v s
  | .commandFetch cc => Sys2Proof.Machine.execCommandFetch cc s
  | .commandDispatch cc => Sys2Proof.Machine.execCommandDispatch cc s
  | .coreSchedule n => Sys2Proof.Machine.execCoreSchedule n s
  | .contextSwap p => Sys2Proof.Machine.execContextSwap p s
  | .interruptHoldoffEnd cc => Sys2Proof.Machine.execInterruptHoldoffEnd cc s
  | .partitionCreate p => Sys2Proof.Machine.execPartitionCreate p s
  | .partitionCreateDone p => Sys2Proof.Machine.execPartitionCreateDone p s
  | .partitionStop p => Sys2Proof.Machine.execPartitionStop p s
  | .partitionStopDone p => Sys2Proof.Machine.execPartitionStopDone p s
  | .partitionStart p => Sys2Proof.Machine.execPartitionStart p s
  | .partitionRemove p => Sys2Proof.Machine.execPartitionRemove p s
  | .contextAdd cc => Sys2Proof.Machine.execContextAdd cc s
  | .contextResume cc => Sys2Proof.Machine.execContextResume cc s
  | .contextAbort cc => Sys2Proof.Machine.execContextAbort cc s
  | .contextAbortDone cc => Sys2Proof.Machine.execContextAbortDone cc s
  | .contextRemove cc => Sys2Proof.Machine.execContextRemove cc s
  | .linkDisable l => Sys2Proof.Machine.execLinkDisable l s
  | .linkEnable l => Sys2Proof.Machine.execLinkEnable l s
  | .linkIsolate l => Sys2Proof.Machine.execLinkIsolate l s
  | .linkHeldRelease l => Sys2Proof.Machine.execLinkHeldRelease l s
  | .linkTrained l tr => Sys2Proof.Machine.execLinkTrained l tr s
  | .linkTrainRetry l => Sys2Proof.Machine.execLinkTrainRetry l s
  | .routingCommit t => Sys2Proof.Machine.execRoutingCommit t s
  | .routingTableCopy => Sys2Proof.Machine.execRoutingTableCopy s
  | .arbiterCommit mask => Sys2Proof.Machine.execArbiterCommit mask s
  | .keepLineClear p => Sys2Proof.Machine.execKeepLineClear p s
  | .landingBoardClear p => Sys2Proof.Machine.execLandingBoardClear p s
  | .firmwareCommit t => Sys2Proof.Machine.execFirmwareCommit t s
  | .firmwareAdvance t => Sys2Proof.Machine.execFirmwareAdvance t s
  | .debugTokenSubmit => Sys2Proof.Machine.execDebugTokenSubmit s
  | .moduleReset => Sys2Proof.Machine.execModuleReset s
  | .resetIn => Sys2Proof.Machine.execResetIn s
  | .alertClear mask => Sys2Proof.Machine.execAlertClear mask s
  | .performanceStateWrite isl mv => Sys2Proof.Machine.execPerformanceStateWrite isl mv s
  | .islandVoltageStep isl => Sys2Proof.Machine.execIslandVoltageStep isl s
  | .quiesce => Sys2Proof.Machine.execQuiesce s
  | .quiesceDone => Sys2Proof.Machine.execQuiesceDone s
  | .odWrite ix sub v => Sys2Proof.Machine.execOdWrite ix sub v s
  | .barAccessBad write badSize => Sys2Proof.Machine.execBarAccessBad write badSize s
  | .mailboxGo v bytes => Sys2Proof.Machine.execMailboxGo v bytes s
  | .hostWindowRead dpa => Sys2Proof.Machine.execHostWindowRead dpa s
  | .hostWindowWrite dpa bytes => Sys2Proof.Machine.execHostWindowWrite dpa bytes s
  | .biTimeout line by_ closed => Sys2Proof.Machine.execBiTimeout line by_ closed s
  | .cxlLinkTrain lanes rate => Sys2Proof.Machine.execCxlLinkTrain lanes rate s
  | .perst asserted => Sys2Proof.Machine.execPerst asserted s
  | .hostLinkLoss => Sys2Proof.Machine.execHostLinkLoss s
  | .ideFail => Sys2Proof.Machine.execIdeFail s
  | .spdmMessage tchioz secured msg => Sys2Proof.Machine.execSpdmMessage tchioz secured msg s
  | .larderRead addr hint part => Sys2Proof.Machine.execLarderRead addr hint part s
  | .larderWrite addr hint part bytes => Sys2Proof.Machine.execLarderWrite addr hint part bytes s
  | .imbalanceWindowEnd d => Sys2Proof.Machine.execImbalanceWindowEnd d s
  | .arbiterDecision k inst reqs => Sys2Proof.Machine.execArbiterDecision k inst reqs s
  | .arbiterWindowBoundary k => Sys2Proof.Machine.execArbiterWindowBoundary k s
  | .arbiterBackoffEnd k inst who => Sys2Proof.Machine.execArbiterBackoffEnd k inst who s
  | .regulatorBoundary => Sys2Proof.Machine.execRegulatorBoundary s
  | .flitReceive l f => Sys2Proof.Machine.execFlitReceive l f s
  | .nakReceive l ack => Sys2Proof.Machine.execNakReceive l ack s
  | .replayTimeout l => Sys2Proof.Machine.execReplayTimeout l s
  | .linkSignalLoss l => Sys2Proof.Machine.execLinkSignalLoss l s
  | .laneSubstitute l lane symbols => Sys2Proof.Machine.execLaneSubstitute l lane symbols s
  | .laneLockLoss l lane => Sys2Proof.Machine.execLaneLockLoss l lane s
  | .packetRoute l cls vc => Sys2Proof.Machine.execPacketRoute l cls vc s
  | .writeReceive => Sys2Proof.Machine.execWriteReceive s
  | .doneSend src xfer => Sys2Proof.Machine.execDoneSend src xfer s
  | .doneReceive => Sys2Proof.Machine.execDoneReceive s
  | .normMessageReceive => Sys2Proof.Machine.execNormMessageReceive s
  | .barrierMessageReceive => Sys2Proof.Machine.execBarrierMessageReceive s
  | .reduceCreditReceive => Sys2Proof.Machine.execReduceCreditReceive s
  | .fenceMessageReceive => Sys2Proof.Machine.execFenceMessageReceive s
  | .creditMessageReceive => Sys2Proof.Machine.execCreditMessageReceive s
  | .tc0TokenGain l => Sys2Proof.Machine.execTc0TokenGain l s
  | .fabStall l cls => Sys2Proof.Machine.execFabStall l cls s
  | .timeExchangeStart => Sys2Proof.Machine.execTimeExchangeStart s
  | .timeReceive l src => Sys2Proof.Machine.execTimeReceive l src s
  | .tpulseEdge => Sys2Proof.Machine.execTpulseEdge s
  | .frefLoss => Sys2Proof.Machine.execFrefLoss s
  | .atticRelocate block => Sys2Proof.Machine.execAtticRelocate block s
  | .wearLevelRelocate => Sys2Proof.Machine.execWearLevelRelocate s
  | .sliceStart u => Sys2Proof.Machine.execSliceStart u s
  | .sliceEnd u r => Sys2Proof.Machine.execSliceEnd u r s
  | .sliceAbandon n => Sys2Proof.Machine.execSliceAbandon n s
  | .hbmWindowMove pc r => Sys2Proof.Machine.execHbmWindowMove pc r s
  | .laneLoopback l => Sys2Proof.Machine.execLaneLoopback l s
  | .repairEntryCommit => Sys2Proof.Machine.execRepairEntryCommit s
  | .quarterRetentionEntry q => Sys2Proof.Machine.execQuarterRetentionEntry q s
  | .junctionSample isl t twin => Sys2Proof.Machine.execJunctionSample isl t twin s
  | .stackSample st t twin => Sys2Proof.Machine.execStackSample st t twin s
  | .thermalTrip sensor => Sys2Proof.Machine.execThermalTrip sensor s
  | .hubThermalTrip => Sys2Proof.Machine.execHubThermalTrip s
  | .coolantSample tin tout => Sys2Proof.Machine.execCoolantSample tin tout s
  | .powerControllerTick avgMw ma => Sys2Proof.Machine.execPowerControllerTick avgMw ma s
  | .p50vOn mv => Sys2Proof.Machine.execP50vOn mv s
  | .p50vOutOfRange mv => Sys2Proof.Machine.execP50vOutOfRange mv s
  | .p50vInputLoss mv => Sys2Proof.Machine.execP50vInputLoss mv s
  | .p50vOff => Sys2Proof.Machine.execP50vOff s
  | .stageFault stage => Sys2Proof.Machine.execStageFault stage s
  | .startupStageEnd r => Sys2Proof.Machine.execStartupStageEnd r s
  | .watchdogExpiry => Sys2Proof.Machine.execWatchdogExpiry s
  | .addrInChange level => Sys2Proof.Machine.execAddrInChange level s
  | .assign m => Sys2Proof.Machine.execAssign m s
  | .confirm m => Sys2Proof.Machine.execConfirm m s
  | .release m => Sys2Proof.Machine.execRelease m s
  | .read m => Sys2Proof.Machine.execRead m s
  | .write m => Sys2Proof.Machine.execWrite m s
  | .blob m => Sys2Proof.Machine.execBlob m s
  | .dumpReq m => Sys2Proof.Machine.execDumpReq m s
  | .eventAck m => Sys2Proof.Machine.execEventAck m s
  | .eventResend => Sys2Proof.Machine.execEventResend s
  | .heartbeat => Sys2Proof.Machine.execHeartbeat s
  | .arpRequest arp ip mac src => Sys2Proof.Machine.execArpRequest arp ip mac src s
  | .hostCompletionTimeout cc by_ closed addr => Sys2Proof.Machine.execHostCompletionTimeout cc by_ closed addr s
  | .hostSnoop line inv bytes => Sys2Proof.Machine.execHostSnoop line inv bytes s
  | .msixTableWrite v masked => Sys2Proof.Machine.execMsixTableWrite v masked s
  | .frefRestore => Sys2Proof.Machine.execFrefRestore s
  | .resetInRelease => Sys2Proof.Machine.execResetInRelease s
  | .p50vReturnToRange mv => Sys2Proof.Machine.execP50vReturnToRange mv s

end Sys2Proof.Machine
end

