-- ==== Sys2Proof/Machine/Upset.lean ====
section
/-! DEFINITION. What happens of itself as time passes: the hardware errors that befall the memories (R298 to R303, R313, R341, R833). When and where they happen is free (Config.upsets, log entry 60); what follows when such a place is read, written, programmed or erased is the manual's and stands with those accesses. -/
namespace Sys2Proof.Machine

/-- A number put into a list that does not hold it. -/
def addOnce (k : Nat) (l : List Nat) : List Nat := if l.contains k then l else k :: l

/-- Whether a sector lies in the populated HBM or in the Cellar. -/
def State.isSector (s : State) (k : Nat) : Bool :=
  (region (32 * k) == 0 && decide (offset (32 * k) < s.hbmSize)) || (region (32 * k) == 1 && decide (offset (32 * k) < cellarBytes))

/-- Whether a 64-bit word lies in a scratchpad. -/
def isWord (k : Nat) : Bool := region (8 * k) == 8 && decide (offset (8 * k) / 2 ^ 23 < 384) && decide (offset (8 * k) % 2 ^ 23 < 0x600000)

/-- A hardware error. -/
def State.upset (s : State) : Upset → State
  | .sector k worse =>
    if !(s.isSector k) then s
    else s.withHbm fun h => if worse then { h with bad := addOnce k h.bad } else { h with weak := addOnce k h.weak }
  | .copy k worse =>
    if region (32 * k) != 0 || s.copySt (offset (32 * k)) == .invalid then s
    else { s with larder := if worse then { s.larder with bad := addOnce k s.larder.bad } else { s.larder with weak := addOnce k s.larder.weak } }
  | .word k worse =>
    if !(isWord k) then s
    else s.withDiag fun d => if worse then { d with sramBad := addOnce k d.sramBad } else { d with sramWeak := addOnce k d.sramWeak }
  | .slot n k worse =>
    if 96 ≤ k then s
    else s.updCore n fun c => { c with mx := if worse then { c.mx with accBad := addOnce k c.mx.accBad } else { c.mx with accWeak := addOnce k c.mx.accWeak } }
  | .shelf n worse => s.updCore n fun c => { c with mx := if worse then { c.mx with shelfBad := true } else { c.mx with shelfWeak := true } }
  | .units g =>
    let mark := fun (r : AtticCrate) => if r.units && r.gen == g then { r with bad := true } else r
    s.withTier fun t => { t with records := t.records.map mark, crates := t.crates.map mark }
  | .store => { s with storeFails := s.storeFails + 1 }
  | .block b => if stackBlocks * 8 ≤ b then s else s.putBlock { s.block b with failing := true }

/-- One nanosecond in which no command comes: fabric time passes, and with it what hardware errors there are (log entries 1 and 60). -/
def State.tick (s : State) : State := (Config.upsets s.sec.startups (s.now + 1)).foldl State.upset (s.advance (s.now + 1))

end Sys2Proof.Machine
end

