-- ==== Sys2Proof/Safety.lean ====
section
/-! DEFINITION. What holds of the machine between commands: memory and the object dictionary in canonical form, every part there is, and every buffer within the size the manual gives it. -/
namespace Sys2Proof.Machine

/-- Every part of the module is there: 16 partitions (R608), 256 contexts (R619), 384 logical cores (R33), 4 update engines, 36 links, 16 norm groups a partition (R468). -/
def State.Whole (s : State) : Prop :=
  s.parts.length = 16 ∧ s.ctxs.length = 256 ∧ s.cores.length = 384 ∧ s.upd.length = 4 ∧ s.groups.length = 256 ∧ s.links.length = 36

/-- Every buffer is within its size: the fault ring (R853), the flight recorder (R855), EVENTs that await acknowledgement (R825), stored replies (R787), the device cache and the snoop filter (R741). -/
def State.Bounded (s : State) : Prop :=
  s.diag.ring.length ≤ 4096 ∧ s.diag.recorder.length ≤ 524288 ∧ s.mgmt.events.length ≤ 64 ∧ s.mgmt.replies.length ≤ 16
    ∧ s.host.cache.length ≤ 16384 ∧ s.host.snoop.length ≤ 2097152

/-- The object dictionary and the persistent store in canonical form. -/
def State.EntriesWf (s : State) : Prop := mapWf odDefault s.od = true ∧ mapWf odDefault s.nv = true

/-- A sound state: memory canonical, the machine whole, its buffers bounded, its entries canonical. -/
def State.Sound (s : State) : Prop := memWf s.mem = true ∧ s.Whole ∧ s.Bounded ∧ s.EntriesWf

end Sys2Proof.Machine
end

