-- ==== Sys2Proof/Certificates/Slice0/Obligations.lean ====
section
/-! DEFINITION. The statements about the model: what a step does, what every step keeps, and what each command does where it takes effect, from the manual's numbered rules. -/
open Sys2Proof Sys2Proof.Machine

/-- A step with a command at the front of its queue is that command run on the state with the rest of the queue. (spec/opcode_table.json.) -/
def Obligations.StepRunsFrontCommand : Prop :=
  ∀ (c : Instr) (rest : List Instr) (s : State), s.pending = c :: rest → step s = exec c { s with pending := rest }

/-- A step on an empty queue takes one nanosecond of fabric time, and changes no byte of memory (log entry 1 of the model). When fabric time goes from now to T, the counters BUSY, UNSCHEDULED and IDLE_0 to IDLE_8 of each core of a partition rise by T - now in sum, and no byte of memory changes. (R601, R604.) -/
def Obligations.TimePassesAndChargesEachCore : Prop :=
  (∀ s : State, s.pending = [] → ∃ t : State, step s = .next t ∧ t.now = s.now + 1 ∧ t.mem = s.mem ∧ t.pending = [])
    ∧ ∀ (s : State) (T n : Nat), s.now ≤ T → n < s.cores.length → (s.partOfCore n).isSome = true → (s.core n).idle.length = 9 →
      (∀ (e : Exec) (cause v : Nat), (s.core n).exec = some e → execWait e = some (cause, v) → cause < 9) →
      let k := (s.advance T).core n
      k.busy + k.unsched + k.idle.sum = (s.core n).busy + (s.core n).unsched + (s.core n).idle.sum + (T - s.now) ∧ (s.advance T).now = T ∧ (s.advance T).mem = s.mem

/-- Every command on every state answers a next state: the machine never stops on a command. (spec/opcode_table.json, spec/95_what_each_step_holds.md.) -/
def Obligations.EveryCommandAnswersANextState : Prop :=
  ∀ (c : Instr) (s : State), ∃ t : State, exec c s = .next t

/-- After reset memory and the object dictionary are in canonical form, every part of the module is there and every buffer is within its size; no command waits, every partition and context is ABSENT, every link DISABLED, no node ID is assigned and the host link is down; start-up stands at stage 3 (log entry 6 of the model) and memory lists nothing (log entry 3). (R33, R608, R619, R853, R855.) -/
def Obligations.ResetIsSound : Prop :=
  State.reset.Sound ∧ State.reset.pending = [] ∧ State.reset.mem = [] ∧ State.reset.pwr.stage = 3 ∧ State.reset.ready = false ∧ State.reset.host.up = false ∧ State.reset.mgmt.node = 0
    ∧ (∀ x ∈ State.reset.parts, x.st = .absent) ∧ (∀ x ∈ State.reset.ctxs, x.cond = .absent) ∧ ∀ x ∈ State.reset.links, x.st = .disabled

/-- From every state whose memory, object dictionary and persistent store are in canonical form, whose parts are all there and whose buffers (fault ring, flight recorder, EVENTs, stored replies, device cache, snoop filter) are within the sizes the manual gives them, every step, of any command, leads to such a state. (R33, R608, R619, R741, R787, R825, R853, R855.) -/
def Obligations.EveryStepKeepsTheMachineSound : Prop :=
  ∀ s t : State, s.Sound → step s = .next t → t.Sound

/-- Whatever the front command does, the commands behind it wait in the same order: from a sound state a step leaves the queue without its front. (spec/opcode_table.json.) -/
def Obligations.CommandsAreTakenFirstInFirstOut : Prop :=
  ∀ s t : State, s.Sound → step s = .next t → t.pending = s.pending.tail

namespace Sys2Proof.Machine

/-- Core `n` has started `e`: it executes it, `e` neither waits nor has begun a transfer, and it passes the checks `k`. -/
def State.starts (s : State) (n : Nat) (e : Exec) (k : Checks) : Prop :=
  (s.core n).exec = some e ∧ e.waiting = false ∧ e.phase = 0 ∧ e.rejection k = none

/-- A row of core commands completes: where its run meets no fault the command ends COMPLETE with what the run wrote and counted. -/
def rowCompletes (i : Nat → Instr) (mine : CmdInst → Prop) (checks : CmdInst → Exec → Checks) (body : State → Nat → Exec → Run) : Prop :=
  ∀ (n : Nat) (s : State) (e : Exec), s.starts n e (checks e.cmd e) → mine e.cmd → (body s n e).stop = none →
    exec (i n) s = .next ((body s n e).st.endCore n e (body s n e).fin)
      ∧ (body s n e).fin = { tiles := (body s n e).tiles, ctrs := (body s n e).ctrs, written := (body s n e).written, maxAbs := (body s n e).maxAbs }

/-- A row of core commands faults: where its run stops on a fault the command ends on that fault's fields, with what was written before it. -/
def rowFaults (i : Nat → Instr) (mine : CmdInst → Prop) (checks : CmdInst → Exec → Checks) (body : State → Nat → Exec → Run) : Prop :=
  ∀ (n : Nat) (s : State) (e : Exec) (d : Fin), s.starts n e (checks e.cmd e) → mine e.cmd → (body s n e).stop = some d →
    exec (i n) s = .next ((body s n e).st.endCore n e
      { d with tiles := (body s n e).tiles, ctrs := (body s n e).ctrs, written := (body s n e).written, maxAbs := (body s n e).maxAbs })

/-- A row of core commands rejects: a command that fails its checks runs nothing and ends on the rejection. -/
def rowRejects (i : Nat → Instr) (mine : CmdInst → Prop) (checks : CmdInst → Exec → Checks) : Prop :=
  ∀ (n : Nat) (s : State) (e : Exec) (d : Fin), (s.core n).exec = some e → e.waiting = false → e.phase = 0 → mine e.cmd → e.rejection (checks e.cmd e) = some d →
    exec (i n) s = .next (s.endCore n e d) ∧ d.status = 1 ∧ d.ctrs = [] ∧ d.tiles = 0

end Sys2Proof.Machine

/-- A MATMUL, CONV, CONV_WGRAD, DWCONV or POOL that passes its checks and whose run meets no fault ends COMPLETE: its end finds the state its run leaves, and its record the tiles and counters of the run. A NOP that passes its checks ends COMPLETE, and nothing but its end happens. (R158, R171, R178, R187, R189, R209, R225, R228, R238, R243.) -/
def Obligations.MatrixCommandsComplete : Prop :=
  (∀ (n : Nat) (s : State) (e : Exec), s.starts n e (nopChecks e.cmd e) → e.cmd.op = 0x00 → exec (.nop n) s = .next (s.endCore n e (Run.start s e).fin))
    ∧ rowCompletes .matmul (fun c => c.op = 0x01) matChecks (matRun none)
    ∧ rowCompletes .conv (fun c => c.op = 0x02 ∧ isWgrad c = false) convChecks (convRun none)
    ∧ rowCompletes .convWgrad (fun c => isWgrad c = true) wgradChecks (wgradRun none)
    ∧ rowCompletes .dwconv (fun c => c.op = 0x03) dwChecks (dwRun none)
    ∧ rowCompletes .pool (fun c => c.op = 0x04) poolChecks (poolRun none)

/-- A VOP, VREDUCE, COPY, GATHER or SCATTER that passes its checks and whose run meets no fault ends COMPLETE with what its run wrote and counted. (R197, R199, R200, R201, R209, R294, R296.) -/
def Obligations.VectorAndListCommandsComplete : Prop :=
  rowCompletes .vop (fun c => c.op = 0x10) vopChecks (vopRun none)
    ∧ rowCompletes .vreduce (fun c => c.op = 0x11) vreduceChecks (vreduceRun none)
    ∧ rowCompletes .copy (fun c => c.op = 0x20) copyChecks (copyRun none)
    ∧ rowCompletes .gather (fun c => c.op = 0x21 ∧ c.sub ≠ 1) gatherChecks (listRun gatherOne none)
    ∧ rowCompletes .scatter (fun c => c.op = 0x21 ∧ c.sub = 1) gatherChecks (listRun scatterOne none)

/-- A MATMUL, VOP, COPY, GATHER or SCATTER whose run stops on a fault ends with that fault and its failure fields, and with the tiles, counters and writes made before it. A command of a core that fails its checks runs nothing: the state is that of its end with STATUS REJECTED, no tile written and every counter zero. (R162, R163, R189, R201, R209, R212, R902.) -/
def Obligations.FaultedAndRejectedCoreCommandsEnd : Prop :=
  rowFaults .matmul (fun c => c.op = 0x01) matChecks (matRun none)
    ∧ rowFaults .vop (fun c => c.op = 0x10) vopChecks (vopRun none)
    ∧ rowFaults .copy (fun c => c.op = 0x20) copyChecks (copyRun none)
    ∧ rowFaults .gather (fun c => c.op = 0x21 ∧ c.sub ≠ 1) gatherChecks (listRun gatherOne none)
    ∧ rowFaults .scatter (fun c => c.op = 0x21 ∧ c.sub = 1) gatherChecks (listRun scatterOne none)
    ∧ rowRejects .nop (fun c => c.op = 0x00) nopChecks
    ∧ rowRejects .matmul (fun c => c.op = 0x01) matChecks
    ∧ rowRejects .conv (fun c => c.op = 0x02 ∧ isWgrad c = false) convChecks
    ∧ rowRejects .convWgrad (fun c => isWgrad c = true) wgradChecks
    ∧ rowRejects .dwconv (fun c => c.op = 0x03) dwChecks
    ∧ rowRejects .pool (fun c => c.op = 0x04) poolChecks
    ∧ rowRejects .vop (fun c => c.op = 0x10) vopChecks
    ∧ rowRejects .vreduce (fun c => c.op = 0x11) vreduceChecks
    ∧ rowRejects .copy (fun c => c.op = 0x20) copyChecks
    ∧ rowRejects .gather (fun c => c.op = 0x21 ∧ c.sub ≠ 1) gatherChecks
    ∧ rowRejects .fenceAdd (fun c => c.op = 0x30 ∧ c.sub = 1) fenceChecks
    ∧ rowRejects .creditGive (fun c => c.op = 0x31 ∧ c.sub = 1) creditChecks
    ∧ rowRejects .rowFenceClear (fun c => c.op = 0x32 ∧ c.sub = 1) rowFenceChecks

/-- Where the run of the matrix command that a core executes, up to its next closed tile, drains that tile, TILE_DRAIN leaves what that run wrote, and the command goes on with its drained and made tiles, counters and writes so far. (R178, R187, R189.) -/
def Obligations.TileDrainWritesTheNextTile : Prop :=
  ∀ (n : Nat) (s : State) (e : Exec) (g : Gemm), (s.core n).exec = some e → e.gemmOf = some g →
    let x := g.go s (s.whoExec n e) e (some (e.drained + 1))
    x.run.tiles = e.drained + 1 →
    exec (.tileDrain n) s = .next (x.run.st.updCore n fun k => { k with exec := some { e with drained := e.drained + 1, made := x.made, ctrs := x.run.ctrs, written := x.run.written, maxAbs := x.run.maxAbs } })

namespace Sys2Proof.Machine

/-- A row of TIER_MOVE completes on a core and on the hub die. -/
def tierCompletes (i : Consumer → Instr) (sub : Nat) : Prop :=
  (∀ (n : Nat) (s : State) (e : Exec), s.starts n e (tierChecks false e.cmd) → e.cmd.op = 0x23 → e.cmd.sub = sub → e.cmd.tmCount ≤ s.unpaused e.cmd →
    let r := tierRun none s (s.whoExec n e) e
    r.stop = none → exec (i (.core n)) s = .next (r.st.endCore n e r.fin) ∧ r.fin.status = 0 ∧ r.fin.tiles = r.tiles)
  ∧ ∀ (cc : Nat) (s : State) (e : Exec), s.hub.find? (fun x => x.cmd.ctx == cc) = some e → e.cmd.op = 0x23 → e.cmd.sub = sub → e.cmd.tmCount ≤ s.unpaused e.cmd → s.ready = true →
      s.rejection e.cmd [] (tierChecks true e.cmd) = none →
    let e1 : Exec := { e with start := s.now, limit := s.limitOf e.cmd }
    let r := tierRun none s { s.whoCtx cc none with die := dieAttic } e1
    r.stop = none → exec (i (.hub cc)) s = .next (r.st.endHub e1 r.fin) ∧ r.fin.status = 0 ∧ r.fin.tiles = r.tiles

end Sys2Proof.Machine

/-- A MOVE, SEAL, STAGE, DISCARD or DROP that passes its checks, writes to no paused NAND stack and whose crates meet no fault ends COMPLETE with the crates it counted, whichever consumer executes it. (R323, R327, R349, R351.) -/
def Obligations.TierMovesComplete : Prop :=
  tierCompletes .tierMoveMove 0 ∧ tierCompletes .tierMoveSeal 1 ∧ tierCompletes .tierMoveStage 2 ∧ tierCompletes .tierMoveDiscard 3 ∧ tierCompletes .tierMoveDrop 4

/-- A WAIT whose object is at least VALUE when it starts completes without waiting; another waits, still executing; FENCE_WAIT_COMPLETE completes a waiting WAIT once its object is at least VALUE. (R582, R593, R155.) -/
def Obligations.FenceWaitCompletesWhenItsConditionHolds : Prop :=
  (∀ (n : Nat) (s : State) (e : Exec), s.starts n e (fenceChecks e.cmd e) → e.cmd.op = 0x30 → e.cmd.sub = 0 →
      fld e.cmd.words 2 63 0 ≤ s.fence (s.ctxPart e.cmd.ctx) e.cmd.object → exec (.fenceWait n) s = .next (s.endCore n e {}))
    ∧ (∀ (n : Nat) (s : State) (e : Exec), s.starts n e (fenceChecks e.cmd e) → e.cmd.op = 0x30 → e.cmd.sub = 0 →
      s.fence (s.ctxPart e.cmd.ctx) e.cmd.object < fld e.cmd.words 2 63 0 → exec (.fenceWait n) s = .next (s.waitOn n e))
    ∧ ∀ (n : Nat) (s : State) (e : Exec), (s.core n).exec = some e → e.waiting = true → e.cmd.op = 0x30 → e.cmd.sub = 0 →
      fld e.cmd.words 2 63 0 ≤ s.fence (s.ctxPart e.cmd.ctx) e.cmd.object → exec (.fenceWaitComplete n) s = .next (s.endCore n e {})

/-- A local ADD sets its object to the sum with VALUE, stopping at 2^64 - 1, a MAX to the larger of the two and a SET to VALUE, before the command ends COMPLETE. (R582, R594.) -/
def Obligations.FenceUpdatesApplyAndComplete : Prop :=
  ∀ (n : Nat) (s : State) (e : Exec), s.starts n e (fenceChecks e.cmd e) → e.cmd.op = 0x30 → e.cmd.remote = false →
    let p := s.ctxPart e.cmd.ctx
    let k := e.cmd.object
    let v := fld e.cmd.words 2 63 0
    (e.cmd.sub = 1 → exec (.fenceAdd n) s = .next ((s.odSetN (0x2D00 + p) k (min (s.fence p k + v) (2 ^ 64 - 1))).endCore n e {}))
      ∧ (e.cmd.sub = 2 → exec (.fenceMax n) s = .next ((s.odSetN (0x2D00 + p) k (max (s.fence p k) v)).endCore n e {}))
      ∧ (e.cmd.sub = 3 → exec (.fenceSet n) s = .next ((s.odSetN (0x2D00 + p) k v).endCore n e {}))

/-- After ADD, MAX or SET a fence object reads as the sum stopped at 2^64 - 1, the larger, or the value; after GIVE a credit counter reads as the sum stopped at 0xFFFF_FFFF; every other object and counter of every partition reads as before. The entries are in canonical form, which every step keeps (EveryStepKeepsTheMachineSound). (R579, R582, R591.) -/
def Obligations.FenceObjectsHoldWhatTheirUpdatesGive : Prop :=
  ∀ (s : State) (p k v : Nat), s.EntriesWf → p < 16 → k < 256 → v < 2 ^ 64 →
    (s.fenceAdd p k v).fence p k = min (s.fence p k + v) (2 ^ 64 - 1)
      ∧ (s.fenceMax p k v).fence p k = max (s.fence p k) v
      ∧ (s.fenceSet p k v).fence p k = v
      ∧ (s.creditAdd p k v).credits p k = min (s.credits p k + v) 0xFFFFFFFF
      ∧ ∀ q j : Nat, q < 16 → j < 256 → ¬(q = p ∧ j = k) →
        (s.fenceAdd p k v).fence q j = s.fence q j ∧ (s.fenceMax p k v).fence q j = s.fence q j ∧ (s.fenceSet p k v).fence q j = s.fence q j
          ∧ (s.creditAdd p k v).credits q j = s.credits q j
          ∧ (s.fenceAdd p k v).credits q j = s.credits q j ∧ (s.creditAdd p k v).fence q j = s.fence q j

/-- A remote FENCE ADD or MAX, or a remote CREDIT GIVE, whose message can be injected ends COMPLETE in the state with the message on its way, and no object here changes. (R594, R595.) -/
def Obligations.RemoteUpdatesCompleteWhenInjected : Prop :=
  ∀ (n : Nat) (s t : State) (e : Exec), e.cmd.remote = true →
    let p := s.ctxPart e.cmd.ctx
    (s.starts n e (fenceChecks e.cmd e) → e.cmd.op = 0x30 → e.cmd.sub = 1 →
      s.message (s.whoExec n e) e.cmd.module (n / 2) (fenceObj p e.cmd.object) (syncData 1 (fld e.cmd.words 2 63 0)) = .ok t → exec (.fenceAdd n) s = .next (t.endCore n e {}))
    ∧ (s.starts n e (fenceChecks e.cmd e) → e.cmd.op = 0x30 → e.cmd.sub = 2 →
      s.message (s.whoExec n e) e.cmd.module (n / 2) (fenceObj p e.cmd.object) (syncData 2 (fld e.cmd.words 2 63 0)) = .ok t → exec (.fenceMax n) s = .next (t.endCore n e {}))
    ∧ (s.starts n e (creditChecks e.cmd e) → e.cmd.op = 0x31 → e.cmd.sub = 1 →
      s.message (s.whoExec n e) e.cmd.module (n / 2) (creditObj p e.cmd.object) (syncData 1 e.cmd.amount) = .ok t → exec (.creditGive n) s = .next (t.endCore n e {}))

/-- A local SEND whose run meets no fault adds VALUE to its object after its last write and ends COMPLETE; one that stops on a fault updates no object. (R582, R584, R586, R587, R594.) -/
def Obligations.SendCopiesThenAdds : Prop :=
  ∀ (n : Nat) (s : State) (e : Exec), s.starts n e (fenceChecks e.cmd e) → e.cmd.op = 0x30 → e.cmd.sub = 4 → e.cmd.remote = false →
    let r := sendRun none s n e
    (r.stop = none → exec (.fenceSend n) s = .next ((r.st.fenceAdd (s.ctxPart e.cmd.ctx) e.cmd.object (fld e.cmd.words 2 63 0)).endCore n e r.fin) ∧ r.fin.status = 0)
      ∧ (r.stop.isSome = true → exec (.fenceSend n) s = .next (r.st.endCore n e r.fin))

/-- A TAKE that finds no earlier taker and enough credit takes AMOUNT and completes at once; the completion event does so for the taker at the head of the order; a local GIVE adds AMOUNT, stopping at 0xFFFF_FFFF, and raises COLL.CREDIT_OVF after it completes where the sum is higher; SET sets the counter. (R589, R590, R591, R594, R907.) -/
def Obligations.CreditCommandsComplete : Prop :=
  (∀ (n : Nat) (s : State) (e : Exec), s.starts n e (creditChecks e.cmd e) → e.cmd.op = 0x31 → e.cmd.sub = 0 →
      let p := s.ctxPart e.cmd.ctx
      let k := e.cmd.object
      s.headTaker p k = none → e.cmd.amount ≤ s.credits p k →
      exec (.creditTake n) s = .next ((s.odSetN (0x2D10 + p) k (s.credits p k - e.cmd.amount)).endCore n e {}))
    ∧ (∀ (p k n slot : Nat) (s : State) (e : Exec), s.headTaker p k = some (Consumer.core n, slot) → (s.core n).exec = some e → e.waiting = true → e.cmd.amount ≤ s.credits p k →
      exec (.creditTakeComplete p k) s = .next ((s.takeHead p k e.cmd.amount).endCore n e {}))
    ∧ (∀ (n : Nat) (s : State) (e : Exec), s.starts n e (creditChecks e.cmd e) → e.cmd.op = 0x31 → e.cmd.sub = 1 → e.cmd.remote = false →
      let p := s.ctxPart e.cmd.ctx
      let k := e.cmd.object
      exec (.creditGive n) s = .next (((s.odSetN (0x2D10 + p) k (min (s.credits p k + e.cmd.amount) 0xFFFFFFFF)).endCore n e {}).creditOverflow (s.credits p k) e.cmd.amount p))
    ∧ ∀ (n : Nat) (s : State) (e : Exec), s.starts n e (creditChecks e.cmd e) → e.cmd.op = 0x31 → e.cmd.sub = 2 →
      exec (.creditSet n) s = .next ((s.odSetN (0x2D10 + s.ctxPart e.cmd.ctx) e.cmd.object e.cmd.amount).endCore n e {})

/-- A TAKE that starts while another taker of its counter waits joins the end of the order and waits, whatever it asks for; the counter keeps its value. (R590, R155.) -/
def Obligations.TakersAreServedInOrder : Prop :=
  ∀ (n : Nat) (s : State) (e : Exec), s.starts n e (creditChecks e.cmd e) → e.cmd.op = 0x31 → e.cmd.sub = 0 →
    let p := s.ctxPart e.cmd.ctx
    let k := e.cmd.object
    (s.headTaker p k).isSome = true →
    exec (.creditTake n) s = .next (({ s with takers := s.takers ++ [(takerKey p k, Consumer.core n, 0)] } : State).waitOn n e)

/-- A ROW_FENCE WAIT whose covered bits are all set completes at once, and another waits until they are; a CLEAR removes from the set bits of its partition exactly those it covers, and completes. (R249, R250, R251, R253.) -/
def Obligations.RowFencesComplete : Prop :=
  (∀ (n : Nat) (s : State) (e : Exec), s.starts n e (rowFenceChecks e.cmd e) → e.cmd.op = 0x32 → e.cmd.sub = 0 →
      (s.rowHolds e.cmd = true → exec (.rowFenceWait n) s = .next (s.endCore n e {})) ∧ (s.rowHolds e.cmd = false → exec (.rowFenceWait n) s = .next (s.waitOn n e)))
    ∧ (∀ (n : Nat) (s : State) (e : Exec), s.starts n e (rowFenceChecks e.cmd e) → e.cmd.op = 0x32 → e.cmd.sub = 1 →
      exec (.rowFenceClear n) s = .next ((s.updPart (s.ctxPart e.cmd.ctx) fun x => { x with rows := x.rows.filter fun b => !(rowCovers e.cmd b) }).endCore n e {}))
    ∧ ∀ (n : Nat) (s : State) (e : Exec), (s.core n).exec = some e → e.waiting = true → e.cmd.op = 0x32 → e.cmd.sub = 0 → s.rowHolds e.cmd = true →
      exec (.rowFenceWaitComplete n) s = .next (s.endCore n e {})

/-- A LOCAL BARRIER that passes its checks completes when nothing before it that it waits on is left, at its start or at BARRIER_ARRIVE; a STEP BARRIER that passes its checks, in a module with an address or alone, joins its group as the group stands, and one that waited joins it as it stands then. (R537, R538, R540, R909.) -/
def Obligations.BarriersCompleteOnArrival : Prop :=
  (∀ (cc : Nat) (s : State) (e0 : Exec), s.startable1 cc (fun x => x.sub != 1) = some e0 → s.rejection e0.cmd [] (barrierChecks e0.cmd []) = none →
      let e : Exec := { e0 with start := s.now, limit := s.limitOf e0.cmd }
      (s.mayArrive e0.cmd = true → exec (.barrierLocal cc) s = .next (s.endBarrier e {}))
        ∧ (s.mayArrive e0.cmd = false → exec (.barrierLocal cc) s = .next ((s.putHub { e with phase := 1, waiting := true }).refresh cc)))
    ∧ (∀ (cc : Nat) (s : State) (e0 : Exec) (ws : List Word), s.startable1 cc (fun x => x.sub == 1) = some e0 → s.readRec (s.whoCtx cc none) e0.cmd.bTree 8 = .words ws →
      s.rejection e0.cmd [] (barrierChecks e0.cmd ws) = none → treeReserved ws = false → (s.fabric ≠ 0xFFFF ∨ treeAlone ws = true) →
      let e : Exec := { e0 with start := s.now, limit := s.limitOf e0.cmd, recs := [.words ws] }
      exec (.barrierStep cc) s = .next ((State.settleBarrier (s.ctxPart cc) e0.cmd.bGroup 12 ((s.touchRecord (s.whoCtx cc none) e0.cmd.bTree 64).joinBarrier e)).refresh cc))
    ∧ ∀ (cc : Nat) (s : State) (e : Exec), s.hubExec cc CmdInst.isBarrier = some e → e.phase = 1 → s.mayArrive e.cmd = true →
      (e.cmd.sub ≠ 1 → exec (.barrierArrive cc) s = .next (s.endBarrier e {}))
        ∧ (e.cmd.sub = 1 → exec (.barrierArrive cc) s = .next ((State.settleBarrier (s.ctxPart cc) e.cmd.bGroup 12 (s.joinBarrier e)).refresh cc))

namespace Sys2Proof.Machine

/-- Update engine `k` starts the command `c`, which passes its checks: records read, the state it begins in and its execution are `State.updReads`, `State.updBegun` and `State.updExec`. -/
def State.updStarts (s : State) (k : Nat) (c : CmdInst) : Prop :=
  s.nextUpdate k (fun _ => true) = some c ∧ (s.updTaken k c).updRejection k c (s.updReads (s.whoCtx c.ctx none) c) = none

end Sys2Proof.Machine

/-- A NORM_PART that passes its checks, finds its slot free or gathering its step and meets no fault leaves the slot GATHERING with the sum, count and causes joined and completes; a NORM_REDUCE joins its group as the group stands; a NORM_READ writes the slot record at A and completes; a NORM_LOAD sets the slot to the record it read and completes. (R455, R460, R461, R462, R464, R465, R469.) -/
def Obligations.NormCommandsTakeEffect : Prop :=
  ∀ (k : Nat) (s : State) (c : CmdInst), s.updStarts k c →
    let u := s.updBegun k c
    let e := s.updExec c
    let x := s.updReads (s.whoCtx c.ctx none) c
    let p := u.ctxPart c.ctx
    let sl := u.slot k p c.uSlot
    let v := if c.uA = 0 then u else u.touch (u.whoUpd k c.ctx) 0 c.uA 8
    (∀ g : Desc, c.sub = 0 → streamAt x.streams 0x11 = some g → (sl.st = .empty ∨ sl.step ≠ c.uStep ∨ sl.st = .gathering) →
        (c.uA = 0 ∨ u.loadFault (u.whoCtx c.ctx none) c.uA 8 = none) → (v.normPasses k e x g none).run.stop = none →
        let y := v.normPasses k e x g none
        exec (.normPart k) s = .next ((y.run.st.updSlot k p c.uSlot fun _ => partSlot sl c.uStep (fld ((x.hdr.map RecRead.ws).getD []) 0 63 0) g.count y).endUpdate k e { y.run.fin with tiles := 0 }) ∧ y.run.fin.status = 0)
      ∧ (c.sub = 1 → (sl.st = .empty ∨ sl.step ≠ c.uStep ∨ sl.st = .gathering) → (u.fabric ≠ 0xFFFF ∨ treeAlone (match e.recs with | .words ws :: _ => ws | _ => []) = true) →
        exec (.normReduce k) s = .next (State.settleGroup p c.uGroup 12 (u.joinGroup k e)))
      ∧ (c.sub = 3 → u.storeFault (u.whoUpd k c.ctx) c.uA 64 = none →
        exec (.normRead k) s = .next ((u.store (u.whoUpd k c.ctx) 0 c.uA (bytesOfWords (normWords
          { step := sl.step, elems := sl.elems, sumsq := sl.sumsq, lscale := u.lscale p c.uGroup, cause := sl.cause, kind := 1, contrib := 1 }))).endUpdate k e {}))
      ∧ ∀ ws : List Word, c.sub = 4 → e.recs = [.words ws] → ¬(sl.st = .waiting ∧ sl.step = c.uStep) →
        exec (.normLoad k) s = .next ((u.updSlot k p c.uSlot fun y =>
          { y with st := if (normOf ws).kind = 2 then .go else .skip, step := (normOf ws).step, sumsq := (normOf ws).sumsq, gnorm := (normOf ws).gnorm, clip := (normOf ws).clip, lscale := (normOf ws).lscale, cause := (normOf ws).cause }).endUpdate k e {})

/-- An APPLY that passes its checks, whose slot holds its step and whose header is at that step, runs its program over its groups when the slot is GO and, meeting no fault, completes with what it wrote; when the slot is SKIP it stores no stream element and completes; with LAST set either writes the final header. (R459, R464, R480, R484, R486.) -/
def Obligations.ApplyUpdatesOrSkips : Prop :=
  ∀ (k : Nat) (s : State) (c : CmdInst), s.updStarts k c → c.sub = 2 →
    let u := s.updBegun k c
    let e := s.updExec c
    let x := s.updReads (s.whoCtx c.ctx none) c
    let w := u.whoUpd k c.ctx
    let sl := u.slot k (u.ctxPart c.ctx) c.uSlot
    let h := (x.hdr.map RecRead.ws).getD []
    sl.step = c.uStep → fld h 0 63 0 = c.uStep →
    (sl.st = .skip → exec (.apply k) s = .next ((if fld c.words 3 23 23 == 1 then u.finalHeader k w c h sl else u).endUpdate k e {}))
      ∧ (sl.st = .go → (applyRun none u k e x sl).stop = none →
        let r := applyRun none u k e x sl
        let t := r.st.stateNonfinite k c r
        exec (.apply k) s = .next ((if fld c.words 3 23 23 == 1 then t.finalHeader k w c h sl else t).endUpdate k e { r.fin with ctrs := r.ctrs.take 5 }))

/-- A REDUCE that passes its checks joins the reductions of its context; with READY 0, or first at its counter with READY credits there, it takes them and is locally ready at once; otherwise it waits in the order of takers, and REDUCE_LOCALLY_READY makes it ready once it is at the head with enough credit. (R494, R498, R502, R590.) -/
def Obligations.ReductionsStartAndBecomeReady : Prop :=
  (∀ (cc slot : Nat) (s : State) (c : CmdInst), s.collNext cc slot 0x48 = some c →
      let w := s.whoRed cc c.port
      let rs := s.redDescs w c
      let plan := s.readPlan w c.rPlan
      s.redRejection c rs plan = none → (s.fabric ≠ 0xFFFF ∨ (planNin plan.ws = 0 ∧ ∀ k ∈ planChunks plan.ws, k.own = true)) →
      let r : RedRun := { exec := { cmd := c, start := s.now, limit := s.limitOf c, recs := rs.map fun x => x.getD .beyond, waiting := true }, plan := plan.ws }
      let t := (((s.collTake c).touchDescs w cc c.redIndexes).touchRecord w c.rPlan (8 * plan.ws.length)).withColl fun x => { x with runs := x.runs ++ [r] }
      let q : State := { t with takers := t.takers ++ [(takerKey (s.ctxPart cc) c.rCtr, Consumer.reduction cc, slot)] }
      (c.rReady = 0 → exec (.reduce cc slot) s = .next (t.redReady r))
        ∧ (c.rReady ≠ 0 → s.headTaker (s.ctxPart cc) c.rCtr = none → c.rReady ≤ s.credits (s.ctxPart cc) c.rCtr →
          exec (.reduce cc slot) s = .next ((q.takeHead (s.ctxPart cc) c.rCtr c.rReady).redReady r))
        ∧ (c.rReady ≠ 0 → ((s.headTaker (s.ctxPart cc) c.rCtr).isSome = true ∨ s.credits (s.ctxPart cc) c.rCtr < c.rReady) → exec (.reduce cc slot) s = .next (q.refresh cc)))
    ∧ ∀ (cc slot : Nat) (s : State) (r : RedRun), s.findRun cc slot = some r → r.ready = false →
      s.headTaker (s.ctxPart cc) r.exec.cmd.rCtr = some (Consumer.reduction cc, slot) → r.exec.cmd.rReady ≤ s.credits (s.ctxPart cc) r.exec.cmd.rCtr →
      exec (.reduceLocallyReady cc slot) s = .next ((s.takeHead (s.ctxPart cc) r.exec.cmd.rCtr r.exec.cmd.rReady).redReady r)

/-- For a chunk with no inputs the entry is added first. A reduction at an entry that is not its own, that may start one more unit, whose next unit is ready and fault-free, sends it and goes on; one whose entry has inputs consumes what has landed and goes on. (R510, R511, R514, R515, R518.) -/
def Obligations.ReductionUnitsMoveOn : Prop :=
  ∀ (cc slot entry : Nat) (s : State) (r : RedRun), s.runAt cc slot entry = some r →
    let x := s.work r
    let y := if x.chunk.mask = 0 then x.add else x
    (x.chunk.own = false → r.mayStart = true → y.run.stop = none → y.unitReady = true → exec (.reduceUnitSend cc slot entry) s = .next y.sendUnit.settle)
      ∧ ((planChunk r.plan entry).mask ≠ 0 → exec (.reduceUnitConsume cc slot entry) s = .next x.add.settle)

/-- A BROADCAST that passes its checks in a module with a fabric address sends its packets at once when no command of its context before it runs on the update engine of its source's die; another is held, and BROADCAST_SEND_START sends its packets once none is left. (R544, R545, R546, R547.) -/
def Obligations.BroadcastsSendWhenNothingIsBefore : Prop :=
  (∀ (cc slot : Nat) (s : State) (c : CmdInst) (ws : List Word), s.collNext cc slot 0x49 = some c → s.readList (s.whoRed cc c.port) c = .words ws → s.fabric ≠ 0xFFFF →
      let e : Exec := { cmd := c, start := s.now, limit := s.limitOf c, recs := [.words ws], phase := 1 }
      s.rejection c [] (bcChecks c (castList e)) = none → (castList e).all (fun x => decide (x < 4096)) = true →
      let t := ((s.collTake c).touch (s.whoRed cc c.port) 0 c.bcList (2 * c.bcCount)).withColl fun x => { x with broadcasts := x.broadcasts ++ [e] }
      (t.castHeld c = false → exec (.broadcast cc slot) s = .next (t.cast e (castList e))) ∧ (t.castHeld c = true → exec (.broadcast cc slot) s = .next t))
    ∧ ∀ (cc slot : Nat) (s : State) (e : Exec), s.coll.broadcasts.find? (fun x => x.cmd.isAt cc slot && x.phase == 1) = some e → s.castHeld e.cmd = false →
      exec (.broadcastSendStart cc slot) s = .next (s.cast e (castList e))

namespace Sys2Proof.Machine

/-- The media die starts the command `e` of context `cc`: the next of its context there, with opcode `op` and SUBOP `sub`; the records `rs` and `list` it reads can be read, and it passes the checks `k`. -/
def State.mediaStarts (s : State) (cc op sub : Nat) (e : Exec) (rs : List RecRead) (list : Option RecRead) (k : Checks) : Prop :=
  (∃ e0 : Exec, s.mediaNext cc (fun _ => true) = some e0 ∧ e = { e0 with start := s.now }) ∧ e.cmd.op = op ∧ e.cmd.sub = sub
    ∧ firstFailed (rs ++ list.toList) = none ∧ s.rejection e.cmd rs k = none

end Sys2Proof.Machine

/-- An OPEN of a free handle whose tensor and mask are mapped opens a batch with every slot EMPTY and the deadline the command gives, or the partition's default; an ADD whose records all pass admits them in order and counts them in TILES_WRITTEN; a CLOSE resolves every unresolved slot LATE, reason 6 where nothing was admitted and 5 otherwise, a slot already past its deadline meeting that first; a CLOSE of a batch that is not open, or is another partition's, has no effect: each completes. (R657, R661, R662, R664, R680, R684, R685.) -/
def Obligations.BatchCommandsComplete : Prop :=
  (∀ (cc : Nat) (s : State) (e : Exec) (tensor : List Word), s.mediaStarts cc 0x50 0 e [.words tensor] none (openChecks e.cmd [.words tensor]) →
      s.readDesc (s.whoMedia cc) cc (fld e.cmd.words 2 15 0) = .words tensor →
      let t := s.touchDescs (s.whoMedia cc) cc [fld e.cmd.words 2 15 0]
      t.batchUnmapped (t.whoMedia cc) (descOf tensor) (batchMask e.cmd.words) = none → t.batch (fld e.cmd.words 2 39 32) = none →
      let us := if fld e.cmd.words 4 31 0 = 0 then t.odN (0x5010 + s.ctxPart cc) 1 else fld e.cmd.words 4 31 0
      let x : Batch := { handle := fld e.cmd.words 2 39 32, part := s.ctxPart cc, ctx := cc, words := e.cmd.words, tensor := tensor, opened := t.now, slots := List.replicate (descOf tensor).n3 { deadline := t.now + 1000 * us } }
      exec (.mediaOpen cc) s = .next ((t.withMedia fun m => { m with batches := m.batches ++ [x] }).endMedia e {}))
    ∧ (∀ (cc : Nat) (s : State) (e : Exec) (list : List Word), s.mediaStarts cc 0x50 1 e [] (some (.words list)) (addChecks e.cmd []) → s.readList64 (s.whoMedia cc) e.cmd = .words list →
      let n := fld e.cmd.words 3 9 0 + 1
      let b := fld e.cmd.words 3 23 16
      let rs := (List.range n).map (recordAt list)
      s.tableRoom (s.ctxPart cc) n = true → firstBad (s.sampleCheck (s.ctxPart cc) (s.batch b)) smpSlot 0 [] rs = none →
      exec (.mediaAdd cc) s = .next ((rs.foldl (fun u r => u.enrol b none r) (s.touchRecord (s.whoMedia cc) (fld e.cmd.words 2 51 0) (64 * n))).endMedia e { tiles := n }))
    ∧ ∀ (cc : Nat) (s : State) (e : Exec), s.mediaStarts cc 0x50 2 e [] none { reserved := fld e.cmd.words 2 63 8 != 0 || [3, 4, 5, 6, 7].any fun i => fld e.cmd.words i 63 0 != 0 } →
      let b := fld e.cmd.words 2 7 0
      (s.batch b = none → exec (.mediaClose cc) s = .next (s.endMedia e {}))
        ∧ (∀ x : Batch, s.batch b = some x → x.part ≠ s.ctxPart cc → exec (.mediaClose cc) s = .next (s.endMedia e {}))
        ∧ ∀ x : Batch, s.batch b = some x → x.part = s.ctxPart cc →
          exec (.mediaClose cc) s = .next (((List.range x.slots.length).foldl (fun u i => (u.bringSlot b i).resolve b i .late (if (x.slot i).res == .empty then 6 else 5)) s).endMedia e {})

/-- A free engine of a kind takes the sample that comes first of those waiting for it, and reads its bytes; one whose source cannot be read resolves INVALID with reason 3, and the unit's error is counted; a video frame that comes first at the geometry and colour unit is left to its own row. A sample that has been decoded and fits fills its slot VALID, or INVALID with reason 3 where the slot's sectors cannot be merged. A sample found bad resolves INVALID for reasons 1 to 3, and for reason 4 where a clip keeps its channels. At its deadline an unresolved MASK slot resolves LATE, and a WAIT slot is marked PASSED, counted and reported. A slot whose deadline has passed has met it before its sample's outcome is applied. A batch whose slots are all resolved writes weights, statuses and header, adds to its fence where FENCE_EN is set, and frees its handle. (R678, R680, R684, R685, R686, R690, R898.) -/
def Obligations.SamplesAreDecodedAndResolved : Prop :=
  (∀ (engine inst : Nat) (s : State) (b i : Nat) (y : BatchSlot) (x : Batch), inst < engineCount engine → s.engineBusy engine inst = false → s.unitOut (mediaUnit engine inst) = false → s.ready = true →
      firstSample (s.waitingFor engine) = some (b, i, y) → s.batch b = some x →
      (y.stream.isSome = true → exec (.sampleDecodeStart engine inst) s = .next s)
        ∧ (y.stream = none → engine = 2 → exec (.sampleDecodeStart engine inst) s = .next (s.putBatch (x.updSlot i fun z => { z with phase := 2, engine := inst })))
        ∧ (y.stream = none → engine ≠ 2 → s.loadFault x.who (smpSrc y.words) (smpLen y.words) = none →
          exec (.sampleDecodeStart engine inst) s = .next ((s.putBatch (x.updSlot i fun z => { z with phase := if engine = 1 then 2 else 1, engine := inst })).touch x.who 0 (smpSrc y.words) (smpLen y.words)))
        ∧ ∀ f : Code × Nat, y.stream = none → engine ≠ 2 → s.loadFault x.who (smpSrc y.words) (smpLen y.words) = some f →
          exec (.sampleDecodeStart engine inst) s = .next (((s.countFault f.1 f.2).resolve b i .invalid 3).stopOwed))
    ∧ (∀ (b sl : Nat) (s : State) (x : Batch), s.batch b = some x →
      ((s.now ≤ (x.slot sl).deadline → s.bringSlot b sl = s) ∧ ((x.slot sl).deadline < s.now → s.bringSlot b sl = s.passDeadline b sl)))
    ∧ (∀ (b sl : Nat) (s : State) (x : Batch), let t := s.bringSlot b sl
      t.batch b = some x → (x.slot sl).res = .admitted → (x.slot sl).stream = none → (x.slot sl).phase = 2 → t.sampleFits x (x.slot sl).words = true →
      let es := t.sampleElems x sl (x.slot sl).words
      ((t.writable (patchOf x.desc es)).2 = true → exec (.sampleValid b sl) s = .next (t.resolve x.handle sl .invalid 3))
        ∧ ((t.writable (patchOf x.desc es)).2 = false →
          exec (.sampleValid b sl) s = .next (((t.putPatch x.who x.desc.hint (patchOf x.desc es)).putBatch { x with ctr := es.foldl (fun k z => k.bump z.kind) x.ctr }).resolve x.handle sl .valid 0)))
    ∧ (∀ (b sl reason : Nat) (s : State) (x : Batch), let t := s.bringSlot b sl
      t.batch b = some x → (x.slot sl).res = .admitted → (x.slot sl).stream = none → 1 ≤ (x.slot sl).phase →
      ((1 ≤ reason ∧ reason ≤ 3) ∨ (reason = 4 ∧ batchKind x.words = 1 ∧ audMix (x.slot sl).words = 0)) →
      exec (.sampleInvalid b sl reason) s = .next (t.resolve b sl .invalid reason))
    ∧ (∀ (b sl : Nat) (s : State) (x : Batch), s.batch b = some x → sl < x.slots.length → (x.slot sl).resolved = false → (x.slot sl).passed = false →
      let u := (s.advance (x.slot sl).deadline).putBatch (x.updSlot sl fun z => { z with passed := true })
      ((x.slot sl).wait = false → exec (.slotDeadline b sl) s = .next (u.resolve b sl .late (if (x.slot sl).res == .empty then 6 else 0)))
        ∧ ((x.slot sl).wait = true →
          exec (.slotDeadline b sl) s = .next ((u.odInc (0x5010 + x.part) 4).recordLimited { code := .mediaWaitPast, part := some x.part, ctx := some x.ctx, unit := { kind := 16, inst := x.part } } x.part)))
    ∧ ∀ (b : Nat) (s : State) (x : Batch), s.batch b = some x → x.slots.all BatchSlot.resolved = true →
      let m := batchMask x.words
      let n := x.slots.length
      let t := ((s.mediaPut x.who (m + 64) (x.slots.flatMap fun y => leBytes 2 (if y.res == .valid then 0x3F80 else 0))).mediaPut x.who (m + 64 + 64 * ceilDiv n 32) (x.slots.map fun y => BitVec.ofNat 8 (statusByte y))).mediaPut
        x.who m (bytesOfWords ((maskHeader x).map (BitVec.ofNat 64)))
      let u := if batchFenceOn x.words then t.odSetN (0x2D00 + x.part) (batchFence x.words) (min (t.odN (0x2D00 + x.part) (batchFence x.words) + fld x.words 5 63 0) (2 ^ 64 - 1)) else t
      exec (.batchComplete b) s = .next (u.withMedia fun k => { k with batches := k.batches.filter fun y => y.handle != b })

/-- An SOPEN of a FREE context with a good reference area makes it DECODING; a DATA to one that decodes and does not wait for routes, from mapped memory, feeds its bytes and completes with TILES_WRITTEN equal to LEN, and one to a FAILED context completes without reading; a ROUTE whose entries all pass admits them in order; an SCLOSE closes the context: each completes. (R698, R700, R702, R703, R707, R708, R710, R723, R724.) -/
def Obligations.StreamCommandsComplete : Prop :=
  (∀ (cc : Nat) (s : State) (e : Exec), s.mediaStarts cc 0x51 0 e [] none (sopenChecks e.cmd []) → s.stream (fld e.cmd.words 2 7 0) = none →
      s.refAreaBad (s.whoMedia cc) (fld e.cmd.words 3 51 0) (fld e.cmd.words 4 31 0) ((fld e.cmd.words 5 3 0 + 3) * pictureSize (fld e.cmd.words 2 47 32 + 1) (fld e.cmd.words 2 63 48 + 1) (fld e.cmd.words 5 4 4 == 1)) = false →
      exec (.sopen cc) s = .next ((s.withMedia fun m => { m with streams := m.streams ++ [({ num := fld e.cmd.words 2 7 0, part := s.ctxPart cc, ctx := cc, st := .decoding, words := e.cmd.words } : Stream)] }).endMedia e {}))
    ∧ (∀ (cc : Nat) (s : State) (e : Exec) (x : Stream), s.mediaStarts cc 0x51 1 e [] none (dataChecks e.cmd []) → s.decodeCtx (s.ctxPart cc) (fld e.cmd.words 3 39 32) = some x → s.paused x = false → x.st = .decoding →
      ((List.range (fld e.cmd.words 3 31 0)).find? fun i => region (fld e.cmd.words 2 51 0 + i) == 8 || region (fld e.cmd.words 2 51 0 + i) == 15
        || (s.mapFault (s.whoMedia cc) false (fld e.cmd.words 2 51 0 + i)).map Prod.fst == some .memUnmapped) = none →
      exec (.streamData cc) s = .next ((s.feedStream (s.whoMedia cc) x e.cmd.words).endMedia e { tiles := fld e.cmd.words 3 31 0 }))
    ∧ (∀ (cc : Nat) (s : State) (e : Exec) (x : Stream), s.mediaStarts cc 0x51 1 e [] none (dataChecks e.cmd []) → s.decodeCtx (s.ctxPart cc) (fld e.cmd.words 3 39 32) = some x → s.paused x = false → x.st = .failed →
      exec (.streamData cc) s = .next (s.endMedia e { tiles := fld e.cmd.words 3 31 0 }))
    ∧ (∀ (cc : Nat) (s : State) (e : Exec) (list : List Word) (x : Stream), s.mediaStarts cc 0x51 2 e [] (some (.words list)) (addChecks e.cmd []) → s.readList64 (s.whoMedia cc) e.cmd = .words list →
      let n := fld e.cmd.words 3 9 0 + 1
      let rs := (List.range n).map (recordAt list)
      s.tableRoom (s.ctxPart cc) n = true → s.decodeCtx (s.ctxPart cc) (fld e.cmd.words 3 23 16) = some x →
      firstBad (s.routeCheck (s.ctxPart cc) x.live) (fun r => fld r 1 7 0 * 1024 + smpSlot r) 0 [] rs = none →
      exec (.route cc) s = .next (((s.touchRecord (s.whoMedia cc) (fld e.cmd.words 2 51 0) (64 * n)).admitRoutes x rs).endMedia e { tiles := n }))
    ∧ ∀ (cc : Nat) (s : State) (e : Exec) (x : Stream), s.mediaStarts cc 0x51 3 e [] none (closeChecks e.cmd []) → s.decodeCtx (s.ctxPart cc) (fld e.cmd.words 2 7 0) = some x →
      exec (.sclose cc) s = .next ((s.closeStream x).endMedia e {})

/-- An entropy engine takes the ready picture that comes before every other in the order of work. A parsed picture whose earlier pictures are reconstructed is reconstructed: its references are read from the reference area and it is kept there; one that cannot be read or kept, or that is broken itself or by its references, is counted and reported. An output picture, when a slot that waits for it comes first at the geometry and colour unit, is read from the reference area and fills every slot that waits for it in time; where it cannot be read (log entry 79) those slots are INVALID. A live picture past its deadline meets its slots' deadlines, and is dropped, counted and reported where no picture references it and it has not started. (R678, R709, R713, R714, R715, R716, R718, R719, R720, R721, R722.) -/
def Obligations.PicturesAreDecodedShapedAndDropped : Prop :=
  (∀ (engine : Nat) (s : State) (x : Stream) (p : Pic), engine < 16 → s.unitOut (mediaUnit 3 engine) = false → s.ready = true → (x, p) ∈ s.entropyReady →
      (∀ y ∈ s.entropyReady, y ≠ (x, p) → s.pictureKey x p < s.pictureKey y.1 y.2) →
      exec (.pictureEntropyStart engine) s = .next (s.updPic x.num p.n fun q => { q with phase := 1 }))
    ∧ (∀ (sc pic : Nat) (s : State) (x : Stream) (p : Pic), s.stream sc = some x → x.pics.find? (fun q => q.n == pic) = some p → p.phase = 1 → x.st ≠ .failed → (∀ q ∈ x.pics, q.n < pic → 2 ≤ q.phase) →
      let lost := (s.areaFault x.who (x.refRuns p)).orElse fun _ => s.storeFault x.who (x.keptAt p) (x.kept p).length
      let b := if (x.brokenOf p = 0 ∨ x.brokenOf p = 7) ∧ lost ≠ none then 3 else x.brokenOf p
      let y : Stream := { x with pics := x.pics.map fun q => if q.n == pic then { q with phase := 2, broken := b } else q, lastFail := if b == 1 || b == 3 then some pic else x.lastFail }
      let t := ((s.putStream y).readArea x.who (x.refRuns p)).keepPicture x p
      (b = 0 → exec (.pictureReconstruct sc pic) s = .next ((t.settle sc).stopOwed))
        ∧ (b ≠ 0 → lost = none → exec (.pictureReconstruct sc pic) s = .next ((((t.odInc (0x5300 + sc) 4).streamFault x .mediaStreamError).settle sc).stopOwed))
        ∧ ∀ f : Code × Nat, lost = some f →
          exec (.pictureReconstruct sc pic) s = .next (((((t.countFault f.1 f.2).odInc (0x5300 + sc) 4).streamFault x .mediaStreamError).settle sc).stopOwed))
    ∧ (∀ (sc pic : Nat) (s : State) (x : Stream) (p : Pic) (y : Nat × Nat × BatchSlot), s.stream sc = some x → x.pics.find? (fun q => q.n == pic) = some p → p.toShape = true → s.engineBusy 2 0 = false →
      firstSample (s.waitingFor 2) = some y → y ∈ s.routesTo sc p →
      let t := (s.updPic sc pic fun q => { q with shaped := true }).readArea x.who [p.area]
      (s.areaFault x.who [p.area] = none → exec (.routedPictureShape sc pic) s = .next ((s.routesTo sc p).foldl (fun u z =>
          match u.batch z.1 with
          | some b => u.fillSlot b z.2.1 (encodeElems b.desc .nearest (shapeImage z.2.2.words (streamPicture x p) b.desc z.2.1) {}).1
          | none => u) t))
        ∧ ∀ f : Code × Nat, s.areaFault x.who [p.area] = some f →
          exec (.routedPictureShape sc pic) s = .next ((s.routesTo sc p).foldl (fun u z => u.resolve z.1 z.2.1 .invalid 3) (t.countFault f.1 f.2).stopOwed))
    ∧ ∀ (sc pic : Nat) (s : State) (x : Stream) (p : Pic), s.stream sc = some x → x.pics.find? (fun q => q.n == pic) = some p → x.live = true → p.shaped = false → p.phase ≠ 3 → (x.st = .decoding ∨ x.st = .ended) →
      let u := s.advance (s.picDeadline x p)
      let t := u.lateSlots sc p
      ((p.f 2 = 0 ∧ p.phase = 0) → exec (.livePictureDeadline sc pic) s = .next ((((t.updPic sc pic fun q => { q with phase := 3 }).odInc (0x5300 + sc) 5).streamFault x .mediaFrameDropped).settle sc))
        ∧ (¬(p.f 2 = 0 ∧ p.phase = 0) → exec (.livePictureDeadline sc pic) s = .next t)

/-- An EOPEN of a FREE context with a good reference area makes it ENCODING; a PICTURE whose input and reference can be read and whose output can be written stores its access unit and its result record, keeps its reconstruction as the next reference, and completes with TILES_WRITTEN equal to the bytes of the unit, or 0 where the unit is longer than OUT_CAP; an ECLOSE frees the context. (R700, R719, R727, R729, R730, R735, R737, R738.) -/
def Obligations.EncodeCommandsComplete : Prop :=
  (∀ (cc : Nat) (s : State) (e : Exec), s.mediaStarts cc 0x52 0 e [] none (eopenChecks e.cmd []) → s.stream (fld e.cmd.words 2 7 0) = none →
      s.refAreaBad (s.whoMedia cc) (fld e.cmd.words 3 51 0) (fld e.cmd.words 4 31 0) (2 * pictureSize (fld e.cmd.words 2 47 32 + 1) (fld e.cmd.words 2 63 48 + 1) (fld e.cmd.words 2 8 8 == 1)) = false →
      exec (.eopen cc) s = .next ((s.withMedia fun m => { m with streams := m.streams ++ [({ num := fld e.cmd.words 2 7 0, part := s.ctxPart cc, ctx := cc, st := .encoding, words := e.cmd.words } : Stream)] }).endMedia e {}))
    ∧ (∀ (cc : Nat) (s : State) (e : Exec) (x : Stream), s.mediaStarts cc 0x52 1 e [] none (pictureChecks e.cmd []) → s.encodeCtx (s.ctxPart cc) (fld e.cmd.words 6 39 32) = some x →
      let w := s.whoMedia cc
      let k := s.codedPicture x e.cmd.words
      let refs := if k.dist = 0 then [] else x.windowRuns
      let t := (s.readArea w (inputRuns x e.cmd.words)).readArea w refs
      (inputRuns x e.cmd.words).findSome? (s.pictureFault w false) = none → s.areaFault w refs = none →
      t.pictureFault w true (fld e.cmd.words 5 51 0, k.written.length) = none → t.pictureFault w true (fld e.cmd.words 7 51 0, 64) = none →
      exec (.encodePicture cc) s = .next (((t.storeCoded w x e.cmd.words k).keepCoded w x k).endMedia e { tiles := if k.spill then 0 else k.unit.length }))
    ∧ ∀ (cc : Nat) (s : State) (e : Exec) (x : Stream), s.mediaStarts cc 0x52 2 e [] none (closeChecks e.cmd []) → s.encodeCtx (s.ctxPart cc) (fld e.cmd.words 2 7 0) = some x →
      exec (.eclose cc) s = .next ((s.withMedia fun m => { m with streams := m.streams.filter fun y => y.num != x.num }).endMedia e {})

/-- A write of T to SQ_TAIL is applied when (T - SQ_HEAD) mod 2^32 is at most the slots and (T - SQ_TAIL) mod 2^32 is at most (T - SQ_HEAD) mod 2^32, and a write of H to CQ_HEAD when (H - CQ_HEAD) mod 2^32 is at most (CQ_TAIL - CQ_HEAD) mod 2^32: the count then reads as the value written. Any other, or one to an ABSENT context, leaves every count, is counted in 0x6030/02 and raises HOST.DOORBELL. (R753.) -/
def Obligations.DoorbellWritesAreAppliedOrDropped : Prop :=
  ∀ (cc v : Nat) (s : State), s.Whole → cc < 256 → s.hostReach = true →
    let x := s.ctx cc
    let n := BitVec.ofNat 32 v
    let b := fun k : Nat => BitVec.ofNat 32 k
    let dropped := (s.odInc 0x6030 2).recordLimited { code := .hostDoorbell, part := s.partOfCtx cc, ctx := some cc, unit := { kind := 15, inst := cc } } cc
    (if x.cond ≠ .absent ∧ (n - b x.sqHead).toNat ≤ s.odN (0x2200 + cc) 10 ∧ (n - b x.sqTail).toNat ≤ (n - b x.sqHead).toNat then
        ∃ t : State, exec (.doorbellSqTail cc v) s = .next t ∧ b (t.ctx cc).sqTail = n ∧ (t.ctx cc).sqTail = x.sqHead + (n - b x.sqHead).toNat ∧ (t.ctx cc).sqHead = x.sqHead ∧ t.mem = s.mem
      else exec (.doorbellSqTail cc v) s = .next dropped ∧ dropped.ctxs = s.ctxs)
    ∧ (if x.cond ≠ .absent ∧ (n - b x.cqHead).toNat ≤ (b x.cqTail - b x.cqHead).toNat then
        ∃ t : State, exec (.doorbellCqHead cc v) s = .next t ∧ b (t.ctx cc).cqHead = n ∧ t = s.updCtx cc fun y => { y with cqHead := x.cqHead + (n - b x.cqHead).toNat }
      else exec (.doorbellCqHead cc v) s = .next dropped)

/-- Where CQ_TAIL - CQ_HEAD plus the held commands reaches the entries of the completion ring nothing is read. Otherwise the next slot and its target entry are read: a good command joins those read, one the front end must reject ends REJECTED, with the hub die as the unit (log entry 28), and a read that fails halts the context. (R143, R750, R751, R758, R765, R904.) -/
def Obligations.CommandsAreFetchedWhileARecordHasRoom : Prop :=
  ∀ (cc i : Nat) (s : State), cc < 256 → nextSlot (s.ctx cc) = some i →
    (s.entries cc ≤ (s.ctx cc).cqTail - (s.ctx cc).cqHead + s.held cc → exec (.commandFetch cc) s = .next s)
    ∧ (s.mayFetch cc = true →
      let w := s.whoCtx cc none
      let a := s.slotAddr cc i
      let b := s.targetAddr cc i
      let entry := leNat (s.bytes b 2)
      let c : CmdInst := { ctx := cc, slot := i, target := entry % 512, words := s.words a 8 }
      let u := ((s.touchRecord w a 64).touchRecord w b 2).updCtx cc fun x => takeSlot x i
      (s.loadFault w a 64 = none → s.loadFault w b 2 = none → u.frontReject c entry = none →
          exec (.commandFetch cc) s = .next (((u.updCtx cc fun x => { x with fetched := x.fetched ++ [c] }).refresh cc).preempt cc))
        ∧ (∀ f : Code, s.loadFault w a 64 = none → s.loadFault w b 2 = none → u.frontReject c entry = some f →
          exec (.commandFetch cc) s = .next (u.finish { c with target := 390 } 0x1FF s.now (rejectFin f)))
        ∧ ∀ f : Code × Nat, (s.loadFault w a 64 = some f ∨ (s.loadFault w a 64 = none ∧ s.loadFault w b 2 = some f)) →
          exec (.commandFetch cc) s = .next ((s.queueFault cc (if inHost f.2 then .hostQueue else f.1) f.2).stopOwed))

/-- Of a context of an ACTIVE partition, of its commands that are in order for their targets, one that the front end must now reject ends so; else the first that its consumer can accept is accepted; where none can be, 0x6020/03 counts the first that a full pool holds back, once for each command. (R146, R147, R148, R150, R541, R751, R757, R903.) -/
def Obligations.CommandsAreDispatchedInOrder : Prop :=
  ∀ (cc : Nat) (s : State), s.ready = true → (s.ctx cc).resident = true → condLive (s.ctx cc).cond = true → (s.part (s.ctxPart cc)).st = .active →
    let cs := (s.ctx cc).fetched.filter fun c => s.inOrder c && (decide (c.target < 384) || s.acceptNext c.target == some cc)
    (∀ (c : CmdInst) (f : Code), s.toReject cs = some (c, f) → exec (.commandDispatch cc) s = .next (s.rejectFetched c f))
      ∧ (∀ c : CmdInst, s.toReject cs = none → cs.find? s.canAccept = some c →
        exec (.commandDispatch cc) s = .next (s.accept c) ∧ s.canAccept c = true ∧ s.inOrder c = true ∧ c ∈ (s.ctx cc).fetched)
      ∧ (∀ c : CmdInst, s.toReject cs = none → cs.find? s.canAccept = none → cs.find? (fun c => !c.held && s.poolFull c) = some c → exec (.commandDispatch cc) s = .next (s.holdBack c))

/-- A free core that chooses a context becomes current for it (a switch discards the decoded commands of the other and charges the switch), and starts the first command of it that it can: the one decoded longest, else the first read for it; its open range counts only where its checks pass. A swapped context that is READY is brought in where there is room, else in the place of the context R632 names. (R161, R195, R204, R626, R627, R628, R631, R632.) -/
def Obligations.CoresChooseAndSwitchContexts : Prop :=
  (∀ (n cc : Nat) (s : State) (c : CmdInst), n < 384 → s.coreFree n = true → s.choose n = some cc →
      let s1 := s.makeCurrent n cc
      s1.startable n cc = some c →
      let s2 := if (s1.core n).window.contains c then s1 else s1.accept c
      exec (.coreSchedule n) s = .next (((s2.updCore n fun k => { k with window := k.window.erase c }).startOn n c).updCore n fun k => { k with exec := k.exec.map fun e => { e with opened := (e.rejection (coreChecks e.cmd e.cmd e)).isNone } })
        ∧ ((s.core n).cur ≠ cc → s1 = ((s.discardWindow n).updCtx (s.core n).cur fun x => { x with lastCurrent := s.now }).updCore n fun x => { x with cur := cc, sliceStart := s.now, switching := true })
        ∧ ((s.core n).cur = cc → s.now < (s.core n).sliceStart + s.sliceLen cc → s1 = s))
    ∧ ∀ (p i : Nat) (s : State), p < 16 → s.ready = true → (s.part p).st = .active → s.swapIncoming p = some i →
      ((s.residents p).length < s.odN (0x2000 + p) 5 → exec (.contextSwap p) s = .next (s.swapIn i))
        ∧ ∀ v : Nat, s.odN (0x2000 + p) 5 ≤ (s.residents p).length → s.swapVictim p i = some v → exec (.contextSwap p) s = .next ((s.swapOut v).swapIn i)

/-- Where the record can be written, a command that ends stores its 128 bytes at entry CQ_TAIL mod entries of the completion ring, CQ_TAIL is one more and the slot is freed; without a status word nothing else in memory changes but the tensor monitor's record, and that only for a command with MON. A context that holds a trigger sends its vector one message at its last message plus the holdoff interval, and holds none any more. (R209, R557, R749, R755, R759, R761.) -/
def Obligations.CompletionRecordsGoToTheEntryOfCqTail : Prop :=
  (∀ (s : State) (c : CmdInst) (core start : Nat) (d : Fin), s.Sound → c.ctx < 256 →
    let ix := 0x2200 + c.ctx
    let a := s.odN ix 12 + 128 * ((s.ctx c.ctx).cqTail % s.odN ix 13)
    0 < s.odN ix 13 → s.recordFault (s.whoCtx c.ctx none) a 128 = none → s.odN ix 14 = 0 →
    (((s.complete c core start d).ctx c.ctx).cqTail = (s.ctx c.ctx).cqTail + 1)
      ∧ ((s.complete c core start d).ctx c.ctx).sqHead = (freeSlots ((s.ctx c.ctx).freed.length + 1) (s.ctx c.ctx).sqHead (c.slot :: (s.ctx c.ctx).freed)).1
      ∧ (s.complete c core start d).mem = memPutBytes (s.monitor c d).mem a (bytesOfWords (recordWords c core start s.now d))
      ∧ (c.mon = 0 → s.monitor c d = s))
    ∧ ∀ (cc : Nat) (s : State), (s.ctx cc).trigger = true →
    let u := s.advance ((s.ctx cc).lastMsg.getD 0 + s.odN (0x2200 + cc) 16)
    exec (.interruptHoldoffEnd cc) s = .next ((u.msix (s.odN (0x2200 + cc) 15)).updCtx cc fun y => { y with trigger := false, lastMsg := some u.now })

/-- A core's command that its limit stops ends FAULTED with CMD.TIME after the tiles, groups or crates closed so far, and one that met a fault before ends with that fault; one that waits ends with what it had written and leaves its counter's order; a transfer under way ends with what it sent. So do a BARRIER that waits, a NORM_REDUCE that waits, which abandons its step, and the REDUCE or BROADCAST of a context whose limit expires first. (R204, R205, R208, R254, R475, R534, R547.) -/
def Obligations.LateCommandsEndOnTheirTimeLimit : Prop :=
  (∀ (n closed : Nat) (s : State) (e : Exec) (checks : CmdInst → Exec → Checks) (run : Option Nat → State → Nat → Exec → Run),
      (s.core n).exec = some e → e.waiting = false → e.phase = 0 → timedRow e.cmd = some (checks, run) → e.rejection (checks e.cmd e) = none →
      let r := run (some (max closed e.drained)) (s.advance (e.start + 1000 * e.limit)) n e
      (((∃ d : Fin, r.stop = some d ∧ d.status = 0) ∨ (r.stop = none ∧ closed ≤ r.tiles)) →
          exec (.cmdTime (.core n) closed) s = .next (r.st.endCore n e { r.fin with status := 2, fault := some .cmdTime }))
        ∧ ∀ d : Fin, r.stop = some d → d.status ≠ 0 → exec (.cmdTime (.core n) closed) s = .next (r.st.endCore n e r.fin))
    ∧ (∀ (n closed : Nat) (s : State) (e : Exec), (s.core n).exec = some e →
      let u := s.advance (e.start + 1000 * e.limit)
      (e.waiting = true → exec (.cmdTime (.core n) closed) s = .next ((u.leaveOrder (.core n) 0).endCore n e { abortOf e with status := 2, fault := some .cmdTime }))
        ∧ (e.waiting = false → e.phase ≠ 0 → exec (.cmdTime (.core n) closed) s = .next (u.endCore n e { e.ending.getD (timeOf e) with status := 2, fault := some .cmdTime })))
    ∧ (∀ (cc closed : Nat) (s : State) (e : Exec), s.hubExec cc (fun _ => true) = some e → e.cmd.isBarrier = true → e.phase ≠ 0 →
      exec (.cmdTime (.hub cc) closed) s = .next ((s.advance e.due).endHub e (timeOf e)))
    ∧ (∀ (k closed : Nat) (s : State) (e : Exec), (s.engine k).exec = some e →
      let p := s.ctxPart e.cmd.ctx
      let u := (s.advance e.due).endUpdate k e (timeOf e)
      exec (.cmdTime (.update k) closed) s = .next (if e.phase = 1 && (s.group p e.cmd.uGroup).step == e.cmd.uStep then State.settleGroup p e.cmd.uGroup 12 (u.abandon p e.cmd.uGroup (failFin .updNormAbandoned)) else u))
    ∧ ∀ (cc closed entry : Nat) (s : State) (e : Exec), firstDue (s.collExecs cc) = some (e, entry) →
      exec (.cmdTime (.reduction cc) closed) s = .next (((s.advance e.due).leaveOrder (.reduction cc) e.cmd.slot).endColl e { e.ending.getD (timeOf e) with status := 2, fault := some .cmdTime, tiles := e.drained, failInfo := entry })

/-- After a store of a run of bytes each byte of the run reads as the byte stored there and every other byte of memory reads as before, whatever the store does to the Larder, the charges and the lines the host holds. Memory is in canonical form, which every step keeps (EveryStepKeepsTheMachineSound). (R10, R282, R284, R770.) -/
def Obligations.StoresWriteTheirBytesAndNoOther : Prop :=
  ∀ (s : State) (w : Who) (hint a : Nat) (bs : List Byte), memWf s.mem = true →
    memWf (s.store w hint a bs).mem = true
      ∧ (∀ i : Nat, i < bs.length → memGet (s.store w hint a bs).mem (a + i) = bs.getD i 0#8)
      ∧ ∀ j : Nat, ¬(a ≤ j ∧ j < a + bs.length) → memGet (s.store w hint a bs).mem j = memGet s.mem j

/-- CREATE of an ABSENT partition with a quarter-die, on a module that runs without a MODULE fault, makes it CREATING, with every fence object and credit counter zero; in any other STATE it is refused. Its clearing ends with every byte of its scratchpads zero and the partition ACTIVE, or STOPPED where a MODULE fault arose meanwhile. (R140, R604, R608, R611, R852.) -/
def Obligations.PartitionsAreCreatedCleared : Prop :=
  (∀ (p : Nat) (s : State), s.Sound → p < 16 → s.quarters p ≠ 0 → s.diag.moduleFault = false → s.ready = true → (s.part p).st = .absent →
      ∃ t : State, exec (.partitionCreate p) s = .next t ∧ t.part p = { st := .creating } ∧ ∀ k : Nat, k < 256 → t.odN (0x2D00 + p) k = 0 ∧ t.odN (0x2D10 + p) k = 0)
    ∧ (∀ (p : Nat) (s : State), p < 16 → (s.part p).st ≠ .absent → exec (.partitionCreate p) s = .next (s.emit (.status (0x2000 + p) 3 4)))
    ∧ ∀ (p : Nat) (s : State), s.Sound → p < 16 → (s.part p).st = .creating →
      ∃ t : State, exec (.partitionCreateDone p) s = .next t ∧ (t.part p).st = (if (s.part p).toStopped then .stopped else .active) ∧ (∀ a : Nat, inScratch (s.quarters p) a = true → memGet t.mem a = 0#8)
        ∧ ∀ a : Nat, inScratch (s.quarters p) a = false → memGet t.mem a = memGet s.mem a

/-- STOP of an ACTIVE partition begins its stop, which ends STOPPED once it holds nothing; START of a STOPPED one, without a MODULE fault, makes it ACTIVE and changes no context; REMOVE of a STOPPED one that only ABSENT contexts name makes it ABSENT with no quarter-die; each is refused in every other STATE and changes nothing. (R615, R616, R617, R618.) -/
def Obligations.PartitionsStopStartAndAreRemoved : Prop :=
  ∀ (p : Nat) (s : State), s.Sound → p < 16 →
    ((s.part p).st = .active → exec (.partitionStop p) s = .next (((s.stopPart p).flight 7 ((0x2000 + p) * 256 + 3) 0 2 none).emit (.status (0x2000 + p) 3 0)))
    ∧ ((s.part p).st ≠ .active → exec (.partitionStop p) s = .next (s.emit (.status (0x2000 + p) 3 4)))
    ∧ ((s.part p).st = .stopping → s.partQuiet p = true → ∃ t : State, exec (.partitionStopDone p) s = .next t ∧ (t.part p).st = .stopped ∧ t.mem = s.mem ∧ t.ctxs = s.ctxs)
    ∧ ((s.part p).st = .stopped → s.diag.moduleFault = false → ∃ t : State, exec (.partitionStart p) s = .next t ∧ (t.part p).st = .active ∧ t.ctxs = s.ctxs)
    ∧ ((s.part p).st ≠ .stopped → exec (.partitionStart p) s = .next (s.emit (.status (0x2000 + p) 3 4)) ∧ exec (.partitionRemove p) s = .next (s.emit (.status (0x2000 + p) 3 4)))
    ∧ ((s.part p).st = .stopped → (∀ cc : Nat, cc < 256 → s.partOfCtx cc = some p → (s.ctx cc).cond = .absent) →
      ∃ t : State, exec (.partitionRemove p) s = .next t ∧ t.part p = {} ∧ t.quarters p = 0 ∧ t.mem = s.mem ∧ t.ctxs = s.ctxs)

/-- ADD of an ABSENT context of an ACTIVE partition with good rings makes it IDLE, resident where there is room, with its four counts zero; RESUME of a HALTED one takes it up at its first command not started; ABORT of a HALTED one makes it ABORTING and ends its commands, and with none left in flight it is IDLE with every slot made available passed over. (R619, R623, R634, R635, R748, R749.) -/
def Obligations.ContextsAreAddedResumedAndAborted : Prop :=
  (∀ (cc p : Nat) (s : State), s.Whole → cc < 256 → s.partOfCtx cc = some p → (s.ctx cc).cond = .absent → (s.part p).st = .active → s.ringsOk cc = true →
      ∃ t : State, exec (.contextAdd cc) s = .next t ∧ t.ctx cc = { cond := .idle, since := s.now, resident := decide ((s.residents p).length < s.odN (0x2000 + p) 5) })
    ∧ (∀ (cc p : Nat) (s : State), cc < 256 → s.partOfCtx cc = some p → (s.ctx cc).cond = .halted → (s.part p).st = .active →
      exec (.contextResume cc) s = .next ((((((s.recoverCores cc).setCond cc .idle).refresh cc).preempt cc).flight 7 ((0x2200 + cc) * 256 + 6) 0 2 none).emit (.status (0x2200 + cc) 6 0)))
    ∧ (∀ (cc : Nat) (s : State), cc < 256 → (s.ctx cc).cond = .halted →
      exec (.contextAbort cc) s = .next ((((((s.setCond cc .aborting).abortCtxs (· == cc) false).recoverCores cc).updCtx cc fun x => { x with fetched := [] }).flight 7 ((0x2200 + cc) * 256 + 6) 0 3 none).emit (.status (0x2200 + cc) 6 0)))
    ∧ (∀ (cc : Nat) (s : State), s.Whole → cc < 256 → (s.ctx cc).cond = .aborting → s.flyingOf cc = [] →
      ∃ t : State, exec (.contextAbortDone cc) s = .next t ∧ (t.ctx cc).cond = .idle ∧ (t.ctx cc).next = (s.ctx cc).sqTail ∧ (t.ctx cc).sqHead = (s.ctx cc).sqTail ∧ (t.ctx cc).cqTail = (s.ctx cc).cqTail ∧ t.mem = s.mem)
    ∧ ∀ (cc : Nat) (s : State), cc < 256 → (s.ctx cc).cond ≠ .halted → exec (.contextAbort cc) s = .next (s.emit (.status (0x2200 + cc) 6 4))

/-- REMOVE of an IDLE or HALTED context with no command in flight makes it ABSENT; of any other it is refused and changes nothing. (R624.) -/
def Obligations.ContextsAreRemovedWhenQuiet : Prop :=
  ∀ (cc : Nat) (s : State), s.Whole → cc < 256 →
    (if ((s.ctx cc).cond = .idle ∨ (s.ctx cc).cond = .halted) ∧ s.flyingOf cc = [] then ∃ t : State, exec (.contextRemove cc) s = .next t ∧ (t.ctx cc).cond = .absent ∧ t.mem = s.mem
      else exec (.contextRemove cc) s = .next (s.emit (.status (0x2200 + cc) 6 4)))

/-- A write of DISABLED or ISOLATED stops the link, one of ENABLED makes a DISABLED or ISOLATED link TRAINING, and one that is DOWN where CONTROL was not ENABLED; training sends what the module says of itself; training that at least two lanes lock takes the best lanes, records the neighbour, empties the replay buffer and fills the credits, and leaves the link HELD with FAB.NEIGHBOUR_CHANGED where the neighbour is another one than before, else in its place; a link without a neighbour stays in TRAINING; a release of a HELD link puts it in its place, which outside a bond is UP with four lanes and NARROW with fewer. (R369, R370, R371, R373, R374, R375.) -/
def Obligations.LinksTrainAndFollowTheirControl : Prop :=
  ∀ (l : Nat) (s : State), l < 36 →
    let old := s.odN (0x4100 + l) 1
    let w := fun (t : State) (v : Nat) => Host.Outcome.next (((t.flight 7 ((0x4100 + l) * 256 + 1) old v none).emit (.status (0x4100 + l) 1 0)) : State) (φ := Fault) (ρ := Refusal)
    exec (.linkDisable l) s = w ((s.odSetN (0x4100 + l) 1 0).stopLink l .disabled) 0
      ∧ exec (.linkIsolate l) s = w ((s.odSetN (0x4100 + l) 1 2).stopLink l .isolated) 2
      ∧ exec (.linkEnable l) s = w (if (s.link l).st = .disabled ∨ (s.link l).st = .isolated ∨ ((s.link l).st = .down ∧ old ≠ 1) then ((s.odSetN (0x4100 + l) 1 1).updLink l fun x => { x with bond := s.odN (0x4100 + l) 8 }).setLink l .training else s.odSetN (0x4100 + l) 1 1) 1
      ∧ ((s.link l).bond = 0 → s.joinLink l = s.setLink l (if popCount (s.link l).active < 4 then .narrow else .up))
      ∧ exec (.linkHeldRelease l) s = .next (((if (s.link l).st = .held then s.joinLink l else s).flight 7 ((0x4100 + l) * 256 + 10) 0 1 none).emit (.status (0x4100 + l) 10 0))
      ∧ (old = 1 → s.time.frefOk = true → (s.link l).st = .training → exec (.linkTrainRetry l) s = .next ((s.updLink l fun x => { x with active := 0, good := 0, spareLane := none }).emit (.train l (s.odN 0x1000 4) l s.fabric (s.link l).bond)))
      ∧ ∀ tr : Training, old = 1 → s.time.frefOk = true → ((s.link l).st = .training ∨ (s.link l).st = .down) → 2 ≤ (laneOrder tr).length →
        let act := (laneOrder tr).take (if (laneOrder tr).length < 4 then 2 else 4)
        let u := s.updLink l fun x =>
          { x with
            active := laneMask act, good := laneMask (laneOrder tr), spareLane := (laneOrder tr)[4]?, nbSerial := tr.serial, nbLink := tr.link, nbAddr := tr.addr, nbBond := tr.bond, trained := true
            skew := tr.skew, lead := none, txSeq := 0, replay := [], replayRun := 0, rxNext := 0, nakOut := false, credit := fullCredit, freed := List.replicate 8 0, nbHops := none, timeOut := false
            second := [0, 0, 0, 0, 0] }
        let w := u.sendIdentity l
        let v := if (laneOrder tr).length < 4 then w.record (linkFault .fabLinkNarrow l) else w
        exec (.linkTrained l tr) s = .next (if (s.link l).trained = true ∧ ((s.link l).nbSerial ≠ tr.serial ∨ (s.link l).nbLink ≠ tr.link) then (v.setLink l .held).record (linkFault .fabNeighbourChanged l) else v.joinLink l)

/-- On a link that takes flits, a DATA flit that passes FEC and CRC with the SEQ one above the last accepted joins the input buffer and is acknowledged. At the first flit that fails, by its checks or by its SEQ, a NAK goes out; until the next one in order arrives every further DATA flit is discarded with no other NAK. (R382.) -/
def Obligations.FlitsAreAcceptedInOrderOrRefused : Prop :=
  ∀ (l : Nat) (f : Flit) (s : State), s.hears l = true →
    let h := s.leadOf l
    let c := s.countSymbols l f
    let k := s.link h
    (flitOk f = true → fld f.words 0 39 36 = 1 → fld f.words 0 63 52 = k.rxNext →
        exec (.flitReceive l f) s = .next (((c.takeReturns h f).updLink h fun x => { x with rxNext := (x.rxNext + 1) % 4096, nakOut := false, rx := x.rx ++ [c.rxFlit f] }).idleFlit h))
      ∧ (flitOk f = true → fld f.words 0 39 36 = 1 → fld f.words 0 63 52 ≠ k.rxNext →
        exec (.flitReceive l f) s = .next (if k.nakOut then c else (c.updLink h fun x => { x with nakOut := true }).nakFlit h))
      ∧ (flitOk f = false → exec (.flitReceive l f) s = .next (if k.nakOut then c else (c.updLink h fun x => { x with nakOut := true }).nakFlit h))
      ∧ (flitOk f = true → f.words.length = 16 ∧ f.errs.sum ≤ 15 ∧ fld f.words 15 63 32 = crc32c (bytesOfWords (f.words.take 15) ++ leBytes 4 (fld f.words 15 31 0)))
      ∧ (h < s.links.length → (c.link h).rx = k.rx ∧ (c.link h).rxNext = k.rxNext ∧ ((c.updLink h fun x => { x with nakOut := true }).link h).rx = k.rx)

/-- On NAK, and when ACK stands still for the replay timeout, every flit after ACK is resent in order, or the link goes DOWN after 16 replays without an advance; a signal lost takes it DOWN; a lane past the symbol limit of one second gives way to the spare where there is one, at a SEQ named in a LANE flit; a lane that loses lock gives way to the spare, else the link narrows to two of the lanes left, leaving its bond, or goes DOWN with fewer. (R383, R384, R385, R386, R387, R388, R390, R395.) -/
def Obligations.LinksReplayAndLoseLanes : Prop :=
  ∀ (l : Nat) (s : State), l < 36 →
    (∀ ack : Nat, s.hears l = true →
      let h := s.leadOf l
      let u := s.updLink h fun x => { x with replay := ackReplay (ack % 4096) x.replay, replayRun := if (ackReplay (ack % 4096) x.replay).length < x.replay.length then 0 else x.replayRun }
      exec (.nakReceive l ack) s = .next (if (u.link h).replay = [] then u else if (u.link h).replayRun < 16 then u.resend h else (u.stopLink h .down).record (linkFault .fabLinkDown h)))
    ∧ (s.hears l = true → s.leadOf l = l → (s.link l).replay ≠ [] →
      let u := s.advance ((s.link l).ackAt + s.odN 0x4000 3)
      exec (.replayTimeout l) s = .next (if (s.link l).replayRun < 16 then u.resend l else (u.stopLink l .down).record (linkFault .fabLinkDown l)))
    ∧ (linkUp (s.link l) = true ∨ (s.link l).st = .narrow → exec (.linkSignalLoss l) s = .next ((s.stopLink l .down).record (linkFault .fabLinkDown l)))
    ∧ ((s.link l).st = .held → exec (.linkSignalLoss l) s = .next (s.stopLink l .down))
    ∧ (∀ lane symbols : Nat, lane < 5 → bit (s.link l).active lane = true →
      let u := (s.odAdd (0x4100 + l) (13 + lane) symbols).updLink l fun x => { x with second := modAt x.second lane fun _ => 0 }
      let all := symbols + nth (s.link l).second lane 0
      ((s.link l).spareLane = none ∨ all ≤ s.odN 0x4000 7 → exec (.laneSubstitute l lane symbols) s = .next u)
        ∧ ∀ sp : Nat, (s.link l).spareLane = some sp → s.odN 0x4000 7 < all → exec (.laneSubstitute l lane symbols) s = .next (((u.laneFlit (s.leadOf l)).spareIn l lane sp).addRepair 5 (5 * l + lane) 0))
    ∧ ∀ lane : Nat, lane < 5 → bit (s.link l).good lane = true → bit (s.link l).active lane = true → (s.link l).spareLane ≠ some lane →
      let u := (s.updLink l fun x => { x with good := setBit x.good lane false }).addRepair 5 (5 * l + lane) 0
      let left := (List.range 5).filter fun i => bit (u.link l).good i
      (∀ sp : Nat, (s.link l).spareLane = some sp → exec (.laneLockLoss l lane) s = .next (u.spareIn l lane sp))
        ∧ ((s.link l).spareLane = none → left.length < 2 → exec (.laneLockLoss l lane) s = .next ((u.stopLink l .down).record (linkFault .fabLinkDown l)))
        ∧ ((s.link l).spareLane = none → 2 ≤ left.length →
          let v := (if (s.link l).lead.isSome then u.leaveBond l else u).updLink l fun x => { x with active := laneMask (left.take 2) }
          exec (.laneLockLoss l lane) s = .next (if (s.link l).st = .narrow then v else (if (s.link l).st = .held then v else v.setLink l .narrow).record (linkFault .fabLinkNarrow l)))

/-- The first packet of a class and VC leaves its input buffer once all its flits are in, gives their credit back, and is counted where it is bad, kept for the time exchange where it is a TIME packet, dropped on a HELD link, delivered where it names the module, sent on by the output its header's lookup gave it, or by a new lookup where that link has stopped since, or counted in 0x4000/06 without one. A commit of a past time copies the shadow table at once, one of a later time at that time. Each output gains one TC0 token, up to 4. A header flit that waits past the limit raises FAB.STALL once. (R372, R386, R400, R414, R416, R417, R419, R423, R425, R427, R430.) -/
def Obligations.PacketsAreRoutedByTheActiveTable : Prop :=
  (∀ (l cls vc : Nat) (s : State) (f : RxFlit) (fs : List RxFlit), cls < 4 → vc < 2 → ((s.link l).rx.filter fun x => x.key == cls * 2 + vc) = f :: fs → packetFlits f.flit ≤ fs.length + 1 →
      let n := packetFlits f.flit
      let p := parsePacket (flitBytes (((f :: fs).take n).map RxFlit.flit))
      let u := s.updLink l fun x => { x with rx := takeKey (cls * 2 + vc) n x.rx, freed := modAt x.freed (cls * 2 + vc) (· + n), stalled := x.stalled.filter (· != cls) }
      exec (.packetRoute l cls vc) s = .next ((if s.hears l then u.idleFlit l else u).routePacket l f.time f.out p))
    ∧ (∀ (l time : Nat) (out : Option (Nat × Bool)) (s : State) (p : Packet),
      (s.fabric = 0xFFFF → p.kind ≠ 3 → s.routePacket l time out p = s)
        ∧ ((s.fabric ≠ 0xFFFF ∨ p.kind = 3) → s.badPacket p = true → s.routePacket l time out p = (s.odInc 0x4000 8).recordLimited { code := .fabBadPacket } 0)
        ∧ (s.badPacket p = false → p.kind = 3 → s.routePacket l time out p = s.updLink l fun x => { x with timeIn := x.timeIn ++ [(p, time)] })
        ∧ (s.fabric ≠ 0xFFFF → s.badPacket p = false → p.kind ≠ 3 →
          let die := diePort (l / 9)
          let again := (s.chooseSlot p).map fun x => (x.2, bit (s.routeEntry p.dst) (27 + x.1))
          let vc1 : Bool → Packet := fun b => if b then { p with vc := 1 } else p
          ((s.link l).st = .held → s.routePacket l time out p = s)
            ∧ ((s.link l).st ≠ .held → p.dst = s.fabric → s.routePacket l time out p = { s with inbox := s.inbox ++ [{ p with die := die }] })
            ∧ ((s.link l).st ≠ .held → p.dst ≠ s.fabric →
              (∀ o : Nat × Bool, out = some o → s.linkLive o.1 = true → s.routePacket l time out p = s.transit die o.1 (vc1 o.2))
                ∧ (∀ o o2 : Nat × Bool, out = some o → s.linkLive o.1 = false → again = some o2 → s.routePacket l time out p = s.transit die o2.1 (vc1 o2.2))
                ∧ (out = none ∨ (∃ o : Nat × Bool, out = some o ∧ s.linkLive o.1 = false ∧ again = none) → s.routePacket l time out p = s.odInc 0x4000 6))))
    ∧ (∀ (t : Nat) (s : State), exec (.routingCommit t) s = .next ((((if t ≤ s.now then s.copyRoutes else s.withTime fun x => { x with commits := insertTime t x.commits }).flight 7 (0x4210 * 256 + 1) 0 t none)).emit (.status 0x4210 1 0)))
    ∧ (∀ (t : Nat) (ts : List Nat) (s : State), s.time.commits = t :: ts → exec .routingTableCopy s = .next (((s.advance t).withTime fun x => { x with commits := ts }).copyRoutes))
    ∧ (∀ (s : State) (d : Nat), s.EntriesWf → d < 4096 → s.copyRoutes.routeEntry d = s.odN (0x4200 + d / 256) (d % 256))
    ∧ (∀ (l : Nat) (s : State), s.Whole → l < 36 → ∃ t : State, exec (.tc0TokenGain l) s = .next t ∧ (t.link l).tokens = min 4 ((s.link l).tokens + 1) ∧ ∀ j : Nat, j ≠ l → t.link j = s.link j)
    ∧ ∀ (l cls at_ : Nat) (s : State), headerAt (s.link l) cls = some at_ → (s.link l).stalled.contains cls = false →
      exec (.fabStall l cls) s = .next (((s.advance (at_ + s.odN 0x4000 4 * 1000 + 1)).updLink l fun x => { x with stalled := cls :: x.stalled }).record { linkFault .fabStall l with detail0 := cls })

/-- The oldest WRITE in the module that passes R403 has its bytes stored and its packet awaits DONE; one that does not is stored nowhere, and its DONE carries the fault. The DONE that waits longest for a transfer is sent, or lost where it cannot be routed. A DONE received lowers what its transfer has left and lets its core, REDUCE or BROADCAST go on; one that matches no transfer is discarded. (R403, R405, R406, R407, R411, R512, R513, R898.) -/
def Obligations.WritesAndDonesAreTaken : Prop :=
  (∀ (s : State) (q : Packet) (rest : List Packet), takePacket (fun x => x.kind == 0) s.inbox = some (q, rest) →
      let u : State := { s with inbox := rest }
      (∀ p : Nat, u.writeCheck q = .ok p → ∃ t : State, exec .writeReceive s = .next t ∧ t.mem = memPutBytes s.mem q.addr q.data ∧ t.dones = noteDone s.now q none s.dones ∧ t.inbox = rest)
        ∧ ∀ c : Code, u.writeCheck q = .error c →
          let v := u.writeRejected q c
          exec .writeReceive s = .next { v with dones := noteDone s.now q (some (codeNum c, u.globalAddr q.addr)) v.dones } ∧ (c ≠ .memUncorrectable → v.mem = s.mem ∧ v.dones = s.dones))
    ∧ (∀ (src xfer : Nat) (s : State) (d : PendingDone), s.dones.find? (fun x => x.src == src && x.xfer == xfer) = some d →
      let u : State := { s with dones := s.dones.erase d }
      (∀ t : State, u.send {} (donePacket d) = .ok t → exec (.doneSend src xfer) s = .next t)
        ∧ ∀ x : Code, u.send {} (donePacket d) = .error x → exec (.doneSend src xfer) s = .next u)
    ∧ ∀ (s : State) (q : Packet) (rest : List Packet), takePacket (fun x => x.kind == 2) s.inbox = some (q, rest) →
      let u : State := { s with inbox := rest }
      let core := (List.range 384).findSome? fun i => ((s.core i).exec.filter fun x => x.xfers.any (ofDone q)).map fun x => (i, x)
      (∀ (n : Nat) (e : Exec), core = some (n, e) →
        let e' := { e with xfers := e.xfers.map (coverXfer q) }
        let v := u.updCore n fun k => { k with exec := some e' }
        exec .doneReceive s = .next (if (xferFault e'.xfers).isSome ∨ (∀ x ∈ e'.xfers, x.left = 0) then v.sendCovered n e' else v))
        ∧ (∀ r : RedRun, core = none → s.coll.runs.find? (fun r => r.units.any fun y => ofDone q y.xfer) = some r →
          exec .doneReceive s = .next (u.redCovered { r with units := r.units.map fun y => { y with xfer := coverXfer q y.xfer } }))
        ∧ (∀ e : Exec, core = none → s.coll.runs.find? (fun r => r.units.any fun y => ofDone q y.xfer) = none → s.coll.broadcasts.find? (fun e => e.xfers.any (ofDone q)) = some e →
          let e' := { e with xfers := e.xfers.map (coverXfer q) }
          exec .doneReceive s = .next ((u.withColl fun x => { x with broadcasts := x.broadcasts.map fun y => if y.cmd.isAt e.cmd.ctx e.cmd.slot then e' else y }).castCovered e'))
        ∧ (core = none → s.coll.runs.find? (fun r => r.units.any fun y => ofDone q y.xfer) = none → s.coll.broadcasts.find? (fun e => e.xfers.any (ofDone q)) = none → exec .doneReceive s = .next u)

/-- The oldest message to each kind of object is taken: a well-formed fence message with its partition's tag adds to or raises its object, a credit message gives, with COLL.CREDIT_OVF where the sum is higher, and any other is counted and reported as stray; a norm, barrier or REDUCE credit message reaches its group or its partition's REDUCE. (R400, R466, R469, R516, R517, R542, R591, R595, R596.) -/
def Obligations.MessagesReachTheirObjects : Prop :=
  ∀ (s : State) (q : Packet) (rest : List Packet) (p n : Nat),
    let u : State := { s with inbox := rest }
    let ws := wordsOf 2 q.data
    let bad := (u.odInc 0x2D20 1).recordLimited (groupFault .collStray p) p
    (takePacket (messageFor MsgObject.isFence) s.inbox = some (q, rest) → messageObject q.addr = some (.fence p n) →
      (u.syncGood q p = true → fld ws 1 7 0 = 1 → exec .fenceMessageReceive s = .next (u.odSetN (0x2D00 + p) n (min (u.fence p n + fld ws 0 63 0) (2 ^ 64 - 1))))
        ∧ (u.syncGood q p = true → fld ws 1 7 0 = 2 → exec .fenceMessageReceive s = .next (u.odSetN (0x2D00 + p) n (max (u.fence p n) (fld ws 0 63 0))))
        ∧ (u.syncGood q p = false ∨ (fld ws 1 7 0 ≠ 1 ∧ fld ws 1 7 0 ≠ 2) → exec .fenceMessageReceive s = .next bad))
    ∧ (takePacket (messageFor MsgObject.isCredit) s.inbox = some (q, rest) → messageObject q.addr = some (.credit p n) →
      (u.syncGood q p = true → fld ws 1 7 0 = 1 → fld ws 0 63 32 = 0 →
          exec .creditMessageReceive s = .next ((u.odSetN (0x2D10 + p) n (min (u.credits p n + fld ws 0 31 0) 0xFFFFFFFF)).creditOverflow (u.credits p n) (fld ws 0 31 0) p))
        ∧ (u.syncGood q p = false ∨ fld ws 1 7 0 ≠ 1 ∨ fld ws 0 63 32 ≠ 0 → exec .creditMessageReceive s = .next bad))
    ∧ (takePacket (messageFor MsgObject.isNorm) s.inbox = some (q, rest) → messageObject q.addr = some (.norm p n) → exec .normMessageReceive s = .next (u.normMessage q p n))
    ∧ (takePacket (messageFor MsgObject.isBarrier) s.inbox = some (q, rest) → messageObject q.addr = some (.barrier p n) → exec .barrierMessageReceive s = .next (u.barrierMessage q p n))
    ∧ (takePacket (messageFor MsgObject.isReduce) s.inbox = some (q, rest) → messageObject q.addr = some (.reduce p) → exec .reduceCreditReceive s = .next (u.reduceCredit q p))

/-- The oldest TIME packet of a sender that has come in on a link that takes flits is taken: a request is answered with its stamp and its arrival; an answer that is awaited gives the delay ((t2 - t1) + (t4 - t3)) / 2 and, from upstream, the offset ((t2 - t1) - (t4 - t3)) / 2; one not awaited is dropped. An offset of up to 1 us is slewed; past that nothing is left to slew after the step. The first TPULSE edge steps the root to the next whole second, with the windows and timers passed; later ones are slewed to the nearest; another module only notes the edge. An exchange starts one interval after the last with a request on every UP link. FREF lost ends in HOLDOVER with every link DOWN; FREF back lets the root leave it through ACQUIRING. (R368, R372, R435, R436, R437, R438, R439, R440, R441, R442, R655.) -/
def Obligations.FabricTimeIsExchangedAndSteppedForward : Prop :=
  ∀ (s : State),
    (∀ (l src arrival : Nat) (p : Packet), s.hears l = true → ((s.link l).timeIn.find? fun x => x.1.src == src) = some (p, arrival) →
      let u := s.updLink l fun x => { x with timeIn := x.timeIn.erase (p, arrival) }
      (∀ h : Nat, timeOfData p.data = some (.request h) →
        let v := (u.updLink l fun x => { x with nbHops := some (h, p.src) }).follow
        exec (.timeReceive l src) s = .next (v.sendTime l (.answer p.stamp arrival v.hopCount)))
      ∧ (∀ t1 t2 h : Nat, timeOfData p.data = some (.answer t1 t2 h) → (u.link l).timeOut = true →
        let d := (((t2 : Int) - t1) + ((arrival : Int) - p.stamp)) / 2
        let o := (((t2 : Int) - t1) - ((arrival : Int) - p.stamp)) / 2
        let v := (u.updLink l fun x => { x with nbHops := some (h, p.src), timeOut := false, delay := d.toNat }).follow
        exec (.timeReceive l src) s = .next (if v.isRoot = false ∧ v.time.upstream = some l then v.takeOffset o else v))
      ∧ (∀ t1 t2 h : Nat, timeOfData p.data = some (.answer t1 t2 h) → (u.link l).timeOut = false → exec (.timeReceive l src) s = .next u)
      ∧ (timeOfData p.data = none → exec (.timeReceive l src) s = .next u))
    ∧ (∀ o : Int, (s.takeOffset o).time.slew = if 1000 < o then 0 else o)
    ∧ (let a := s.advance (s.time.lastExchange + 1000 * s.odN 0x4300 6)
      let u := a.withTime fun x => { x with lastExchange := a.now }
      exec .timeExchangeStart s = .next ((List.range 36).foldl (fun t l =>
        if (t.link l).st = .up then (t.sendTime l (.request t.hopCount)).updLink l fun x => { x with timeOut := true } else t) (if u.isRoot then u else u.missInterval)))
    ∧ (s.isRoot = false → exec .tpulseEdge s = .next (s.withTime fun x => { x with lastPulse := some s.now }))
    ∧ (s.isRoot = true → s.time.pulsed = false →
      let u := (s.stepForward (nextSecond s.now)).withTime fun x => { x with pulsed := true }
      exec .tpulseEdge s = .next (u.withTime fun x => { x with lastPulse := some u.now }))
    ∧ (∀ t : Nat, s.now ≤ t → (s.stepTime t).now = t ∧ nextSecond t % 1000000000 = 0 ∧ t ≤ nextSecond t ∧ nextSecond t < t + 1000000000)
    ∧ (s.isRoot = true → s.time.pulsed = true → exec .tpulseEdge s = .next (s.withTime fun x => { x with slew := ((s.now + 500000000) / 1000000000 * 1000000000 : Nat) - (s.now : Int), lastPulse := some s.now }))
    ∧ (s.time.frefOk = true → exec .frefLoss s = .next (((List.range 36).foldl (fun t l => if (t.link l).st == .down then t else t.linkLost l)
        ((s.withTime fun x => { x with frefOk := false }).record { code := .fabFrefLost })).setTimeSt .holdover))
    ∧ (s.time.frefOk = false → exec .frefRestore s = .next (let u := s.withTime fun x => { x with frefOk := true }
        if u.isRoot then (u.setTimeSt .acquiring).setTimeSt .locked else u))

/-- A commit puts the shadow values of each class of the mask into its pending set; at the next multiple of WINDOW a class adopts it and every counter of the class becomes min(2 x WEIGHT, counter + WEIGHT). A decision grants the winner, whose counter falls by the units served but never below -BURST, and a loser of the m-th decision in a row stays away for 8 x 2^min(m - 1, 10) ns, until its back-off ends. At each multiple of 10,000 ns every bucket gains its share. (R638, R639, R644, R645, R647, R648, R649, R651, R652.) -/
def Obligations.ArbitersRefillAndChargeCredit : Prop :=
  (∀ (mask : Nat) (s : State), mask < 64 →
      let ks := (List.range 6).filter (bit mask)
      exec (.arbiterCommit mask) s = .next ((({ s with arbPending := s.arbPending.filter (fun x => !ks.contains x.1) ++ ks.map fun k => (k, s.arbShadow k) } : State).flight 7 (0x2AF0 * 256 + 1) 0 mask none).emit (.status 0x2AF0 1 0)))
    ∧ (∀ (k : Nat) (s : State), k < 6 → 0 < (s.arb k).window → ∃ t : State, exec (.arbiterWindowBoundary k) s = .next t
      ∧ t.now % (s.arb k).window = 0 ∧ s.now < t.now ∧ t.now ≤ s.now + (s.arb k).window
      ∧ let a := match s.arbPending.find? fun x => x.1 == k with | some x => x.2 | none => s.arb k
        t.arbReqs = s.arbReqs.map fun r => if r.cls = k then { r with credit := min ((2 * a.weight k r.who : Nat) : Int) (r.credit + a.weight k r.who) } else r)
    ∧ (∀ (k inst : Nat) (reqs : List Request) (s : State) (r : Request), k < 6 → k ≠ 3 → inst < arbCount k →
      let rs := (reqs.filterMap s.pastRegulator).filter (s.presents k inst)
      s.winner k inst rs = some r → ∃ t : State, exec (.arbiterDecision k inst reqs) s = .next t
        ∧ t.arbReqs = s.arbReqs.map fun x =>
          if x.cls = k ∧ x.inst = inst then
            (if x.who = r.who then { x with credit := max (-((s.arb k).burst : Int)) (x.credit - s.served k r), losses := 0, quietUntil := 0 }
             else if rs.any (fun y => y.who == x.who) then { x with losses := x.losses + 1, quietUntil := s.now + 8 * 2 ^ min x.losses 10 } else x)
          else x)
    ∧ (∀ (inst : Nat) (reqs : List Request) (s : State), inst < arbCount 3 → s.leadOf inst = inst → exec (.arbiterDecision 3 inst reqs) s = .next (s.decideLink inst))
    ∧ (∀ (k inst who : Nat) (s : State) (r : ReqState), s.findReq k inst who = some r → r.quietUntil ≠ 0 →
      exec (.arbiterBackoffEnd k inst who) s = .next ((s.advance r.quietUntil).updReq k inst who fun x => { x with quietUntil := 0 }))
    ∧ ∀ s : State, ∃ t : State, exec .regulatorBoundary s = .next t ∧ t.now % 10000 = 0 ∧ s.now < t.now ∧ t.now ≤ s.now + 10000
      ∧ ∀ (p r i : Nat) (b : Bucket), p < 16 → r < 7 → i < regCount r → (s.part p).st ≠ .absent → findBucket s.buckets p r i = some b →
        let u := s.advance ((s.now / 10000 + 1) * 10000)
        u.regShare p r ≠ 0 → (findBucket t.buckets p r i).map Bucket.level = some (min ((u.odN (0x2010 + p) 9 * u.regGain p r i : Nat) : Int) (b.level + u.regGain p r i))

/-- A LARDER_READ of a sector answers its 32 bytes and changes no byte of memory, but that a LAST read may give a dirty sector back the bytes HBM holds; one of a crate cache or of a sector that cannot be corrected answers none and is recorded. A LARDER_WRITE leaves each byte it carries in its place and every other byte of memory as it was; one of a crate cache, or of part of a sector that cannot be corrected, writes nothing and is recorded. A write of 1 to a partition's Larder entry clears the KEEP mark of its lines and of no other line; one to its landing-board entry clears the bits of its range. (R281, R282, R284, R285, R286, R300, R346, R535, R898.) -/
def Obligations.MemoryRowsReadAndWrite : Prop :=
  (∀ (addr hint : Nat) (part : Option Nat) (s : State), s.larderTakes addr hint = true →
      let a := 32 * (addr / 32)
      (s.readFault { part := part } a = none →
        ∃ t : State, exec (.larderRead addr hint part) s = .next t ∧ t.out.getLast? = some (.sector a (s.bytes a 32))
          ∧ (t.mem = s.mem ∨ (hint = 3 ∧ ∃ e ∈ s.larder.stale, e.1 = a / 32 ∧ t.mem = memPutBytes s.mem a e.2)))
        ∧ ∀ f : Code × Nat, s.readFault { part := part } a = some f →
          exec (.larderRead addr hint part) s = .next ((((s.countFault f.1 f.2).record { code := f.1, part := part, addr := s.globalAddr f.2 }).stopOwed).emit (.sector a [])))
    ∧ (∀ (addr hint : Nat) (part : Option Nat) (bytes : List (Option Byte)) (s : State), s.Sound → s.larderTakes addr hint = true →
      let a := 32 * (addr / 32)
      let whole := 32 ≤ bytes.length ∧ ∀ i, i < 32 → (nth bytes i none).isSome
      ((∀ i, i < 32 → nth bytes i none = none) → exec (.larderWrite addr hint part bytes) s = .next s)
      ∧ ((∃ i, i < 32 ∧ (nth bytes i none).isSome) →
        (s.mapFault { part := part } true a = none → (s.badSector a = false ∨ whole) →
          ∃ t : State, exec (.larderWrite addr hint part bytes) s = .next t
            ∧ (∀ i, i < 32 → memGet t.mem (a + i) = (nth bytes i none).getD (memGet s.mem (a + i)))
            ∧ ∀ x, x < a ∨ a + 32 ≤ x → memGet t.mem x = memGet s.mem x)
        ∧ ∀ f : Code × Nat, (s.mapFault { part := part } true a = some f ∨ (s.mapFault { part := part } true a = none ∧ s.badSector a = true ∧ ¬whole ∧ f = (.memUncorrectable, a))) →
          exec (.larderWrite addr hint part bytes) s = .next (((s.countFault f.1 f.2).record { code := f.1, part := part, addr := s.globalAddr f.2 }).stopOwed)))
    ∧ (∀ (p : Nat) (s : State), p < 16 →
      ∃ t : State, exec (.keepLineClear p) s = .next t ∧ t.mem = s.mem ∧ t.out = s.out ++ [.status (0x2F10 + p) 10 0]
        ∧ t.larder.lines = s.larder.lines.map fun (x : LarderLine) => if x.owner = some p then { x with keep := false } else x)
    ∧ ∀ (p : Nat) (s : State), p < 16 →
      ∃ t : State, exec (.landingBoardClear p) s = .next t ∧ t.mem = s.mem ∧ t.out = s.out ++ [.status (0x3710 + p) 3 0]
        ∧ ∀ u, u ∈ t.coll.board ↔ u ∈ s.coll.board ∧ s.inRange p u = false

/-- At the end of a window of 4,096 sectors or more a die shows the ratio of its busiest pseudo-channel to the mean, at most 65,535, and that pseudo-channel; a window of fewer shows and judges nothing; either way its counts start at zero again with the settings written last. While the Attic is not offline the oldest block of the queue, or the one wear levelling chooses, is relocated: that loses no crate, and a block whose units have all moved, in which no program or erase fails, is erased once and leaves the queue. (R270, R271, R272, R273, R336, R337, R340.) -/
def Obligations.MonitorsAndMaintenanceTakeTheirTurn : Prop :=
  (∀ (d : Nat) (s : State), s.Sound → d < 8 →
      let u := s.advance (nth s.hbm.began d 0 + 1000 * (s.imbMonitor d).1)
      ∃ t : State, exec (.imbalanceWindowEnd d) s = .next t ∧ t.servedSum d = 0
        ∧ (∀ r : Nat, u.imbalance d = some r → t.odN (0x3010 + d) 5 = min r 0xFFFF ∧ t.odN (0x3010 + d) 6 = u.busiest d)
        ∧ (u.servedSum d < 4096 → t = u.nextWindow d))
    ∧ (∀ (b : Nat) (s : State), s.tier.queue.head? = some b → s.tier.offline = false → exec (.atticRelocate b) s = .next (s.relocate b))
    ∧ (∀ (b : Nat) (s : State), s.wearVictim = some b → s.tier.offline = false → exec .wearLevelRelocate s = .next (s.relocate b))
    ∧ ∀ (b : Nat) (s : State),
      (∀ i : Nat, (∃ c ∈ s.tier.crates, c.index = i) ↔ ∃ c ∈ (s.relocate b).tier.crates, c.index = i)
      ∧ let t := s.emptyBlock b
        ((∀ c ∈ t.tier.crates, c.block ≠ b) → (s.block b).leaving = false → (t.block b).failing = false →
          b ∉ (s.relocate b).tier.queue ∧ ((s.relocate b).block b).erases = (t.block b).erases + 1)

/-- A slice starts on a unit that may be tested, a core in SELF_TEST, and ends leaving the core idle, its coverage added and, on a pass, no fault record; one on a core that a context of higher priority calls for is abandoned at once. A pass changes no byte, a tested scratchpad's bytes being those from before it (the model's choice, log entry 71); a window of a pseudo-channel moves, and a lane goes into loopback, without a byte of memory changing; the oldest repair entry found reaches the flash. (R827, R828, R830, R834, R835, R838, R840, R856.) -/
def Obligations.SelfTestSlicesLeaveNoTrace : Prop :=
  (∀ (u : TestUnit) (s : State), s.sliceMay u = true →
      exec (.sliceStart u) s = .next (s.startSlice u) ∧ (s.Whole → u.kind = 1 → ((s.startSlice u).core u.inst).st = .selfTest))
    ∧ (∀ (u : TestUnit) (r : SliceResult) (s : State), (s.diag.slices.any fun x => x.1 == u) = true →
      exec (.sliceEnd u r) s = .next (((s.leaveSlice u).sliceResult u r).raiseOverdue)
        ∧ (∀ covered : Nat, r = .pass covered → ((s.leaveSlice u).sliceResult u r).mem = s.mem ∧ ((s.leaveSlice u).sliceResult u r).diag.ring = s.diag.ring))
    ∧ (∀ (n : Nat) (s : State), s.Whole → n < 384 → (s.diag.slices.any fun x => x.1 == { kind := 1, inst := n }) = true → s.calledFor n = true → (s.core n).st = .selfTest →
      ∃ t : State, exec (.sliceAbandon n) s = .next t ∧ (t.core n).st = .idle ∧ (t.diag.slices.any fun x => x.1 == { kind := 1, inst := n }) = false ∧ t.mem = s.mem)
    ∧ (∀ (pc : Nat) (r : SliceResult) (s : State), s.ready = true → s.classOn 1 = true → pc < 512 → s.channelOn pc = true →
      exec (.hbmWindowMove pc r) s = .next (((s.moveWindow pc).windowResult pc r).raiseOverdue) ∧ (s.moveWindow pc).mem = s.mem
        ∧ (s.moveWindow pc).reserve pc = some (match s.reserve pc with | some x => (x + 1) % 538 | none => 0))
    ∧ (∀ (l k : Nat) (s : State), s.Whole → s.ready = true → s.classOn 2 = true → l < 36 → (s.link l).spareLane = some k → s.unitOut { kind := 10, inst := 5 * l + k } = false →
      s.laneDue { kind := 10, inst := 5 * l + k } = true → ∃ t : State, exec (.laneLoopback l) s = .next t ∧ (t.link l).loopback = true ∧ t.mem = s.mem)
    ∧ ∀ (w : Word) (l : List Word) (s : State), s.diag.repairNew = w :: l →
      ∃ t : State, exec .repairEntryCommit s = .next t ∧ t.diag.repair = s.diag.repair ++ [w] ∧ t.diag.repairNew = l ∧ t.mem = s.mem

/-- A step of a powered island away from its target brings its voltage nearer by at most 25 mV, never past it. A performance state from 600 to 850 mV in steps of 25 mV is accepted and held; another value answers STATUS 3 and any for VH STATUS 2, and neither changes it. A quiet quarter-die goes into retention at 450 mV when its time has passed. (R871, R872, R875, R876.) -/
def Obligations.VoltagesStepTowardTheirTarget : Prop :=
  (∀ (i : Nat) (s : State), i < 43 → s.pwr.islands.length = 43 → (s.island i).power = 2 → (s.island i).mv ≠ s.targetMv i →
      ∃ t : State, exec (.islandVoltageStep i) s = .next t ∧ t.mem = s.mem
        ∧ ((s.island i).mv < s.targetMv i → (s.island i).mv < (t.island i).mv ∧ (t.island i).mv ≤ s.targetMv i ∧ (t.island i).mv ≤ (s.island i).mv + 25)
        ∧ (s.targetMv i < (s.island i).mv → (t.island i).mv < (s.island i).mv ∧ s.targetMv i ≤ (t.island i).mv ∧ (s.island i).mv ≤ (t.island i).mv + 25))
    ∧ (∀ (i mv : Nat) (s : State), s.EntriesWf → i < 42 → 600 ≤ mv → mv ≤ 850 → mv % 25 = 0 →
      ∃ t : State, exec (.performanceStateWrite i mv) s = .next t ∧ t.perfMv i = mv ∧ t.pwr = s.pwr ∧ t.out = s.out ++ [.status (islandIx i) 1 0])
    ∧ (∀ (i mv : Nat) (s : State), i < 42 → (mv < 600 ∨ 850 < mv ∨ mv % 25 ≠ 0) → exec (.performanceStateWrite i mv) s = .next (s.emit (.status (islandIx i) 1 3)))
    ∧ (∀ (mv : Nat) (s : State), exec (.performanceStateWrite 42 mv) s = .next (s.emit (.status 0xA04A 1 2)))
    ∧ ∀ (q : Nat) (s : State), s.pwr.islands.length = 43 → q < 32 → (s.island q).power = 2 → s.quarterQuiet q = true →
      ∃ t : State, exec (.quarterRetentionEntry q) s = .next t ∧ (t.island q).power = 1 ∧ (t.island q).mv = 450 ∧ t.mem = s.mem

/-- A sample of a powered island, NAND stack, uncore or HBM stack is taken on the 50 µs grid: it sets the temperature and judges the ceiling, and at 115 °C on an island or an uncore, or 105 °C at an HBM stack, the module trips, and in the hub die becomes OFF; a NAND stack's Attic writes pause at 85 °C and resume below 80 °C; a trip switches every stage but the hub die's off, ends with no context neither ABSENT nor HALTED, no command in a core and no byte of HBM, Cellar or scratchpad, and happens once; a trip in the hub die makes the module OFF. The power controller lowers the module's ceiling by 25 mV, to 600 mV at least, after a millisecond above the limit, and leaves it between 95 % and the limit; a coolant measurement is taken. (R305, R306, R879, R880, R881, R884, R885, R886.) -/
def Obligations.TemperaturesLowerCeilingsAndTrip : Prop :=
  (∀ (i : Nat) (x y : Int) (s : State), s.pwr.on = true → i < 43 → (s.island i).power ≠ 0 →
      let u := (s.advance (s.tickOf 50000)).checkTwin i x y
      let t := u.reading i x y
      let v := (u.updIsland i fun k => { k with temp := t, sampled := true }).junctionCeiling i t
      exec (.junctionSample i x y) s = .next (if deg 115 ≤ t then (if i = 42 then v.off true else v.trip i) else v))
    ∧ (∀ (k : Nat) (x y : Int) (s : State), s.pwr.on = true → k < 8 → (s.island 41).power ≠ 0 →
      let u := (s.advance (s.tickOf 50000)).checkTwin (43 + k) x y
      let t := u.reading (43 + k) x y
      exec (.junctionSample (43 + k) x y) s = .next (if deg 85 ≤ t then u.withTier fun z => { z with paused := if z.paused.contains k then z.paused else k :: z.paused }
        else if t < deg 80 then u.withTier fun z => { z with paused := z.paused.filter (· != k) } else u))
    ∧ (∀ (k : Nat) (x y : Int) (s : State), s.pwr.on = true → k < 8 → s.uncoreOn k = true →
      let u := (s.advance (s.tickOf 50000)).checkTwin (69 + k) x y
      exec (.junctionSample (69 + k) x y) s = .next (if deg 115 ≤ u.reading (69 + k) x y then u.trip (69 + k) else u))
    ∧ (∀ (st : Nat) (x y : Int) (s : State), s.pwr.on = true → st < 16 → ((s.island (2 * st)).power ≠ 0 ∨ (s.island (2 * st + 1)).power ≠ 0) →
      let u := (s.advance (s.tickOf 50000)).checkTwin (51 + st) x y
      let t := u.reading (51 + st) x y + u.stackOffset st
      let v := (u.updStack st fun k => { k with temp := t, doubled := decide (deg 85 ≤ t) || (k.doubled && decide (deg 82 ≤ t)) }).stackCeiling st t
      exec (.stackSample st x y) s = .next (if deg 105 ≤ t then v.trip (51 + st) else v))
    ∧ (∀ (sensor : Nat) (s : State), s.Whole → s.pwr.on = true → s.pwr.tripped = false → sensor ≠ 42 →
      ∃ t : State, exec (.thermalTrip sensor) s = .next t ∧ t.pwr.tripped = true ∧ t.ready = false
        ∧ (∀ cc, cc < 256 → (t.ctx cc).cond = .absent ∨ (t.ctx cc).cond = .halted)
        ∧ (∀ n, n < 384 → (t.core n).exec = none ∧ (t.core n).window = [])
        ∧ (s.Sound → ∀ a : Nat, region a = 0 ∨ region a = 1 ∨ region a = 8 → memGet t.mem a = 0#8))
    ∧ (∀ (sensor : Nat) (s : State), s.pwr.tripped = true → exec (.thermalTrip sensor) s = .next s)
    ∧ (∀ s : State, s.pwr.on = true → exec .hubThermalTrip s = .next (s.off true) ∧ (s.off true).pwr.on = false ∧ (s.off true).pwr.hubTrip = true)
    ∧ (∀ (avg ma : Nat) (s : State), s.pwr.on = true → exec (.powerControllerTick avg ma) s = .next ((s.advance (s.tickOf 1000000)).powerTick avg ma)
      ∧ (let u := s.advance (s.tickOf 1000000)
         let l := min (1000 * u.odN 0xA000 4) (100 * u.pwr.mv)
         (l < avg → (u.powerTick avg ma).pwr.ceiling = max 600 ((if u.pwr.ceiling = 0 then u.topPerf else u.pwr.ceiling) - 25) ∨ (u.pwr.ceiling ≠ 0 ∧ u.pwr.ceiling ≤ 600 ∧ (u.powerTick avg ma).pwr.ceiling = u.pwr.ceiling))
         ∧ (avg ≤ l → l * 95 < avg * 100 → (u.powerTick avg ma).pwr.ceiling = u.pwr.ceiling)))
    ∧ ∀ (x y : Int) (s : State), s.pwr.on = true → ∃ t : State, exec (.coolantSample x y) s = .next t ∧ t.pwr.coolIn = x ∧ t.pwr.coolOut = y ∧ t.mem = s.mem

/-- P50V rising above 38 V makes an OFF module begin at stage 1 with an empty flight recorder and the records of its Attic as they were, a write under way cut short; a stage that ends well has its effect, stages 1, 2, 4, 8 and 9 followed by the next, and one that fails leaves stage 0xFF; stage 3 waits for RESET_IN_N. A module reset leaves no partition, context or command, and the same records of the Attic. A loss of the input clears HBM and the Cellar; its end leaves the module OFF, and so does a fault of a hub-die stage. Alert bits are cleared where their condition is gone, and no others; a watchdog expiry is a fault record. (R863, R864, R866, R868, R869, R888, R890, R893, R894, R897.) -/
def Obligations.StartUpRunsStageByStage : Prop :=
  (∀ (mv : Nat) (s : State), s.pwr.on = false → s.pwr.hubTrip = false → 38000 < mv →
      ∃ t : State, exec (.p50vOn mv) s = .next t ∧ t.pwr.on = true ∧ t.pwr.stage = 1 ∧ t.pwr.mv = mv ∧ t.diag.recorder = [] ∧ t.tier.records = s.cutWrites.tier.records)
    ∧ (∀ (mv : Nat) (s : State), s.pwr.on = true → 38000 < mv → mv < 62000 → inputGood mv = false → exec (.p50vOutOfRange mv) s = .next (s.inputRange mv))
    ∧ (∀ (mv : Nat) (s : State), s.Sound → s.pwr.on = true → s.pwr.inputLost = false → mv < 38000 →
      ∃ t : State, exec (.p50vInputLoss mv) s = .next t ∧ t.pwr.mv = mv ∧ ∀ a : Nat, region a = 0 ∨ region a = 1 → memGet t.mem a = 0#8)
    ∧ (∀ (mv : Nat) (s : State), s.pwr.on = true → s.pwr.inputLost = false → 62000 ≤ mv → exec (.p50vInputLoss mv) s = .next (s.inputLoss mv))
    ∧ (∀ (mv : Nat) (s : State), s.pwr.on = true → inputGood mv = true → inputGood s.pwr.mv = false →
      ∃ t : State, exec (.p50vReturnToRange mv) s = .next t ∧ t.pwr.mv = mv ∧ t.pwr.inRangeSince = some s.now ∧ t.pwr.inputLost = false ∧ t.mem = s.mem)
    ∧ (∀ s : State, s.pwr.on = true → ∃ t : State, exec .p50vOff s = .next t ∧ t.pwr.on = false ∧ t.ready = false ∧ t.tier.records = s.cutWrites.tier.records)
    ∧ (∀ (g : Nat) (s : State), s.pwr.on = true → g ∉ s.pwr.stagesOff →
      exec (.stageFault g) s = .next (if g = 50 ∨ g = 127 ∨ g = 128 then (s.faultStage g).off true else s.faultStage g))
    ∧ (∀ (r : StageResult) (s : State), s.pwr.on = true → s.pwr.stage ≠ 0 → s.pwr.stage < 10 → (s.pwr.stage ≠ 3 ∨ s.pwr.resetHeld = false) →
      (r.ok = true → exec (.startupStageEnd r) s = .next (s.stageDone r))
      ∧ (r.ok = false → ∃ t : State, exec (.startupStageEnd r) s = .next t ∧ t.pwr.stage = 0xFF ∧ t.mem = s.mem))
    ∧ (∀ (r : StageResult) (s : State), (s.pwr.stage = 1 ∨ s.pwr.stage = 2 ∨ s.pwr.stage = 4 ∨ s.pwr.stage = 8 ∨ s.pwr.stage = 9) → (s.stageDone r).pwr.stage = s.pwr.stage + 1)
    ∧ (∀ (r : StageResult) (s : State), s.pwr.stage = 3 → s.pwr.resetHeld = true → exec (.startupStageEnd r) s = .next s)
    ∧ (∀ s : State, s.mgmtUp = true →
      (∃ t : State, exec .moduleReset s = .next t ∧ t.pwr.stage = 3 ∧ t.pending = s.pending ∧ t.parts = State.reset.parts ∧ t.ctxs = State.reset.ctxs ∧ t.flying = [] ∧ t.tier.records = s.cutWrites.tier.records)
      ∧ exec .watchdogExpiry s = .next (s.raise { code := .mgmtWatchdog, unit := { kind := 12, inst := 0 } }))
    ∧ (∀ s : State, ∃ t u : State, exec .resetIn s = .next t ∧ t.pwr.resetHeld = true ∧ (s.pwr.on = true → 3 ≤ s.pwr.stage → t.pwr.stage = 3 ∧ t.flying = [])
      ∧ exec .resetInRelease s = .next u ∧ u = { s with pwr := { s.pwr with resetHeld := false } })
    ∧ ∀ (mask : Nat) (s : State), mask < 256 → ∃ t : State, exec (.alertClear mask) s = .next t ∧ t.mem = s.mem
      ∧ ∀ i, i < 8 → bit t.pwr.alert i = (bit s.pwr.alert i && (!(bit mask i) || s.alertHolds i))

/-- Training of the host link records its width and speed. Its loss empties the device cache and the snoop filter and halts every context, neither ABSENT nor ABORTING, with a ring or status word in host memory. QUIESCE leaves no partition ACTIVE, and removal completes with nothing cached and nothing recorded. PERST resets the endpoint and no memory; a failed IDE stream makes every stream insecure; a bad BAR access is counted; a submitted mailbox request is served as its TYPE says, and ends with DONE set and GO clear; an SPDM message is answered unless it fails its check. (R13, R742, R745, R746, R774, R775, R776, R777, R802, R803, R816, R819.) -/
def Obligations.HostLinkComesAndGoes : Prop :=
  (∀ (lanes rate : Nat) (s : State), s.pwr.on = true → 8 ≤ s.pwr.stage → s.pwr.stage ≤ 10 → s.host.perst = false → s.host.up = false →
      ∃ t : State, exec (.cxlLinkTrain lanes rate) s = .next t ∧ t.host.up = true ∧ t.host.link = linkCode lanes rate ∧ t.host.pcieOnly = (linkCode lanes rate == 0) ∧ t.mem = s.mem)
    ∧ (∀ s : State, s.Whole → s.host.up = true → s.host.quiesced = false →
      ∃ t : State, exec .hostLinkLoss s = .next t ∧ t.host.up = false ∧ t.host.cache = [] ∧ t.host.snoop = [] ∧ t.mem = s.mem
        ∧ ∀ cc, cc < 256 → s.hostRings cc = true → (s.ctx cc).cond ≠ .absent → (s.ctx cc).cond ≠ .aborting → (t.ctx cc).cond = .halted)
    ∧ (∀ s : State, s.Whole → s.barOpen = true → s.host.quiesce = false →
      ∃ t : State, exec .quiesce s = .next t ∧ t.host.quiesce = true ∧ ∀ p, p < 16 → (t.part p).st ≠ .active)
    ∧ (∀ s : State, s.host.quiesce = true → s.host.quiesced = false → (∀ p ∈ s.parts, p.st ≠ .active ∧ p.st ≠ .stopping) →
      ∃ t : State, exec .quiesceDone s = .next t ∧ t.host.quiesced = true ∧ t.host.cache = [] ∧ t.host.snoop = [] ∧ t.mem = s.mem ∧ t.parts = s.parts)
    ∧ (∀ s : State, ∃ t : State, exec (.perst true) s = .next t ∧ t.host.up = false ∧ t.host.perst = true ∧ t.mem = s.mem)
    ∧ (∀ s : State, exec (.perst false) s = .next { s with host := { s.host with perst := false } })
    ∧ (∀ s : State, s.host.up = true → s.host.ide = 2 → ∃ t : State, exec .ideFail s = .next t ∧ t.host.ide = 3 ∧ t.mem = s.mem)
    ∧ (∀ (write badSize : Bool) (s : State), s.barOpen = true →
      exec (.barAccessBad write badSize) s = .next (if write then s.odInc 0x6030 1 else (s.odInc 0x6030 1).emit (.barBad badSize)))
    ∧ (∀ (v : Nat) (bytes : List Byte) (s t : State), s.mgmtUp = true → s.barOpen = true → t = (s.fillRequest bytes).clearDone v →
      (s.mgmt.go = false → bit v 0 = true →
        (∀ r, headerFault t.bufferMessage.2 = some r → exec (.mailboxGo v bytes) s = .next (t.mailboxReply t.bufferMessage.2.seq (reject r)))
        ∧ (headerFault t.bufferMessage.2 = none → exec (.mailboxGo v bytes) s = .next
          ((t.serveType t.bufferMessage.1 t.bufferMessage.2.payload).1.mailboxReply t.bufferMessage.2.seq (t.serveType t.bufferMessage.1 t.bufferMessage.2.payload).2))
        ∧ ∃ u : State, exec (.mailboxGo v bytes) s = .next u ∧ u.mgmt.done = true ∧ u.mgmt.go = false)
      ∧ (s.mgmt.go = false → bit v 0 = false → exec (.mailboxGo v bytes) s = .next t)
      ∧ (s.mgmt.go = true → bytes ≠ [] → exec (.mailboxGo v bytes) s = .next ((s.odInc 0x6030 1).clearDone v)))
    ∧ (∀ (tchioz secured : Bool) (msg : List Byte) (s : State), s.mgmtUp = true → (tchioz = true → s.mgmt.node ≠ 0) → (tchioz = false → s.host.up = true) →
      (secured = true → Config.spdmIntact (s.spdmPast tchioz secured) msg = true) →
      ∃ t : State, exec (.spdmMessage tchioz secured msg) s = .next t ∧ t.mem = s.mem
        ∧ Out.spdm tchioz (Config.spdmReply (s.spdmPast tchioz secured) s.measurements msg) ∈ t.out)

/-- A window read answers the 64 bytes of its line and changes no byte; a window write of a line without an uncorrectable sector leaves each byte it carries in its place and every other byte as it was. A snoop that invalidates takes the line out of the device cache, and what the host writes there stands in its memory; another leaves it clean. A queue access that the host does not answer faults its context's queue, or marks the line of a record or status word; one of a command ends the command. A back-invalidation not answered is recorded, and the front end's read or the command that waits for it fails. A vector unmasked has no message pending. (R761, R763, R765, R767, R769, R771, R772, R899.) -/
def Obligations.HostAccessesReachTheWindows : Prop :=
  (∀ (dpa a : Nat) (s : State), s.hostReach = true → s.windowAddr (dpa / 64 * 64) = some a →
      ∃ t : State, exec (.hostWindowRead dpa) s = .next t ∧ t.mem = s.mem ∧ t.out.getLast? = some (.hostData (dpa / 64 * 64) (s.bytes a 64) (!(s.badIn a).isEmpty)))
    ∧ (∀ (dpa a : Nat) (bytes : List (Option Byte)) (s : State), s.Sound → s.hostReach = true → s.windowAddr (dpa / 64 * 64) = some a → a + 64 ≤ 2 ^ 45 → s.badSector a = false → s.badSector (a + 32) = false →
      ∃ t : State, exec (.hostWindowWrite dpa bytes) s = .next t
        ∧ (∀ i, i < 64 → memGet t.mem (a + i) = (nth bytes i none).getD (memGet s.mem (a + i)))
        ∧ ∀ x, x < a ∨ a + 64 ≤ x → memGet t.mem x = memGet s.mem x)
    ∧ (∀ (line : Nat) (bytes : List Byte) (s : State), s.Sound → inHost (64 * line) = true →
      (∃ t : State, exec (.hostSnoop line true bytes) s = .next t ∧ (∀ e ∈ t.host.cache, e.1 ≠ line)
        ∧ ∀ x, memGet t.mem x = if 64 * line ≤ x ∧ x < 64 * line + min 64 bytes.length then nth bytes (x - 64 * line) 0#8 else memGet s.mem x)
      ∧ ∃ t : State, exec (.hostSnoop line false bytes) s = .next t ∧ t.mem = s.mem ∧ (line, true) ∉ t.host.cache)
    ∧ (∀ (cc addr closed : Nat) (s : State), inHost addr = true → s.hostReach = true → cc < 256 → (s.ctx cc).cond ≠ .absent → s.hostRings cc = true →
      (s.writesAt cc addr = true → ∃ t : State, exec (.hostCompletionTimeout cc none closed addr) s = .next t ∧ addr / 64 ∈ t.host.dead ∧ t.mem = s.mem ∧ t.ctxs = s.ctxs)
      ∧ (s.writesAt cc addr = false → exec (.hostCompletionTimeout cc none closed addr) s = .next (s.queueFault cc .hostQueue addr)))
    ∧ (∀ (cc addr closed : Nat) (c : Consumer) (s t : State), inHost addr = true → s.hostReach = true → s.failBy c closed .hostAccess addr = some t →
      exec (.hostCompletionTimeout cc (some c) closed addr) s = .next t)
    ∧ (∀ (line closed : Nat) (c : Consumer) (s t : State), s.host.snoop.contains line = true →
      t = s.record { code := .hostBiTimeout, part := s.partOfCtx (s.ctxOf c), ctx := some (s.ctxOf c), unit := { kind := 15, inst := s.ctxOf c }, addr := s.globalAddr (64 * line) } →
      (∀ cc, c = .hub cc → t.fetchesAt cc (64 * line) = true → exec (.biTimeout line c closed) s = .next (t.queueFault cc .memUncorrectable (64 * line)))
      ∧ ∀ u : State, t.failOwn c (64 * line) = none → t.failBy c closed .memUncorrectable (64 * line) = some u → exec (.biTimeout line c closed) s = .next u)
    ∧ ∀ (v : Nat) (s : State), s.barOpen = true → v < 2048 →
      (∃ t : State, exec (.msixTableWrite v true) s = .next t ∧ v ∉ t.host.unmasked ∧ t.mem = s.mem)
      ∧ ∃ t : State, exec (.msixTableWrite v false) s = .next t ∧ v ∈ t.host.unmasked ∧ v ∉ t.host.pendingBits ∧ (v ∈ s.host.pendingBits → Out.msix v ∈ t.out)

/-- A write to the object dictionary of an entry that does not exist answers STATUS 1, of one that is read-only 2, of a value out of range 3, of one the state excludes 4, of one that breaks a sum 5, and then nothing changes; any other write to an entry without a command holds the value written, or in 0x6020/02 the commands in flight where they are more, but where the store of a persistent entry does not commit it, which answers 7 and leaves the entry as it was. COMMIT of a staging slot whose image verifies makes it the preferred one, and any other is FAILED; ADVANCE raises the fuse counter to the running image's SVN or is refused; a debug token unlocks its levels or is refused, and a new nonce is drawn. (R791, R800, R801, R814, R820, R821, R822, R901.) -/
def Obligations.EntriesAndFirmwareAreWritten : Prop :=
  (∀ (ix sub v : Nat) (s : State), s.mgmtUp = true → (ix ≠ 0x8000 ∨ sub ≠ 5) →
      (odFind ix sub = none → exec (.odWrite ix sub v) s = .next (s.emit (.status ix sub 1)))
      ∧ ∀ r : OdRow, odFind ix sub = some r →
        ((r.acc = .ro ∨ r.acc = .rc ∨ refusesAll ix sub = true) → exec (.odWrite ix sub v) s = .next (s.emit (.status ix sub 2)))
        ∧ (r.acc ≠ .ro → r.acc ≠ .rc → refusesAll ix sub = false →
          (s.rangeOk r ix sub v = false → exec (.odWrite ix sub v) s = .next (s.emit (.status ix sub 3)))
          ∧ (s.rangeOk r ix sub v = true → s.controlWrite ix sub v = none →
            (s.stateOk ix sub = false → exec (.odWrite ix sub v) s = .next (s.emit (.status ix sub 4)))
            ∧ (s.stateOk ix sub = true → s.sumOk r ix sub v = false → exec (.odWrite ix sub v) s = .next (s.emit (.status ix sub 5)))
            ∧ (s.EntriesWf → s.stateOk ix sub = true → s.sumOk r ix sub v = true →
              ∃ t : State, exec (.odWrite ix sub v) s = .next t
                ∧ (r.pers = false ∨ s.storeFails = 0 → t.out.getLast? = some (.status ix sub 0) ∧ mapGet odDefault t.od (odKey ix sub) = (if ix = 0x6020 ∧ sub = 2 then BitVec.ofNat 64 (max v s.flying.length) else BitVec.ofInt 64 ((writtenAs r v).getD 0)))
                ∧ (r.pers = true → s.storeFails ≠ 0 → t.out.getLast? = some (.status ix sub 7) ∧ t.nv = s.nv ∧ mapGet odDefault t.od (odKey ix sub) = mapGet odDefault s.od (odKey ix sub))))))
    ∧ (∀ (k : Nat) (s : State), s.sec.fw.length = 5 → 1 ≤ k → k ≤ 5 →
      ((s.fw k).staging = .receiving → slotGood (s.fw k) k (!(s.fw k).runningB) = true →
        ∃ t : State, exec (.firmwareCommit k) s = .next t ∧ (t.fw k).staging = .committed ∧ (t.fw k).preferB = !(s.fw k).runningB ∧ t.out.getLast? = some (.status (0x9010 + k) 6 0))
      ∧ (((s.fw k).staging ≠ .receiving ∨ slotGood (s.fw k) k (!(s.fw k).runningB) = false) →
        ∃ t : State, exec (.firmwareCommit k) s = .next t ∧ (t.fw k).staging = .failed ∧ t.out.getLast? = some (.status (0x9010 + k) 6 4))
      ∧ ((s.fw k).fuse < (s.fw k).svn → ∃ t : State, exec (.firmwareAdvance k) s = .next t ∧ (t.fw k).fuse = (s.fw k).svn ∧ t.out.getLast? = some (.status (0x9010 + k) 6 0))
      ∧ ((s.fw k).svn ≤ (s.fw k).fuse → exec (.firmwareAdvance k) s = .next (s.emit (.status (0x9010 + k) 6 4))))
    ∧ ∀ s : State, ∃ t : State, exec .debugTokenSubmit s = .next t ∧ t.sec.nonces = s.sec.nonces + 1 ∧ t.mem = s.mem
      ∧ (s.tokenGood = true → t.sec.outcome = 1 ∧ t.sec.levels = s.sec.levels ||| fld (headWords s.sec.token) 0 2 0 ∧ t.out.getLast? = some (.status 0x9300 2 0))
      ∧ (s.tokenGood = false → t.sec.outcome = 2 ∧ t.sec.levels = s.sec.levels ∧ t.out.getLast? = some (.status 0x9300 2 4))

/-- An ASSIGN of an ID to a module that holds no node ID and whose ADDR_IN is asserted stores the ID as unconfirmed and sends ASSIGN_ACK; a module that holds that ID unconfirmed answers with ASSIGN_ACK again; any other ASSIGN is ignored. (R793.) -/
def Obligations.AssignGivesAnUnassignedModuleItsNodeId : Prop :=
  ∀ (m : MgmtMsg) (s : State), s.mgmtUp = true → m.mailbox = false → ofManager m = true → s.toMe m = true → headerFault m = none → m.payload.length = 8 → leNat (m.payload.drop 1) = 0 →
    1 ≤ leNat (m.payload.take 1) → leNat (m.payload.take 1) ≤ 31 →
    let ack : State → State := fun t => t.sendMgmt 0x02 m.seq (leBytes 8 t.serial ++ leBytes 1 t.pwr.stage ++ leBytes 7 0)
    if s.mgmt.node = 0 ∧ s.mgmt.addrIn = true then exec (.assign m) s = .next (ack { s with mgmt := { s.mgmt with node := leNat (m.payload.take 1), confirmed := false } })
    else if s.mgmt.node = leNat (m.payload.take 1) ∧ s.mgmt.confirmed = false then exec (.assign m) s = .next (ack s)
    else exec (.assign m) s = .next s

/-- A good READ, WRITE, BLOB or DUMP_REQ of the manager is served and answered; one of the last 16 again gets its stored reply and is not executed; a message of another sender is only counted, one with a bad header rejected, one for another node left alone (log entry 80), and the same requests through the mailbox end with DONE set. CONFIRM with the module's ID and serial number asserts ADDR_OUT with ADDR_IN, RELEASE of a range with its ID drops the ID, ADDR_IN going away drops ADDR_OUT. EVENTs are sent again until EVENT_ACK covers them, a heartbeat at each interval, an ARP request for its own address is answered, and a frame from another station that claims the address is a fault record. (R783, R785, R786, R787, R792, R794, R796, R797, R803, R804, R824, R825.) -/
def Obligations.ManagementMessagesAreServed : Prop :=
  (∀ (i : MgmtMsg → Instr) (typ : Nat), (i, typ) ∈ [(Instr.read, 0x05), (Instr.write, 0x07), (Instr.blob, 0x09), (Instr.dumpReq, 0x0B)] → ∀ (m : MgmtMsg) (s : State), s.mgmtUp = true →
      (m.mailbox = false → ofManager m = true → s.toMe m = true → headerFault m = none → s.levelOut typ m = false →
        ((s.mgmt.replies.find? fun x => x.typ == typ && x.seq == m.seq) = none →
          exec (i m) s = .next ((s.serveType typ m.payload).1.reply typ m.seq (s.serveType typ m.payload).2))
        ∧ ∀ x : StoredReply, (s.mgmt.replies.find? fun x => x.typ == typ && x.seq == m.seq) = some x → s.mgmt.node ≠ 0 →
          exec (i m) s = .next (s.emit (.mgmt (typ + 1) m.seq x.time x.bytes)))
      ∧ (m.mailbox = false → ofManager m = false → exec (i m) s = .next (s.odInc 0x1100 9))
      ∧ (∀ r, m.mailbox = false → ofManager m = true → headerFault m = some r → exec (i m) s = .next (s.sendMgmt 0x1F m.seq [BitVec.ofNat 8 r]))
      ∧ (m.mailbox = false → ofManager m = true → headerFault m = none → s.toMe m = false → exec (i m) s = .next s)
      ∧ (m.mailbox = true → s.barOpen = true → ∃ t : State, exec (i m) s = .next t ∧ t.mgmt.done = true ∧ t.mgmt.go = false))
    ∧ (∀ (m : MgmtMsg) (s : State), s.mgmtUp = true → m.mailbox = false → ofManager m = true → s.toMe m = true → headerFault m = none → s.levelOut 0x03 m = false → m.payload.length = 16 → leNat ((m.payload.drop 1).take 7) = 0 →
      s.mgmt.node ≠ 0 → s.mgmt.node ≤ 31 → leNat (m.payload.take 1) = s.mgmt.node → leNat (m.payload.drop 8) = s.serial →
      exec (.confirm m) s = .next { s with mgmt := { s.mgmt with confirmed := true, addrOut := s.mgmt.addrIn } })
    ∧ (∀ (m : MgmtMsg) (s : State) (a b : Nat), s.mgmtUp = true → m.mailbox = false → ofManager m = true → s.toMe m = true → headerFault m = none → s.levelOut 0x04 m = false → m.payload.length = 8 → leNat (m.payload.drop 2) = 0 →
      a = leNat (m.payload.take 1) → b = leNat ((m.payload.drop 1).take 1) → 1 ≤ a → a ≤ s.mgmt.node → s.mgmt.node ≤ b → b ≤ 31 →
      exec (.release m) s = .next { s with mgmt := { s.mgmt with node := 0, confirmed := false, addrOut := false } })
    ∧ (∀ (level : Bool) (s : State), s.mgmt.addrIn ≠ level → ∃ t : State, exec (.addrInChange level) s = .next t ∧ t.mgmt.addrIn = level ∧ t.mgmt.addrOut = (level && s.mgmt.confirmed) ∧ t.mem = s.mem)
    ∧ (∀ (m : MgmtMsg) (s : State), s.mgmtUp = true → m.mailbox = false → ofManager m = true → s.toMe m = true → headerFault m = none → s.levelOut 0x0F m = false → m.payload.length = 4 →
      ∃ t : State, exec (.eventAck m) s = .next t ∧ (∀ e, e ∈ t.mgmt.events ↔ e ∈ s.mgmt.events ∧ leNat m.payload < e.num) ∧ t.mem = s.mem)
    ∧ (∀ s : State, s.mgmtUp = true → exec .eventResend s = .next (s.mgmt.events.foldl (fun t e => t.sendMgmt 0x0E 0 (eventBytes e)) s))
    ∧ (∀ s : State, s.mgmtUp = true → s.odN 0x1100 6 ≠ 0 →
      ∃ t : State, exec .heartbeat s = .next t ∧ t.mgmt.lastBeat = max s.now (s.mgmt.lastBeat + 1000000 * s.odN 0x1100 6) ∧ t.mem = s.mem
        ∧ (s.mgmt.node ≠ 0 → ∃ b : List Byte, b.length = 13 ∧ t.out.getLast? = some (.mgmt 0x10 0 t.now b)))
    ∧ (∀ (ip mac src : Nat) (s : State), s.mgmtUp = true → s.mgmt.node ≠ 0 → ip = s.mgmt.base + s.mgmt.node → (src ≠ ip ∨ mac = s.macAddress) →
      exec (.arpRequest true ip mac src) s = .next (s.emit (.arp ip)))
    ∧ ∀ (arp : Bool) (ip mac : Nat) (s : State), s.mgmtUp = true → s.mgmt.node ≠ 0 → ip ≠ s.mgmt.base + s.mgmt.node → mac ≠ s.macAddress →
      exec (.arpRequest arp ip mac (s.mgmt.base + s.mgmt.node)) s = .next (s.raise { code := .mgmtNodeConflict, unit := { kind := 12, inst := 0 } })
end

