-- ==== Sys2Proof/Laws/Maps.lean ====
section
/-! SUPPORT. The laws of sorted maps and of memory: reading back what was written, other keys left alone, the canonical form kept; and of lists changed at one place. -/
namespace Sys2Proof.Machine

@[simp] theorem modAt_length {α : Type} (l : List α) (i : Nat) (f : α → α) : (modAt l i f).length = l.length := by
  induction l generalizing i with
  | nil => rfl
  | cons a l ih => cases i <;> simp [modAt, ih]

theorem nth_modAt_same {α : Type} (l : List α) (i : Nat) (f : α → α) (d : α) (h : i < l.length) : nth (modAt l i f) i d = f (nth l i d) := by
  induction l generalizing i with
  | nil => simp at h
  | cons a l ih =>
    cases i with
    | zero => rfl
    | succ i => simpa [nth, modAt] using ih i (by simpa using h)

theorem nth_modAt_other {α : Type} (l : List α) (i j : Nat) (f : α → α) (d : α) (h : j ≠ i) : nth (modAt l i f) j d = nth l j d := by
  induction l generalizing i j with
  | nil => rfl
  | cons a l ih =>
    cases i with
    | zero => cases j with
      | zero => exact absurd rfl h
      | succ j => rfl
    | succ i => cases j with
      | zero => rfl
      | succ j => simpa [nth, modAt] using ih i j (by omega)

theorem mapWfFrom_mono {β : Type} [DecidableEq β] (d : Nat → β) (m : List (Nat × β)) {lo lo' : Nat} (h : lo' ≤ lo) (hw : mapWfFrom d lo m = true) : mapWfFrom d lo' m = true := by
  cases m with
  | nil => rfl
  | cons x m =>
    simp only [mapWfFrom, Bool.and_eq_true, decide_eq_true_eq] at hw ⊢
    exact ⟨⟨by omega, hw.1.2⟩, hw.2⟩

/-- A write keeps the canonical form. -/
theorem mapWfFrom_put {β : Type} [DecidableEq β] (d : Nat → β) (m : List (Nat × β)) (lo k : Nat) (v : β) (hk : lo ≤ k) (hw : mapWfFrom d lo m = true) :
    mapWfFrom d lo (mapPut d m k v) = true := by
  induction m generalizing lo with
  | nil =>
    unfold mapPut
    split
    · rfl
    · simp_all [mapWfFrom]
  | cons x m ih =>
    obtain ⟨a, w⟩ := x
    simp only [mapWfFrom, Bool.and_eq_true, decide_eq_true_eq] at hw
    obtain ⟨⟨h1, h2⟩, h3⟩ := hw
    unfold mapPut
    split
    · subst k
      split
      · exact mapWfFrom_mono d m (by omega) h3
      · simp_all [mapWfFrom]
    · split
      · split <;> simp_all [mapWfFrom] <;> omega
      · simp only [mapWfFrom, Bool.and_eq_true, decide_eq_true_eq]
        exact ⟨⟨h1, h2⟩, ih (a + 1) (by omega) h3⟩

theorem mapWf_put {β : Type} [DecidableEq β] {d : Nat → β} {m : List (Nat × β)} (k : Nat) (v : β) (h : mapWf d m = true) : mapWf d (mapPut d m k v) = true :=
  mapWfFrom_put d m 0 k v (Nat.zero_le k) h

theorem mapWfFrom_filter {β : Type} [DecidableEq β] (d : Nat → β) (f : Nat × β → Bool) (m : List (Nat × β)) (lo : Nat) (h : mapWfFrom d lo m = true) : mapWfFrom d lo (m.filter f) = true := by
  induction m generalizing lo with
  | nil => rfl
  | cons x m ih =>
    simp only [mapWfFrom, Bool.and_eq_true, decide_eq_true_eq] at h
    simp only [List.filter]
    split
    · simp only [mapWfFrom, Bool.and_eq_true, decide_eq_true_eq]
      exact ⟨h.1, ih _ h.2⟩
    · exact mapWfFrom_mono d _ (by omega) (ih _ h.2)

theorem mapGet_below {β : Type} [DecidableEq β] (d : Nat → β) (m : List (Nat × β)) (lo k : Nat) (hk : k < lo) (h : mapWfFrom d lo m = true) : mapGet d m k = d k := by
  cases m with
  | nil => rfl
  | cons x m =>
    simp only [mapWfFrom, Bool.and_eq_true, decide_eq_true_eq] at h
    unfold mapGet
    rw [if_neg (by omega), if_pos (by omega)]

/-- A read after a write: the value written at its own key, what was there everywhere else. -/
theorem mapGet_put {β : Type} [DecidableEq β] (d : Nat → β) (m : List (Nat × β)) (lo k j : Nat) (v : β) (h : mapWfFrom d lo m = true) :
    mapGet d (mapPut d m k v) j = if j = k then v else mapGet d m j := by
  induction m generalizing lo with
  | nil =>
    unfold mapPut
    split
    · rename_i hv
      subst hv
      split
      · subst j; rfl
      · rfl
    · simp only [mapGet]
      split <;> simp_all
  | cons x m ih =>
    obtain ⟨a, w⟩ := x
    simp only [mapWfFrom, Bool.and_eq_true, decide_eq_true_eq] at h
    obtain ⟨⟨h1, h2⟩, h3⟩ := h
    unfold mapPut
    split
    · subst k
      split
      · rename_i hv
        by_cases hj : j = a
        · subst j
          rw [if_pos rfl, mapGet_below d m (a + 1) a (by omega) h3, hv]
        · rw [if_neg hj]
          simp only [mapGet, if_neg hj]
          split
          · exact mapGet_below d m (a + 1) j (by omega) h3
          · rfl
      · simp only [mapGet]
        split <;> simp_all
    · split
      · split
        · rename_i h4 h5 h6
          split
          · subst j
            rw [h6]
            simp only [mapGet, if_neg h4, if_pos h5]
          · rfl
        · rename_i h4 h5 h6
          by_cases hj : j = k
          · subst j
            simp [mapGet]
          · simp only [mapGet, if_neg hj]
            split
            · rename_i h7
              rw [if_neg (by omega), if_pos (by omega)]
            · rfl
      · rename_i h4 h5
        by_cases hj : j = k
        · subst j
          simp only [mapGet, if_neg h4, if_neg h5, if_true]
          rw [ih _ h3]
          simp
        · simp only [mapGet]
          rw [ih _ h3, if_neg hj]
          split
          · simp
          · split <;> simp [hj]

/-! Memory. -/

theorem memWf_put {m : List Host.Cell} (a : Nat) (b : Byte) (h : memWf m = true) : memWf (memPut m a b) = true := mapWf_put a b h

theorem memWf_filter {m : List Host.Cell} (f : Host.Cell → Bool) (h : memWf m = true) : memWf (m.filter f) = true := mapWfFrom_filter _ f m 0 h

theorem memGet_put {m : List Host.Cell} (h : memWf m = true) (a j : Nat) (b : Byte) : memGet (memPut m a b) j = if j = a then b else memGet m j :=
  mapGet_put memDefault m 0 a j b h

theorem memWf_foldl {α : Type} (f : List Host.Cell → α → List Host.Cell) (hf : ∀ m x, memWf m = true → memWf (f m x) = true) (l : List α) {m : List Host.Cell} (h : memWf m = true) :
    memWf (l.foldl f m) = true := by
  induction l generalizing m with
  | nil => exact h
  | cons x l ih => exact ih (hf m x h)

theorem memPutBytes_fold (bs : List Byte) (p : List Host.Cell × Nat) (h : memWf p.1 = true) :
    memWf (bs.foldl (fun acc b => (memPut acc.1 acc.2 b, acc.2 + 1)) p).1 = true := by
  induction bs generalizing p with
  | nil => exact h
  | cons b bs ih => exact ih _ (memWf_put _ _ h)

/-- A run of bytes written keeps the canonical form. -/
theorem memWf_putBytes {m : List Host.Cell} (a : Nat) (bs : List Byte) (h : memWf m = true) : memWf (memPutBytes m a bs) = true := memPutBytes_fold bs (m, a) h

/-- A run of bytes written, some left as they are, keeps the canonical form. -/
theorem memWf_putSome {m : List Host.Cell} (a : Nat) (bs : List (Option Byte)) (h : memWf m = true) : memWf (memPutSome m a bs) = true := by
  have hf : ∀ p : List Host.Cell × Nat, memWf p.1 = true → memWf (bs.foldl (fun acc b => (match b with | some v => memPut acc.1 acc.2 v | none => acc.1, acc.2 + 1)) p).1 = true := by
    induction bs with
    | nil => exact fun _ h => h
    | cons b bs ih =>
      intro p hp
      refine ih _ ?_
      cases b with
      | none => exact hp
      | some v => exact memWf_put _ _ hp
  exact hf (m, a) h

theorem memPutBytes_cons (m : List Host.Cell) (a : Nat) (b : Byte) (bs : List Byte) : memPutBytes m a (b :: bs) = memPutBytes (memPut m a b) (a + 1) bs := rfl

/-- What a byte of memory reads as after a run of bytes is written. -/
theorem memGet_putBytes (bs : List Byte) {m : List Host.Cell} (h : memWf m = true) (a j : Nat) :
    memGet (memPutBytes m a bs) j = if a ≤ j ∧ j < a + bs.length then nth bs (j - a) 0#8 else memGet m j := by
  induction bs generalizing m a with
  | nil =>
    rw [if_neg (by simp)]
    rfl
  | cons b bs ih =>
    rw [memPutBytes_cons, ih (memWf_put a b h), memGet_put h]
    by_cases h1 : j = a
    · subst j
      rw [if_neg (by omega), if_pos rfl, if_pos (by simp only [List.length_cons]; omega), Nat.sub_self]
      rfl
    · by_cases h2 : a + 1 ≤ j ∧ j < a + 1 + bs.length
      · rw [if_pos h2, if_pos (by simp only [List.length_cons]; omega)]
        obtain ⟨k, hk⟩ : ∃ k, j - a = k + 1 := ⟨j - a - 1, by omega⟩
        rw [hk, show j - (a + 1) = k by omega]
        rfl
      · rw [if_neg h2, if_neg h1, if_neg (by simp only [List.length_cons]; omega)]

end Sys2Proof.Machine
end

