-- ==== Sys2Proof/Laws/Frame.lean ====
section
/-! SUPPORT. What the shared operations leave as it is: entries of lists by number, the flight recorder, conditions, doorbells. -/
namespace Sys2Proof.Machine

theorem State.updCtx_ctx {s : State} {cc : Nat} {f : Context → Context} (h : cc < s.ctxs.length) : (s.updCtx cc f).ctx cc = f (s.ctx cc) := nth_modAt_same _ _ _ _ h
theorem State.flight_ctxs (s : State) (a b c d : Nat) (e) : (s.flight a b c d e).ctxs = s.ctxs := by
  unfold State.flight; split
  · unfold State.odInc State.odAdd; split <;> rfl
  · rfl
theorem State.flight_ctx (s : State) (a b c d : Nat) (e) (cc) : (s.flight a b c d e).ctx cc = s.ctx cc := by
  unfold State.ctx; rw [State.flight_ctxs]
theorem State.flight_mem (s : State) (a b c d : Nat) (e) : (s.flight a b c d e).mem = s.mem := by
  unfold State.flight; split
  · unfold State.odInc State.odAdd; split <;> rfl
  · rfl
theorem State.flight_parts (s : State) (a b c d : Nat) (e) : (s.flight a b c d e).parts = s.parts := by
  unfold State.flight; split
  · unfold State.odInc State.odAdd; split <;> rfl
  · rfl
theorem State.setCond_ctx {s : State} {cc : Nat} {c : Cond} (h : cc < s.ctxs.length) : ∃ a b, (s.setCond cc c).ctx cc = { s.ctx cc with cond := c, since := a, blockedAt := b } := by
  unfold State.setCond
  dsimp only
  split
  · next h' => exact ⟨_, _, by rw [← h']⟩
  · refine ⟨s.now, if c = .blocked then s.now else 0, ?_⟩
    rw [State.flight_ctx, State.updCtx_ctx h]
theorem State.setCond_mem {s : State} {cc : Nat} {c : Cond} : (s.setCond cc c).mem = s.mem := by
  unfold State.setCond
  dsimp only
  split
  · rfl
  · rw [State.flight_mem]; rfl
theorem State.preempt_keeps (s : State) (cc : Nat) : (s.preempt cc).ctxs = s.ctxs ∧ (s.preempt cc).mem = s.mem := by
  unfold State.preempt
  split
  · have : ∀ (l : List Nat) (t : State), t.ctxs = s.ctxs ∧ t.mem = s.mem → (l.foldl (fun t n =>
      let c := t.core n
      if n < 384 && c.exec.isSome && c.cur != cc && decide (t.prio c.cur < t.prio cc) && t.partOfCore n == t.partOfCtx cc then t.updCore n fun y => { y with st := .stopping } else t) t).ctxs = s.ctxs ∧ (l.foldl (fun t n =>
      let c := t.core n
      if n < 384 && c.exec.isSome && c.cur != cc && decide (t.prio c.cur < t.prio cc) && t.partOfCore n == t.partOfCtx cc then t.updCore n fun y => { y with st := .stopping } else t) t).mem = s.mem := by
      intro l
      induction l with
      | nil => exact fun t h => h
      | cons a l ih =>
        intro t h
        rw [List.foldl_cons]
        apply ih
        dsimp only
        split
        · exact h
        · exact h
    exact this _ s ⟨rfl, rfl⟩
  · exact ⟨rfl, rfl⟩
theorem State.flight_pwr (s : State) (a b c d : Nat) (e) : (s.flight a b c d e).pwr = s.pwr := by
  unfold State.flight; split
  · unfold State.odInc State.odAdd; split <;> rfl
  · rfl
theorem State.recordLimited_ctxs (s : State) (r k) : (s.recordLimited r k).ctxs = s.ctxs := by
  have raw : ∀ (t : State) q, (t.recordRaw q).ctxs = t.ctxs := by
    intro t q
    unfold State.recordRaw
    dsimp only
    have m : ∀ (t : State) v, (t.msix v).ctxs = t.ctxs := by
      intro t v; unfold State.msix State.emit; split
      · rfl
      · split <;> rfl
    split <;> first | rw [m, State.flight_ctxs] | rw [State.flight_ctxs]
  have ev : ∀ (t : State) q, (t.queueEvent q).1.ctxs = t.ctxs := by
    intro t q
    have sm : ∀ (t : State) a b c, (t.sendMgmt a b c).ctxs = t.ctxs := by
      intro t a b c; unfold State.sendMgmt State.emit; split <;> rfl
    unfold State.queueEvent
    dsimp only
    split
    · rfl
    · split
      · rw [sm]
      · split
        · rw [sm]
        · rfl
  unfold State.recordLimited
  split
  · split
    · rfl
    · dsimp only; rw [ev]; exact raw _ _
  · dsimp only; rw [ev]; exact raw _ _
theorem State.odInc_ctxs (s : State) (a b) : (s.odInc a b).ctxs = s.ctxs := by
  unfold State.odInc State.odAdd; split <;> rfl

/-- Two states with the same memory and the same contexts. -/
structure Quiet (s t : State) : Prop where
  mem : t.mem = s.mem
  ctxs : t.ctxs = s.ctxs

theorem Quiet.refl (s : State) : Quiet s s := ⟨rfl, rfl⟩

theorem Quiet.trans {s t u : State} (h : Quiet s t) (k : Quiet t u) : Quiet s u := ⟨k.mem.trans h.mem, k.ctxs.trans h.ctxs⟩

theorem quiet_foldl {α : Type} {f : State → α → State} (hf : ∀ s a, Quiet s (f s a)) (l : List α) (s : State) : Quiet s (l.foldl f s) := by
  induction l generalizing s with
  | nil => exact .refl s
  | cons a l ih => exact (hf s a).trans (ih _)

theorem State.odAdd_quiet (s : State) (ix sub n : Nat) : Quiet s (s.odAdd ix sub n) := by
  unfold State.odAdd
  split
  · exact ⟨rfl, rfl⟩
  · exact .refl s

theorem State.odInc_quiet (s : State) (ix sub : Nat) : Quiet s (s.odInc ix sub) := s.odAdd_quiet ix sub 1

theorem State.passArb_quiet (s : State) (dom k inst : Nat) (part : Option Nat) (units : Nat) : Quiet s (s.passArb dom k inst part units) := ⟨rfl, rfl⟩

theorem State.crossMesh_quiet (s : State) (a b : Nat) (part : Option Nat) (n : Nat) : Quiet s (s.crossMesh a b part n) :=
  quiet_foldl (fun t i => t.passArb_quiet _ _ i _ _) _ _

/-- What an access does to the arbiters on its way changes no byte and no context. -/
theorem State.cross_quiet (s : State) (w : Who) (write : Bool) (a n : Nat) : Quiet s (s.cross w write a n) := by
  have h1 : Quiet s (if write then s.crossMesh w.die (s.dieOf a) w.part n else (s.crossMesh w.die (s.dieOf a) w.part 0).crossMesh (s.dieOf a) w.die w.part n) := by
    split
    · exact s.crossMesh_quiet _ _ _ _
    · exact (s.crossMesh_quiet _ _ _ _).trans (State.crossMesh_quiet _ _ _ _ _)
  unfold State.cross
  dsimp only
  generalize (if write then s.crossMesh w.die (s.dieOf a) w.part n else (s.crossMesh w.die (s.dieOf a) w.part 0).crossMesh (s.dieOf a) w.die w.part n) = t at h1 ⊢
  have h2 : Quiet s (match region a with
      | 0x00 => t.passArb (s.dieOf a) 0 (s.dieOf a) w.part (ceilDiv n 32)
      | 0x01 => t.passArb (s.dieOf a) 4 (cellarPackage (offset a)) w.part (ceilDiv n 32)
      | _ => t) := by
    split
    · exact h1.trans (t.passArb_quiet _ _ _ _ _)
    · exact h1.trans (t.passArb_quiet _ _ _ _ _)
    · exact h1
  split
  · exact h2.trans (State.passArb_quiet _ _ _ _ _ _)
  · exact h2

theorem State.serve_quiet (s : State) (o : Nat) (part : Option Nat) : Quiet s (s.serve o part) := ⟨rfl, rfl⟩

theorem State.dropStale_quiet (s : State) (o : Nat) : Quiet s (s.dropStale o) := ⟨rfl, rfl⟩

theorem State.freshSector_quiet (s : State) (o : Nat) : Quiet s (s.freshSector o) := ⟨rfl, rfl⟩

theorem State.cleanCopy_quiet (s : State) (o : Nat) : Quiet s (s.cleanCopy o) := ⟨rfl, rfl⟩

theorem State.keepStale_quiet (s : State) (o : Nat) : Quiet s (s.keepStale o) := by
  unfold State.keepStale
  dsimp only
  split
  · exact .refl s
  · exact ⟨rfl, rfl⟩

theorem State.touchLine_quiet (s : State) (d line hint : Nat) : Quiet s (s.touchLine d line hint) := by
  unfold State.touchLine
  dsimp only
  split
  · exact .refl s
  · exact ⟨rfl, rfl⟩

theorem State.updLine_quiet (s : State) (d line : Nat) (f : LarderLine → LarderLine) : Quiet s (s.updLine d line f) := ⟨rfl, rfl⟩

theorem State.writeBack_quiet (s : State) (x : LarderLine) : Quiet s (s.writeBack x) := by
  unfold State.writeBack
  refine quiet_foldl (fun t e => ?_) _ _
  split
  · exact (t.dropStale_quiet e.1).trans ((State.freshSector_quiet _ _).trans (State.serve_quiet _ _ _))
  · exact .refl t

theorem State.evict_quiet (s : State) (x : LarderLine) : Quiet s (s.evict x) := by
  have h := (s.writeBack_quiet x).trans (quiet_foldl (fun t o => t.cleanCopy_quiet o) (s.lineSectors x) (s.writeBack x))
  exact ⟨h.mem, h.ctxs⟩

theorem State.allocate_quiet {s t : State} {o : Nat} {part : Option Nat} {keep : Bool} {secs : List SectorSt} (h : s.allocate o part keep secs = some t) : Quiet s t := by
  unfold State.allocate at h
  dsimp only at h
  split at h
  · cases h
  · rename_i old _
    cases h
    cases old with
    | none => exact ⟨rfl, rfl⟩
    | some x => exact ⟨(s.evict_quiet x).mem, (s.evict_quiet x).ctxs⟩

theorem State.fetchHbm_quiet (s : State) (o : Nat) (part : Option Nat) : Quiet s (s.fetchHbm o part) := by
  have h := s.serve_quiet o part
  unfold State.fetchHbm
  dsimp only
  generalize s.serve o part = t at h ⊢
  split
  · exact h.trans ((⟨rfl, rfl⟩ : Quiet t (t.withHbm fun x => { x with weak := x.weak.filter (· != o / 32) })).trans (State.odInc_quiet _ _ _))
  · exact h

theorem State.checkCopy_quiet (s : State) (o : Nat) (st : SectorSt) (part : Option Nat) : Quiet s (s.checkCopy o st part) := by
  unfold State.checkCopy
  split
  · exact (s.cleanCopy_quiet o).trans (State.odInc_quiet _ _ _)
  · split
    · exact (s.fetchHbm_quiet o part).trans ((State.cleanCopy_quiet _ _).trans (State.odInc_quiet _ _ _))
    · exact .refl s

theorem State.writeHbm_quiet (s : State) (o : Nat) (full : Bool) (part : Option Nat) : Quiet s (s.writeHbm o full part) := by
  unfold State.writeHbm
  split
  · exact (s.freshSector_quiet o).trans (State.serve_quiet _ _ _)
  · exact (s.fetchHbm_quiet o part).trans (State.serve_quiet _ _ _)

/-- A write of a sector changes what the Larder holds, and no byte. -/
theorem State.writeSector_quiet (s : State) (o hint : Nat) (full : Bool) (part : Option Nat) : Quiet s (s.writeSector o hint full part) := by
  have dirty : ∀ (t : State) (d l i : Nat), Quiet t (((t.keepStale o).updLine d l fun y => { y with sectors := modAt y.sectors i fun _ => .dirty }).touchLine d l hint) :=
    fun t d l i => (t.keepStale_quiet o).trans ((State.updLine_quiet _ _ _ _).trans (State.touchLine_quiet _ _ _ _))
  have inc : ∀ n, Quiet s (s.odInc (0x3010 + s.homeDie o) n) := fun n => s.odInc_quiet _ n
  unfold State.writeSector
  dsimp only
  split
  · split
    · refine (inc 7).trans (Quiet.trans ?_ (dirty _ _ _ _))
      split
      · exact State.cleanCopy_quiet _ _
      · exact State.checkCopy_quiet _ _ _ _
    · split
      · exact (inc 8).trans (State.writeHbm_quiet _ _ _ _)
      · refine (inc 8).trans (Quiet.trans ?_ (dirty _ _ _ _))
        split
        · exact .refl _
        · exact State.fetchHbm_quiet _ _ _
  · split
    · exact (inc 8).trans (State.writeHbm_quiet _ _ _ _)
    · split
      · rename_i h
        refine (inc 8).trans ((State.allocate_quiet h).trans (Quiet.trans ?_ (State.keepStale_quiet _ _)))
        split
        · exact .refl _
        · exact State.fetchHbm_quiet _ _ _
      · exact (inc 8).trans (State.writeHbm_quiet _ _ _ _)

theorem State.charge_quiet (s : State) (w : Who) (dom r inst n : Nat) : Quiet s (s.charge w dom r inst n) := by
  have h1 : ∀ t : State, Quiet t (match w.part with
      | some p => t.odAdd (0x6000 + p) (r + 1) n
      | none => t.odAdd 0x6010 (r + 1) n) := by
    intro t
    split <;> exact t.odAdd_quiet _ _ _
  have h2 : ∀ t : State, Quiet t (match w.ctx with
      | some cc => t.odAdd (0x6300 + cc) 4 n
      | none => t) := by
    intro t
    split
    · exact t.odAdd_quiet _ _ _
    · exact .refl t
  have h := (h1 s).trans (h2 _)
  unfold State.charge
  exact ⟨h.mem, h.ctxs⟩

theorem State.backInvalidate_quiet (s : State) (write : Bool) (a n : Nat) : Quiet s (s.backInvalidate write a n) := by
  have h : ∀ l : List Nat, Quiet s (l.foldl (fun (x : State) l => x.emit (.snoop l write)) s) := fun l => quiet_foldl (f := fun (x : State) l => x.emit (.snoop l write)) (fun _ _ => ⟨rfl, rfl⟩) l s
  unfold State.backInvalidate
  split
  · exact .refl s
  · dsimp only
    split
    · exact ⟨(h _).mem, (h _).ctxs⟩
    · exact h _

theorem State.readCellar_quiet (s : State) (a : Nat) : Quiet s (s.readCellar a) := by
  unfold State.readCellar
  split
  · exact (⟨rfl, rfl⟩ : Quiet s (s.withHbm fun h => { h with weak := h.weak.filter (· != a / 32) })).trans (State.odInc_quiet _ _ _)
  · exact .refl s

theorem State.passSector_quiet (s : State) (w : Who) (hint dom r inst : Nat) (full : Bool) (a : Nat) : Quiet s (s.passSector w hint dom r inst full a) := by
  have h := s.cross_quiet w true a 32
  unfold State.passSector
  dsimp only
  split
  · exact h.trans ((State.writeSector_quiet _ _ _ _ _).trans (State.charge_quiet _ _ _ _ _ _))
  · split
    · exact h
    · exact h.trans (State.readCellar_quiet _ _)

theorem State.passWrite_quiet (s : State) (w : Who) (hint a n : Nat) (l : List Nat) (full : Nat → Bool) : Quiet s (s.passWrite w hint a n l full) := by
  have h : ∀ dom r inst, Quiet s (l.foldl (fun (t : State) x => t.passSector w hint dom r inst (full x) x) s) := fun _ _ _ => quiet_foldl (fun _ _ => State.passSector_quiet _ _ _ _ _ _ _ _) l s
  unfold State.passWrite
  split
  · exact s.cross_quiet _ _ _ _
  · split
    · exact h _ _ _
    · split
      · exact (h _ _ _).trans (State.charge_quiet _ _ _ _ _ _)
      · exact (s.cross_quiet _ _ _ _).trans (State.charge_quiet _ _ _ _ _ _)

theorem State.healed_quiet (s : State) (a n : Nat) : Quiet s (s.healed a n) := by
  unfold State.healed
  split
  · exact .refl s
  · split
    · exact ⟨rfl, rfl⟩
    · exact ⟨rfl, rfl⟩

/-- A store writes its bytes into memory, whatever it does to the Larder, the charges and the host's lines; no context changes. -/
theorem State.store_mem (s : State) (w : Who) (hint a : Nat) (bs : List Byte) : (s.store w hint a bs).mem = memPutBytes s.mem a bs := by
  have h : Quiet s (((s.backInvalidate true a bs.length).passWrite w hint a bs.length (sectorsOf a bs.length) (covers a bs.length)).healed a bs.length) :=
    (s.backInvalidate_quiet _ _ _).trans ((State.passWrite_quiet _ _ _ _ _ _ _).trans (State.healed_quiet _ _ _))
  unfold State.store
  dsimp only
  rw [h.mem]

theorem State.store_ctxs (s : State) (w : Who) (hint a : Nat) (bs : List Byte) : (s.store w hint a bs).ctxs = s.ctxs :=
  ((s.backInvalidate_quiet _ _ _).trans ((State.passWrite_quiet _ _ _ _ _ _ _).trans (State.healed_quiet _ _ _))).ctxs

/-- A counter changes the object dictionary only. -/
theorem State.odAdd_eq (s : State) (ix sub n : Nat) : ∃ od, s.odAdd ix sub n = { s with od := od } := by
  unfold State.odAdd
  split
  · exact ⟨_, rfl⟩
  · exact ⟨s.od, rfl⟩

/-- The passing of time changes counters, cores and the clock only. -/
theorem State.advance_eq (s : State) (t : Nat) : ∃ od cores time, s.advance t = { s with od := od, cores := cores, time := time } := by
  unfold State.advance
  split
  · exact ⟨s.od, s.cores, s.time, rfl⟩
  · dsimp only
    have h : ∀ (f : State → Core × Nat → State), (∀ u x, ∃ od, f u x = { u with od := od }) → ∀ (l : List (Core × Nat)) (u : State), ∃ od, l.foldl f u = { u with od := od } := by
      intro f hf l
      induction l with
      | nil => exact fun u => ⟨u.od, rfl⟩
      | cons a l ih =>
        intro u
        obtain ⟨o, ho⟩ := hf u a
        obtain ⟨o2, ho2⟩ := ih (f u a)
        rw [List.foldl_cons, ho2, ho]
        exact ⟨o2, rfl⟩
    generalize hf : List.foldl _ s s.cores.zipIdx = u
    obtain ⟨o, ho⟩ : ∃ o, u = { s with od := o } := by
      rw [← hf]
      apply h
      intro v x
      split
      · split
        · exact ⟨v.od, rfl⟩
        · exact State.odAdd_eq _ _ _ _
      · exact ⟨v.od, rfl⟩
    subst ho
    exact ⟨o, _, _, rfl⟩

/-- Two states with the same supply state and the same queue of commands. -/
structure Calm (s t : State) : Prop where
  pwr : t.pwr = s.pwr
  pending : t.pending = s.pending

theorem Calm.refl (s : State) : Calm s s := ⟨rfl, rfl⟩

theorem Calm.trans {s t u : State} (h : Calm s t) (k : Calm t u) : Calm s u := ⟨k.pwr.trans h.pwr, k.pending.trans h.pending⟩

theorem calm_foldl {α : Type} {f : State → α → State} (hf : ∀ s a, Calm s (f s a)) (l : List α) (s : State) : Calm s (l.foldl f s) := by
  induction l generalizing s with
  | nil => exact .refl s
  | cons a l ih => exact (hf s a).trans (ih _)

theorem State.odAdd_calm (s : State) (ix sub n : Nat) : Calm s (s.odAdd ix sub n) := by
  obtain ⟨o, h⟩ := s.odAdd_eq ix sub n
  rw [h]; exact ⟨rfl, rfl⟩

theorem State.flight_calm (s : State) (a b c d : Nat) (e) : Calm s (s.flight a b c d e) := by
  unfold State.flight
  split
  · exact s.odAdd_calm 0x8200 3 1
  · exact ⟨rfl, rfl⟩

theorem State.msix_calm (s : State) (v : Nat) : Calm s (s.msix v) := by
  unfold State.msix State.emit
  split
  · exact ⟨rfl, rfl⟩
  · split <;> exact ⟨rfl, rfl⟩

theorem State.recordRaw_calm (s : State) (r : FaultRec) : Calm s (s.recordRaw r) := by
  unfold State.recordRaw
  dsimp only
  split
  all_goals
    try refine Calm.trans ?_ (State.msix_calm _ _)
    refine Calm.trans ?_ (State.flight_calm _ _ _ _ _ _)
    exact ⟨rfl, rfl⟩

theorem State.queueEvent_calm (s : State) (r : FaultRec) : Calm s (s.queueEvent r).1 := by
  have h : ∀ (u : State) a b c, u.pwr = s.pwr → u.pending = s.pending → Calm s (u.sendMgmt a b c) := by
    intro u a b c h1 h2
    unfold State.sendMgmt State.emit
    split <;> exact ⟨h1, h2⟩
  unfold State.queueEvent
  dsimp only
  split
  · exact .refl s
  · split
    · exact h _ _ _ _ rfl rfl
    · split
      · exact h _ _ _ _ rfl rfl
      · exact .refl s

theorem State.recordLimited_calm (s : State) (r : FaultRec) (k : Nat) : Calm s (s.recordLimited r k) := by
  unfold State.recordLimited
  split
  · split
    · exact ⟨rfl, rfl⟩
    · dsimp only
      refine Calm.trans ?_ (State.queueEvent_calm _ _)
      exact (State.recordRaw_calm s _).trans ⟨rfl, rfl⟩
  · dsimp only
    refine Calm.trans ?_ (State.queueEvent_calm _ _)
    exact (State.recordRaw_calm s _).trans ⟨rfl, rfl⟩

theorem State.record_calm (s : State) (r : FaultRec) : Calm s (s.record r) := by
  have h := (State.recordRaw_calm s r).trans (State.queueEvent_calm (s.recordRaw r) ((s.recordRaw r).diag.ring.headD r))
  unfold State.record
  dsimp only
  split
  · exact h.trans (State.recordLimited_calm _ _ _)
  · exact h

/-- A fault of a scope that stops nothing. -/
theorem State.raise_calm (s : State) (r : FaultRec) (h : codeScope r.code = .info ∨ codeScope r.code = .degraded ∨ codeScope r.code = .context) : Calm s (s.raise r) := by
  unfold State.raise
  rcases h with h | h | h <;> rw [h] <;> exact State.record_calm s r

theorem State.condemn_calm (s : State) (b : Nat) : Calm s (s.condemn b) := by
  unfold State.condemn State.enqueue
  split <;> exact ⟨rfl, rfl⟩

theorem State.eraseBlock_calm (s : State) (b : Nat) : Calm s (s.eraseBlock b) := by
  unfold State.eraseBlock
  split
  · unfold State.retire
    dsimp only
    split
    · refine Calm.trans ?_ (State.raise_calm _ _ (.inr (.inl rfl)))
      exact ⟨rfl, rfl⟩
    · exact ⟨rfl, rfl⟩
  · exact ⟨rfl, rfl⟩

theorem State.findPage_calm (n k u : Nat) (s : State) : Calm s (State.findPage n s k u).1 := by
  induction n generalizing s with
  | zero => exact .refl s
  | succ n ih =>
    unfold State.findPage
    dsimp only
    split
    · split
      · exact (State.condemn_calm s _).trans (ih _)
      · exact ⟨rfl, rfl⟩
    · split
      · exact .refl s
      · rename_i x _
        refine Calm.trans ?_ (ih _)
        have he : Calm s (if x.pages = 0 then s else s.eraseBlock x.block) := by
          split
          · exact .refl s
          · exact State.eraseBlock_calm s _
        generalize (if x.pages = 0 then s else s.eraseBlock x.block) = t at he ⊢
        split
        · exact he
        · exact he.trans ⟨rfl, rfl⟩

theorem State.placeFrom_calm (u : Nat) (l : List Nat) (s : State) : Calm s (s.placeFrom u l).1 := by
  induction l generalizing s with
  | nil => exact .refl s
  | cons k l ih =>
    have hp : Calm s (s.pageIn k u).1 := State.findPage_calm _ _ _ _
    unfold State.placeFrom
    split <;> rename_i e <;> rw [e] at hp
    · exact hp.trans ⟨rfl, rfl⟩
    · exact hp.trans (ih _)

theorem State.programRecord_calm (s : State) (n : Nat) (r : AtticCrate) : Calm s (s.programRecord n r) := by
  have h : Calm s (if 1 ≤ n && r.units then s.programmed r.bytes else s) := by
    split
    · exact (State.odAdd_calm s _ _ _).trans ⟨rfl, rfl⟩
    · exact .refl s
  unfold State.programRecord
  dsimp only
  split <;> split <;> first | exact h | exact h.trans ⟨rfl, rfl⟩

/-- Cutting off the Attic writes under way changes neither the supply nor the queue. -/
theorem State.cutWrites_calm (s : State) : Calm s s.cutWrites := by
  have h : ∀ (u : State) (w : Who) (c : CmdInst), Calm u (u.cutWrite w c) := by
    intro u w c
    have hp : ∀ {n : Nat} {p : State × Option Nat}, u.placeNext n = p → Calm u p.1 := fun e => e ▸ State.placeFrom_calm _ _ u
    unfold State.cutWrite
    dsimp only
    repeat' split
    all_goals first
      | exact .refl u
      | (rename_i e; exact (hp e).trans (State.programRecord_calm _ _ _))
  unfold State.cutWrites
  exact (calm_foldl (fun t e => h t _ _) _ _).trans (calm_foldl (fun t c => h t _ _) _ _)

end Sys2Proof.Machine
end

