-- ==== Sys2Proof/Laws/State.lean ====
section
/-! SUPPORT. Each update of the state, field by field: the field it changes, and every other as it was. -/
namespace Sys2Proof.Machine

@[simp] theorem State.updCore_pending (s : State) (n : Nat) (f : Core → Core) : (s.updCore n f).pending = s.pending := rfl
@[simp] theorem State.updCore_mem (s : State) (n : Nat) (f : Core → Core) : (s.updCore n f).mem = s.mem := rfl
@[simp] theorem State.updCore_od (s : State) (n : Nat) (f : Core → Core) : (s.updCore n f).od = s.od := rfl
@[simp] theorem State.updCore_nv (s : State) (n : Nat) (f : Core → Core) : (s.updCore n f).nv = s.nv := rfl
@[simp] theorem State.updCore_flash (s : State) (n : Nat) (f : Core → Core) : (s.updCore n f).flash = s.flash := rfl
@[simp] theorem State.updCore_storeFails (s : State) (n : Nat) (f : Core → Core) : (s.updCore n f).storeFails = s.storeFails := rfl
@[simp] theorem State.updCore_time (s : State) (n : Nat) (f : Core → Core) : (s.updCore n f).time = s.time := rfl
@[simp] theorem State.updCore_parts (s : State) (n : Nat) (f : Core → Core) : (s.updCore n f).parts = s.parts := rfl
@[simp] theorem State.updCore_ctxs (s : State) (n : Nat) (f : Core → Core) : (s.updCore n f).ctxs = s.ctxs := rfl
@[simp] theorem State.updCore_cores (s : State) (n : Nat) (f : Core → Core) : (s.updCore n f).cores = modAt s.cores n f := rfl
@[simp] theorem State.updCore_hub (s : State) (n : Nat) (f : Core → Core) : (s.updCore n f).hub = s.hub := rfl
@[simp] theorem State.updCore_lastAccept (s : State) (n : Nat) (f : Core → Core) : (s.updCore n f).lastAccept = s.lastAccept := rfl
@[simp] theorem State.updCore_takers (s : State) (n : Nat) (f : Core → Core) : (s.updCore n f).takers = s.takers := rfl
@[simp] theorem State.updCore_upd (s : State) (n : Nat) (f : Core → Core) : (s.updCore n f).upd = s.upd := rfl
@[simp] theorem State.updCore_groups (s : State) (n : Nat) (f : Core → Core) : (s.updCore n f).groups = s.groups := rfl
@[simp] theorem State.updCore_coll (s : State) (n : Nat) (f : Core → Core) : (s.updCore n f).coll = s.coll := rfl
@[simp] theorem State.updCore_larder (s : State) (n : Nat) (f : Core → Core) : (s.updCore n f).larder = s.larder := rfl
@[simp] theorem State.updCore_hbm (s : State) (n : Nat) (f : Core → Core) : (s.updCore n f).hbm = s.hbm := rfl
@[simp] theorem State.updCore_tier (s : State) (n : Nat) (f : Core → Core) : (s.updCore n f).tier = s.tier := rfl
@[simp] theorem State.updCore_media (s : State) (n : Nat) (f : Core → Core) : (s.updCore n f).media = s.media := rfl
@[simp] theorem State.updCore_links (s : State) (n : Nat) (f : Core → Core) : (s.updCore n f).links = s.links := rfl
@[simp] theorem State.updCore_inbox (s : State) (n : Nat) (f : Core → Core) : (s.updCore n f).inbox = s.inbox := rfl
@[simp] theorem State.updCore_dones (s : State) (n : Nat) (f : Core → Core) : (s.updCore n f).dones = s.dones := rfl
@[simp] theorem State.updCore_nextXfer (s : State) (n : Nat) (f : Core → Core) : (s.updCore n f).nextXfer = s.nextXfer := rfl
@[simp] theorem State.updCore_arbs (s : State) (n : Nat) (f : Core → Core) : (s.updCore n f).arbs = s.arbs := rfl
@[simp] theorem State.updCore_arbPending (s : State) (n : Nat) (f : Core → Core) : (s.updCore n f).arbPending = s.arbPending := rfl
@[simp] theorem State.updCore_arbReqs (s : State) (n : Nat) (f : Core → Core) : (s.updCore n f).arbReqs = s.arbReqs := rfl
@[simp] theorem State.updCore_arbLast (s : State) (n : Nat) (f : Core → Core) : (s.updCore n f).arbLast = s.arbLast := rfl
@[simp] theorem State.updCore_buckets (s : State) (n : Nat) (f : Core → Core) : (s.updCore n f).buckets = s.buckets := rfl
@[simp] theorem State.updCore_charged (s : State) (n : Nat) (f : Core → Core) : (s.updCore n f).charged = s.charged := rfl
@[simp] theorem State.updCore_mgmt (s : State) (n : Nat) (f : Core → Core) : (s.updCore n f).mgmt = s.mgmt := rfl
@[simp] theorem State.updCore_sec (s : State) (n : Nat) (f : Core → Core) : (s.updCore n f).sec = s.sec := rfl
@[simp] theorem State.updCore_diag (s : State) (n : Nat) (f : Core → Core) : (s.updCore n f).diag = s.diag := rfl
@[simp] theorem State.updCore_pwr (s : State) (n : Nat) (f : Core → Core) : (s.updCore n f).pwr = s.pwr := rfl
@[simp] theorem State.updCore_host (s : State) (n : Nat) (f : Core → Core) : (s.updCore n f).host = s.host := rfl
@[simp] theorem State.updCore_draws (s : State) (n : Nat) (f : Core → Core) : (s.updCore n f).draws = s.draws := rfl
@[simp] theorem State.updCore_out (s : State) (n : Nat) (f : Core → Core) : (s.updCore n f).out = s.out := rfl

@[simp] theorem State.updCtx_pending (s : State) (cc : Nat) (f : Context → Context) : (s.updCtx cc f).pending = s.pending := rfl
@[simp] theorem State.updCtx_mem (s : State) (cc : Nat) (f : Context → Context) : (s.updCtx cc f).mem = s.mem := rfl
@[simp] theorem State.updCtx_od (s : State) (cc : Nat) (f : Context → Context) : (s.updCtx cc f).od = s.od := rfl
@[simp] theorem State.updCtx_nv (s : State) (cc : Nat) (f : Context → Context) : (s.updCtx cc f).nv = s.nv := rfl
@[simp] theorem State.updCtx_flash (s : State) (cc : Nat) (f : Context → Context) : (s.updCtx cc f).flash = s.flash := rfl
@[simp] theorem State.updCtx_storeFails (s : State) (cc : Nat) (f : Context → Context) : (s.updCtx cc f).storeFails = s.storeFails := rfl
@[simp] theorem State.updCtx_time (s : State) (cc : Nat) (f : Context → Context) : (s.updCtx cc f).time = s.time := rfl
@[simp] theorem State.updCtx_parts (s : State) (cc : Nat) (f : Context → Context) : (s.updCtx cc f).parts = s.parts := rfl
@[simp] theorem State.updCtx_ctxs (s : State) (cc : Nat) (f : Context → Context) : (s.updCtx cc f).ctxs = modAt s.ctxs cc f := rfl
@[simp] theorem State.updCtx_cores (s : State) (cc : Nat) (f : Context → Context) : (s.updCtx cc f).cores = s.cores := rfl
@[simp] theorem State.updCtx_hub (s : State) (cc : Nat) (f : Context → Context) : (s.updCtx cc f).hub = s.hub := rfl
@[simp] theorem State.updCtx_lastAccept (s : State) (cc : Nat) (f : Context → Context) : (s.updCtx cc f).lastAccept = s.lastAccept := rfl
@[simp] theorem State.updCtx_takers (s : State) (cc : Nat) (f : Context → Context) : (s.updCtx cc f).takers = s.takers := rfl
@[simp] theorem State.updCtx_upd (s : State) (cc : Nat) (f : Context → Context) : (s.updCtx cc f).upd = s.upd := rfl
@[simp] theorem State.updCtx_groups (s : State) (cc : Nat) (f : Context → Context) : (s.updCtx cc f).groups = s.groups := rfl
@[simp] theorem State.updCtx_coll (s : State) (cc : Nat) (f : Context → Context) : (s.updCtx cc f).coll = s.coll := rfl
@[simp] theorem State.updCtx_larder (s : State) (cc : Nat) (f : Context → Context) : (s.updCtx cc f).larder = s.larder := rfl
@[simp] theorem State.updCtx_hbm (s : State) (cc : Nat) (f : Context → Context) : (s.updCtx cc f).hbm = s.hbm := rfl
@[simp] theorem State.updCtx_tier (s : State) (cc : Nat) (f : Context → Context) : (s.updCtx cc f).tier = s.tier := rfl
@[simp] theorem State.updCtx_media (s : State) (cc : Nat) (f : Context → Context) : (s.updCtx cc f).media = s.media := rfl
@[simp] theorem State.updCtx_links (s : State) (cc : Nat) (f : Context → Context) : (s.updCtx cc f).links = s.links := rfl
@[simp] theorem State.updCtx_inbox (s : State) (cc : Nat) (f : Context → Context) : (s.updCtx cc f).inbox = s.inbox := rfl
@[simp] theorem State.updCtx_dones (s : State) (cc : Nat) (f : Context → Context) : (s.updCtx cc f).dones = s.dones := rfl
@[simp] theorem State.updCtx_nextXfer (s : State) (cc : Nat) (f : Context → Context) : (s.updCtx cc f).nextXfer = s.nextXfer := rfl
@[simp] theorem State.updCtx_arbs (s : State) (cc : Nat) (f : Context → Context) : (s.updCtx cc f).arbs = s.arbs := rfl
@[simp] theorem State.updCtx_arbPending (s : State) (cc : Nat) (f : Context → Context) : (s.updCtx cc f).arbPending = s.arbPending := rfl
@[simp] theorem State.updCtx_arbReqs (s : State) (cc : Nat) (f : Context → Context) : (s.updCtx cc f).arbReqs = s.arbReqs := rfl
@[simp] theorem State.updCtx_arbLast (s : State) (cc : Nat) (f : Context → Context) : (s.updCtx cc f).arbLast = s.arbLast := rfl
@[simp] theorem State.updCtx_buckets (s : State) (cc : Nat) (f : Context → Context) : (s.updCtx cc f).buckets = s.buckets := rfl
@[simp] theorem State.updCtx_charged (s : State) (cc : Nat) (f : Context → Context) : (s.updCtx cc f).charged = s.charged := rfl
@[simp] theorem State.updCtx_mgmt (s : State) (cc : Nat) (f : Context → Context) : (s.updCtx cc f).mgmt = s.mgmt := rfl
@[simp] theorem State.updCtx_sec (s : State) (cc : Nat) (f : Context → Context) : (s.updCtx cc f).sec = s.sec := rfl
@[simp] theorem State.updCtx_diag (s : State) (cc : Nat) (f : Context → Context) : (s.updCtx cc f).diag = s.diag := rfl
@[simp] theorem State.updCtx_pwr (s : State) (cc : Nat) (f : Context → Context) : (s.updCtx cc f).pwr = s.pwr := rfl
@[simp] theorem State.updCtx_host (s : State) (cc : Nat) (f : Context → Context) : (s.updCtx cc f).host = s.host := rfl
@[simp] theorem State.updCtx_draws (s : State) (cc : Nat) (f : Context → Context) : (s.updCtx cc f).draws = s.draws := rfl
@[simp] theorem State.updCtx_out (s : State) (cc : Nat) (f : Context → Context) : (s.updCtx cc f).out = s.out := rfl

@[simp] theorem State.updPart_pending (s : State) (p : Nat) (f : Partition → Partition) : (s.updPart p f).pending = s.pending := rfl
@[simp] theorem State.updPart_mem (s : State) (p : Nat) (f : Partition → Partition) : (s.updPart p f).mem = s.mem := rfl
@[simp] theorem State.updPart_od (s : State) (p : Nat) (f : Partition → Partition) : (s.updPart p f).od = s.od := rfl
@[simp] theorem State.updPart_nv (s : State) (p : Nat) (f : Partition → Partition) : (s.updPart p f).nv = s.nv := rfl
@[simp] theorem State.updPart_flash (s : State) (p : Nat) (f : Partition → Partition) : (s.updPart p f).flash = s.flash := rfl
@[simp] theorem State.updPart_storeFails (s : State) (p : Nat) (f : Partition → Partition) : (s.updPart p f).storeFails = s.storeFails := rfl
@[simp] theorem State.updPart_time (s : State) (p : Nat) (f : Partition → Partition) : (s.updPart p f).time = s.time := rfl
@[simp] theorem State.updPart_parts (s : State) (p : Nat) (f : Partition → Partition) : (s.updPart p f).parts = modAt s.parts p f := rfl
@[simp] theorem State.updPart_ctxs (s : State) (p : Nat) (f : Partition → Partition) : (s.updPart p f).ctxs = s.ctxs := rfl
@[simp] theorem State.updPart_cores (s : State) (p : Nat) (f : Partition → Partition) : (s.updPart p f).cores = s.cores := rfl
@[simp] theorem State.updPart_hub (s : State) (p : Nat) (f : Partition → Partition) : (s.updPart p f).hub = s.hub := rfl
@[simp] theorem State.updPart_lastAccept (s : State) (p : Nat) (f : Partition → Partition) : (s.updPart p f).lastAccept = s.lastAccept := rfl
@[simp] theorem State.updPart_takers (s : State) (p : Nat) (f : Partition → Partition) : (s.updPart p f).takers = s.takers := rfl
@[simp] theorem State.updPart_upd (s : State) (p : Nat) (f : Partition → Partition) : (s.updPart p f).upd = s.upd := rfl
@[simp] theorem State.updPart_groups (s : State) (p : Nat) (f : Partition → Partition) : (s.updPart p f).groups = s.groups := rfl
@[simp] theorem State.updPart_coll (s : State) (p : Nat) (f : Partition → Partition) : (s.updPart p f).coll = s.coll := rfl
@[simp] theorem State.updPart_larder (s : State) (p : Nat) (f : Partition → Partition) : (s.updPart p f).larder = s.larder := rfl
@[simp] theorem State.updPart_hbm (s : State) (p : Nat) (f : Partition → Partition) : (s.updPart p f).hbm = s.hbm := rfl
@[simp] theorem State.updPart_tier (s : State) (p : Nat) (f : Partition → Partition) : (s.updPart p f).tier = s.tier := rfl
@[simp] theorem State.updPart_media (s : State) (p : Nat) (f : Partition → Partition) : (s.updPart p f).media = s.media := rfl
@[simp] theorem State.updPart_links (s : State) (p : Nat) (f : Partition → Partition) : (s.updPart p f).links = s.links := rfl
@[simp] theorem State.updPart_inbox (s : State) (p : Nat) (f : Partition → Partition) : (s.updPart p f).inbox = s.inbox := rfl
@[simp] theorem State.updPart_dones (s : State) (p : Nat) (f : Partition → Partition) : (s.updPart p f).dones = s.dones := rfl
@[simp] theorem State.updPart_nextXfer (s : State) (p : Nat) (f : Partition → Partition) : (s.updPart p f).nextXfer = s.nextXfer := rfl
@[simp] theorem State.updPart_arbs (s : State) (p : Nat) (f : Partition → Partition) : (s.updPart p f).arbs = s.arbs := rfl
@[simp] theorem State.updPart_arbPending (s : State) (p : Nat) (f : Partition → Partition) : (s.updPart p f).arbPending = s.arbPending := rfl
@[simp] theorem State.updPart_arbReqs (s : State) (p : Nat) (f : Partition → Partition) : (s.updPart p f).arbReqs = s.arbReqs := rfl
@[simp] theorem State.updPart_arbLast (s : State) (p : Nat) (f : Partition → Partition) : (s.updPart p f).arbLast = s.arbLast := rfl
@[simp] theorem State.updPart_buckets (s : State) (p : Nat) (f : Partition → Partition) : (s.updPart p f).buckets = s.buckets := rfl
@[simp] theorem State.updPart_charged (s : State) (p : Nat) (f : Partition → Partition) : (s.updPart p f).charged = s.charged := rfl
@[simp] theorem State.updPart_mgmt (s : State) (p : Nat) (f : Partition → Partition) : (s.updPart p f).mgmt = s.mgmt := rfl
@[simp] theorem State.updPart_sec (s : State) (p : Nat) (f : Partition → Partition) : (s.updPart p f).sec = s.sec := rfl
@[simp] theorem State.updPart_diag (s : State) (p : Nat) (f : Partition → Partition) : (s.updPart p f).diag = s.diag := rfl
@[simp] theorem State.updPart_pwr (s : State) (p : Nat) (f : Partition → Partition) : (s.updPart p f).pwr = s.pwr := rfl
@[simp] theorem State.updPart_host (s : State) (p : Nat) (f : Partition → Partition) : (s.updPart p f).host = s.host := rfl
@[simp] theorem State.updPart_draws (s : State) (p : Nat) (f : Partition → Partition) : (s.updPart p f).draws = s.draws := rfl
@[simp] theorem State.updPart_out (s : State) (p : Nat) (f : Partition → Partition) : (s.updPart p f).out = s.out := rfl

@[simp] theorem State.updLink_pending (s : State) (l : Nat) (f : Link → Link) : (s.updLink l f).pending = s.pending := rfl
@[simp] theorem State.updLink_mem (s : State) (l : Nat) (f : Link → Link) : (s.updLink l f).mem = s.mem := rfl
@[simp] theorem State.updLink_od (s : State) (l : Nat) (f : Link → Link) : (s.updLink l f).od = s.od := rfl
@[simp] theorem State.updLink_nv (s : State) (l : Nat) (f : Link → Link) : (s.updLink l f).nv = s.nv := rfl
@[simp] theorem State.updLink_flash (s : State) (l : Nat) (f : Link → Link) : (s.updLink l f).flash = s.flash := rfl
@[simp] theorem State.updLink_storeFails (s : State) (l : Nat) (f : Link → Link) : (s.updLink l f).storeFails = s.storeFails := rfl
@[simp] theorem State.updLink_time (s : State) (l : Nat) (f : Link → Link) : (s.updLink l f).time = s.time := rfl
@[simp] theorem State.updLink_parts (s : State) (l : Nat) (f : Link → Link) : (s.updLink l f).parts = s.parts := rfl
@[simp] theorem State.updLink_ctxs (s : State) (l : Nat) (f : Link → Link) : (s.updLink l f).ctxs = s.ctxs := rfl
@[simp] theorem State.updLink_cores (s : State) (l : Nat) (f : Link → Link) : (s.updLink l f).cores = s.cores := rfl
@[simp] theorem State.updLink_hub (s : State) (l : Nat) (f : Link → Link) : (s.updLink l f).hub = s.hub := rfl
@[simp] theorem State.updLink_lastAccept (s : State) (l : Nat) (f : Link → Link) : (s.updLink l f).lastAccept = s.lastAccept := rfl
@[simp] theorem State.updLink_takers (s : State) (l : Nat) (f : Link → Link) : (s.updLink l f).takers = s.takers := rfl
@[simp] theorem State.updLink_upd (s : State) (l : Nat) (f : Link → Link) : (s.updLink l f).upd = s.upd := rfl
@[simp] theorem State.updLink_groups (s : State) (l : Nat) (f : Link → Link) : (s.updLink l f).groups = s.groups := rfl
@[simp] theorem State.updLink_coll (s : State) (l : Nat) (f : Link → Link) : (s.updLink l f).coll = s.coll := rfl
@[simp] theorem State.updLink_larder (s : State) (l : Nat) (f : Link → Link) : (s.updLink l f).larder = s.larder := rfl
@[simp] theorem State.updLink_hbm (s : State) (l : Nat) (f : Link → Link) : (s.updLink l f).hbm = s.hbm := rfl
@[simp] theorem State.updLink_tier (s : State) (l : Nat) (f : Link → Link) : (s.updLink l f).tier = s.tier := rfl
@[simp] theorem State.updLink_media (s : State) (l : Nat) (f : Link → Link) : (s.updLink l f).media = s.media := rfl
@[simp] theorem State.updLink_links (s : State) (l : Nat) (f : Link → Link) : (s.updLink l f).links = modAt s.links l f := rfl
@[simp] theorem State.updLink_inbox (s : State) (l : Nat) (f : Link → Link) : (s.updLink l f).inbox = s.inbox := rfl
@[simp] theorem State.updLink_dones (s : State) (l : Nat) (f : Link → Link) : (s.updLink l f).dones = s.dones := rfl
@[simp] theorem State.updLink_nextXfer (s : State) (l : Nat) (f : Link → Link) : (s.updLink l f).nextXfer = s.nextXfer := rfl
@[simp] theorem State.updLink_arbs (s : State) (l : Nat) (f : Link → Link) : (s.updLink l f).arbs = s.arbs := rfl
@[simp] theorem State.updLink_arbPending (s : State) (l : Nat) (f : Link → Link) : (s.updLink l f).arbPending = s.arbPending := rfl
@[simp] theorem State.updLink_arbReqs (s : State) (l : Nat) (f : Link → Link) : (s.updLink l f).arbReqs = s.arbReqs := rfl
@[simp] theorem State.updLink_arbLast (s : State) (l : Nat) (f : Link → Link) : (s.updLink l f).arbLast = s.arbLast := rfl
@[simp] theorem State.updLink_buckets (s : State) (l : Nat) (f : Link → Link) : (s.updLink l f).buckets = s.buckets := rfl
@[simp] theorem State.updLink_charged (s : State) (l : Nat) (f : Link → Link) : (s.updLink l f).charged = s.charged := rfl
@[simp] theorem State.updLink_mgmt (s : State) (l : Nat) (f : Link → Link) : (s.updLink l f).mgmt = s.mgmt := rfl
@[simp] theorem State.updLink_sec (s : State) (l : Nat) (f : Link → Link) : (s.updLink l f).sec = s.sec := rfl
@[simp] theorem State.updLink_diag (s : State) (l : Nat) (f : Link → Link) : (s.updLink l f).diag = s.diag := rfl
@[simp] theorem State.updLink_pwr (s : State) (l : Nat) (f : Link → Link) : (s.updLink l f).pwr = s.pwr := rfl
@[simp] theorem State.updLink_host (s : State) (l : Nat) (f : Link → Link) : (s.updLink l f).host = s.host := rfl
@[simp] theorem State.updLink_draws (s : State) (l : Nat) (f : Link → Link) : (s.updLink l f).draws = s.draws := rfl
@[simp] theorem State.updLink_out (s : State) (l : Nat) (f : Link → Link) : (s.updLink l f).out = s.out := rfl

@[simp] theorem State.updIsland_pending (s : State) (i : Nat) (f : Island → Island) : (s.updIsland i f).pending = s.pending := rfl
@[simp] theorem State.updIsland_mem (s : State) (i : Nat) (f : Island → Island) : (s.updIsland i f).mem = s.mem := rfl
@[simp] theorem State.updIsland_od (s : State) (i : Nat) (f : Island → Island) : (s.updIsland i f).od = s.od := rfl
@[simp] theorem State.updIsland_nv (s : State) (i : Nat) (f : Island → Island) : (s.updIsland i f).nv = s.nv := rfl
@[simp] theorem State.updIsland_flash (s : State) (i : Nat) (f : Island → Island) : (s.updIsland i f).flash = s.flash := rfl
@[simp] theorem State.updIsland_storeFails (s : State) (i : Nat) (f : Island → Island) : (s.updIsland i f).storeFails = s.storeFails := rfl
@[simp] theorem State.updIsland_time (s : State) (i : Nat) (f : Island → Island) : (s.updIsland i f).time = s.time := rfl
@[simp] theorem State.updIsland_parts (s : State) (i : Nat) (f : Island → Island) : (s.updIsland i f).parts = s.parts := rfl
@[simp] theorem State.updIsland_ctxs (s : State) (i : Nat) (f : Island → Island) : (s.updIsland i f).ctxs = s.ctxs := rfl
@[simp] theorem State.updIsland_cores (s : State) (i : Nat) (f : Island → Island) : (s.updIsland i f).cores = s.cores := rfl
@[simp] theorem State.updIsland_hub (s : State) (i : Nat) (f : Island → Island) : (s.updIsland i f).hub = s.hub := rfl
@[simp] theorem State.updIsland_lastAccept (s : State) (i : Nat) (f : Island → Island) : (s.updIsland i f).lastAccept = s.lastAccept := rfl
@[simp] theorem State.updIsland_takers (s : State) (i : Nat) (f : Island → Island) : (s.updIsland i f).takers = s.takers := rfl
@[simp] theorem State.updIsland_upd (s : State) (i : Nat) (f : Island → Island) : (s.updIsland i f).upd = s.upd := rfl
@[simp] theorem State.updIsland_groups (s : State) (i : Nat) (f : Island → Island) : (s.updIsland i f).groups = s.groups := rfl
@[simp] theorem State.updIsland_coll (s : State) (i : Nat) (f : Island → Island) : (s.updIsland i f).coll = s.coll := rfl
@[simp] theorem State.updIsland_larder (s : State) (i : Nat) (f : Island → Island) : (s.updIsland i f).larder = s.larder := rfl
@[simp] theorem State.updIsland_hbm (s : State) (i : Nat) (f : Island → Island) : (s.updIsland i f).hbm = s.hbm := rfl
@[simp] theorem State.updIsland_tier (s : State) (i : Nat) (f : Island → Island) : (s.updIsland i f).tier = s.tier := rfl
@[simp] theorem State.updIsland_media (s : State) (i : Nat) (f : Island → Island) : (s.updIsland i f).media = s.media := rfl
@[simp] theorem State.updIsland_links (s : State) (i : Nat) (f : Island → Island) : (s.updIsland i f).links = s.links := rfl
@[simp] theorem State.updIsland_inbox (s : State) (i : Nat) (f : Island → Island) : (s.updIsland i f).inbox = s.inbox := rfl
@[simp] theorem State.updIsland_dones (s : State) (i : Nat) (f : Island → Island) : (s.updIsland i f).dones = s.dones := rfl
@[simp] theorem State.updIsland_nextXfer (s : State) (i : Nat) (f : Island → Island) : (s.updIsland i f).nextXfer = s.nextXfer := rfl
@[simp] theorem State.updIsland_arbs (s : State) (i : Nat) (f : Island → Island) : (s.updIsland i f).arbs = s.arbs := rfl
@[simp] theorem State.updIsland_arbPending (s : State) (i : Nat) (f : Island → Island) : (s.updIsland i f).arbPending = s.arbPending := rfl
@[simp] theorem State.updIsland_arbReqs (s : State) (i : Nat) (f : Island → Island) : (s.updIsland i f).arbReqs = s.arbReqs := rfl
@[simp] theorem State.updIsland_arbLast (s : State) (i : Nat) (f : Island → Island) : (s.updIsland i f).arbLast = s.arbLast := rfl
@[simp] theorem State.updIsland_buckets (s : State) (i : Nat) (f : Island → Island) : (s.updIsland i f).buckets = s.buckets := rfl
@[simp] theorem State.updIsland_charged (s : State) (i : Nat) (f : Island → Island) : (s.updIsland i f).charged = s.charged := rfl
@[simp] theorem State.updIsland_mgmt (s : State) (i : Nat) (f : Island → Island) : (s.updIsland i f).mgmt = s.mgmt := rfl
@[simp] theorem State.updIsland_sec (s : State) (i : Nat) (f : Island → Island) : (s.updIsland i f).sec = s.sec := rfl
@[simp] theorem State.updIsland_diag (s : State) (i : Nat) (f : Island → Island) : (s.updIsland i f).diag = s.diag := rfl
@[simp] theorem State.updIsland_pwr (s : State) (i : Nat) (f : Island → Island) : (s.updIsland i f).pwr = { s.pwr with islands := modAt s.pwr.islands i f } := rfl
@[simp] theorem State.updIsland_host (s : State) (i : Nat) (f : Island → Island) : (s.updIsland i f).host = s.host := rfl
@[simp] theorem State.updIsland_draws (s : State) (i : Nat) (f : Island → Island) : (s.updIsland i f).draws = s.draws := rfl
@[simp] theorem State.updIsland_out (s : State) (i : Nat) (f : Island → Island) : (s.updIsland i f).out = s.out := rfl

@[simp] theorem State.updStack_pending (s : State) (i : Nat) (f : Stack → Stack) : (s.updStack i f).pending = s.pending := rfl
@[simp] theorem State.updStack_mem (s : State) (i : Nat) (f : Stack → Stack) : (s.updStack i f).mem = s.mem := rfl
@[simp] theorem State.updStack_od (s : State) (i : Nat) (f : Stack → Stack) : (s.updStack i f).od = s.od := rfl
@[simp] theorem State.updStack_nv (s : State) (i : Nat) (f : Stack → Stack) : (s.updStack i f).nv = s.nv := rfl
@[simp] theorem State.updStack_flash (s : State) (i : Nat) (f : Stack → Stack) : (s.updStack i f).flash = s.flash := rfl
@[simp] theorem State.updStack_storeFails (s : State) (i : Nat) (f : Stack → Stack) : (s.updStack i f).storeFails = s.storeFails := rfl
@[simp] theorem State.updStack_time (s : State) (i : Nat) (f : Stack → Stack) : (s.updStack i f).time = s.time := rfl
@[simp] theorem State.updStack_parts (s : State) (i : Nat) (f : Stack → Stack) : (s.updStack i f).parts = s.parts := rfl
@[simp] theorem State.updStack_ctxs (s : State) (i : Nat) (f : Stack → Stack) : (s.updStack i f).ctxs = s.ctxs := rfl
@[simp] theorem State.updStack_cores (s : State) (i : Nat) (f : Stack → Stack) : (s.updStack i f).cores = s.cores := rfl
@[simp] theorem State.updStack_hub (s : State) (i : Nat) (f : Stack → Stack) : (s.updStack i f).hub = s.hub := rfl
@[simp] theorem State.updStack_lastAccept (s : State) (i : Nat) (f : Stack → Stack) : (s.updStack i f).lastAccept = s.lastAccept := rfl
@[simp] theorem State.updStack_takers (s : State) (i : Nat) (f : Stack → Stack) : (s.updStack i f).takers = s.takers := rfl
@[simp] theorem State.updStack_upd (s : State) (i : Nat) (f : Stack → Stack) : (s.updStack i f).upd = s.upd := rfl
@[simp] theorem State.updStack_groups (s : State) (i : Nat) (f : Stack → Stack) : (s.updStack i f).groups = s.groups := rfl
@[simp] theorem State.updStack_coll (s : State) (i : Nat) (f : Stack → Stack) : (s.updStack i f).coll = s.coll := rfl
@[simp] theorem State.updStack_larder (s : State) (i : Nat) (f : Stack → Stack) : (s.updStack i f).larder = s.larder := rfl
@[simp] theorem State.updStack_hbm (s : State) (i : Nat) (f : Stack → Stack) : (s.updStack i f).hbm = s.hbm := rfl
@[simp] theorem State.updStack_tier (s : State) (i : Nat) (f : Stack → Stack) : (s.updStack i f).tier = s.tier := rfl
@[simp] theorem State.updStack_media (s : State) (i : Nat) (f : Stack → Stack) : (s.updStack i f).media = s.media := rfl
@[simp] theorem State.updStack_links (s : State) (i : Nat) (f : Stack → Stack) : (s.updStack i f).links = s.links := rfl
@[simp] theorem State.updStack_inbox (s : State) (i : Nat) (f : Stack → Stack) : (s.updStack i f).inbox = s.inbox := rfl
@[simp] theorem State.updStack_dones (s : State) (i : Nat) (f : Stack → Stack) : (s.updStack i f).dones = s.dones := rfl
@[simp] theorem State.updStack_nextXfer (s : State) (i : Nat) (f : Stack → Stack) : (s.updStack i f).nextXfer = s.nextXfer := rfl
@[simp] theorem State.updStack_arbs (s : State) (i : Nat) (f : Stack → Stack) : (s.updStack i f).arbs = s.arbs := rfl
@[simp] theorem State.updStack_arbPending (s : State) (i : Nat) (f : Stack → Stack) : (s.updStack i f).arbPending = s.arbPending := rfl
@[simp] theorem State.updStack_arbReqs (s : State) (i : Nat) (f : Stack → Stack) : (s.updStack i f).arbReqs = s.arbReqs := rfl
@[simp] theorem State.updStack_arbLast (s : State) (i : Nat) (f : Stack → Stack) : (s.updStack i f).arbLast = s.arbLast := rfl
@[simp] theorem State.updStack_buckets (s : State) (i : Nat) (f : Stack → Stack) : (s.updStack i f).buckets = s.buckets := rfl
@[simp] theorem State.updStack_charged (s : State) (i : Nat) (f : Stack → Stack) : (s.updStack i f).charged = s.charged := rfl
@[simp] theorem State.updStack_mgmt (s : State) (i : Nat) (f : Stack → Stack) : (s.updStack i f).mgmt = s.mgmt := rfl
@[simp] theorem State.updStack_sec (s : State) (i : Nat) (f : Stack → Stack) : (s.updStack i f).sec = s.sec := rfl
@[simp] theorem State.updStack_diag (s : State) (i : Nat) (f : Stack → Stack) : (s.updStack i f).diag = s.diag := rfl
@[simp] theorem State.updStack_pwr (s : State) (i : Nat) (f : Stack → Stack) : (s.updStack i f).pwr = { s.pwr with heats := modAt s.pwr.heats i f } := rfl
@[simp] theorem State.updStack_host (s : State) (i : Nat) (f : Stack → Stack) : (s.updStack i f).host = s.host := rfl
@[simp] theorem State.updStack_draws (s : State) (i : Nat) (f : Stack → Stack) : (s.updStack i f).draws = s.draws := rfl
@[simp] theorem State.updStack_out (s : State) (i : Nat) (f : Stack → Stack) : (s.updStack i f).out = s.out := rfl

@[simp] theorem State.updGroup_pending (s : State) (p g : Nat) (f : NormGroup → NormGroup) : (s.updGroup p g f).pending = s.pending := rfl
@[simp] theorem State.updGroup_mem (s : State) (p g : Nat) (f : NormGroup → NormGroup) : (s.updGroup p g f).mem = s.mem := rfl
@[simp] theorem State.updGroup_od (s : State) (p g : Nat) (f : NormGroup → NormGroup) : (s.updGroup p g f).od = s.od := rfl
@[simp] theorem State.updGroup_nv (s : State) (p g : Nat) (f : NormGroup → NormGroup) : (s.updGroup p g f).nv = s.nv := rfl
@[simp] theorem State.updGroup_flash (s : State) (p g : Nat) (f : NormGroup → NormGroup) : (s.updGroup p g f).flash = s.flash := rfl
@[simp] theorem State.updGroup_storeFails (s : State) (p g : Nat) (f : NormGroup → NormGroup) : (s.updGroup p g f).storeFails = s.storeFails := rfl
@[simp] theorem State.updGroup_time (s : State) (p g : Nat) (f : NormGroup → NormGroup) : (s.updGroup p g f).time = s.time := rfl
@[simp] theorem State.updGroup_parts (s : State) (p g : Nat) (f : NormGroup → NormGroup) : (s.updGroup p g f).parts = s.parts := rfl
@[simp] theorem State.updGroup_ctxs (s : State) (p g : Nat) (f : NormGroup → NormGroup) : (s.updGroup p g f).ctxs = s.ctxs := rfl
@[simp] theorem State.updGroup_cores (s : State) (p g : Nat) (f : NormGroup → NormGroup) : (s.updGroup p g f).cores = s.cores := rfl
@[simp] theorem State.updGroup_hub (s : State) (p g : Nat) (f : NormGroup → NormGroup) : (s.updGroup p g f).hub = s.hub := rfl
@[simp] theorem State.updGroup_lastAccept (s : State) (p g : Nat) (f : NormGroup → NormGroup) : (s.updGroup p g f).lastAccept = s.lastAccept := rfl
@[simp] theorem State.updGroup_takers (s : State) (p g : Nat) (f : NormGroup → NormGroup) : (s.updGroup p g f).takers = s.takers := rfl
@[simp] theorem State.updGroup_upd (s : State) (p g : Nat) (f : NormGroup → NormGroup) : (s.updGroup p g f).upd = s.upd := rfl
@[simp] theorem State.updGroup_groups (s : State) (p g : Nat) (f : NormGroup → NormGroup) : (s.updGroup p g f).groups = modAt s.groups (p * 16 + g) f := rfl
@[simp] theorem State.updGroup_coll (s : State) (p g : Nat) (f : NormGroup → NormGroup) : (s.updGroup p g f).coll = s.coll := rfl
@[simp] theorem State.updGroup_larder (s : State) (p g : Nat) (f : NormGroup → NormGroup) : (s.updGroup p g f).larder = s.larder := rfl
@[simp] theorem State.updGroup_hbm (s : State) (p g : Nat) (f : NormGroup → NormGroup) : (s.updGroup p g f).hbm = s.hbm := rfl
@[simp] theorem State.updGroup_tier (s : State) (p g : Nat) (f : NormGroup → NormGroup) : (s.updGroup p g f).tier = s.tier := rfl
@[simp] theorem State.updGroup_media (s : State) (p g : Nat) (f : NormGroup → NormGroup) : (s.updGroup p g f).media = s.media := rfl
@[simp] theorem State.updGroup_links (s : State) (p g : Nat) (f : NormGroup → NormGroup) : (s.updGroup p g f).links = s.links := rfl
@[simp] theorem State.updGroup_inbox (s : State) (p g : Nat) (f : NormGroup → NormGroup) : (s.updGroup p g f).inbox = s.inbox := rfl
@[simp] theorem State.updGroup_dones (s : State) (p g : Nat) (f : NormGroup → NormGroup) : (s.updGroup p g f).dones = s.dones := rfl
@[simp] theorem State.updGroup_nextXfer (s : State) (p g : Nat) (f : NormGroup → NormGroup) : (s.updGroup p g f).nextXfer = s.nextXfer := rfl
@[simp] theorem State.updGroup_arbs (s : State) (p g : Nat) (f : NormGroup → NormGroup) : (s.updGroup p g f).arbs = s.arbs := rfl
@[simp] theorem State.updGroup_arbPending (s : State) (p g : Nat) (f : NormGroup → NormGroup) : (s.updGroup p g f).arbPending = s.arbPending := rfl
@[simp] theorem State.updGroup_arbReqs (s : State) (p g : Nat) (f : NormGroup → NormGroup) : (s.updGroup p g f).arbReqs = s.arbReqs := rfl
@[simp] theorem State.updGroup_arbLast (s : State) (p g : Nat) (f : NormGroup → NormGroup) : (s.updGroup p g f).arbLast = s.arbLast := rfl
@[simp] theorem State.updGroup_buckets (s : State) (p g : Nat) (f : NormGroup → NormGroup) : (s.updGroup p g f).buckets = s.buckets := rfl
@[simp] theorem State.updGroup_charged (s : State) (p g : Nat) (f : NormGroup → NormGroup) : (s.updGroup p g f).charged = s.charged := rfl
@[simp] theorem State.updGroup_mgmt (s : State) (p g : Nat) (f : NormGroup → NormGroup) : (s.updGroup p g f).mgmt = s.mgmt := rfl
@[simp] theorem State.updGroup_sec (s : State) (p g : Nat) (f : NormGroup → NormGroup) : (s.updGroup p g f).sec = s.sec := rfl
@[simp] theorem State.updGroup_diag (s : State) (p g : Nat) (f : NormGroup → NormGroup) : (s.updGroup p g f).diag = s.diag := rfl
@[simp] theorem State.updGroup_pwr (s : State) (p g : Nat) (f : NormGroup → NormGroup) : (s.updGroup p g f).pwr = s.pwr := rfl
@[simp] theorem State.updGroup_host (s : State) (p g : Nat) (f : NormGroup → NormGroup) : (s.updGroup p g f).host = s.host := rfl
@[simp] theorem State.updGroup_draws (s : State) (p g : Nat) (f : NormGroup → NormGroup) : (s.updGroup p g f).draws = s.draws := rfl
@[simp] theorem State.updGroup_out (s : State) (p g : Nat) (f : NormGroup → NormGroup) : (s.updGroup p g f).out = s.out := rfl

@[simp] theorem State.updBarrier_pending (s : State) (p g : Nat) (f : BarGroup → BarGroup) : (s.updBarrier p g f).pending = s.pending := rfl
@[simp] theorem State.updBarrier_mem (s : State) (p g : Nat) (f : BarGroup → BarGroup) : (s.updBarrier p g f).mem = s.mem := rfl
@[simp] theorem State.updBarrier_od (s : State) (p g : Nat) (f : BarGroup → BarGroup) : (s.updBarrier p g f).od = s.od := rfl
@[simp] theorem State.updBarrier_nv (s : State) (p g : Nat) (f : BarGroup → BarGroup) : (s.updBarrier p g f).nv = s.nv := rfl
@[simp] theorem State.updBarrier_flash (s : State) (p g : Nat) (f : BarGroup → BarGroup) : (s.updBarrier p g f).flash = s.flash := rfl
@[simp] theorem State.updBarrier_storeFails (s : State) (p g : Nat) (f : BarGroup → BarGroup) : (s.updBarrier p g f).storeFails = s.storeFails := rfl
@[simp] theorem State.updBarrier_time (s : State) (p g : Nat) (f : BarGroup → BarGroup) : (s.updBarrier p g f).time = s.time := rfl
@[simp] theorem State.updBarrier_parts (s : State) (p g : Nat) (f : BarGroup → BarGroup) : (s.updBarrier p g f).parts = s.parts := rfl
@[simp] theorem State.updBarrier_ctxs (s : State) (p g : Nat) (f : BarGroup → BarGroup) : (s.updBarrier p g f).ctxs = s.ctxs := rfl
@[simp] theorem State.updBarrier_cores (s : State) (p g : Nat) (f : BarGroup → BarGroup) : (s.updBarrier p g f).cores = s.cores := rfl
@[simp] theorem State.updBarrier_hub (s : State) (p g : Nat) (f : BarGroup → BarGroup) : (s.updBarrier p g f).hub = s.hub := rfl
@[simp] theorem State.updBarrier_lastAccept (s : State) (p g : Nat) (f : BarGroup → BarGroup) : (s.updBarrier p g f).lastAccept = s.lastAccept := rfl
@[simp] theorem State.updBarrier_takers (s : State) (p g : Nat) (f : BarGroup → BarGroup) : (s.updBarrier p g f).takers = s.takers := rfl
@[simp] theorem State.updBarrier_upd (s : State) (p g : Nat) (f : BarGroup → BarGroup) : (s.updBarrier p g f).upd = s.upd := rfl
@[simp] theorem State.updBarrier_groups (s : State) (p g : Nat) (f : BarGroup → BarGroup) : (s.updBarrier p g f).groups = s.groups := rfl
@[simp] theorem State.updBarrier_coll (s : State) (p g : Nat) (f : BarGroup → BarGroup) : (s.updBarrier p g f).coll = { s.coll with barriers := modAt s.coll.barriers (p * 16 + g) f } := rfl
@[simp] theorem State.updBarrier_larder (s : State) (p g : Nat) (f : BarGroup → BarGroup) : (s.updBarrier p g f).larder = s.larder := rfl
@[simp] theorem State.updBarrier_hbm (s : State) (p g : Nat) (f : BarGroup → BarGroup) : (s.updBarrier p g f).hbm = s.hbm := rfl
@[simp] theorem State.updBarrier_tier (s : State) (p g : Nat) (f : BarGroup → BarGroup) : (s.updBarrier p g f).tier = s.tier := rfl
@[simp] theorem State.updBarrier_media (s : State) (p g : Nat) (f : BarGroup → BarGroup) : (s.updBarrier p g f).media = s.media := rfl
@[simp] theorem State.updBarrier_links (s : State) (p g : Nat) (f : BarGroup → BarGroup) : (s.updBarrier p g f).links = s.links := rfl
@[simp] theorem State.updBarrier_inbox (s : State) (p g : Nat) (f : BarGroup → BarGroup) : (s.updBarrier p g f).inbox = s.inbox := rfl
@[simp] theorem State.updBarrier_dones (s : State) (p g : Nat) (f : BarGroup → BarGroup) : (s.updBarrier p g f).dones = s.dones := rfl
@[simp] theorem State.updBarrier_nextXfer (s : State) (p g : Nat) (f : BarGroup → BarGroup) : (s.updBarrier p g f).nextXfer = s.nextXfer := rfl
@[simp] theorem State.updBarrier_arbs (s : State) (p g : Nat) (f : BarGroup → BarGroup) : (s.updBarrier p g f).arbs = s.arbs := rfl
@[simp] theorem State.updBarrier_arbPending (s : State) (p g : Nat) (f : BarGroup → BarGroup) : (s.updBarrier p g f).arbPending = s.arbPending := rfl
@[simp] theorem State.updBarrier_arbReqs (s : State) (p g : Nat) (f : BarGroup → BarGroup) : (s.updBarrier p g f).arbReqs = s.arbReqs := rfl
@[simp] theorem State.updBarrier_arbLast (s : State) (p g : Nat) (f : BarGroup → BarGroup) : (s.updBarrier p g f).arbLast = s.arbLast := rfl
@[simp] theorem State.updBarrier_buckets (s : State) (p g : Nat) (f : BarGroup → BarGroup) : (s.updBarrier p g f).buckets = s.buckets := rfl
@[simp] theorem State.updBarrier_charged (s : State) (p g : Nat) (f : BarGroup → BarGroup) : (s.updBarrier p g f).charged = s.charged := rfl
@[simp] theorem State.updBarrier_mgmt (s : State) (p g : Nat) (f : BarGroup → BarGroup) : (s.updBarrier p g f).mgmt = s.mgmt := rfl
@[simp] theorem State.updBarrier_sec (s : State) (p g : Nat) (f : BarGroup → BarGroup) : (s.updBarrier p g f).sec = s.sec := rfl
@[simp] theorem State.updBarrier_diag (s : State) (p g : Nat) (f : BarGroup → BarGroup) : (s.updBarrier p g f).diag = s.diag := rfl
@[simp] theorem State.updBarrier_pwr (s : State) (p g : Nat) (f : BarGroup → BarGroup) : (s.updBarrier p g f).pwr = s.pwr := rfl
@[simp] theorem State.updBarrier_host (s : State) (p g : Nat) (f : BarGroup → BarGroup) : (s.updBarrier p g f).host = s.host := rfl
@[simp] theorem State.updBarrier_draws (s : State) (p g : Nat) (f : BarGroup → BarGroup) : (s.updBarrier p g f).draws = s.draws := rfl
@[simp] theorem State.updBarrier_out (s : State) (p g : Nat) (f : BarGroup → BarGroup) : (s.updBarrier p g f).out = s.out := rfl

@[simp] theorem State.updEngine_pending (s : State) (c : Nat) (f : UpdEngine → UpdEngine) : (s.updEngine c f).pending = s.pending := rfl
@[simp] theorem State.updEngine_mem (s : State) (c : Nat) (f : UpdEngine → UpdEngine) : (s.updEngine c f).mem = s.mem := rfl
@[simp] theorem State.updEngine_od (s : State) (c : Nat) (f : UpdEngine → UpdEngine) : (s.updEngine c f).od = s.od := rfl
@[simp] theorem State.updEngine_nv (s : State) (c : Nat) (f : UpdEngine → UpdEngine) : (s.updEngine c f).nv = s.nv := rfl
@[simp] theorem State.updEngine_flash (s : State) (c : Nat) (f : UpdEngine → UpdEngine) : (s.updEngine c f).flash = s.flash := rfl
@[simp] theorem State.updEngine_storeFails (s : State) (c : Nat) (f : UpdEngine → UpdEngine) : (s.updEngine c f).storeFails = s.storeFails := rfl
@[simp] theorem State.updEngine_time (s : State) (c : Nat) (f : UpdEngine → UpdEngine) : (s.updEngine c f).time = s.time := rfl
@[simp] theorem State.updEngine_parts (s : State) (c : Nat) (f : UpdEngine → UpdEngine) : (s.updEngine c f).parts = s.parts := rfl
@[simp] theorem State.updEngine_ctxs (s : State) (c : Nat) (f : UpdEngine → UpdEngine) : (s.updEngine c f).ctxs = s.ctxs := rfl
@[simp] theorem State.updEngine_cores (s : State) (c : Nat) (f : UpdEngine → UpdEngine) : (s.updEngine c f).cores = s.cores := rfl
@[simp] theorem State.updEngine_hub (s : State) (c : Nat) (f : UpdEngine → UpdEngine) : (s.updEngine c f).hub = s.hub := rfl
@[simp] theorem State.updEngine_lastAccept (s : State) (c : Nat) (f : UpdEngine → UpdEngine) : (s.updEngine c f).lastAccept = s.lastAccept := rfl
@[simp] theorem State.updEngine_takers (s : State) (c : Nat) (f : UpdEngine → UpdEngine) : (s.updEngine c f).takers = s.takers := rfl
@[simp] theorem State.updEngine_upd (s : State) (c : Nat) (f : UpdEngine → UpdEngine) : (s.updEngine c f).upd = modAt s.upd c f := rfl
@[simp] theorem State.updEngine_groups (s : State) (c : Nat) (f : UpdEngine → UpdEngine) : (s.updEngine c f).groups = s.groups := rfl
@[simp] theorem State.updEngine_coll (s : State) (c : Nat) (f : UpdEngine → UpdEngine) : (s.updEngine c f).coll = s.coll := rfl
@[simp] theorem State.updEngine_larder (s : State) (c : Nat) (f : UpdEngine → UpdEngine) : (s.updEngine c f).larder = s.larder := rfl
@[simp] theorem State.updEngine_hbm (s : State) (c : Nat) (f : UpdEngine → UpdEngine) : (s.updEngine c f).hbm = s.hbm := rfl
@[simp] theorem State.updEngine_tier (s : State) (c : Nat) (f : UpdEngine → UpdEngine) : (s.updEngine c f).tier = s.tier := rfl
@[simp] theorem State.updEngine_media (s : State) (c : Nat) (f : UpdEngine → UpdEngine) : (s.updEngine c f).media = s.media := rfl
@[simp] theorem State.updEngine_links (s : State) (c : Nat) (f : UpdEngine → UpdEngine) : (s.updEngine c f).links = s.links := rfl
@[simp] theorem State.updEngine_inbox (s : State) (c : Nat) (f : UpdEngine → UpdEngine) : (s.updEngine c f).inbox = s.inbox := rfl
@[simp] theorem State.updEngine_dones (s : State) (c : Nat) (f : UpdEngine → UpdEngine) : (s.updEngine c f).dones = s.dones := rfl
@[simp] theorem State.updEngine_nextXfer (s : State) (c : Nat) (f : UpdEngine → UpdEngine) : (s.updEngine c f).nextXfer = s.nextXfer := rfl
@[simp] theorem State.updEngine_arbs (s : State) (c : Nat) (f : UpdEngine → UpdEngine) : (s.updEngine c f).arbs = s.arbs := rfl
@[simp] theorem State.updEngine_arbPending (s : State) (c : Nat) (f : UpdEngine → UpdEngine) : (s.updEngine c f).arbPending = s.arbPending := rfl
@[simp] theorem State.updEngine_arbReqs (s : State) (c : Nat) (f : UpdEngine → UpdEngine) : (s.updEngine c f).arbReqs = s.arbReqs := rfl
@[simp] theorem State.updEngine_arbLast (s : State) (c : Nat) (f : UpdEngine → UpdEngine) : (s.updEngine c f).arbLast = s.arbLast := rfl
@[simp] theorem State.updEngine_buckets (s : State) (c : Nat) (f : UpdEngine → UpdEngine) : (s.updEngine c f).buckets = s.buckets := rfl
@[simp] theorem State.updEngine_charged (s : State) (c : Nat) (f : UpdEngine → UpdEngine) : (s.updEngine c f).charged = s.charged := rfl
@[simp] theorem State.updEngine_mgmt (s : State) (c : Nat) (f : UpdEngine → UpdEngine) : (s.updEngine c f).mgmt = s.mgmt := rfl
@[simp] theorem State.updEngine_sec (s : State) (c : Nat) (f : UpdEngine → UpdEngine) : (s.updEngine c f).sec = s.sec := rfl
@[simp] theorem State.updEngine_diag (s : State) (c : Nat) (f : UpdEngine → UpdEngine) : (s.updEngine c f).diag = s.diag := rfl
@[simp] theorem State.updEngine_pwr (s : State) (c : Nat) (f : UpdEngine → UpdEngine) : (s.updEngine c f).pwr = s.pwr := rfl
@[simp] theorem State.updEngine_host (s : State) (c : Nat) (f : UpdEngine → UpdEngine) : (s.updEngine c f).host = s.host := rfl
@[simp] theorem State.updEngine_draws (s : State) (c : Nat) (f : UpdEngine → UpdEngine) : (s.updEngine c f).draws = s.draws := rfl
@[simp] theorem State.updEngine_out (s : State) (c : Nat) (f : UpdEngine → UpdEngine) : (s.updEngine c f).out = s.out := rfl

@[simp] theorem State.withDiag_pending (s : State) (f : Diag → Diag) : (s.withDiag f).pending = s.pending := rfl
@[simp] theorem State.withDiag_mem (s : State) (f : Diag → Diag) : (s.withDiag f).mem = s.mem := rfl
@[simp] theorem State.withDiag_od (s : State) (f : Diag → Diag) : (s.withDiag f).od = s.od := rfl
@[simp] theorem State.withDiag_nv (s : State) (f : Diag → Diag) : (s.withDiag f).nv = s.nv := rfl
@[simp] theorem State.withDiag_flash (s : State) (f : Diag → Diag) : (s.withDiag f).flash = s.flash := rfl
@[simp] theorem State.withDiag_storeFails (s : State) (f : Diag → Diag) : (s.withDiag f).storeFails = s.storeFails := rfl
@[simp] theorem State.withDiag_time (s : State) (f : Diag → Diag) : (s.withDiag f).time = s.time := rfl
@[simp] theorem State.withDiag_parts (s : State) (f : Diag → Diag) : (s.withDiag f).parts = s.parts := rfl
@[simp] theorem State.withDiag_ctxs (s : State) (f : Diag → Diag) : (s.withDiag f).ctxs = s.ctxs := rfl
@[simp] theorem State.withDiag_cores (s : State) (f : Diag → Diag) : (s.withDiag f).cores = s.cores := rfl
@[simp] theorem State.withDiag_hub (s : State) (f : Diag → Diag) : (s.withDiag f).hub = s.hub := rfl
@[simp] theorem State.withDiag_lastAccept (s : State) (f : Diag → Diag) : (s.withDiag f).lastAccept = s.lastAccept := rfl
@[simp] theorem State.withDiag_takers (s : State) (f : Diag → Diag) : (s.withDiag f).takers = s.takers := rfl
@[simp] theorem State.withDiag_upd (s : State) (f : Diag → Diag) : (s.withDiag f).upd = s.upd := rfl
@[simp] theorem State.withDiag_groups (s : State) (f : Diag → Diag) : (s.withDiag f).groups = s.groups := rfl
@[simp] theorem State.withDiag_coll (s : State) (f : Diag → Diag) : (s.withDiag f).coll = s.coll := rfl
@[simp] theorem State.withDiag_larder (s : State) (f : Diag → Diag) : (s.withDiag f).larder = s.larder := rfl
@[simp] theorem State.withDiag_hbm (s : State) (f : Diag → Diag) : (s.withDiag f).hbm = s.hbm := rfl
@[simp] theorem State.withDiag_tier (s : State) (f : Diag → Diag) : (s.withDiag f).tier = s.tier := rfl
@[simp] theorem State.withDiag_media (s : State) (f : Diag → Diag) : (s.withDiag f).media = s.media := rfl
@[simp] theorem State.withDiag_links (s : State) (f : Diag → Diag) : (s.withDiag f).links = s.links := rfl
@[simp] theorem State.withDiag_inbox (s : State) (f : Diag → Diag) : (s.withDiag f).inbox = s.inbox := rfl
@[simp] theorem State.withDiag_dones (s : State) (f : Diag → Diag) : (s.withDiag f).dones = s.dones := rfl
@[simp] theorem State.withDiag_nextXfer (s : State) (f : Diag → Diag) : (s.withDiag f).nextXfer = s.nextXfer := rfl
@[simp] theorem State.withDiag_arbs (s : State) (f : Diag → Diag) : (s.withDiag f).arbs = s.arbs := rfl
@[simp] theorem State.withDiag_arbPending (s : State) (f : Diag → Diag) : (s.withDiag f).arbPending = s.arbPending := rfl
@[simp] theorem State.withDiag_arbReqs (s : State) (f : Diag → Diag) : (s.withDiag f).arbReqs = s.arbReqs := rfl
@[simp] theorem State.withDiag_arbLast (s : State) (f : Diag → Diag) : (s.withDiag f).arbLast = s.arbLast := rfl
@[simp] theorem State.withDiag_buckets (s : State) (f : Diag → Diag) : (s.withDiag f).buckets = s.buckets := rfl
@[simp] theorem State.withDiag_charged (s : State) (f : Diag → Diag) : (s.withDiag f).charged = s.charged := rfl
@[simp] theorem State.withDiag_mgmt (s : State) (f : Diag → Diag) : (s.withDiag f).mgmt = s.mgmt := rfl
@[simp] theorem State.withDiag_sec (s : State) (f : Diag → Diag) : (s.withDiag f).sec = s.sec := rfl
@[simp] theorem State.withDiag_diag (s : State) (f : Diag → Diag) : (s.withDiag f).diag = f s.diag := rfl
@[simp] theorem State.withDiag_pwr (s : State) (f : Diag → Diag) : (s.withDiag f).pwr = s.pwr := rfl
@[simp] theorem State.withDiag_host (s : State) (f : Diag → Diag) : (s.withDiag f).host = s.host := rfl
@[simp] theorem State.withDiag_draws (s : State) (f : Diag → Diag) : (s.withDiag f).draws = s.draws := rfl
@[simp] theorem State.withDiag_out (s : State) (f : Diag → Diag) : (s.withDiag f).out = s.out := rfl

@[simp] theorem State.withPwr_pending (s : State) (f : Pwr → Pwr) : (s.withPwr f).pending = s.pending := rfl
@[simp] theorem State.withPwr_mem (s : State) (f : Pwr → Pwr) : (s.withPwr f).mem = s.mem := rfl
@[simp] theorem State.withPwr_od (s : State) (f : Pwr → Pwr) : (s.withPwr f).od = s.od := rfl
@[simp] theorem State.withPwr_nv (s : State) (f : Pwr → Pwr) : (s.withPwr f).nv = s.nv := rfl
@[simp] theorem State.withPwr_flash (s : State) (f : Pwr → Pwr) : (s.withPwr f).flash = s.flash := rfl
@[simp] theorem State.withPwr_storeFails (s : State) (f : Pwr → Pwr) : (s.withPwr f).storeFails = s.storeFails := rfl
@[simp] theorem State.withPwr_time (s : State) (f : Pwr → Pwr) : (s.withPwr f).time = s.time := rfl
@[simp] theorem State.withPwr_parts (s : State) (f : Pwr → Pwr) : (s.withPwr f).parts = s.parts := rfl
@[simp] theorem State.withPwr_ctxs (s : State) (f : Pwr → Pwr) : (s.withPwr f).ctxs = s.ctxs := rfl
@[simp] theorem State.withPwr_cores (s : State) (f : Pwr → Pwr) : (s.withPwr f).cores = s.cores := rfl
@[simp] theorem State.withPwr_hub (s : State) (f : Pwr → Pwr) : (s.withPwr f).hub = s.hub := rfl
@[simp] theorem State.withPwr_lastAccept (s : State) (f : Pwr → Pwr) : (s.withPwr f).lastAccept = s.lastAccept := rfl
@[simp] theorem State.withPwr_takers (s : State) (f : Pwr → Pwr) : (s.withPwr f).takers = s.takers := rfl
@[simp] theorem State.withPwr_upd (s : State) (f : Pwr → Pwr) : (s.withPwr f).upd = s.upd := rfl
@[simp] theorem State.withPwr_groups (s : State) (f : Pwr → Pwr) : (s.withPwr f).groups = s.groups := rfl
@[simp] theorem State.withPwr_coll (s : State) (f : Pwr → Pwr) : (s.withPwr f).coll = s.coll := rfl
@[simp] theorem State.withPwr_larder (s : State) (f : Pwr → Pwr) : (s.withPwr f).larder = s.larder := rfl
@[simp] theorem State.withPwr_hbm (s : State) (f : Pwr → Pwr) : (s.withPwr f).hbm = s.hbm := rfl
@[simp] theorem State.withPwr_tier (s : State) (f : Pwr → Pwr) : (s.withPwr f).tier = s.tier := rfl
@[simp] theorem State.withPwr_media (s : State) (f : Pwr → Pwr) : (s.withPwr f).media = s.media := rfl
@[simp] theorem State.withPwr_links (s : State) (f : Pwr → Pwr) : (s.withPwr f).links = s.links := rfl
@[simp] theorem State.withPwr_inbox (s : State) (f : Pwr → Pwr) : (s.withPwr f).inbox = s.inbox := rfl
@[simp] theorem State.withPwr_dones (s : State) (f : Pwr → Pwr) : (s.withPwr f).dones = s.dones := rfl
@[simp] theorem State.withPwr_nextXfer (s : State) (f : Pwr → Pwr) : (s.withPwr f).nextXfer = s.nextXfer := rfl
@[simp] theorem State.withPwr_arbs (s : State) (f : Pwr → Pwr) : (s.withPwr f).arbs = s.arbs := rfl
@[simp] theorem State.withPwr_arbPending (s : State) (f : Pwr → Pwr) : (s.withPwr f).arbPending = s.arbPending := rfl
@[simp] theorem State.withPwr_arbReqs (s : State) (f : Pwr → Pwr) : (s.withPwr f).arbReqs = s.arbReqs := rfl
@[simp] theorem State.withPwr_arbLast (s : State) (f : Pwr → Pwr) : (s.withPwr f).arbLast = s.arbLast := rfl
@[simp] theorem State.withPwr_buckets (s : State) (f : Pwr → Pwr) : (s.withPwr f).buckets = s.buckets := rfl
@[simp] theorem State.withPwr_charged (s : State) (f : Pwr → Pwr) : (s.withPwr f).charged = s.charged := rfl
@[simp] theorem State.withPwr_mgmt (s : State) (f : Pwr → Pwr) : (s.withPwr f).mgmt = s.mgmt := rfl
@[simp] theorem State.withPwr_sec (s : State) (f : Pwr → Pwr) : (s.withPwr f).sec = s.sec := rfl
@[simp] theorem State.withPwr_diag (s : State) (f : Pwr → Pwr) : (s.withPwr f).diag = s.diag := rfl
@[simp] theorem State.withPwr_pwr (s : State) (f : Pwr → Pwr) : (s.withPwr f).pwr = f s.pwr := rfl
@[simp] theorem State.withPwr_host (s : State) (f : Pwr → Pwr) : (s.withPwr f).host = s.host := rfl
@[simp] theorem State.withPwr_draws (s : State) (f : Pwr → Pwr) : (s.withPwr f).draws = s.draws := rfl
@[simp] theorem State.withPwr_out (s : State) (f : Pwr → Pwr) : (s.withPwr f).out = s.out := rfl

@[simp] theorem State.withHost_pending (s : State) (f : HostPort → HostPort) : (s.withHost f).pending = s.pending := rfl
@[simp] theorem State.withHost_mem (s : State) (f : HostPort → HostPort) : (s.withHost f).mem = s.mem := rfl
@[simp] theorem State.withHost_od (s : State) (f : HostPort → HostPort) : (s.withHost f).od = s.od := rfl
@[simp] theorem State.withHost_nv (s : State) (f : HostPort → HostPort) : (s.withHost f).nv = s.nv := rfl
@[simp] theorem State.withHost_flash (s : State) (f : HostPort → HostPort) : (s.withHost f).flash = s.flash := rfl
@[simp] theorem State.withHost_storeFails (s : State) (f : HostPort → HostPort) : (s.withHost f).storeFails = s.storeFails := rfl
@[simp] theorem State.withHost_time (s : State) (f : HostPort → HostPort) : (s.withHost f).time = s.time := rfl
@[simp] theorem State.withHost_parts (s : State) (f : HostPort → HostPort) : (s.withHost f).parts = s.parts := rfl
@[simp] theorem State.withHost_ctxs (s : State) (f : HostPort → HostPort) : (s.withHost f).ctxs = s.ctxs := rfl
@[simp] theorem State.withHost_cores (s : State) (f : HostPort → HostPort) : (s.withHost f).cores = s.cores := rfl
@[simp] theorem State.withHost_hub (s : State) (f : HostPort → HostPort) : (s.withHost f).hub = s.hub := rfl
@[simp] theorem State.withHost_lastAccept (s : State) (f : HostPort → HostPort) : (s.withHost f).lastAccept = s.lastAccept := rfl
@[simp] theorem State.withHost_takers (s : State) (f : HostPort → HostPort) : (s.withHost f).takers = s.takers := rfl
@[simp] theorem State.withHost_upd (s : State) (f : HostPort → HostPort) : (s.withHost f).upd = s.upd := rfl
@[simp] theorem State.withHost_groups (s : State) (f : HostPort → HostPort) : (s.withHost f).groups = s.groups := rfl
@[simp] theorem State.withHost_coll (s : State) (f : HostPort → HostPort) : (s.withHost f).coll = s.coll := rfl
@[simp] theorem State.withHost_larder (s : State) (f : HostPort → HostPort) : (s.withHost f).larder = s.larder := rfl
@[simp] theorem State.withHost_hbm (s : State) (f : HostPort → HostPort) : (s.withHost f).hbm = s.hbm := rfl
@[simp] theorem State.withHost_tier (s : State) (f : HostPort → HostPort) : (s.withHost f).tier = s.tier := rfl
@[simp] theorem State.withHost_media (s : State) (f : HostPort → HostPort) : (s.withHost f).media = s.media := rfl
@[simp] theorem State.withHost_links (s : State) (f : HostPort → HostPort) : (s.withHost f).links = s.links := rfl
@[simp] theorem State.withHost_inbox (s : State) (f : HostPort → HostPort) : (s.withHost f).inbox = s.inbox := rfl
@[simp] theorem State.withHost_dones (s : State) (f : HostPort → HostPort) : (s.withHost f).dones = s.dones := rfl
@[simp] theorem State.withHost_nextXfer (s : State) (f : HostPort → HostPort) : (s.withHost f).nextXfer = s.nextXfer := rfl
@[simp] theorem State.withHost_arbs (s : State) (f : HostPort → HostPort) : (s.withHost f).arbs = s.arbs := rfl
@[simp] theorem State.withHost_arbPending (s : State) (f : HostPort → HostPort) : (s.withHost f).arbPending = s.arbPending := rfl
@[simp] theorem State.withHost_arbReqs (s : State) (f : HostPort → HostPort) : (s.withHost f).arbReqs = s.arbReqs := rfl
@[simp] theorem State.withHost_arbLast (s : State) (f : HostPort → HostPort) : (s.withHost f).arbLast = s.arbLast := rfl
@[simp] theorem State.withHost_buckets (s : State) (f : HostPort → HostPort) : (s.withHost f).buckets = s.buckets := rfl
@[simp] theorem State.withHost_charged (s : State) (f : HostPort → HostPort) : (s.withHost f).charged = s.charged := rfl
@[simp] theorem State.withHost_mgmt (s : State) (f : HostPort → HostPort) : (s.withHost f).mgmt = s.mgmt := rfl
@[simp] theorem State.withHost_sec (s : State) (f : HostPort → HostPort) : (s.withHost f).sec = s.sec := rfl
@[simp] theorem State.withHost_diag (s : State) (f : HostPort → HostPort) : (s.withHost f).diag = s.diag := rfl
@[simp] theorem State.withHost_pwr (s : State) (f : HostPort → HostPort) : (s.withHost f).pwr = s.pwr := rfl
@[simp] theorem State.withHost_host (s : State) (f : HostPort → HostPort) : (s.withHost f).host = f s.host := rfl
@[simp] theorem State.withHost_draws (s : State) (f : HostPort → HostPort) : (s.withHost f).draws = s.draws := rfl
@[simp] theorem State.withHost_out (s : State) (f : HostPort → HostPort) : (s.withHost f).out = s.out := rfl

@[simp] theorem State.withMgmt_pending (s : State) (f : Mgmt → Mgmt) : (s.withMgmt f).pending = s.pending := rfl
@[simp] theorem State.withMgmt_mem (s : State) (f : Mgmt → Mgmt) : (s.withMgmt f).mem = s.mem := rfl
@[simp] theorem State.withMgmt_od (s : State) (f : Mgmt → Mgmt) : (s.withMgmt f).od = s.od := rfl
@[simp] theorem State.withMgmt_nv (s : State) (f : Mgmt → Mgmt) : (s.withMgmt f).nv = s.nv := rfl
@[simp] theorem State.withMgmt_flash (s : State) (f : Mgmt → Mgmt) : (s.withMgmt f).flash = s.flash := rfl
@[simp] theorem State.withMgmt_storeFails (s : State) (f : Mgmt → Mgmt) : (s.withMgmt f).storeFails = s.storeFails := rfl
@[simp] theorem State.withMgmt_time (s : State) (f : Mgmt → Mgmt) : (s.withMgmt f).time = s.time := rfl
@[simp] theorem State.withMgmt_parts (s : State) (f : Mgmt → Mgmt) : (s.withMgmt f).parts = s.parts := rfl
@[simp] theorem State.withMgmt_ctxs (s : State) (f : Mgmt → Mgmt) : (s.withMgmt f).ctxs = s.ctxs := rfl
@[simp] theorem State.withMgmt_cores (s : State) (f : Mgmt → Mgmt) : (s.withMgmt f).cores = s.cores := rfl
@[simp] theorem State.withMgmt_hub (s : State) (f : Mgmt → Mgmt) : (s.withMgmt f).hub = s.hub := rfl
@[simp] theorem State.withMgmt_lastAccept (s : State) (f : Mgmt → Mgmt) : (s.withMgmt f).lastAccept = s.lastAccept := rfl
@[simp] theorem State.withMgmt_takers (s : State) (f : Mgmt → Mgmt) : (s.withMgmt f).takers = s.takers := rfl
@[simp] theorem State.withMgmt_upd (s : State) (f : Mgmt → Mgmt) : (s.withMgmt f).upd = s.upd := rfl
@[simp] theorem State.withMgmt_groups (s : State) (f : Mgmt → Mgmt) : (s.withMgmt f).groups = s.groups := rfl
@[simp] theorem State.withMgmt_coll (s : State) (f : Mgmt → Mgmt) : (s.withMgmt f).coll = s.coll := rfl
@[simp] theorem State.withMgmt_larder (s : State) (f : Mgmt → Mgmt) : (s.withMgmt f).larder = s.larder := rfl
@[simp] theorem State.withMgmt_hbm (s : State) (f : Mgmt → Mgmt) : (s.withMgmt f).hbm = s.hbm := rfl
@[simp] theorem State.withMgmt_tier (s : State) (f : Mgmt → Mgmt) : (s.withMgmt f).tier = s.tier := rfl
@[simp] theorem State.withMgmt_media (s : State) (f : Mgmt → Mgmt) : (s.withMgmt f).media = s.media := rfl
@[simp] theorem State.withMgmt_links (s : State) (f : Mgmt → Mgmt) : (s.withMgmt f).links = s.links := rfl
@[simp] theorem State.withMgmt_inbox (s : State) (f : Mgmt → Mgmt) : (s.withMgmt f).inbox = s.inbox := rfl
@[simp] theorem State.withMgmt_dones (s : State) (f : Mgmt → Mgmt) : (s.withMgmt f).dones = s.dones := rfl
@[simp] theorem State.withMgmt_nextXfer (s : State) (f : Mgmt → Mgmt) : (s.withMgmt f).nextXfer = s.nextXfer := rfl
@[simp] theorem State.withMgmt_arbs (s : State) (f : Mgmt → Mgmt) : (s.withMgmt f).arbs = s.arbs := rfl
@[simp] theorem State.withMgmt_arbPending (s : State) (f : Mgmt → Mgmt) : (s.withMgmt f).arbPending = s.arbPending := rfl
@[simp] theorem State.withMgmt_arbReqs (s : State) (f : Mgmt → Mgmt) : (s.withMgmt f).arbReqs = s.arbReqs := rfl
@[simp] theorem State.withMgmt_arbLast (s : State) (f : Mgmt → Mgmt) : (s.withMgmt f).arbLast = s.arbLast := rfl
@[simp] theorem State.withMgmt_buckets (s : State) (f : Mgmt → Mgmt) : (s.withMgmt f).buckets = s.buckets := rfl
@[simp] theorem State.withMgmt_charged (s : State) (f : Mgmt → Mgmt) : (s.withMgmt f).charged = s.charged := rfl
@[simp] theorem State.withMgmt_mgmt (s : State) (f : Mgmt → Mgmt) : (s.withMgmt f).mgmt = f s.mgmt := rfl
@[simp] theorem State.withMgmt_sec (s : State) (f : Mgmt → Mgmt) : (s.withMgmt f).sec = s.sec := rfl
@[simp] theorem State.withMgmt_diag (s : State) (f : Mgmt → Mgmt) : (s.withMgmt f).diag = s.diag := rfl
@[simp] theorem State.withMgmt_pwr (s : State) (f : Mgmt → Mgmt) : (s.withMgmt f).pwr = s.pwr := rfl
@[simp] theorem State.withMgmt_host (s : State) (f : Mgmt → Mgmt) : (s.withMgmt f).host = s.host := rfl
@[simp] theorem State.withMgmt_draws (s : State) (f : Mgmt → Mgmt) : (s.withMgmt f).draws = s.draws := rfl
@[simp] theorem State.withMgmt_out (s : State) (f : Mgmt → Mgmt) : (s.withMgmt f).out = s.out := rfl

@[simp] theorem State.withSec_pending (s : State) (f : Sec → Sec) : (s.withSec f).pending = s.pending := rfl
@[simp] theorem State.withSec_mem (s : State) (f : Sec → Sec) : (s.withSec f).mem = s.mem := rfl
@[simp] theorem State.withSec_od (s : State) (f : Sec → Sec) : (s.withSec f).od = s.od := rfl
@[simp] theorem State.withSec_nv (s : State) (f : Sec → Sec) : (s.withSec f).nv = s.nv := rfl
@[simp] theorem State.withSec_flash (s : State) (f : Sec → Sec) : (s.withSec f).flash = s.flash := rfl
@[simp] theorem State.withSec_storeFails (s : State) (f : Sec → Sec) : (s.withSec f).storeFails = s.storeFails := rfl
@[simp] theorem State.withSec_time (s : State) (f : Sec → Sec) : (s.withSec f).time = s.time := rfl
@[simp] theorem State.withSec_parts (s : State) (f : Sec → Sec) : (s.withSec f).parts = s.parts := rfl
@[simp] theorem State.withSec_ctxs (s : State) (f : Sec → Sec) : (s.withSec f).ctxs = s.ctxs := rfl
@[simp] theorem State.withSec_cores (s : State) (f : Sec → Sec) : (s.withSec f).cores = s.cores := rfl
@[simp] theorem State.withSec_hub (s : State) (f : Sec → Sec) : (s.withSec f).hub = s.hub := rfl
@[simp] theorem State.withSec_lastAccept (s : State) (f : Sec → Sec) : (s.withSec f).lastAccept = s.lastAccept := rfl
@[simp] theorem State.withSec_takers (s : State) (f : Sec → Sec) : (s.withSec f).takers = s.takers := rfl
@[simp] theorem State.withSec_upd (s : State) (f : Sec → Sec) : (s.withSec f).upd = s.upd := rfl
@[simp] theorem State.withSec_groups (s : State) (f : Sec → Sec) : (s.withSec f).groups = s.groups := rfl
@[simp] theorem State.withSec_coll (s : State) (f : Sec → Sec) : (s.withSec f).coll = s.coll := rfl
@[simp] theorem State.withSec_larder (s : State) (f : Sec → Sec) : (s.withSec f).larder = s.larder := rfl
@[simp] theorem State.withSec_hbm (s : State) (f : Sec → Sec) : (s.withSec f).hbm = s.hbm := rfl
@[simp] theorem State.withSec_tier (s : State) (f : Sec → Sec) : (s.withSec f).tier = s.tier := rfl
@[simp] theorem State.withSec_media (s : State) (f : Sec → Sec) : (s.withSec f).media = s.media := rfl
@[simp] theorem State.withSec_links (s : State) (f : Sec → Sec) : (s.withSec f).links = s.links := rfl
@[simp] theorem State.withSec_inbox (s : State) (f : Sec → Sec) : (s.withSec f).inbox = s.inbox := rfl
@[simp] theorem State.withSec_dones (s : State) (f : Sec → Sec) : (s.withSec f).dones = s.dones := rfl
@[simp] theorem State.withSec_nextXfer (s : State) (f : Sec → Sec) : (s.withSec f).nextXfer = s.nextXfer := rfl
@[simp] theorem State.withSec_arbs (s : State) (f : Sec → Sec) : (s.withSec f).arbs = s.arbs := rfl
@[simp] theorem State.withSec_arbPending (s : State) (f : Sec → Sec) : (s.withSec f).arbPending = s.arbPending := rfl
@[simp] theorem State.withSec_arbReqs (s : State) (f : Sec → Sec) : (s.withSec f).arbReqs = s.arbReqs := rfl
@[simp] theorem State.withSec_arbLast (s : State) (f : Sec → Sec) : (s.withSec f).arbLast = s.arbLast := rfl
@[simp] theorem State.withSec_buckets (s : State) (f : Sec → Sec) : (s.withSec f).buckets = s.buckets := rfl
@[simp] theorem State.withSec_charged (s : State) (f : Sec → Sec) : (s.withSec f).charged = s.charged := rfl
@[simp] theorem State.withSec_mgmt (s : State) (f : Sec → Sec) : (s.withSec f).mgmt = s.mgmt := rfl
@[simp] theorem State.withSec_sec (s : State) (f : Sec → Sec) : (s.withSec f).sec = f s.sec := rfl
@[simp] theorem State.withSec_diag (s : State) (f : Sec → Sec) : (s.withSec f).diag = s.diag := rfl
@[simp] theorem State.withSec_pwr (s : State) (f : Sec → Sec) : (s.withSec f).pwr = s.pwr := rfl
@[simp] theorem State.withSec_host (s : State) (f : Sec → Sec) : (s.withSec f).host = s.host := rfl
@[simp] theorem State.withSec_draws (s : State) (f : Sec → Sec) : (s.withSec f).draws = s.draws := rfl
@[simp] theorem State.withSec_out (s : State) (f : Sec → Sec) : (s.withSec f).out = s.out := rfl

@[simp] theorem State.withTime_pending (s : State) (f : TimeBase → TimeBase) : (s.withTime f).pending = s.pending := rfl
@[simp] theorem State.withTime_mem (s : State) (f : TimeBase → TimeBase) : (s.withTime f).mem = s.mem := rfl
@[simp] theorem State.withTime_od (s : State) (f : TimeBase → TimeBase) : (s.withTime f).od = s.od := rfl
@[simp] theorem State.withTime_nv (s : State) (f : TimeBase → TimeBase) : (s.withTime f).nv = s.nv := rfl
@[simp] theorem State.withTime_flash (s : State) (f : TimeBase → TimeBase) : (s.withTime f).flash = s.flash := rfl
@[simp] theorem State.withTime_storeFails (s : State) (f : TimeBase → TimeBase) : (s.withTime f).storeFails = s.storeFails := rfl
@[simp] theorem State.withTime_time (s : State) (f : TimeBase → TimeBase) : (s.withTime f).time = f s.time := rfl
@[simp] theorem State.withTime_parts (s : State) (f : TimeBase → TimeBase) : (s.withTime f).parts = s.parts := rfl
@[simp] theorem State.withTime_ctxs (s : State) (f : TimeBase → TimeBase) : (s.withTime f).ctxs = s.ctxs := rfl
@[simp] theorem State.withTime_cores (s : State) (f : TimeBase → TimeBase) : (s.withTime f).cores = s.cores := rfl
@[simp] theorem State.withTime_hub (s : State) (f : TimeBase → TimeBase) : (s.withTime f).hub = s.hub := rfl
@[simp] theorem State.withTime_lastAccept (s : State) (f : TimeBase → TimeBase) : (s.withTime f).lastAccept = s.lastAccept := rfl
@[simp] theorem State.withTime_takers (s : State) (f : TimeBase → TimeBase) : (s.withTime f).takers = s.takers := rfl
@[simp] theorem State.withTime_upd (s : State) (f : TimeBase → TimeBase) : (s.withTime f).upd = s.upd := rfl
@[simp] theorem State.withTime_groups (s : State) (f : TimeBase → TimeBase) : (s.withTime f).groups = s.groups := rfl
@[simp] theorem State.withTime_coll (s : State) (f : TimeBase → TimeBase) : (s.withTime f).coll = s.coll := rfl
@[simp] theorem State.withTime_larder (s : State) (f : TimeBase → TimeBase) : (s.withTime f).larder = s.larder := rfl
@[simp] theorem State.withTime_hbm (s : State) (f : TimeBase → TimeBase) : (s.withTime f).hbm = s.hbm := rfl
@[simp] theorem State.withTime_tier (s : State) (f : TimeBase → TimeBase) : (s.withTime f).tier = s.tier := rfl
@[simp] theorem State.withTime_media (s : State) (f : TimeBase → TimeBase) : (s.withTime f).media = s.media := rfl
@[simp] theorem State.withTime_links (s : State) (f : TimeBase → TimeBase) : (s.withTime f).links = s.links := rfl
@[simp] theorem State.withTime_inbox (s : State) (f : TimeBase → TimeBase) : (s.withTime f).inbox = s.inbox := rfl
@[simp] theorem State.withTime_dones (s : State) (f : TimeBase → TimeBase) : (s.withTime f).dones = s.dones := rfl
@[simp] theorem State.withTime_nextXfer (s : State) (f : TimeBase → TimeBase) : (s.withTime f).nextXfer = s.nextXfer := rfl
@[simp] theorem State.withTime_arbs (s : State) (f : TimeBase → TimeBase) : (s.withTime f).arbs = s.arbs := rfl
@[simp] theorem State.withTime_arbPending (s : State) (f : TimeBase → TimeBase) : (s.withTime f).arbPending = s.arbPending := rfl
@[simp] theorem State.withTime_arbReqs (s : State) (f : TimeBase → TimeBase) : (s.withTime f).arbReqs = s.arbReqs := rfl
@[simp] theorem State.withTime_arbLast (s : State) (f : TimeBase → TimeBase) : (s.withTime f).arbLast = s.arbLast := rfl
@[simp] theorem State.withTime_buckets (s : State) (f : TimeBase → TimeBase) : (s.withTime f).buckets = s.buckets := rfl
@[simp] theorem State.withTime_charged (s : State) (f : TimeBase → TimeBase) : (s.withTime f).charged = s.charged := rfl
@[simp] theorem State.withTime_mgmt (s : State) (f : TimeBase → TimeBase) : (s.withTime f).mgmt = s.mgmt := rfl
@[simp] theorem State.withTime_sec (s : State) (f : TimeBase → TimeBase) : (s.withTime f).sec = s.sec := rfl
@[simp] theorem State.withTime_diag (s : State) (f : TimeBase → TimeBase) : (s.withTime f).diag = s.diag := rfl
@[simp] theorem State.withTime_pwr (s : State) (f : TimeBase → TimeBase) : (s.withTime f).pwr = s.pwr := rfl
@[simp] theorem State.withTime_host (s : State) (f : TimeBase → TimeBase) : (s.withTime f).host = s.host := rfl
@[simp] theorem State.withTime_draws (s : State) (f : TimeBase → TimeBase) : (s.withTime f).draws = s.draws := rfl
@[simp] theorem State.withTime_out (s : State) (f : TimeBase → TimeBase) : (s.withTime f).out = s.out := rfl

@[simp] theorem State.withColl_pending (s : State) (f : Coll → Coll) : (s.withColl f).pending = s.pending := rfl
@[simp] theorem State.withColl_mem (s : State) (f : Coll → Coll) : (s.withColl f).mem = s.mem := rfl
@[simp] theorem State.withColl_od (s : State) (f : Coll → Coll) : (s.withColl f).od = s.od := rfl
@[simp] theorem State.withColl_nv (s : State) (f : Coll → Coll) : (s.withColl f).nv = s.nv := rfl
@[simp] theorem State.withColl_flash (s : State) (f : Coll → Coll) : (s.withColl f).flash = s.flash := rfl
@[simp] theorem State.withColl_storeFails (s : State) (f : Coll → Coll) : (s.withColl f).storeFails = s.storeFails := rfl
@[simp] theorem State.withColl_time (s : State) (f : Coll → Coll) : (s.withColl f).time = s.time := rfl
@[simp] theorem State.withColl_parts (s : State) (f : Coll → Coll) : (s.withColl f).parts = s.parts := rfl
@[simp] theorem State.withColl_ctxs (s : State) (f : Coll → Coll) : (s.withColl f).ctxs = s.ctxs := rfl
@[simp] theorem State.withColl_cores (s : State) (f : Coll → Coll) : (s.withColl f).cores = s.cores := rfl
@[simp] theorem State.withColl_hub (s : State) (f : Coll → Coll) : (s.withColl f).hub = s.hub := rfl
@[simp] theorem State.withColl_lastAccept (s : State) (f : Coll → Coll) : (s.withColl f).lastAccept = s.lastAccept := rfl
@[simp] theorem State.withColl_takers (s : State) (f : Coll → Coll) : (s.withColl f).takers = s.takers := rfl
@[simp] theorem State.withColl_upd (s : State) (f : Coll → Coll) : (s.withColl f).upd = s.upd := rfl
@[simp] theorem State.withColl_groups (s : State) (f : Coll → Coll) : (s.withColl f).groups = s.groups := rfl
@[simp] theorem State.withColl_coll (s : State) (f : Coll → Coll) : (s.withColl f).coll = f s.coll := rfl
@[simp] theorem State.withColl_larder (s : State) (f : Coll → Coll) : (s.withColl f).larder = s.larder := rfl
@[simp] theorem State.withColl_hbm (s : State) (f : Coll → Coll) : (s.withColl f).hbm = s.hbm := rfl
@[simp] theorem State.withColl_tier (s : State) (f : Coll → Coll) : (s.withColl f).tier = s.tier := rfl
@[simp] theorem State.withColl_media (s : State) (f : Coll → Coll) : (s.withColl f).media = s.media := rfl
@[simp] theorem State.withColl_links (s : State) (f : Coll → Coll) : (s.withColl f).links = s.links := rfl
@[simp] theorem State.withColl_inbox (s : State) (f : Coll → Coll) : (s.withColl f).inbox = s.inbox := rfl
@[simp] theorem State.withColl_dones (s : State) (f : Coll → Coll) : (s.withColl f).dones = s.dones := rfl
@[simp] theorem State.withColl_nextXfer (s : State) (f : Coll → Coll) : (s.withColl f).nextXfer = s.nextXfer := rfl
@[simp] theorem State.withColl_arbs (s : State) (f : Coll → Coll) : (s.withColl f).arbs = s.arbs := rfl
@[simp] theorem State.withColl_arbPending (s : State) (f : Coll → Coll) : (s.withColl f).arbPending = s.arbPending := rfl
@[simp] theorem State.withColl_arbReqs (s : State) (f : Coll → Coll) : (s.withColl f).arbReqs = s.arbReqs := rfl
@[simp] theorem State.withColl_arbLast (s : State) (f : Coll → Coll) : (s.withColl f).arbLast = s.arbLast := rfl
@[simp] theorem State.withColl_buckets (s : State) (f : Coll → Coll) : (s.withColl f).buckets = s.buckets := rfl
@[simp] theorem State.withColl_charged (s : State) (f : Coll → Coll) : (s.withColl f).charged = s.charged := rfl
@[simp] theorem State.withColl_mgmt (s : State) (f : Coll → Coll) : (s.withColl f).mgmt = s.mgmt := rfl
@[simp] theorem State.withColl_sec (s : State) (f : Coll → Coll) : (s.withColl f).sec = s.sec := rfl
@[simp] theorem State.withColl_diag (s : State) (f : Coll → Coll) : (s.withColl f).diag = s.diag := rfl
@[simp] theorem State.withColl_pwr (s : State) (f : Coll → Coll) : (s.withColl f).pwr = s.pwr := rfl
@[simp] theorem State.withColl_host (s : State) (f : Coll → Coll) : (s.withColl f).host = s.host := rfl
@[simp] theorem State.withColl_draws (s : State) (f : Coll → Coll) : (s.withColl f).draws = s.draws := rfl
@[simp] theorem State.withColl_out (s : State) (f : Coll → Coll) : (s.withColl f).out = s.out := rfl

@[simp] theorem State.withTier_pending (s : State) (f : Tier → Tier) : (s.withTier f).pending = s.pending := rfl
@[simp] theorem State.withTier_mem (s : State) (f : Tier → Tier) : (s.withTier f).mem = s.mem := rfl
@[simp] theorem State.withTier_od (s : State) (f : Tier → Tier) : (s.withTier f).od = s.od := rfl
@[simp] theorem State.withTier_nv (s : State) (f : Tier → Tier) : (s.withTier f).nv = s.nv := rfl
@[simp] theorem State.withTier_flash (s : State) (f : Tier → Tier) : (s.withTier f).flash = s.flash := rfl
@[simp] theorem State.withTier_storeFails (s : State) (f : Tier → Tier) : (s.withTier f).storeFails = s.storeFails := rfl
@[simp] theorem State.withTier_time (s : State) (f : Tier → Tier) : (s.withTier f).time = s.time := rfl
@[simp] theorem State.withTier_parts (s : State) (f : Tier → Tier) : (s.withTier f).parts = s.parts := rfl
@[simp] theorem State.withTier_ctxs (s : State) (f : Tier → Tier) : (s.withTier f).ctxs = s.ctxs := rfl
@[simp] theorem State.withTier_cores (s : State) (f : Tier → Tier) : (s.withTier f).cores = s.cores := rfl
@[simp] theorem State.withTier_hub (s : State) (f : Tier → Tier) : (s.withTier f).hub = s.hub := rfl
@[simp] theorem State.withTier_lastAccept (s : State) (f : Tier → Tier) : (s.withTier f).lastAccept = s.lastAccept := rfl
@[simp] theorem State.withTier_takers (s : State) (f : Tier → Tier) : (s.withTier f).takers = s.takers := rfl
@[simp] theorem State.withTier_upd (s : State) (f : Tier → Tier) : (s.withTier f).upd = s.upd := rfl
@[simp] theorem State.withTier_groups (s : State) (f : Tier → Tier) : (s.withTier f).groups = s.groups := rfl
@[simp] theorem State.withTier_coll (s : State) (f : Tier → Tier) : (s.withTier f).coll = s.coll := rfl
@[simp] theorem State.withTier_larder (s : State) (f : Tier → Tier) : (s.withTier f).larder = s.larder := rfl
@[simp] theorem State.withTier_hbm (s : State) (f : Tier → Tier) : (s.withTier f).hbm = s.hbm := rfl
@[simp] theorem State.withTier_tier (s : State) (f : Tier → Tier) : (s.withTier f).tier = f s.tier := rfl
@[simp] theorem State.withTier_media (s : State) (f : Tier → Tier) : (s.withTier f).media = s.media := rfl
@[simp] theorem State.withTier_links (s : State) (f : Tier → Tier) : (s.withTier f).links = s.links := rfl
@[simp] theorem State.withTier_inbox (s : State) (f : Tier → Tier) : (s.withTier f).inbox = s.inbox := rfl
@[simp] theorem State.withTier_dones (s : State) (f : Tier → Tier) : (s.withTier f).dones = s.dones := rfl
@[simp] theorem State.withTier_nextXfer (s : State) (f : Tier → Tier) : (s.withTier f).nextXfer = s.nextXfer := rfl
@[simp] theorem State.withTier_arbs (s : State) (f : Tier → Tier) : (s.withTier f).arbs = s.arbs := rfl
@[simp] theorem State.withTier_arbPending (s : State) (f : Tier → Tier) : (s.withTier f).arbPending = s.arbPending := rfl
@[simp] theorem State.withTier_arbReqs (s : State) (f : Tier → Tier) : (s.withTier f).arbReqs = s.arbReqs := rfl
@[simp] theorem State.withTier_arbLast (s : State) (f : Tier → Tier) : (s.withTier f).arbLast = s.arbLast := rfl
@[simp] theorem State.withTier_buckets (s : State) (f : Tier → Tier) : (s.withTier f).buckets = s.buckets := rfl
@[simp] theorem State.withTier_charged (s : State) (f : Tier → Tier) : (s.withTier f).charged = s.charged := rfl
@[simp] theorem State.withTier_mgmt (s : State) (f : Tier → Tier) : (s.withTier f).mgmt = s.mgmt := rfl
@[simp] theorem State.withTier_sec (s : State) (f : Tier → Tier) : (s.withTier f).sec = s.sec := rfl
@[simp] theorem State.withTier_diag (s : State) (f : Tier → Tier) : (s.withTier f).diag = s.diag := rfl
@[simp] theorem State.withTier_pwr (s : State) (f : Tier → Tier) : (s.withTier f).pwr = s.pwr := rfl
@[simp] theorem State.withTier_host (s : State) (f : Tier → Tier) : (s.withTier f).host = s.host := rfl
@[simp] theorem State.withTier_draws (s : State) (f : Tier → Tier) : (s.withTier f).draws = s.draws := rfl
@[simp] theorem State.withTier_out (s : State) (f : Tier → Tier) : (s.withTier f).out = s.out := rfl

@[simp] theorem State.withHbm_pending (s : State) (f : Hbm → Hbm) : (s.withHbm f).pending = s.pending := rfl
@[simp] theorem State.withHbm_mem (s : State) (f : Hbm → Hbm) : (s.withHbm f).mem = s.mem := rfl
@[simp] theorem State.withHbm_od (s : State) (f : Hbm → Hbm) : (s.withHbm f).od = s.od := rfl
@[simp] theorem State.withHbm_nv (s : State) (f : Hbm → Hbm) : (s.withHbm f).nv = s.nv := rfl
@[simp] theorem State.withHbm_flash (s : State) (f : Hbm → Hbm) : (s.withHbm f).flash = s.flash := rfl
@[simp] theorem State.withHbm_storeFails (s : State) (f : Hbm → Hbm) : (s.withHbm f).storeFails = s.storeFails := rfl
@[simp] theorem State.withHbm_time (s : State) (f : Hbm → Hbm) : (s.withHbm f).time = s.time := rfl
@[simp] theorem State.withHbm_parts (s : State) (f : Hbm → Hbm) : (s.withHbm f).parts = s.parts := rfl
@[simp] theorem State.withHbm_ctxs (s : State) (f : Hbm → Hbm) : (s.withHbm f).ctxs = s.ctxs := rfl
@[simp] theorem State.withHbm_cores (s : State) (f : Hbm → Hbm) : (s.withHbm f).cores = s.cores := rfl
@[simp] theorem State.withHbm_hub (s : State) (f : Hbm → Hbm) : (s.withHbm f).hub = s.hub := rfl
@[simp] theorem State.withHbm_lastAccept (s : State) (f : Hbm → Hbm) : (s.withHbm f).lastAccept = s.lastAccept := rfl
@[simp] theorem State.withHbm_takers (s : State) (f : Hbm → Hbm) : (s.withHbm f).takers = s.takers := rfl
@[simp] theorem State.withHbm_upd (s : State) (f : Hbm → Hbm) : (s.withHbm f).upd = s.upd := rfl
@[simp] theorem State.withHbm_groups (s : State) (f : Hbm → Hbm) : (s.withHbm f).groups = s.groups := rfl
@[simp] theorem State.withHbm_coll (s : State) (f : Hbm → Hbm) : (s.withHbm f).coll = s.coll := rfl
@[simp] theorem State.withHbm_larder (s : State) (f : Hbm → Hbm) : (s.withHbm f).larder = s.larder := rfl
@[simp] theorem State.withHbm_hbm (s : State) (f : Hbm → Hbm) : (s.withHbm f).hbm = f s.hbm := rfl
@[simp] theorem State.withHbm_tier (s : State) (f : Hbm → Hbm) : (s.withHbm f).tier = s.tier := rfl
@[simp] theorem State.withHbm_media (s : State) (f : Hbm → Hbm) : (s.withHbm f).media = s.media := rfl
@[simp] theorem State.withHbm_links (s : State) (f : Hbm → Hbm) : (s.withHbm f).links = s.links := rfl
@[simp] theorem State.withHbm_inbox (s : State) (f : Hbm → Hbm) : (s.withHbm f).inbox = s.inbox := rfl
@[simp] theorem State.withHbm_dones (s : State) (f : Hbm → Hbm) : (s.withHbm f).dones = s.dones := rfl
@[simp] theorem State.withHbm_nextXfer (s : State) (f : Hbm → Hbm) : (s.withHbm f).nextXfer = s.nextXfer := rfl
@[simp] theorem State.withHbm_arbs (s : State) (f : Hbm → Hbm) : (s.withHbm f).arbs = s.arbs := rfl
@[simp] theorem State.withHbm_arbPending (s : State) (f : Hbm → Hbm) : (s.withHbm f).arbPending = s.arbPending := rfl
@[simp] theorem State.withHbm_arbReqs (s : State) (f : Hbm → Hbm) : (s.withHbm f).arbReqs = s.arbReqs := rfl
@[simp] theorem State.withHbm_arbLast (s : State) (f : Hbm → Hbm) : (s.withHbm f).arbLast = s.arbLast := rfl
@[simp] theorem State.withHbm_buckets (s : State) (f : Hbm → Hbm) : (s.withHbm f).buckets = s.buckets := rfl
@[simp] theorem State.withHbm_charged (s : State) (f : Hbm → Hbm) : (s.withHbm f).charged = s.charged := rfl
@[simp] theorem State.withHbm_mgmt (s : State) (f : Hbm → Hbm) : (s.withHbm f).mgmt = s.mgmt := rfl
@[simp] theorem State.withHbm_sec (s : State) (f : Hbm → Hbm) : (s.withHbm f).sec = s.sec := rfl
@[simp] theorem State.withHbm_diag (s : State) (f : Hbm → Hbm) : (s.withHbm f).diag = s.diag := rfl
@[simp] theorem State.withHbm_pwr (s : State) (f : Hbm → Hbm) : (s.withHbm f).pwr = s.pwr := rfl
@[simp] theorem State.withHbm_host (s : State) (f : Hbm → Hbm) : (s.withHbm f).host = s.host := rfl
@[simp] theorem State.withHbm_draws (s : State) (f : Hbm → Hbm) : (s.withHbm f).draws = s.draws := rfl
@[simp] theorem State.withHbm_out (s : State) (f : Hbm → Hbm) : (s.withHbm f).out = s.out := rfl

@[simp] theorem State.withMedia_pending (s : State) (f : Media → Media) : (s.withMedia f).pending = s.pending := rfl
@[simp] theorem State.withMedia_mem (s : State) (f : Media → Media) : (s.withMedia f).mem = s.mem := rfl
@[simp] theorem State.withMedia_od (s : State) (f : Media → Media) : (s.withMedia f).od = s.od := rfl
@[simp] theorem State.withMedia_nv (s : State) (f : Media → Media) : (s.withMedia f).nv = s.nv := rfl
@[simp] theorem State.withMedia_flash (s : State) (f : Media → Media) : (s.withMedia f).flash = s.flash := rfl
@[simp] theorem State.withMedia_storeFails (s : State) (f : Media → Media) : (s.withMedia f).storeFails = s.storeFails := rfl
@[simp] theorem State.withMedia_time (s : State) (f : Media → Media) : (s.withMedia f).time = s.time := rfl
@[simp] theorem State.withMedia_parts (s : State) (f : Media → Media) : (s.withMedia f).parts = s.parts := rfl
@[simp] theorem State.withMedia_ctxs (s : State) (f : Media → Media) : (s.withMedia f).ctxs = s.ctxs := rfl
@[simp] theorem State.withMedia_cores (s : State) (f : Media → Media) : (s.withMedia f).cores = s.cores := rfl
@[simp] theorem State.withMedia_hub (s : State) (f : Media → Media) : (s.withMedia f).hub = s.hub := rfl
@[simp] theorem State.withMedia_lastAccept (s : State) (f : Media → Media) : (s.withMedia f).lastAccept = s.lastAccept := rfl
@[simp] theorem State.withMedia_takers (s : State) (f : Media → Media) : (s.withMedia f).takers = s.takers := rfl
@[simp] theorem State.withMedia_upd (s : State) (f : Media → Media) : (s.withMedia f).upd = s.upd := rfl
@[simp] theorem State.withMedia_groups (s : State) (f : Media → Media) : (s.withMedia f).groups = s.groups := rfl
@[simp] theorem State.withMedia_coll (s : State) (f : Media → Media) : (s.withMedia f).coll = s.coll := rfl
@[simp] theorem State.withMedia_larder (s : State) (f : Media → Media) : (s.withMedia f).larder = s.larder := rfl
@[simp] theorem State.withMedia_hbm (s : State) (f : Media → Media) : (s.withMedia f).hbm = s.hbm := rfl
@[simp] theorem State.withMedia_tier (s : State) (f : Media → Media) : (s.withMedia f).tier = s.tier := rfl
@[simp] theorem State.withMedia_media (s : State) (f : Media → Media) : (s.withMedia f).media = f s.media := rfl
@[simp] theorem State.withMedia_links (s : State) (f : Media → Media) : (s.withMedia f).links = s.links := rfl
@[simp] theorem State.withMedia_inbox (s : State) (f : Media → Media) : (s.withMedia f).inbox = s.inbox := rfl
@[simp] theorem State.withMedia_dones (s : State) (f : Media → Media) : (s.withMedia f).dones = s.dones := rfl
@[simp] theorem State.withMedia_nextXfer (s : State) (f : Media → Media) : (s.withMedia f).nextXfer = s.nextXfer := rfl
@[simp] theorem State.withMedia_arbs (s : State) (f : Media → Media) : (s.withMedia f).arbs = s.arbs := rfl
@[simp] theorem State.withMedia_arbPending (s : State) (f : Media → Media) : (s.withMedia f).arbPending = s.arbPending := rfl
@[simp] theorem State.withMedia_arbReqs (s : State) (f : Media → Media) : (s.withMedia f).arbReqs = s.arbReqs := rfl
@[simp] theorem State.withMedia_arbLast (s : State) (f : Media → Media) : (s.withMedia f).arbLast = s.arbLast := rfl
@[simp] theorem State.withMedia_buckets (s : State) (f : Media → Media) : (s.withMedia f).buckets = s.buckets := rfl
@[simp] theorem State.withMedia_charged (s : State) (f : Media → Media) : (s.withMedia f).charged = s.charged := rfl
@[simp] theorem State.withMedia_mgmt (s : State) (f : Media → Media) : (s.withMedia f).mgmt = s.mgmt := rfl
@[simp] theorem State.withMedia_sec (s : State) (f : Media → Media) : (s.withMedia f).sec = s.sec := rfl
@[simp] theorem State.withMedia_diag (s : State) (f : Media → Media) : (s.withMedia f).diag = s.diag := rfl
@[simp] theorem State.withMedia_pwr (s : State) (f : Media → Media) : (s.withMedia f).pwr = s.pwr := rfl
@[simp] theorem State.withMedia_host (s : State) (f : Media → Media) : (s.withMedia f).host = s.host := rfl
@[simp] theorem State.withMedia_draws (s : State) (f : Media → Media) : (s.withMedia f).draws = s.draws := rfl
@[simp] theorem State.withMedia_out (s : State) (f : Media → Media) : (s.withMedia f).out = s.out := rfl

@[simp] theorem State.odSet_pending (s : State) (ix sub : Nat) (v : Word) : (s.odSet ix sub v).pending = s.pending := rfl
@[simp] theorem State.odSet_mem (s : State) (ix sub : Nat) (v : Word) : (s.odSet ix sub v).mem = s.mem := rfl
@[simp] theorem State.odSet_od (s : State) (ix sub : Nat) (v : Word) : (s.odSet ix sub v).od = mapPut odDefault s.od (odKey ix sub) v := rfl
@[simp] theorem State.odSet_nv (s : State) (ix sub : Nat) (v : Word) : (s.odSet ix sub v).nv = s.nv := rfl
@[simp] theorem State.odSet_flash (s : State) (ix sub : Nat) (v : Word) : (s.odSet ix sub v).flash = s.flash := rfl
@[simp] theorem State.odSet_storeFails (s : State) (ix sub : Nat) (v : Word) : (s.odSet ix sub v).storeFails = s.storeFails := rfl
@[simp] theorem State.odSet_time (s : State) (ix sub : Nat) (v : Word) : (s.odSet ix sub v).time = s.time := rfl
@[simp] theorem State.odSet_parts (s : State) (ix sub : Nat) (v : Word) : (s.odSet ix sub v).parts = s.parts := rfl
@[simp] theorem State.odSet_ctxs (s : State) (ix sub : Nat) (v : Word) : (s.odSet ix sub v).ctxs = s.ctxs := rfl
@[simp] theorem State.odSet_cores (s : State) (ix sub : Nat) (v : Word) : (s.odSet ix sub v).cores = s.cores := rfl
@[simp] theorem State.odSet_hub (s : State) (ix sub : Nat) (v : Word) : (s.odSet ix sub v).hub = s.hub := rfl
@[simp] theorem State.odSet_lastAccept (s : State) (ix sub : Nat) (v : Word) : (s.odSet ix sub v).lastAccept = s.lastAccept := rfl
@[simp] theorem State.odSet_takers (s : State) (ix sub : Nat) (v : Word) : (s.odSet ix sub v).takers = s.takers := rfl
@[simp] theorem State.odSet_upd (s : State) (ix sub : Nat) (v : Word) : (s.odSet ix sub v).upd = s.upd := rfl
@[simp] theorem State.odSet_groups (s : State) (ix sub : Nat) (v : Word) : (s.odSet ix sub v).groups = s.groups := rfl
@[simp] theorem State.odSet_coll (s : State) (ix sub : Nat) (v : Word) : (s.odSet ix sub v).coll = s.coll := rfl
@[simp] theorem State.odSet_larder (s : State) (ix sub : Nat) (v : Word) : (s.odSet ix sub v).larder = s.larder := rfl
@[simp] theorem State.odSet_hbm (s : State) (ix sub : Nat) (v : Word) : (s.odSet ix sub v).hbm = s.hbm := rfl
@[simp] theorem State.odSet_tier (s : State) (ix sub : Nat) (v : Word) : (s.odSet ix sub v).tier = s.tier := rfl
@[simp] theorem State.odSet_media (s : State) (ix sub : Nat) (v : Word) : (s.odSet ix sub v).media = s.media := rfl
@[simp] theorem State.odSet_links (s : State) (ix sub : Nat) (v : Word) : (s.odSet ix sub v).links = s.links := rfl
@[simp] theorem State.odSet_inbox (s : State) (ix sub : Nat) (v : Word) : (s.odSet ix sub v).inbox = s.inbox := rfl
@[simp] theorem State.odSet_dones (s : State) (ix sub : Nat) (v : Word) : (s.odSet ix sub v).dones = s.dones := rfl
@[simp] theorem State.odSet_nextXfer (s : State) (ix sub : Nat) (v : Word) : (s.odSet ix sub v).nextXfer = s.nextXfer := rfl
@[simp] theorem State.odSet_arbs (s : State) (ix sub : Nat) (v : Word) : (s.odSet ix sub v).arbs = s.arbs := rfl
@[simp] theorem State.odSet_arbPending (s : State) (ix sub : Nat) (v : Word) : (s.odSet ix sub v).arbPending = s.arbPending := rfl
@[simp] theorem State.odSet_arbReqs (s : State) (ix sub : Nat) (v : Word) : (s.odSet ix sub v).arbReqs = s.arbReqs := rfl
@[simp] theorem State.odSet_arbLast (s : State) (ix sub : Nat) (v : Word) : (s.odSet ix sub v).arbLast = s.arbLast := rfl
@[simp] theorem State.odSet_buckets (s : State) (ix sub : Nat) (v : Word) : (s.odSet ix sub v).buckets = s.buckets := rfl
@[simp] theorem State.odSet_charged (s : State) (ix sub : Nat) (v : Word) : (s.odSet ix sub v).charged = s.charged := rfl
@[simp] theorem State.odSet_mgmt (s : State) (ix sub : Nat) (v : Word) : (s.odSet ix sub v).mgmt = s.mgmt := rfl
@[simp] theorem State.odSet_sec (s : State) (ix sub : Nat) (v : Word) : (s.odSet ix sub v).sec = s.sec := rfl
@[simp] theorem State.odSet_diag (s : State) (ix sub : Nat) (v : Word) : (s.odSet ix sub v).diag = s.diag := rfl
@[simp] theorem State.odSet_pwr (s : State) (ix sub : Nat) (v : Word) : (s.odSet ix sub v).pwr = s.pwr := rfl
@[simp] theorem State.odSet_host (s : State) (ix sub : Nat) (v : Word) : (s.odSet ix sub v).host = s.host := rfl
@[simp] theorem State.odSet_draws (s : State) (ix sub : Nat) (v : Word) : (s.odSet ix sub v).draws = s.draws := rfl
@[simp] theorem State.odSet_out (s : State) (ix sub : Nat) (v : Word) : (s.odSet ix sub v).out = s.out := rfl

@[simp] theorem State.odSetN_pending (s : State) (ix sub v : Nat) : (s.odSetN ix sub v).pending = s.pending := rfl
@[simp] theorem State.odSetN_mem (s : State) (ix sub v : Nat) : (s.odSetN ix sub v).mem = s.mem := rfl
@[simp] theorem State.odSetN_od (s : State) (ix sub v : Nat) : (s.odSetN ix sub v).od = mapPut odDefault s.od (odKey ix sub) (BitVec.ofNat 64 v) := rfl
@[simp] theorem State.odSetN_nv (s : State) (ix sub v : Nat) : (s.odSetN ix sub v).nv = s.nv := rfl
@[simp] theorem State.odSetN_flash (s : State) (ix sub v : Nat) : (s.odSetN ix sub v).flash = s.flash := rfl
@[simp] theorem State.odSetN_storeFails (s : State) (ix sub v : Nat) : (s.odSetN ix sub v).storeFails = s.storeFails := rfl
@[simp] theorem State.odSetN_time (s : State) (ix sub v : Nat) : (s.odSetN ix sub v).time = s.time := rfl
@[simp] theorem State.odSetN_parts (s : State) (ix sub v : Nat) : (s.odSetN ix sub v).parts = s.parts := rfl
@[simp] theorem State.odSetN_ctxs (s : State) (ix sub v : Nat) : (s.odSetN ix sub v).ctxs = s.ctxs := rfl
@[simp] theorem State.odSetN_cores (s : State) (ix sub v : Nat) : (s.odSetN ix sub v).cores = s.cores := rfl
@[simp] theorem State.odSetN_hub (s : State) (ix sub v : Nat) : (s.odSetN ix sub v).hub = s.hub := rfl
@[simp] theorem State.odSetN_lastAccept (s : State) (ix sub v : Nat) : (s.odSetN ix sub v).lastAccept = s.lastAccept := rfl
@[simp] theorem State.odSetN_takers (s : State) (ix sub v : Nat) : (s.odSetN ix sub v).takers = s.takers := rfl
@[simp] theorem State.odSetN_upd (s : State) (ix sub v : Nat) : (s.odSetN ix sub v).upd = s.upd := rfl
@[simp] theorem State.odSetN_groups (s : State) (ix sub v : Nat) : (s.odSetN ix sub v).groups = s.groups := rfl
@[simp] theorem State.odSetN_coll (s : State) (ix sub v : Nat) : (s.odSetN ix sub v).coll = s.coll := rfl
@[simp] theorem State.odSetN_larder (s : State) (ix sub v : Nat) : (s.odSetN ix sub v).larder = s.larder := rfl
@[simp] theorem State.odSetN_hbm (s : State) (ix sub v : Nat) : (s.odSetN ix sub v).hbm = s.hbm := rfl
@[simp] theorem State.odSetN_tier (s : State) (ix sub v : Nat) : (s.odSetN ix sub v).tier = s.tier := rfl
@[simp] theorem State.odSetN_media (s : State) (ix sub v : Nat) : (s.odSetN ix sub v).media = s.media := rfl
@[simp] theorem State.odSetN_links (s : State) (ix sub v : Nat) : (s.odSetN ix sub v).links = s.links := rfl
@[simp] theorem State.odSetN_inbox (s : State) (ix sub v : Nat) : (s.odSetN ix sub v).inbox = s.inbox := rfl
@[simp] theorem State.odSetN_dones (s : State) (ix sub v : Nat) : (s.odSetN ix sub v).dones = s.dones := rfl
@[simp] theorem State.odSetN_nextXfer (s : State) (ix sub v : Nat) : (s.odSetN ix sub v).nextXfer = s.nextXfer := rfl
@[simp] theorem State.odSetN_arbs (s : State) (ix sub v : Nat) : (s.odSetN ix sub v).arbs = s.arbs := rfl
@[simp] theorem State.odSetN_arbPending (s : State) (ix sub v : Nat) : (s.odSetN ix sub v).arbPending = s.arbPending := rfl
@[simp] theorem State.odSetN_arbReqs (s : State) (ix sub v : Nat) : (s.odSetN ix sub v).arbReqs = s.arbReqs := rfl
@[simp] theorem State.odSetN_arbLast (s : State) (ix sub v : Nat) : (s.odSetN ix sub v).arbLast = s.arbLast := rfl
@[simp] theorem State.odSetN_buckets (s : State) (ix sub v : Nat) : (s.odSetN ix sub v).buckets = s.buckets := rfl
@[simp] theorem State.odSetN_charged (s : State) (ix sub v : Nat) : (s.odSetN ix sub v).charged = s.charged := rfl
@[simp] theorem State.odSetN_mgmt (s : State) (ix sub v : Nat) : (s.odSetN ix sub v).mgmt = s.mgmt := rfl
@[simp] theorem State.odSetN_sec (s : State) (ix sub v : Nat) : (s.odSetN ix sub v).sec = s.sec := rfl
@[simp] theorem State.odSetN_diag (s : State) (ix sub v : Nat) : (s.odSetN ix sub v).diag = s.diag := rfl
@[simp] theorem State.odSetN_pwr (s : State) (ix sub v : Nat) : (s.odSetN ix sub v).pwr = s.pwr := rfl
@[simp] theorem State.odSetN_host (s : State) (ix sub v : Nat) : (s.odSetN ix sub v).host = s.host := rfl
@[simp] theorem State.odSetN_draws (s : State) (ix sub v : Nat) : (s.odSetN ix sub v).draws = s.draws := rfl
@[simp] theorem State.odSetN_out (s : State) (ix sub v : Nat) : (s.odSetN ix sub v).out = s.out := rfl

@[simp] theorem State.nvSet_pending (s : State) (ix sub : Nat) (v : Word) : (s.nvSet ix sub v).pending = s.pending := rfl
@[simp] theorem State.nvSet_mem (s : State) (ix sub : Nat) (v : Word) : (s.nvSet ix sub v).mem = s.mem := rfl
@[simp] theorem State.nvSet_od (s : State) (ix sub : Nat) (v : Word) : (s.nvSet ix sub v).od = s.od := rfl
@[simp] theorem State.nvSet_nv (s : State) (ix sub : Nat) (v : Word) : (s.nvSet ix sub v).nv = mapPut odDefault s.nv (odKey ix sub) v := rfl
@[simp] theorem State.nvSet_flash (s : State) (ix sub : Nat) (v : Word) : (s.nvSet ix sub v).flash = s.nvRecord (odKey ix sub) v :: s.flash := rfl
@[simp] theorem State.nvSet_storeFails (s : State) (ix sub : Nat) (v : Word) : (s.nvSet ix sub v).storeFails = s.storeFails := rfl
@[simp] theorem State.nvSet_time (s : State) (ix sub : Nat) (v : Word) : (s.nvSet ix sub v).time = s.time := rfl
@[simp] theorem State.nvSet_parts (s : State) (ix sub : Nat) (v : Word) : (s.nvSet ix sub v).parts = s.parts := rfl
@[simp] theorem State.nvSet_ctxs (s : State) (ix sub : Nat) (v : Word) : (s.nvSet ix sub v).ctxs = s.ctxs := rfl
@[simp] theorem State.nvSet_cores (s : State) (ix sub : Nat) (v : Word) : (s.nvSet ix sub v).cores = s.cores := rfl
@[simp] theorem State.nvSet_hub (s : State) (ix sub : Nat) (v : Word) : (s.nvSet ix sub v).hub = s.hub := rfl
@[simp] theorem State.nvSet_lastAccept (s : State) (ix sub : Nat) (v : Word) : (s.nvSet ix sub v).lastAccept = s.lastAccept := rfl
@[simp] theorem State.nvSet_takers (s : State) (ix sub : Nat) (v : Word) : (s.nvSet ix sub v).takers = s.takers := rfl
@[simp] theorem State.nvSet_upd (s : State) (ix sub : Nat) (v : Word) : (s.nvSet ix sub v).upd = s.upd := rfl
@[simp] theorem State.nvSet_groups (s : State) (ix sub : Nat) (v : Word) : (s.nvSet ix sub v).groups = s.groups := rfl
@[simp] theorem State.nvSet_coll (s : State) (ix sub : Nat) (v : Word) : (s.nvSet ix sub v).coll = s.coll := rfl
@[simp] theorem State.nvSet_larder (s : State) (ix sub : Nat) (v : Word) : (s.nvSet ix sub v).larder = s.larder := rfl
@[simp] theorem State.nvSet_hbm (s : State) (ix sub : Nat) (v : Word) : (s.nvSet ix sub v).hbm = s.hbm := rfl
@[simp] theorem State.nvSet_tier (s : State) (ix sub : Nat) (v : Word) : (s.nvSet ix sub v).tier = s.tier := rfl
@[simp] theorem State.nvSet_media (s : State) (ix sub : Nat) (v : Word) : (s.nvSet ix sub v).media = s.media := rfl
@[simp] theorem State.nvSet_links (s : State) (ix sub : Nat) (v : Word) : (s.nvSet ix sub v).links = s.links := rfl
@[simp] theorem State.nvSet_inbox (s : State) (ix sub : Nat) (v : Word) : (s.nvSet ix sub v).inbox = s.inbox := rfl
@[simp] theorem State.nvSet_dones (s : State) (ix sub : Nat) (v : Word) : (s.nvSet ix sub v).dones = s.dones := rfl
@[simp] theorem State.nvSet_nextXfer (s : State) (ix sub : Nat) (v : Word) : (s.nvSet ix sub v).nextXfer = s.nextXfer := rfl
@[simp] theorem State.nvSet_arbs (s : State) (ix sub : Nat) (v : Word) : (s.nvSet ix sub v).arbs = s.arbs := rfl
@[simp] theorem State.nvSet_arbPending (s : State) (ix sub : Nat) (v : Word) : (s.nvSet ix sub v).arbPending = s.arbPending := rfl
@[simp] theorem State.nvSet_arbReqs (s : State) (ix sub : Nat) (v : Word) : (s.nvSet ix sub v).arbReqs = s.arbReqs := rfl
@[simp] theorem State.nvSet_arbLast (s : State) (ix sub : Nat) (v : Word) : (s.nvSet ix sub v).arbLast = s.arbLast := rfl
@[simp] theorem State.nvSet_buckets (s : State) (ix sub : Nat) (v : Word) : (s.nvSet ix sub v).buckets = s.buckets := rfl
@[simp] theorem State.nvSet_charged (s : State) (ix sub : Nat) (v : Word) : (s.nvSet ix sub v).charged = s.charged := rfl
@[simp] theorem State.nvSet_mgmt (s : State) (ix sub : Nat) (v : Word) : (s.nvSet ix sub v).mgmt = s.mgmt := rfl
@[simp] theorem State.nvSet_sec (s : State) (ix sub : Nat) (v : Word) : (s.nvSet ix sub v).sec = s.sec := rfl
@[simp] theorem State.nvSet_diag (s : State) (ix sub : Nat) (v : Word) : (s.nvSet ix sub v).diag = s.diag := rfl
@[simp] theorem State.nvSet_pwr (s : State) (ix sub : Nat) (v : Word) : (s.nvSet ix sub v).pwr = s.pwr := rfl
@[simp] theorem State.nvSet_host (s : State) (ix sub : Nat) (v : Word) : (s.nvSet ix sub v).host = s.host := rfl
@[simp] theorem State.nvSet_draws (s : State) (ix sub : Nat) (v : Word) : (s.nvSet ix sub v).draws = s.draws := rfl
@[simp] theorem State.nvSet_out (s : State) (ix sub : Nat) (v : Word) : (s.nvSet ix sub v).out = s.out := rfl

@[simp] theorem State.emit_pending (s : State) (o : Out) : (s.emit o).pending = s.pending := rfl
@[simp] theorem State.emit_mem (s : State) (o : Out) : (s.emit o).mem = s.mem := rfl
@[simp] theorem State.emit_od (s : State) (o : Out) : (s.emit o).od = s.od := rfl
@[simp] theorem State.emit_nv (s : State) (o : Out) : (s.emit o).nv = s.nv := rfl
@[simp] theorem State.emit_flash (s : State) (o : Out) : (s.emit o).flash = s.flash := rfl
@[simp] theorem State.emit_storeFails (s : State) (o : Out) : (s.emit o).storeFails = s.storeFails := rfl
@[simp] theorem State.emit_time (s : State) (o : Out) : (s.emit o).time = s.time := rfl
@[simp] theorem State.emit_parts (s : State) (o : Out) : (s.emit o).parts = s.parts := rfl
@[simp] theorem State.emit_ctxs (s : State) (o : Out) : (s.emit o).ctxs = s.ctxs := rfl
@[simp] theorem State.emit_cores (s : State) (o : Out) : (s.emit o).cores = s.cores := rfl
@[simp] theorem State.emit_hub (s : State) (o : Out) : (s.emit o).hub = s.hub := rfl
@[simp] theorem State.emit_lastAccept (s : State) (o : Out) : (s.emit o).lastAccept = s.lastAccept := rfl
@[simp] theorem State.emit_takers (s : State) (o : Out) : (s.emit o).takers = s.takers := rfl
@[simp] theorem State.emit_upd (s : State) (o : Out) : (s.emit o).upd = s.upd := rfl
@[simp] theorem State.emit_groups (s : State) (o : Out) : (s.emit o).groups = s.groups := rfl
@[simp] theorem State.emit_coll (s : State) (o : Out) : (s.emit o).coll = s.coll := rfl
@[simp] theorem State.emit_larder (s : State) (o : Out) : (s.emit o).larder = s.larder := rfl
@[simp] theorem State.emit_hbm (s : State) (o : Out) : (s.emit o).hbm = s.hbm := rfl
@[simp] theorem State.emit_tier (s : State) (o : Out) : (s.emit o).tier = s.tier := rfl
@[simp] theorem State.emit_media (s : State) (o : Out) : (s.emit o).media = s.media := rfl
@[simp] theorem State.emit_links (s : State) (o : Out) : (s.emit o).links = s.links := rfl
@[simp] theorem State.emit_inbox (s : State) (o : Out) : (s.emit o).inbox = s.inbox := rfl
@[simp] theorem State.emit_dones (s : State) (o : Out) : (s.emit o).dones = s.dones := rfl
@[simp] theorem State.emit_nextXfer (s : State) (o : Out) : (s.emit o).nextXfer = s.nextXfer := rfl
@[simp] theorem State.emit_arbs (s : State) (o : Out) : (s.emit o).arbs = s.arbs := rfl
@[simp] theorem State.emit_arbPending (s : State) (o : Out) : (s.emit o).arbPending = s.arbPending := rfl
@[simp] theorem State.emit_arbReqs (s : State) (o : Out) : (s.emit o).arbReqs = s.arbReqs := rfl
@[simp] theorem State.emit_arbLast (s : State) (o : Out) : (s.emit o).arbLast = s.arbLast := rfl
@[simp] theorem State.emit_buckets (s : State) (o : Out) : (s.emit o).buckets = s.buckets := rfl
@[simp] theorem State.emit_charged (s : State) (o : Out) : (s.emit o).charged = s.charged := rfl
@[simp] theorem State.emit_mgmt (s : State) (o : Out) : (s.emit o).mgmt = s.mgmt := rfl
@[simp] theorem State.emit_sec (s : State) (o : Out) : (s.emit o).sec = s.sec := rfl
@[simp] theorem State.emit_diag (s : State) (o : Out) : (s.emit o).diag = s.diag := rfl
@[simp] theorem State.emit_pwr (s : State) (o : Out) : (s.emit o).pwr = s.pwr := rfl
@[simp] theorem State.emit_host (s : State) (o : Out) : (s.emit o).host = s.host := rfl
@[simp] theorem State.emit_draws (s : State) (o : Out) : (s.emit o).draws = s.draws := rfl
@[simp] theorem State.emit_out (s : State) (o : Out) : (s.emit o).out = s.out ++ [o] := rfl

end Sys2Proof.Machine
end

