-- ==== Sys2Proof/Laws/Keep.lean ====
section
/-! SUPPORT. What every operation of the model keeps: the queue of commands that wait, and the soundness of the state. The lemmas named `…_kept` say it of one operation each. -/
namespace Sys2Proof.Machine

/-- The queue is `Q` and the state is sound. -/
@[irreducible] def Kept (Q : List Instr) (s : State) : Prop := s.pending = Q ∧ s.Sound

variable {Q : List Instr}

/-- What is kept, in terms of the fields it looks at. -/
theorem kept_iff {s : State} : Kept Q s ↔ s.pending = Q ∧ memWf s.mem = true
    ∧ (s.parts.length = 16 ∧ s.ctxs.length = 256 ∧ s.cores.length = 384 ∧ s.upd.length = 4 ∧ s.groups.length = 256 ∧ s.links.length = 36)
    ∧ (s.diag.ring.length ≤ 4096 ∧ s.diag.recorder.length ≤ 524288 ∧ s.mgmt.events.length ≤ 64 ∧ s.mgmt.replies.length ≤ 16
    ∧ s.host.cache.length ≤ 16384 ∧ s.host.snoop.length ≤ 2097152) ∧ mapWf odDefault s.od = true ∧ mapWf odDefault s.nv = true := by
  unfold Kept
  exact Iff.rfl

/-- A state written out over a kept one: same queue and memory, lists of the same lengths, the same buffers. -/
theorem kept_mk {s : State} {flash : List NvRec} {storeFails : Nat} {time : TimeBase} {parts : List Partition} {ctxs : List Context} {cores : List Core} {hub : List Exec} {lastAccept : List Nat} {takers : List (Nat × Consumer × Nat)} {upd : List UpdEngine} {groups : List NormGroup} {coll : Coll} {larder : Larder} {hbm : Hbm} {tier : Tier} {media : Media} {links : List Link} {inbox : List Packet} {dones : List PendingDone} {nextXfer : Nat} {arbs : List ArbSet} {arbPending : List (Nat × ArbSet)} {arbReqs : List ReqState} {arbLast : List (Nat × Nat × Nat)} {buckets : List Bucket} {charged : List (Nat × Nat)} {mgmt : Mgmt} {sec : Sec} {diag : Diag} {pwr : Pwr} {host : HostPort} {draws : List (Nat × Nat)} {out : List Out}
    (h : Kept Q s) (h0 : parts.length = s.parts.length) (h1 : ctxs.length = s.ctxs.length) (h2 : cores.length = s.cores.length) (h3 : upd.length = s.upd.length) (h4 : groups.length = s.groups.length) (h5 : links.length = s.links.length)
    (hd : diag.ring = s.diag.ring ∧ diag.recorder = s.diag.recorder) (hg : mgmt.events = s.mgmt.events ∧ mgmt.replies = s.mgmt.replies)
    (hh : host.cache = s.host.cache ∧ host.snoop = s.host.snoop) :
    Kept Q (State.mk s.pending s.mem s.od s.nv flash storeFails time parts ctxs cores hub lastAccept takers upd groups coll larder hbm tier media links inbox dones nextXfer arbs arbPending arbReqs arbLast buckets charged mgmt sec diag pwr host draws out) := by
  rw [kept_iff] at h ⊢
  obtain ⟨a, b, ⟨c0, c1, c2, c3, c4, c5⟩, ⟨d0, d1, d2, d3, d4, d5⟩, e⟩ := h
  exact ⟨a, b, ⟨h0.trans c0, h1.trans c1, h2.trans c2, h3.trans c3, h4.trans c4, h5.trans c5⟩, ⟨hd.1 ▸ d0, hd.2 ▸ d1, hg.1 ▸ d2, hg.2 ▸ d3, hh.1 ▸ d4, hh.2 ▸ d5⟩, e⟩

/-- A state written out over a kept one that changes nothing looked at. -/
theorem kept_same {s : State} {flash : List NvRec} {storeFails : Nat} {time : TimeBase} {hub : List Exec} {lastAccept : List Nat} {takers : List (Nat × Consumer × Nat)} {coll : Coll} {larder : Larder} {hbm : Hbm} {tier : Tier} {media : Media} {inbox : List Packet} {dones : List PendingDone} {nextXfer : Nat} {arbs : List ArbSet} {arbPending : List (Nat × ArbSet)} {arbReqs : List ReqState} {arbLast : List (Nat × Nat × Nat)} {buckets : List Bucket} {charged : List (Nat × Nat)} {sec : Sec} {pwr : Pwr} {draws : List (Nat × Nat)} {out : List Out} (h : Kept Q s) :
    Kept Q (State.mk s.pending s.mem s.od s.nv flash storeFails time s.parts s.ctxs s.cores hub lastAccept takers s.upd s.groups coll larder hbm tier media s.links inbox dones nextXfer arbs arbPending arbReqs arbLast buckets charged s.mgmt sec s.diag pwr s.host draws out) := kept_mk h rfl rfl rfl rfl rfl rfl ⟨rfl, rfl⟩ ⟨rfl, rfl⟩ ⟨rfl, rfl⟩

/-- Memory replaced by another in canonical form. -/
theorem kept_mem {s : State} {m : List Host.Cell} (h : Kept Q s) (hm : memWf m = true) : Kept Q { s with mem := m } := by
  rw [kept_iff] at h ⊢
  exact ⟨h.1, hm, h.2.2⟩

/-- The entries replaced by others in canonical form. -/
theorem kept_entries {s : State} {od nv : List (Nat × Word)} {flash : List NvRec} (h : Kept Q s) (h1 : mapWf odDefault od = true) (h2 : mapWf odDefault nv = true) : Kept Q { s with od := od, nv := nv, flash := flash } := by
  rw [kept_iff] at h ⊢
  exact ⟨h.1, h.2.1, h.2.2.1, h.2.2.2.1, h1, h2⟩

theorem Kept.od {s : State} (h : Kept Q s) : mapWf odDefault s.od = true := (kept_iff.1 h).2.2.2.2.1
theorem Kept.nv {s : State} (h : Kept Q s) : mapWf odDefault s.nv = true := (kept_iff.1 h).2.2.2.2.2

theorem State.updCore_kept {s : State} (n : Nat) (f : Core → Core) (h : Kept Q s) : Kept Q (s.updCore n f) := kept_mk h rfl rfl (modAt_length _ _ _) rfl rfl rfl ⟨rfl, rfl⟩ ⟨rfl, rfl⟩ ⟨rfl, rfl⟩
theorem State.updCtx_kept {s : State} (cc : Nat) (f : Context → Context) (h : Kept Q s) : Kept Q (s.updCtx cc f) := kept_mk h rfl (modAt_length _ _ _) rfl rfl rfl rfl ⟨rfl, rfl⟩ ⟨rfl, rfl⟩ ⟨rfl, rfl⟩
theorem State.updPart_kept {s : State} (p : Nat) (f : Partition → Partition) (h : Kept Q s) : Kept Q (s.updPart p f) := kept_mk h (modAt_length _ _ _) rfl rfl rfl rfl rfl ⟨rfl, rfl⟩ ⟨rfl, rfl⟩ ⟨rfl, rfl⟩
theorem State.updLink_kept {s : State} (l : Nat) (f : Link → Link) (h : Kept Q s) : Kept Q (s.updLink l f) := kept_mk h rfl rfl rfl rfl rfl (modAt_length _ _ _) ⟨rfl, rfl⟩ ⟨rfl, rfl⟩ ⟨rfl, rfl⟩
theorem State.updGroup_kept {s : State} (p g : Nat) (f : NormGroup → NormGroup) (h : Kept Q s) : Kept Q (s.updGroup p g f) := kept_mk h rfl rfl rfl rfl (modAt_length _ _ _) rfl ⟨rfl, rfl⟩ ⟨rfl, rfl⟩ ⟨rfl, rfl⟩
theorem State.updEngine_kept {s : State} (c : Nat) (f : UpdEngine → UpdEngine) (h : Kept Q s) : Kept Q (s.updEngine c f) := kept_mk h rfl rfl rfl (modAt_length _ _ _) rfl rfl ⟨rfl, rfl⟩ ⟨rfl, rfl⟩ ⟨rfl, rfl⟩
theorem State.updIsland_kept {s : State} (i : Nat) (f : Island → Island) (h : Kept Q s) : Kept Q (s.updIsland i f) := kept_mk h rfl rfl rfl rfl rfl rfl ⟨rfl, rfl⟩ ⟨rfl, rfl⟩ ⟨rfl, rfl⟩
theorem State.updStack_kept {s : State} (i : Nat) (f : Stack → Stack) (h : Kept Q s) : Kept Q (s.updStack i f) := kept_mk h rfl rfl rfl rfl rfl rfl ⟨rfl, rfl⟩ ⟨rfl, rfl⟩ ⟨rfl, rfl⟩
theorem State.updBarrier_kept {s : State} (p g : Nat) (f : BarGroup → BarGroup) (h : Kept Q s) : Kept Q (s.updBarrier p g f) := kept_mk h rfl rfl rfl rfl rfl rfl ⟨rfl, rfl⟩ ⟨rfl, rfl⟩ ⟨rfl, rfl⟩
theorem State.withPwr_kept {s : State} (f : Pwr → Pwr) (h : Kept Q s) : Kept Q (s.withPwr f) := kept_mk h rfl rfl rfl rfl rfl rfl ⟨rfl, rfl⟩ ⟨rfl, rfl⟩ ⟨rfl, rfl⟩
theorem State.withSec_kept {s : State} (f : Sec → Sec) (h : Kept Q s) : Kept Q (s.withSec f) := kept_mk h rfl rfl rfl rfl rfl rfl ⟨rfl, rfl⟩ ⟨rfl, rfl⟩ ⟨rfl, rfl⟩
theorem State.withTime_kept {s : State} (f : TimeBase → TimeBase) (h : Kept Q s) : Kept Q (s.withTime f) := kept_mk h rfl rfl rfl rfl rfl rfl ⟨rfl, rfl⟩ ⟨rfl, rfl⟩ ⟨rfl, rfl⟩
theorem State.withColl_kept {s : State} (f : Coll → Coll) (h : Kept Q s) : Kept Q (s.withColl f) := kept_mk h rfl rfl rfl rfl rfl rfl ⟨rfl, rfl⟩ ⟨rfl, rfl⟩ ⟨rfl, rfl⟩
theorem State.withTier_kept {s : State} (f : Tier → Tier) (h : Kept Q s) : Kept Q (s.withTier f) := kept_mk h rfl rfl rfl rfl rfl rfl ⟨rfl, rfl⟩ ⟨rfl, rfl⟩ ⟨rfl, rfl⟩
theorem State.withHbm_kept {s : State} (f : Hbm → Hbm) (h : Kept Q s) : Kept Q (s.withHbm f) := kept_mk h rfl rfl rfl rfl rfl rfl ⟨rfl, rfl⟩ ⟨rfl, rfl⟩ ⟨rfl, rfl⟩
theorem State.withMedia_kept {s : State} (f : Media → Media) (h : Kept Q s) : Kept Q (s.withMedia f) := kept_mk h rfl rfl rfl rfl rfl rfl ⟨rfl, rfl⟩ ⟨rfl, rfl⟩ ⟨rfl, rfl⟩
theorem State.odSet_kept {s : State} (ix sub : Nat) (v : Word) (h : Kept Q s) : Kept Q (s.odSet ix sub v) := kept_entries h (mapWf_put _ _ h.od) h.nv
theorem State.odSetN_kept {s : State} (ix sub v : Nat) (h : Kept Q s) : Kept Q (s.odSetN ix sub v) := State.odSet_kept _ _ _ h
theorem State.nvSet_kept {s : State} (ix sub : Nat) (v : Word) (h : Kept Q s) : Kept Q (s.nvSet ix sub v) := kept_entries h h.od (mapWf_put _ _ h.nv)
theorem State.emit_kept {s : State} (o : Out) (h : Kept Q s) : Kept Q (s.emit o) := kept_mk h rfl rfl rfl rfl rfl rfl ⟨rfl, rfl⟩ ⟨rfl, rfl⟩ ⟨rfl, rfl⟩
theorem State.withDiag_kept {s : State} {f : Diag → Diag} (hf : (f s.diag).ring = s.diag.ring ∧ (f s.diag).recorder = s.diag.recorder) (h : Kept Q s) : Kept Q (s.withDiag f) := kept_mk h rfl rfl rfl rfl rfl rfl hf ⟨rfl, rfl⟩ ⟨rfl, rfl⟩
theorem State.withMgmt_kept {s : State} {f : Mgmt → Mgmt} (hf : (f s.mgmt).events = s.mgmt.events ∧ (f s.mgmt).replies = s.mgmt.replies) (h : Kept Q s) : Kept Q (s.withMgmt f) := kept_mk h rfl rfl rfl rfl rfl rfl ⟨rfl, rfl⟩ hf ⟨rfl, rfl⟩
theorem State.withHost_kept {s : State} {f : HostPort → HostPort} (hf : (f s.host).cache = s.host.cache ∧ (f s.host).snoop = s.host.snoop) (h : Kept Q s) : Kept Q (s.withHost f) := kept_mk h rfl rfl rfl rfl rfl rfl ⟨rfl, rfl⟩ ⟨rfl, rfl⟩ hf

/-- A fold of operations that keep. -/
theorem kept_foldl {α : Type} {f : State → α → State} (hf : ∀ s a, Kept Q s → Kept Q (f s a)) (l : List α) {s : State} (h : Kept Q s) : Kept Q (l.foldl f s) := by
  induction l generalizing s with
  | nil => exact h
  | cons a l ih => exact ih (hf s a h)

/-- A fold of operations that keep, over a pair whose first component is the state. -/
theorem kept_foldl_fst {α β : Type} {f : State × β → α → State × β} (hf : ∀ p a, Kept Q p.1 → Kept Q (f p a).1) (l : List α) {p : State × β} (h : Kept Q p.1) : Kept Q (l.foldl f p).1 := by
  induction l generalizing p with
  | nil => exact h
  | cons a l ih => exact ih (hf p a h)

theorem kept_ite {c : Prop} [Decidable c] {s t : State} (h1 : c → Kept Q s) (h2 : ¬c → Kept Q t) : Kept Q (if c then s else t) := by
  split
  · exact h1 ‹_›
  · exact h2 ‹_›

/-- The fault ring and the flight recorder replaced by lists within their sizes. -/
theorem kept_diag {s : State} {d : Diag} (h : Kept Q s) (h1 : d.ring.length ≤ 4096) (h2 : d.recorder.length ≤ 524288) : Kept Q { s with diag := d } := by
  rw [kept_iff] at h ⊢
  exact ⟨h.1, h.2.1, h.2.2.1, ⟨h1, h2, h.2.2.2.1.2.2⟩, h.2.2.2.2⟩

/-- The management controller's lists replaced by lists within their sizes. -/
theorem kept_mgmt {s : State} {m : Mgmt} (h : Kept Q s) (h1 : m.events.length ≤ 64) (h2 : m.replies.length ≤ 16) : Kept Q { s with mgmt := m } := by
  rw [kept_iff] at h ⊢
  exact ⟨h.1, h.2.1, h.2.2.1, ⟨h.2.2.2.1.1, h.2.2.2.1.2.1, h1, h2, h.2.2.2.1.2.2.2.2⟩, h.2.2.2.2⟩

/-- The endpoint's lists replaced by lists within their sizes. -/
theorem kept_host {s : State} {x : HostPort} (h : Kept Q s) (h1 : x.cache.length ≤ 16384) (h2 : x.snoop.length ≤ 2097152) : Kept Q { s with host := x } := by
  rw [kept_iff] at h ⊢
  exact ⟨h.1, h.2.1, h.2.2.1, ⟨h.2.2.2.1.1, h.2.2.2.1.2.1, h.2.2.2.1.2.2.1, h.2.2.2.1.2.2.2.1, h1, h2⟩, h.2.2.2.2⟩

theorem Kept.ring {s : State} (h : Kept Q s) : s.diag.ring.length ≤ 4096 := (kept_iff.1 h).2.2.2.1.1
theorem Kept.recorder {s : State} (h : Kept Q s) : s.diag.recorder.length ≤ 524288 := (kept_iff.1 h).2.2.2.1.2.1
theorem Kept.events {s : State} (h : Kept Q s) : s.mgmt.events.length ≤ 64 := (kept_iff.1 h).2.2.2.1.2.2.1
theorem Kept.replies {s : State} (h : Kept Q s) : s.mgmt.replies.length ≤ 16 := (kept_iff.1 h).2.2.2.1.2.2.2.1
theorem Kept.cache {s : State} (h : Kept Q s) : s.host.cache.length ≤ 16384 := (kept_iff.1 h).2.2.2.1.2.2.2.2.1
theorem Kept.snoop {s : State} (h : Kept Q s) : s.host.snoop.length ≤ 2097152 := (kept_iff.1 h).2.2.2.1.2.2.2.2.2
theorem Kept.cores {s : State} (h : Kept Q s) : s.cores.length = 384 := (kept_iff.1 h).2.2.1.2.2.1

theorem Kept.mem {s : State} (h : Kept Q s) : memWf s.mem = true := (kept_iff.1 h).2.1

end Sys2Proof.Machine
end

