-- ==== Sys2Proof/Laws/KeepBase.lean ====
section
/-! SUPPORT. What is kept by faults, fabric time, the Larder, loads and stores, the end of commands, stops and the front end. -/
set_option linter.unusedTactic false
set_option linter.unreachableTactic false
set_option linter.unusedVariables false

namespace Sys2Proof.Machine

variable {Q : List Instr}

theorem State.odAdd_kept {s : State} (ix sub n : Nat) (hk : Kept Q s) : Kept Q (State.odAdd s ix sub n) := by
  unfold State.odAdd
  try dsimp only
  repeat' first
    | with_reducible assumption
    | with_reducible apply State.odSetN_kept
    | split
    | dsimp only
    | fail_if_no_progress with_reducible apply kept_same

theorem State.odInc_kept {s : State} (ix sub : Nat) (hk : Kept Q s) : Kept Q (State.odInc s ix sub) := by
  unfold State.odInc
  try dsimp only
  repeat' first
    | with_reducible assumption
    | with_reducible apply State.odAdd_kept
    | split
    | dsimp only
    | fail_if_no_progress with_reducible apply kept_same

theorem State.msix_kept {s : State} (v : Nat) (hk : Kept Q s) : Kept Q (State.msix s v) := by
  have h := hk
  unfold State.msix
  split
  · exact State.emit_kept _ h
  · split
    · exact h
    · exact kept_host h h.cache h.snoop

theorem State.flight_kept {s : State} (kind object old new : Nat) (body : Option FaultRec) (hk : Kept Q s) : Kept Q (State.flight s kind object old new body) := by
  have h := hk
  unfold State.flight
  split
  · exact State.odAdd_kept _ _ _ h
  · exact kept_diag h h.ring (by simp only [List.length_take]; omega)

theorem State.sendMgmt_kept {s : State} (typ seq : Nat) (payload : List Byte) (hk : Kept Q s) : Kept Q (State.sendMgmt s typ seq payload) := by
  unfold State.sendMgmt
  try dsimp only
  repeat' first
    | with_reducible assumption
    | with_reducible apply State.emit_kept
    | split
    | dsimp only
    | fail_if_no_progress with_reducible apply kept_same

theorem State.recordRaw_kept {s : State} (r0 : FaultRec) (hk : Kept Q s) : Kept Q (State.recordRaw s r0) := by
  have h := hk
  have h1 : Kept Q { s with diag := { s.diag with ring := ({ r0 with time := s.now, seq := s.diag.raised + 1 } :: s.diag.ring).take 4096, raised := s.diag.raised + 1 } } :=
    kept_diag h (by simp only [List.length_take]; omega) h.recorder
  unfold State.recordRaw
  dsimp only
  split <;> first | exact State.msix_kept _ (State.flight_kept _ _ _ _ _ h1) | exact State.flight_kept _ _ _ _ _ h1

theorem State.queueEvent_kept {s : State} (r : FaultRec) (h : Kept Q s) : Kept Q (s.queueEvent r).1 := by
  have hl := h.events
  unfold State.queueEvent
  dsimp only
  split
  · exact h
  · split
    · exact State.sendMgmt_kept _ _ _ (kept_mgmt h (by simp only [List.length_append, List.length_singleton]; omega) h.replies)
    · split
      · rename_i ha
        obtain ⟨a, ha, hp⟩ := List.any_eq_true.1 ha
        refine State.sendMgmt_kept _ _ _ (kept_mgmt h ?_ h.replies)
        have h2 := List.length_eraseP_of_mem (p := fun x : EventRec => codeScope x.record.code == .info) ha hp
        have h3 := List.length_pos_of_mem ha
        simp only [List.length_append, List.length_singleton, h2]
        omega
      · exact h

theorem State.recordLimited_kept {s : State} (r : FaultRec) (key : Nat) (hk : Kept Q s) : Kept Q (State.recordLimited s r key) := by
  have h := hk
  have hr := State.recordRaw_kept r h
  unfold State.recordLimited
  dsimp only
  split
  · split
    · exact kept_diag h h.ring h.recorder
    · rename_i l _ _
      have h1 := State.recordRaw_kept { r with suppressed := l.suppressed } h
      exact State.queueEvent_kept _ (kept_diag h1 h1.ring h1.recorder)
  · exact State.queueEvent_kept _ (kept_diag hr hr.ring hr.recorder)

theorem State.record_kept {s : State} (r : FaultRec) (hk : Kept Q s) : Kept Q (State.record s r) := by
  unfold State.record
  try dsimp only
  repeat' first
    | with_reducible assumption
    | with_reducible apply State.recordRaw_kept
    | with_reducible apply State.queueEvent_kept
    | with_reducible apply State.recordLimited_kept
    | split
    | dsimp only
    | fail_if_no_progress with_reducible apply kept_same

theorem State.drew_kept {s : State} (g : Gen) (hk : Kept Q s) : Kept Q (State.drew s g) := by
  unfold State.drew
  try dsimp only
  repeat' first
    | with_reducible assumption
    | split
    | dsimp only
    | fail_if_no_progress with_reducible apply kept_same

theorem State.noteWrite_kept (ix sub old new : Nat) {r : State × Nat} (h : Kept Q r.1) : Kept Q (State.noteWrite ix sub old new r) := by
  unfold State.noteWrite
  split
  · exact State.flight_kept _ _ _ _ _ h
  · exact h

theorem State.noteFlying_kept {s : State} (hk : Kept Q s) : Kept Q (State.noteFlying s) := by
  unfold State.noteFlying
  try dsimp only
  repeat' first
    | with_reducible assumption
    | with_reducible apply State.odSetN_kept
    | split
    | dsimp only
    | fail_if_no_progress with_reducible apply kept_same

theorem State.advance_kept {s : State} (t : Nat) (hk : Kept Q s) : Kept Q (State.advance s t) := by
  have h := hk
  have h1 : ∀ (cores : List Core) (od : State) (tb : TimeBase), Kept Q od → cores.length = 384 → Kept Q { od with cores := cores, time := tb } := by
    intro cores od tb ho hc
    exact kept_mk ho rfl rfl (by rw [hc, ho.cores]) rfl rfl rfl ⟨rfl, rfl⟩ ⟨rfl, rfl⟩ ⟨rfl, rfl⟩
  unfold State.advance
  split
  · exact h
  · refine h1 _ _ _ (kept_foldl (fun _ _ _ => ?_) _ h) (by simp only [List.length_map, List.length_zipIdx]; exact h.cores)
    dsimp only
    repeat' first | with_reducible assumption | with_reducible apply State.odAdd_kept | split

theorem State.setCond_kept {s : State} (cc : Nat) (c : Cond) (hk : Kept Q s) : Kept Q (State.setCond s cc c) := by
  unfold State.setCond
  try dsimp only
  repeat' first
    | with_reducible assumption
    | with_reducible apply State.updCtx_kept
    | with_reducible apply State.flight_kept
    | split
    | dsimp only
    | fail_if_no_progress with_reducible apply kept_same

theorem State.refresh_kept {s : State} (cc : Nat) (hk : Kept Q s) : Kept Q (State.refresh s cc) := by
  unfold State.refresh
  try dsimp only
  repeat' first
    | with_reducible assumption
    | with_reducible apply State.setCond_kept
    | split
    | dsimp only
    | fail_if_no_progress with_reducible apply kept_same

theorem State.refreshAll_kept {s : State} (hk : Kept Q s) : Kept Q (State.refreshAll s) := by
  unfold State.refreshAll
  try dsimp only
  repeat' first
    | with_reducible assumption
    | with_reducible apply State.refresh_kept
    | with_reducible refine kept_foldl (fun _ _ _ => ?_) _ ?_
    | with_reducible refine kept_foldl_fst (fun _ _ _ => ?_) _ ?_
    | split
    | dsimp only
    | fail_if_no_progress with_reducible apply kept_same

theorem State.putBack_kept {s : State} (cs : List CmdInst) (hk : Kept Q s) : Kept Q (State.putBack s cs) := by
  unfold State.putBack
  try dsimp only
  repeat' first
    | with_reducible assumption
    | with_reducible apply State.updCtx_kept
    | with_reducible refine kept_foldl (fun _ _ _ => ?_) _ ?_
    | with_reducible refine kept_foldl_fst (fun _ _ _ => ?_) _ ?_
    | split
    | dsimp only
    | fail_if_no_progress with_reducible apply kept_same

theorem State.discardWindow_kept {s : State} (n : Nat) (hk : Kept Q s) : Kept Q (State.discardWindow s n) := by
  unfold State.discardWindow
  try dsimp only
  repeat' first
    | with_reducible assumption
    | with_reducible apply State.updCore_kept
    | with_reducible apply State.putBack_kept
    | split
    | dsimp only
    | fail_if_no_progress with_reducible apply kept_same

theorem State.updReq_kept {s : State} (k inst who : Nat) (f : ReqState → ReqState) (hk : Kept Q s) : Kept Q (State.updReq s k inst who f) := by
  unfold State.updReq
  try dsimp only
  repeat' first
    | with_reducible assumption
    | split
    | dsimp only
    | fail_if_no_progress with_reducible apply kept_same

theorem State.passArb_kept {s : State} (dom k inst : Nat) (part : Option Nat) (units : Nat) (hk : Kept Q s) : Kept Q (State.passArb s dom k inst part units) := by
  unfold State.passArb
  try dsimp only
  repeat' first
    | with_reducible assumption
    | with_reducible apply State.updReq_kept
    | split
    | dsimp only
    | fail_if_no_progress with_reducible apply kept_same

theorem State.portUnits_kept {s : State} (l : Nat) (part : Option Nat) (flits : Nat) (hk : Kept Q s) : Kept Q (State.portUnits s l part flits) := by
  unfold State.portUnits
  try dsimp only
  repeat' first
    | with_reducible assumption
    | split
    | dsimp only
    | fail_if_no_progress with_reducible apply kept_same

theorem State.crossMesh_kept {s : State} (a b : Nat) (part : Option Nat) (n : Nat) (hk : Kept Q s) : Kept Q (State.crossMesh s a b part n) := by
  unfold State.crossMesh
  try dsimp only
  repeat' first
    | with_reducible assumption
    | with_reducible apply State.passArb_kept
    | with_reducible refine kept_foldl (fun _ _ _ => ?_) _ ?_
    | with_reducible refine kept_foldl_fst (fun _ _ _ => ?_) _ ?_
    | split
    | dsimp only
    | fail_if_no_progress with_reducible apply kept_same

theorem State.serve_kept {s : State} (o : Nat) (part : Option Nat) (hk : Kept Q s) : Kept Q (State.serve s o part) := by
  unfold State.serve
  try dsimp only
  repeat' first
    | with_reducible assumption
    | with_reducible apply State.withHbm_kept
    | with_reducible apply State.passArb_kept
    | split
    | dsimp only
    | fail_if_no_progress with_reducible apply kept_same

theorem State.updLine_kept {s : State} (d line : Nat) (f : LarderLine → LarderLine) (hk : Kept Q s) : Kept Q (State.updLine s d line f) := by
  unfold State.updLine
  try dsimp only
  repeat' first
    | with_reducible assumption
    | split
    | dsimp only
    | fail_if_no_progress with_reducible apply kept_same

theorem State.keepStale_kept {s : State} (o : Nat) (hk : Kept Q s) : Kept Q (State.keepStale s o) := by
  unfold State.keepStale
  try dsimp only
  repeat' first
    | with_reducible assumption
    | split
    | dsimp only
    | fail_if_no_progress with_reducible apply kept_same

theorem State.dropStale_kept {s : State} (o : Nat) (hk : Kept Q s) : Kept Q (State.dropStale s o) := by
  unfold State.dropStale
  try dsimp only
  repeat' first
    | with_reducible assumption
    | split
    | dsimp only
    | fail_if_no_progress with_reducible apply kept_same

theorem State.freshSector_kept {s : State} (o : Nat) (hk : Kept Q s) : Kept Q (State.freshSector s o) := by
  unfold State.freshSector
  try dsimp only
  repeat' first
    | with_reducible assumption
    | with_reducible apply State.withHbm_kept
    | split
    | dsimp only
    | fail_if_no_progress with_reducible apply kept_same

theorem State.writeBack_kept {s : State} (x : LarderLine) (hk : Kept Q s) : Kept Q (State.writeBack s x) := by
  unfold State.writeBack
  try dsimp only
  repeat' first
    | with_reducible assumption
    | with_reducible apply State.serve_kept
    | with_reducible apply State.dropStale_kept
    | with_reducible apply State.freshSector_kept
    | with_reducible refine kept_foldl (fun _ _ _ => ?_) _ ?_
    | with_reducible refine kept_foldl_fst (fun _ _ _ => ?_) _ ?_
    | split
    | dsimp only
    | fail_if_no_progress with_reducible apply kept_same

theorem State.cleanCopy_kept {s : State} (o : Nat) (hk : Kept Q s) : Kept Q (State.cleanCopy s o) := by
  unfold State.cleanCopy
  try dsimp only
  repeat' first
    | with_reducible assumption
    | split
    | dsimp only
    | fail_if_no_progress with_reducible apply kept_same

theorem State.evict_kept {s : State} (x : LarderLine) (hk : Kept Q s) : Kept Q (State.evict s x) := by
  unfold State.evict
  try dsimp only
  repeat' first
    | with_reducible assumption
    | with_reducible apply State.writeBack_kept
    | with_reducible apply State.cleanCopy_kept
    | with_reducible refine kept_foldl (fun _ _ _ => ?_) _ ?_
    | with_reducible refine kept_foldl_fst (fun _ _ _ => ?_) _ ?_
    | split
    | dsimp only
    | fail_if_no_progress with_reducible apply kept_same

theorem State.allocate_kept {s : State} (o : Nat) (part : Option Nat) (keep : Bool) (secs : List SectorSt) (h : Kept Q s) {t : State} (ht : s.allocate o part keep secs = some t) : Kept Q t := by
  revert ht
  unfold State.allocate
  dsimp only
  split
  · nofun
  · rintro ⟨⟩
    apply kept_same
    split
    · exact State.evict_kept _ h
    · exact h

theorem State.touchLine_kept {s : State} (d line hint : Nat) (hk : Kept Q s) : Kept Q (State.touchLine s d line hint) := by
  unfold State.touchLine
  try dsimp only
  repeat' first
    | with_reducible assumption
    | with_reducible apply State.updLine_kept
    | split
    | dsimp only
    | fail_if_no_progress with_reducible apply kept_same

theorem State.dropSector_kept {s : State} (o : Nat) (hk : Kept Q s) : Kept Q (State.dropSector s o) := by
  have h := hk
  unfold State.dropSector
  dsimp only
  repeat' first
    | with_reducible assumption
    | with_reducible apply State.updLine_kept
    | with_reducible apply State.dropStale_kept
    | with_reducible apply State.cleanCopy_kept
    | split
    | with_reducible exact kept_mem h (memWf_putBytes _ _ h.mem)
    | fail_if_no_progress with_reducible apply kept_same

theorem State.corrected_kept {s : State} (o : Nat) (hk : Kept Q s) : Kept Q (State.corrected s o) := by
  unfold State.corrected
  try dsimp only
  repeat' first
    | with_reducible assumption
    | with_reducible apply State.odInc_kept
    | split
    | dsimp only
    | fail_if_no_progress with_reducible apply kept_same

theorem State.fetchHbm_kept {s : State} (o : Nat) (part : Option Nat) (hk : Kept Q s) : Kept Q (State.fetchHbm s o part) := by
  unfold State.fetchHbm
  try dsimp only
  repeat' first
    | with_reducible assumption
    | with_reducible apply State.withHbm_kept
    | with_reducible apply State.serve_kept
    | with_reducible apply State.corrected_kept
    | split
    | dsimp only
    | fail_if_no_progress with_reducible apply kept_same

theorem State.checkCopy_kept {s : State} (o : Nat) (st : SectorSt) (part : Option Nat) (hk : Kept Q s) : Kept Q (State.checkCopy s o st part) := by
  unfold State.checkCopy
  try dsimp only
  repeat' first
    | with_reducible assumption
    | with_reducible apply State.cleanCopy_kept
    | with_reducible apply State.corrected_kept
    | with_reducible apply State.fetchHbm_kept
    | split
    | dsimp only
    | fail_if_no_progress with_reducible apply kept_same

theorem State.readSector_kept {s : State} (o hint : Nat) (part : Option Nat) (hk : Kept Q s) : Kept Q (State.readSector s o hint part) := by
  have h := hk
  unfold State.readSector
  dsimp only
  repeat' first
    | with_reducible assumption
    | with_reducible apply State.checkCopy_kept
    | with_reducible apply State.fetchHbm_kept
    | with_reducible apply State.cleanCopy_kept
    | with_reducible apply State.writeHbm_kept
    | with_reducible apply State.odInc_kept
    | with_reducible apply State.serve_kept
    | with_reducible apply State.updLine_kept
    | with_reducible apply State.dropSector_kept
    | with_reducible apply State.touchLine_kept
    | with_reducible refine kept_foldl (fun _ _ _ => ?_) _ ?_
    | with_reducible refine State.allocate_kept _ _ _ _ ?_ (by assumption)
    | split

theorem State.writeHbm_kept {s : State} (o : Nat) (full : Bool) (part : Option Nat) (hk : Kept Q s) : Kept Q (State.writeHbm s o full part) := by
  unfold State.writeHbm
  try dsimp only
  repeat' first
    | with_reducible assumption
    | with_reducible apply State.serve_kept
    | with_reducible apply State.freshSector_kept
    | with_reducible apply State.fetchHbm_kept
    | split
    | dsimp only
    | fail_if_no_progress with_reducible apply kept_same

theorem State.writeSector_kept {s : State} (o hint : Nat) (full : Bool) (part : Option Nat) (hk : Kept Q s) : Kept Q (State.writeSector s o hint full part) := by
  have h := hk
  unfold State.writeSector
  dsimp only
  repeat' first
    | with_reducible assumption
    | with_reducible apply State.checkCopy_kept
    | with_reducible apply State.fetchHbm_kept
    | with_reducible apply State.cleanCopy_kept
    | with_reducible apply State.writeHbm_kept
    | with_reducible apply State.odInc_kept
    | with_reducible apply State.serve_kept
    | with_reducible apply State.updLine_kept
    | with_reducible apply State.keepStale_kept
    | with_reducible apply State.touchLine_kept
    | with_reducible refine State.allocate_kept _ _ _ _ ?_ (by assumption)
    | split

theorem State.charge_kept {s : State} (w : Who) (dom r inst n : Nat) (hk : Kept Q s) : Kept Q (State.charge s w dom r inst n) := by
  unfold State.charge
  try dsimp only
  repeat' first
    | with_reducible assumption
    | with_reducible apply State.odAdd_kept
    | split
    | dsimp only
    | fail_if_no_progress with_reducible apply kept_same

theorem State.cross_kept {s : State} (w : Who) (write : Bool) (a n : Nat) (hk : Kept Q s) : Kept Q (State.cross s w write a n) := by
  unfold State.cross
  try dsimp only
  repeat' first
    | with_reducible assumption
    | with_reducible apply State.passArb_kept
    | with_reducible apply State.crossMesh_kept
    | split
    | dsimp only
    | fail_if_no_progress with_reducible apply kept_same

theorem State.backInvalidate_kept {s : State} (write : Bool) (a n : Nat) (hk : Kept Q s) : Kept Q (State.backInvalidate s write a n) := by
  have h := hk
  unfold State.backInvalidate
  dsimp only
  split
  · exact h
  · have h1 : Kept Q ((s.host.snoop.filter fun l => decide (l * 64 < a + n) && decide (a < l * 64 + 64)).foldl (fun (x : State) l => x.emit (.snoop l write)) s) :=
      kept_foldl (fun _ _ h => State.emit_kept _ h) _ h
    split
    · refine kept_host h1 h1.cache (Nat.le_trans ?_ h1.snoop)
      exact List.length_filter_le _ _
    · exact h1

theorem State.readCellar_kept {s : State} (a : Nat) (hk : Kept Q s) : Kept Q (State.readCellar s a) := by
  unfold State.readCellar
  try dsimp only
  repeat' first
    | with_reducible assumption
    | with_reducible apply State.withHbm_kept
    | with_reducible apply State.odInc_kept
    | split
    | dsimp only
    | fail_if_no_progress with_reducible apply kept_same

theorem State.readSram_kept {s : State} (a n : Nat) (hk : Kept Q s) : Kept Q (State.readSram s a n) := by
  unfold State.readSram
  try dsimp only
  repeat' first
    | with_reducible assumption
    | with_reducible apply State.odAdd_kept
    | split
    | dsimp only
    | fail_if_no_progress with_reducible apply kept_same

theorem State.touchSector_kept {s : State} (w : Who) (hint dom r inst a : Nat) (hk : Kept Q s) : Kept Q (State.touchSector s w hint dom r inst a) := by
  unfold State.touchSector
  try dsimp only
  repeat' first
    | with_reducible assumption
    | with_reducible apply State.readSector_kept
    | with_reducible apply State.charge_kept
    | with_reducible apply State.cross_kept
    | with_reducible apply State.readCellar_kept
    | split
    | dsimp only
    | fail_if_no_progress with_reducible apply kept_same

theorem State.touch_kept {s0 : State} (w : Who) (hint a n : Nat) (hk : Kept Q s0) : Kept Q (State.touch s0 w hint a n) := by
  unfold State.touch
  try dsimp only
  repeat' first
    | with_reducible assumption
    | with_reducible apply State.charge_kept
    | with_reducible apply State.cross_kept
    | with_reducible apply State.backInvalidate_kept
    | with_reducible apply State.readSram_kept
    | with_reducible apply State.touchSector_kept
    | with_reducible refine kept_foldl (fun _ _ _ => ?_) _ ?_
    | with_reducible refine kept_foldl_fst (fun _ _ _ => ?_) _ ?_
    | split
    | dsimp only
    | fail_if_no_progress with_reducible apply kept_same

theorem State.cacheLine_kept {s : State} (a : Nat) (dirty : Bool) (hk : Kept Q s) : Kept Q (State.cacheLine s a dirty) := by
  have h := hk
  unfold State.cacheLine
  split
  · exact kept_host h (by simp only [List.length_take]; omega) h.snoop
  · exact h

theorem State.touchRecord_kept {s : State} (w : Who) (a n : Nat) (hk : Kept Q s) : Kept Q (State.touchRecord s w a n) := by
  unfold State.touchRecord
  try dsimp only
  repeat' first
    | with_reducible assumption
    | with_reducible apply State.touch_kept
    | with_reducible apply State.cacheLine_kept
    | with_reducible refine kept_foldl (fun _ _ _ => ?_) _ ?_
    | with_reducible refine kept_foldl_fst (fun _ _ _ => ?_) _ ?_
    | split
    | dsimp only
    | fail_if_no_progress with_reducible apply kept_same

theorem State.healed_kept {s : State} (a n : Nat) (hk : Kept Q s) : Kept Q (State.healed s a n) := by
  unfold State.healed
  try dsimp only
  repeat' first
    | with_reducible assumption
    | with_reducible apply State.withHbm_kept
    | with_reducible apply State.withDiag_kept
    | exact ⟨rfl, rfl⟩
    | split
    | dsimp only
    | fail_if_no_progress with_reducible apply kept_same

theorem State.passSector_kept {s : State} (w : Who) (hint dom r inst : Nat) (full : Bool) (a : Nat) (hk : Kept Q s) : Kept Q (State.passSector s w hint dom r inst full a) := by
  unfold State.passSector
  try dsimp only
  repeat' first
    | with_reducible assumption
    | with_reducible apply State.writeSector_kept
    | with_reducible apply State.charge_kept
    | with_reducible apply State.cross_kept
    | with_reducible apply State.readCellar_kept
    | split
    | dsimp only
    | fail_if_no_progress with_reducible apply kept_same

theorem State.passWrite_kept {s : State} (w : Who) (hint a n : Nat) (sectors : List Nat) (full : Nat → Bool) (hk : Kept Q s) : Kept Q (State.passWrite s w hint a n sectors full) := by
  have h := hk
  unfold State.passWrite
  repeat' first
    | with_reducible assumption
    | with_reducible apply State.charge_kept
    | with_reducible apply State.cross_kept
    | with_reducible apply State.passSector_kept
    | with_reducible refine kept_foldl (fun _ _ _ => ?_) _ ?_
    | split

theorem State.store_kept {s : State} (w : Who) (hint a : Nat) (bs : List Byte) (hk : Kept Q s) : Kept Q (State.store s w hint a bs) := by
  have h3 := State.healed_kept a bs.length (State.passWrite_kept w hint a bs.length (sectorsOf a bs.length) (covers a bs.length) (State.backInvalidate_kept true a bs.length hk))
  unfold State.store
  exact kept_mem h3 (memWf_putBytes _ _ h3.mem)

theorem State.storeNibble_kept {s : State} (w : Who) (hint a : Nat) (high : Bool) (v : Nat) (hk : Kept Q s) : Kept Q (State.storeNibble s w hint a high v) := by
  unfold State.storeNibble
  try dsimp only
  repeat' first
    | with_reducible assumption
    | with_reducible apply State.store_kept
    | split
    | dsimp only
    | fail_if_no_progress with_reducible apply kept_same

theorem State.freeSlot_kept {s : State} (cc slot : Nat) (hk : Kept Q s) : Kept Q (State.freeSlot s cc slot) := by
  unfold State.freeSlot
  try dsimp only
  repeat' first
    | with_reducible assumption
    | with_reducible apply State.updCtx_kept
    | split
    | dsimp only
    | fail_if_no_progress with_reducible apply kept_same

theorem State.dirtyLost_kept {s : State} (o : Nat) (hk : Kept Q s) : Kept Q (State.dirtyLost s o) := by
  unfold State.dirtyLost
  try dsimp only
  repeat' first
    | with_reducible assumption
    | with_reducible apply State.withDiag_kept
    | with_reducible apply State.record_kept
    | with_reducible apply State.dropSector_kept
    | exact ⟨rfl, rfl⟩
    | split
    | dsimp only
    | fail_if_no_progress with_reducible apply kept_same

theorem State.countUncorrectable_kept {s : State} (a : Nat) (hk : Kept Q s) : Kept Q (State.countUncorrectable s a) := by
  unfold State.countUncorrectable
  try dsimp only
  repeat' first
    | with_reducible assumption
    | with_reducible apply State.odInc_kept
    | with_reducible apply State.dirtyLost_kept
    | split
    | dsimp only
    | fail_if_no_progress with_reducible apply kept_same

theorem State.countFault_kept {s : State} (c : Code) (a : Nat) (hk : Kept Q s) : Kept Q (State.countFault s c a) := by
  unfold State.countFault
  try dsimp only
  repeat' first
    | with_reducible assumption
    | with_reducible apply State.countUncorrectable_kept
    | split
    | dsimp only
    | fail_if_no_progress with_reducible apply kept_same

theorem State.monitor_kept {s : State} (c : CmdInst) (d : Fin) (hk : Kept Q s) : Kept Q (State.monitor s c d) := by
  have h := hk
  have hf : ∀ (o : Option (Code × Nat)), Kept Q (o.elim s fun f => s.countFault f.1 f.2) := by
    intro o
    cases o with
    | none => exact h
    | some f => exact State.countFault_kept _ _ h
  unfold State.monitor
  dsimp only
  repeat' first
    | with_reducible assumption
    | with_reducible apply State.record_kept
    | with_reducible apply hf
    | with_reducible apply State.store_kept
    | with_reducible apply State.touch_kept
    | with_reducible refine kept_foldl (fun _ _ _ => ?_) _ ?_
    | split

theorem State.noticed_kept {s : State} (a n : Nat) (hk : Kept Q s) : Kept Q (State.noticed s a n) := by
  unfold State.noticed
  try dsimp only
  repeat' first
    | with_reducible assumption
    | with_reducible apply State.withHost_kept
    | exact ⟨rfl, rfl⟩
    | split
    | dsimp only
    | fail_if_no_progress with_reducible apply kept_same

theorem State.queueFault_kept {s : State} (cc : Nat) (code : Code) (addr : Nat) (hk : Kept Q s) : Kept Q (State.queueFault s cc code addr) := by
  unfold State.queueFault
  try dsimp only
  repeat' first
    | with_reducible assumption
    | with_reducible apply State.record_kept
    | with_reducible apply State.setCond_kept
    | with_reducible apply State.countFault_kept
    | split
    | dsimp only
    | fail_if_no_progress with_reducible apply kept_same

theorem State.trigger_kept {s : State} (cc : Nat) (hk : Kept Q s) : Kept Q (State.trigger s cc) := by
  unfold State.trigger
  try dsimp only
  repeat' first
    | with_reducible assumption
    | with_reducible apply State.updCtx_kept
    | with_reducible apply State.msix_kept
    | split
    | dsimp only
    | fail_if_no_progress with_reducible apply kept_same

theorem State.statusWord_kept {s : State} (cc : Nat) (hk : Kept Q s) : Kept Q (State.statusWord s cc) := by
  unfold State.statusWord
  try dsimp only
  repeat' first
    | with_reducible assumption
    | with_reducible apply State.cacheLine_kept
    | with_reducible apply State.store_kept
    | with_reducible apply State.noticed_kept
    | with_reducible apply State.queueFault_kept
    | split
    | dsimp only
    | fail_if_no_progress with_reducible apply kept_same

theorem State.complete_kept {s : State} (c : CmdInst) (core start : Nat) (d : Fin) (hk : Kept Q s) : Kept Q (State.complete s c core start d) := by
  unfold State.complete
  try dsimp only
  repeat' first
    | with_reducible assumption
    | with_reducible apply State.updCtx_kept
    | with_reducible apply State.odInc_kept
    | with_reducible apply State.cacheLine_kept
    | with_reducible apply State.store_kept
    | with_reducible apply State.freeSlot_kept
    | with_reducible apply State.monitor_kept
    | with_reducible apply State.noticed_kept
    | with_reducible apply State.queueFault_kept
    | with_reducible apply State.trigger_kept
    | with_reducible apply State.statusWord_kept
    | split
    | dsimp only
    | fail_if_no_progress with_reducible apply kept_same

theorem State.finish0_kept {s : State} (c : CmdInst) (core start : Nat) (d : Fin) (hk : Kept Q s) : Kept Q (State.finish0 s c core start d) := by
  unfold State.finish0
  try dsimp only
  repeat' first
    | with_reducible assumption
    | with_reducible apply State.record_kept
    | with_reducible apply State.setCond_kept
    | with_reducible apply State.refresh_kept
    | with_reducible apply State.countFault_kept
    | with_reducible apply State.complete_kept
    | split
    | dsimp only
    | fail_if_no_progress with_reducible apply kept_same

theorem State.endCore0_kept {s : State} (n : Nat) (e : Exec) (d : Fin) (hk : Kept Q s) : Kept Q (State.endCore0 s n e d) := by
  unfold State.endCore0
  try dsimp only
  repeat' first
    | with_reducible assumption
    | with_reducible apply State.updCore_kept
    | with_reducible apply State.discardWindow_kept
    | with_reducible apply State.finish0_kept
    | split
    | dsimp only
    | fail_if_no_progress with_reducible apply kept_same

theorem State.abortQueued_kept {s : State} (cs : List CmdInst) (hk : Kept Q s) : Kept Q (State.abortQueued s cs) := by
  unfold State.abortQueued
  try dsimp only
  repeat' first
    | with_reducible assumption
    | with_reducible apply State.finish0_kept
    | with_reducible refine kept_foldl (fun _ _ _ => ?_) _ ?_
    | with_reducible refine kept_foldl_fst (fun _ _ _ => ?_) _ ?_
    | split
    | dsimp only
    | fail_if_no_progress with_reducible apply kept_same

theorem State.abortExecs_kept {s : State} (es : List Exec) (hk : Kept Q s) : Kept Q (State.abortExecs s es) := by
  unfold State.abortExecs
  try dsimp only
  repeat' first
    | with_reducible assumption
    | with_reducible apply State.finish0_kept
    | with_reducible refine kept_foldl (fun _ _ _ => ?_) _ ?_
    | with_reducible refine kept_foldl_fst (fun _ _ _ => ?_) _ ?_
    | split
    | dsimp only
    | fail_if_no_progress with_reducible apply kept_same

theorem State.abortRuns_kept {s : State} (rs : List RedRun) (hk : Kept Q s) : Kept Q (State.abortRuns s rs) := by
  unfold State.abortRuns
  try dsimp only
  repeat' first
    | with_reducible assumption
    | with_reducible apply State.finish0_kept
    | with_reducible refine kept_foldl (fun _ _ _ => ?_) _ ?_
    | with_reducible refine kept_foldl_fst (fun _ _ _ => ?_) _ ?_
    | split
    | dsimp only
    | fail_if_no_progress with_reducible apply kept_same

theorem State.abortCore_kept {s : State} (pred : CmdInst → Bool) (discard : Bool) (n : Nat) (hk : Kept Q s) : Kept Q (State.abortCore s pred discard n) := by
  unfold State.abortCore
  try dsimp only
  repeat' first
    | with_reducible assumption
    | with_reducible apply State.updCore_kept
    | with_reducible apply State.discardWindow_kept
    | with_reducible apply State.finish0_kept
    | with_reducible apply State.endCore0_kept
    | with_reducible refine kept_foldl (fun _ _ _ => ?_) _ ?_
    | with_reducible refine kept_foldl_fst (fun _ _ _ => ?_) _ ?_
    | split
    | dsimp only
    | fail_if_no_progress with_reducible apply kept_same

theorem State.dropTakers_kept {s : State} (pred : Nat → Bool) (hk : Kept Q s) : Kept Q (State.dropTakers s pred) := by
  unfold State.dropTakers
  try dsimp only
  repeat' first
    | with_reducible assumption
    | split
    | dsimp only
    | fail_if_no_progress with_reducible apply kept_same

theorem State.abortCtxs_kept {s : State} (pred : Nat → Bool) (discard : Bool) (hk : Kept Q s) : Kept Q (State.abortCtxs s pred discard) := by
  unfold State.abortCtxs
  try dsimp only
  repeat' first
    | with_reducible assumption
    | with_reducible apply State.updEngine_kept
    | with_reducible apply State.withColl_kept
    | with_reducible apply State.withMedia_kept
    | with_reducible apply State.abortQueued_kept
    | with_reducible apply State.abortExecs_kept
    | with_reducible apply State.abortRuns_kept
    | with_reducible apply State.abortCore_kept
    | with_reducible apply State.dropTakers_kept
    | with_reducible refine kept_foldl (fun _ _ _ => ?_) _ ?_
    | with_reducible refine kept_foldl_fst (fun _ _ _ => ?_) _ ?_
    | split
    | dsimp only
    | fail_if_no_progress with_reducible apply kept_same

theorem State.setPart_kept {s : State} (p : Nat) (st : PartSt) (hk : Kept Q s) : Kept Q (State.setPart s p st) := by
  unfold State.setPart
  try dsimp only
  repeat' first
    | with_reducible assumption
    | with_reducible apply State.updPart_kept
    | with_reducible apply State.flight_kept
    | split
    | dsimp only
    | fail_if_no_progress with_reducible apply kept_same

theorem State.haltPart_kept {s : State} (p : Nat) (hk : Kept Q s) : Kept Q (State.haltPart s p) := by
  unfold State.haltPart
  try dsimp only
  repeat' first
    | with_reducible assumption
    | with_reducible apply State.setCond_kept
    | with_reducible refine kept_foldl (fun _ _ _ => ?_) _ ?_
    | with_reducible refine kept_foldl_fst (fun _ _ _ => ?_) _ ?_
    | split
    | dsimp only
    | fail_if_no_progress with_reducible apply kept_same

theorem State.dropMedia_kept {s : State} (p : Nat) (hk : Kept Q s) : Kept Q (State.dropMedia s p) := by
  unfold State.dropMedia
  try dsimp only
  repeat' first
    | with_reducible assumption
    | with_reducible apply State.withMedia_kept
    | split
    | dsimp only
    | fail_if_no_progress with_reducible apply kept_same

theorem State.stopPart_kept {s : State} (p : Nat) (hk : Kept Q s) : Kept Q (State.stopPart s p) := by
  unfold State.stopPart
  try dsimp only
  repeat' first
    | with_reducible assumption
    | with_reducible apply State.abortCtxs_kept
    | with_reducible apply State.setPart_kept
    | with_reducible apply State.haltPart_kept
    | with_reducible apply State.dropMedia_kept
    | split
    | dsimp only
    | fail_if_no_progress with_reducible apply kept_same

theorem State.alert_kept {s : State} (i : Nat) (hk : Kept Q s) : Kept Q (State.alert s i) := by
  unfold State.alert
  try dsimp only
  repeat' first
    | with_reducible assumption
    | with_reducible apply State.withPwr_kept
    | split
    | dsimp only
    | fail_if_no_progress with_reducible apply kept_same

theorem State.stopModule_kept {s : State} (hk : Kept Q s) : Kept Q (State.stopModule s) := by
  unfold State.stopModule
  try dsimp only
  repeat' first
    | with_reducible assumption
    | with_reducible apply State.updPart_kept
    | with_reducible apply State.withPwr_kept
    | with_reducible apply State.withDiag_kept
    | with_reducible apply State.flight_kept
    | with_reducible apply State.stopPart_kept
    | with_reducible apply State.alert_kept
    | with_reducible refine kept_foldl (fun _ _ _ => ?_) _ ?_
    | with_reducible refine kept_foldl_fst (fun _ _ _ => ?_) _ ?_
    | exact ⟨rfl, rfl⟩
    | split
    | dsimp only
    | fail_if_no_progress with_reducible apply kept_same

theorem State.stopOwed_kept {s : State} (hk : Kept Q s) : Kept Q (State.stopOwed s) := by
  unfold State.stopOwed
  try dsimp only
  repeat' first
    | with_reducible assumption
    | with_reducible apply State.withDiag_kept
    | with_reducible apply State.stopPart_kept
    | with_reducible refine kept_foldl (fun _ _ _ => ?_) _ ?_
    | with_reducible refine kept_foldl_fst (fun _ _ _ => ?_) _ ?_
    | exact ⟨rfl, rfl⟩
    | split
    | dsimp only
    | fail_if_no_progress with_reducible apply kept_same

theorem State.finish_kept {s : State} (c : CmdInst) (core start : Nat) (d : Fin) (hk : Kept Q s) : Kept Q (State.finish s c core start d) := by
  unfold State.finish
  try dsimp only
  repeat' first
    | with_reducible assumption
    | with_reducible apply State.finish0_kept
    | with_reducible apply State.stopOwed_kept
    | split
    | dsimp only
    | fail_if_no_progress with_reducible apply kept_same

theorem State.endCore_kept {s : State} (n : Nat) (e : Exec) (d : Fin) (hk : Kept Q s) : Kept Q (State.endCore s n e d) := by
  unfold State.endCore
  try dsimp only
  repeat' first
    | with_reducible assumption
    | with_reducible apply State.endCore0_kept
    | with_reducible apply State.stopOwed_kept
    | split
    | dsimp only
    | fail_if_no_progress with_reducible apply kept_same

theorem State.raise_kept {s : State} (r : FaultRec) (hk : Kept Q s) : Kept Q (State.raise s r) := by
  unfold State.raise
  try dsimp only
  repeat' first
    | with_reducible assumption
    | with_reducible apply State.record_kept
    | with_reducible apply State.stopPart_kept
    | with_reducible apply State.stopModule_kept
    | split
    | dsimp only
    | fail_if_no_progress with_reducible apply kept_same

theorem State.addRepair_kept {s : State} (kind unit location : Nat) (hk : Kept Q s) : Kept Q (State.addRepair s kind unit location) := by
  unfold State.addRepair
  try dsimp only
  repeat' first
    | with_reducible assumption
    | with_reducible apply State.withDiag_kept
    | with_reducible apply State.raise_kept
    | exact ⟨rfl, rfl⟩
    | split
    | dsimp only
    | fail_if_no_progress with_reducible apply kept_same

theorem State.preempt_kept {s : State} (cc : Nat) (hk : Kept Q s) : Kept Q (State.preempt s cc) := by
  unfold State.preempt
  try dsimp only
  repeat' first
    | with_reducible assumption
    | with_reducible apply State.updCore_kept
    | with_reducible refine kept_foldl (fun _ _ _ => ?_) _ ?_
    | with_reducible refine kept_foldl_fst (fun _ _ _ => ?_) _ ?_
    | split
    | dsimp only
    | fail_if_no_progress with_reducible apply kept_same

theorem State.dropDoorbell_kept {s : State} (cc : Nat) (hk : Kept Q s) : Kept Q (State.dropDoorbell s cc) := by
  unfold State.dropDoorbell
  try dsimp only
  repeat' first
    | with_reducible assumption
    | with_reducible apply State.odInc_kept
    | with_reducible apply State.recordLimited_kept
    | split
    | dsimp only
    | fail_if_no_progress with_reducible apply kept_same

theorem State.ringSqTail_kept {s : State} (cc v : Nat) (hk : Kept Q s) : Kept Q (State.ringSqTail s cc v) := by
  unfold State.ringSqTail
  try dsimp only
  repeat' first
    | with_reducible assumption
    | with_reducible apply State.updCtx_kept
    | with_reducible apply State.refresh_kept
    | with_reducible apply State.preempt_kept
    | with_reducible apply State.dropDoorbell_kept
    | split
    | dsimp only
    | fail_if_no_progress with_reducible apply kept_same

theorem State.ringCqHead_kept {s : State} (cc v : Nat) (hk : Kept Q s) : Kept Q (State.ringCqHead s cc v) := by
  unfold State.ringCqHead
  try dsimp only
  repeat' first
    | with_reducible assumption
    | with_reducible apply State.updCtx_kept
    | with_reducible apply State.dropDoorbell_kept
    | split
    | dsimp only
    | fail_if_no_progress with_reducible apply kept_same

theorem State.fetchOne_kept {s : State} (cc i : Nat) (hk : Kept Q s) : Kept Q (State.fetchOne s cc i) := by
  unfold State.fetchOne
  try dsimp only
  repeat' first
    | with_reducible assumption
    | with_reducible apply State.updCtx_kept
    | with_reducible apply State.refresh_kept
    | with_reducible apply State.touchRecord_kept
    | with_reducible apply State.queueFault_kept
    | with_reducible apply State.stopOwed_kept
    | with_reducible apply State.finish_kept
    | with_reducible apply State.preempt_kept
    | split
    | dsimp only
    | fail_if_no_progress with_reducible apply kept_same

theorem State.holdBack_kept {s : State} (c : CmdInst) (hk : Kept Q s) : Kept Q (State.holdBack s c) := by
  unfold State.holdBack
  try dsimp only
  repeat' first
    | with_reducible assumption
    | with_reducible apply State.updCtx_kept
    | with_reducible apply State.odInc_kept
    | split
    | dsimp only
    | fail_if_no_progress with_reducible apply kept_same

theorem State.wake_kept {s : State} (q : Nat) (hk : Kept Q s) : Kept Q (State.wake s q) := by
  unfold State.wake
  try dsimp only
  repeat' first
    | with_reducible assumption
    | with_reducible apply State.updIsland_kept
    | split
    | dsimp only
    | fail_if_no_progress with_reducible apply kept_same

theorem State.accept_kept {s : State} (c : CmdInst) (hk : Kept Q s) : Kept Q (State.accept s c) := by
  unfold State.accept
  try dsimp only
  repeat' first
    | with_reducible assumption
    | with_reducible apply State.updCore_kept
    | with_reducible apply State.updCtx_kept
    | with_reducible apply State.updEngine_kept
    | with_reducible apply State.withColl_kept
    | with_reducible apply State.withMedia_kept
    | with_reducible apply State.noteFlying_kept
    | with_reducible apply State.refresh_kept
    | with_reducible apply State.wake_kept
    | split
    | dsimp only
    | fail_if_no_progress with_reducible apply kept_same

theorem State.rejectFetched_kept {s : State} (c : CmdInst) (f : Code) (hk : Kept Q s) : Kept Q (State.rejectFetched s c f) := by
  unfold State.rejectFetched
  try dsimp only
  repeat' first
    | with_reducible assumption
    | with_reducible apply State.updCtx_kept
    | with_reducible apply State.finish_kept
    | split
    | dsimp only
    | fail_if_no_progress with_reducible apply kept_same

end Sys2Proof.Machine
end

