-- ==== Sys2Proof/Laws/KeepRun.lean ====
section
/-! SUPPORT. What is kept by the commands of cores and of the tiers. -/
set_option linter.unusedTactic false
set_option linter.unreachableTactic false
set_option linter.unusedVariables false

namespace Sys2Proof.Machine

variable {Q : List Instr}

/-- A fold over runs. -/
theorem kept_foldl_run {α : Type} {f : Run → α → Run} (hf : ∀ r a, Kept Q r.st → Kept Q (f r a).st) (l : List α) {r : Run} (h : Kept Q r.st) : Kept Q (l.foldl f r).st := by
  induction l generalizing r with
  | nil => exact h
  | cons a l ih => exact ih (hf r a h)

/-- The state of a pair that an operation answers. -/
theorem kept_fst {α : Type} {p : State × α} {t : State} {a : α} (h : Kept Q p.1) (e : p = (t, a)) : Kept Q t := by
  subst e
  exact h

/-- The run of a pair that an operation answers. -/
theorem kept_fst_run {α : Type} {p : Run × α} {r : Run} {a : α} (h : Kept Q p.1.st) (e : p = (r, a)) : Kept Q r.st := by
  subst e
  exact h

theorem State.touchDescs_kept {s : State} (w : Who) (cc : Nat) (l : List Nat) (hk : Kept Q s) : Kept Q (State.touchDescs s w cc l) := by
  unfold State.touchDescs
  try dsimp only
  repeat' first
    | with_reducible assumption
    | with_reducible apply State.touchRecord_kept
    | with_reducible refine kept_fst ?_ (by with_reducible assumption)
    | with_reducible refine kept_foldl (fun _ _ _ => ?_) _ ?_
    | with_reducible refine kept_foldl_run (fun _ _ _ => ?_) _ ?_
    | with_reducible refine kept_foldl_fst (fun _ _ _ => ?_) _ ?_
    | split
    | dsimp only
    | fail_if_no_progress with_reducible apply kept_same

theorem State.putSector_kept {s : State} (w : Who) (hint : Nat) (p : Patch) (k : Nat) (hk : Kept Q s) : Kept Q (State.putSector s w hint p k) := by
  have h3 := State.passWrite_kept w hint (32 * k) (p.filter fun e => e.1 / 32 == k).length [32 * k] (fun _ => patchFull p k) (State.backInvalidate_kept true (32 * k) 32 hk)
  have h4 := State.healed_kept (32 * k) 32 h3
  unfold State.putSector
  refine kept_mem ?_ (memWf_foldl _ (fun _ _ hm => memWf_put _ _ hm) _ (Kept.mem (Q := Q) ?_)) <;>
  · split
    · exact h4
    · exact h3

theorem State.putPatch_kept {s : State} (w : Who) (hint : Nat) (p : Patch) (hk : Kept Q s) : Kept Q (State.putPatch s w hint p) := by
  unfold State.putPatch
  try dsimp only
  repeat' first
    | with_reducible assumption
    | with_reducible apply State.putSector_kept
    | with_reducible refine kept_fst ?_ (by with_reducible assumption)
    | with_reducible refine kept_foldl (fun _ _ _ => ?_) _ ?_
    | with_reducible refine kept_foldl_run (fun _ _ _ => ?_) _ ?_
    | with_reducible refine kept_foldl_fst (fun _ _ _ => ?_) _ ?_
    | split
    | dsimp only
    | fail_if_no_progress with_reducible apply kept_same

theorem State.touchElems_kept {s : State} (w : Who) (d : Desc) (is : List Ix) (hk : Kept Q s) : Kept Q (State.touchElems s w d is) := by
  unfold State.touchElems
  try dsimp only
  repeat' first
    | with_reducible assumption
    | with_reducible apply State.touch_kept
    | with_reducible refine kept_fst ?_ (by with_reducible assumption)
    | with_reducible refine kept_foldl (fun _ _ _ => ?_) _ ?_
    | with_reducible refine kept_foldl_run (fun _ _ _ => ?_) _ ?_
    | with_reducible refine kept_foldl_fst (fun _ _ _ => ?_) _ ?_
    | split
    | dsimp only
    | fail_if_no_progress with_reducible apply kept_same

theorem Run.start_kept {s : State} (e : Exec) (hk : Kept Q s) : Kept Q (Run.start s e).st := by
  unfold Run.start
  try dsimp only
  repeat' first
    | with_reducible assumption
    | with_reducible refine kept_fst ?_ (by with_reducible assumption)
    | split
    | dsimp only
    | fail_if_no_progress with_reducible apply kept_same

theorem Run.counted_kept {r : Run} (set : Nat) (f : Fmt) (es : List (Nat × Option Nat)) (hk : Kept Q r.st) : Kept Q (Run.counted r set f es).st := by
  unfold Run.counted
  try dsimp only
  repeat' first
    | with_reducible assumption
    | with_reducible refine kept_fst ?_ (by with_reducible assumption)
    | split
    | dsimp only
    | fail_if_no_progress with_reducible apply kept_same

theorem Run.touched_kept {r : Run} (w : Who) (d : Desc) (is : List Ix) (hk : Kept Q r.st) : Kept Q (Run.touched r w d is).st := by
  unfold Run.touched
  try dsimp only
  repeat' first
    | with_reducible assumption
    | with_reducible apply State.touchElems_kept
    | with_reducible refine kept_fst ?_ (by with_reducible assumption)
    | split
    | dsimp only
    | fail_if_no_progress with_reducible apply kept_same

theorem Run.stopped_kept {r : Run} (d : Fin) (hk : Kept Q r.st) : Kept Q (Run.stopped r d).st := by
  unfold Run.stopped
  try dsimp only
  repeat' first
    | with_reducible assumption
    | with_reducible refine kept_fst ?_ (by with_reducible assumption)
    | split
    | dsimp only
    | fail_if_no_progress with_reducible apply kept_same

theorem Run.wrotePatch_kept {r : Run} (w : Who) (d : Desc) (p : Patch) (es : List OutElem) (at_ : Fin) (info : Nat) (hk : Kept Q r.st) : Kept Q (Run.wrotePatch r w d p es at_ info).st := by
  unfold Run.wrotePatch
  try dsimp only
  repeat' first
    | with_reducible assumption
    | with_reducible apply State.putPatch_kept
    | with_reducible apply Run.stopped_kept
    | with_reducible refine kept_fst ?_ (by with_reducible assumption)
    | with_reducible refine kept_foldl (fun _ _ _ => ?_) _ ?_
    | with_reducible refine kept_foldl_run (fun _ _ _ => ?_) _ ?_
    | with_reducible refine kept_foldl_fst (fun _ _ _ => ?_) _ ?_
    | split
    | dsimp only
    | fail_if_no_progress with_reducible apply kept_same

theorem Run.wrote_kept {r : Run} (w : Who) (d : Desc) (es : List OutElem) (at_ : Fin) (info : Nat) (hk : Kept Q r.st) : Kept Q (Run.wrote r w d es at_ info).st := by
  unfold Run.wrote
  try dsimp only
  repeat' first
    | with_reducible assumption
    | with_reducible apply Run.wrotePatch_kept
    | with_reducible refine kept_fst ?_ (by with_reducible assumption)
    | split
    | dsimp only
    | fail_if_no_progress with_reducible apply kept_same

theorem runGroups_kept {f : Run → Nat → Run} (hf : ∀ r i, Kept Q r.st → Kept Q (f r i).st) (upTo : Option Nat) (l : List Nat) {r : Run} (h : Kept Q r.st) : Kept Q (runGroups f upTo r l).st := by
  induction l generalizing r with
  | nil => exact h
  | cons g l ih =>
    unfold runGroups
    split
    · exact h
    · split
      · exact h
      · exact ih (hf r g h)

theorem Run.readGroup_kept {r : Run} (w : Who) (set : Nat) (d : Desc) (is : List Ix) (g : Nat) (hk : Kept Q r.st) : Kept Q (Run.readGroup r w set d is g).1.st := by
  unfold Run.readGroup
  try dsimp only
  repeat' first
    | with_reducible assumption
    | with_reducible apply Run.counted_kept
    | with_reducible apply Run.touched_kept
    | with_reducible apply Run.stopped_kept
    | with_reducible refine kept_fst ?_ (by with_reducible assumption)
    | split
    | dsimp only
    | fail_if_no_progress with_reducible apply kept_same

theorem fetchOperand_kept (w : Who) {r : Run} (d : Desc) (set pad : Nat) (t : Tile) (k : Nat) (ixs : List (Option Ix)) (hk : Kept Q r.st) : Kept Q (fetchOperand w r d set pad t k ixs).1.st := by
  unfold fetchOperand
  try dsimp only
  repeat' first
    | with_reducible assumption
    | with_reducible apply Run.counted_kept
    | with_reducible apply Run.touched_kept
    | with_reducible apply Run.stopped_kept
    | with_reducible refine kept_fst ?_ (by with_reducible assumption)
    | split
    | dsimp only
    | fail_if_no_progress with_reducible apply kept_same

theorem fetchWeights_kept (g : Gemm) (w : Who) (t : Tile) (k : KTile) {r : Run} (m : MatUnit) (hk : Kept Q r.st) : Kept Q (fetchWeights g w t k r m).1.st := by
  unfold fetchWeights
  try dsimp only
  repeat' first
    | with_reducible assumption
    | with_reducible apply fetchOperand_kept
    | with_reducible refine kept_fst ?_ (by with_reducible assumption)
    | split
    | dsimp only
    | fail_if_no_progress with_reducible apply kept_same

theorem fetchVisit_kept (g : Gemm) (w : Who) (v : Visit) (l : List KTile) {r : Run × MatUnit} (h : Kept Q r.1.st) : Kept Q (fetchVisit g w v r l).1.st := by
  induction l generalizing r with
  | nil => exact h
  | cons k l ih =>
    unfold fetchVisit
    dsimp only
    split
    · exact ih h
    · split
      · exact fetchOperand_kept _ _ _ _ _ _ _ h
      · split
        · exact fetchWeights_kept _ _ _ _ _ (fetchOperand_kept _ _ _ _ _ _ _ h)
        · exact ih (fetchWeights_kept _ _ _ _ _ (fetchOperand_kept _ _ _ _ _ _ _ h))

theorem fetchTile_kept {r : Run} (w : Who) (d : Desc) (set : Nat) (t : Tile) (k : Nat) (ixs : List Ix) (hk : Kept Q r.st) : Kept Q (fetchTile r w d set t k ixs).1.st := by
  unfold fetchTile
  try dsimp only
  repeat' first
    | with_reducible assumption
    | with_reducible apply fetchOperand_kept
    | with_reducible refine kept_fst ?_ (by with_reducible assumption)
    | split
    | dsimp only
    | fail_if_no_progress with_reducible apply kept_same

theorem drainTile_kept (g : Gemm) (w : Who) {r : Run} (t : Tile) (k : Nat) (accs : List A32) (hk : Kept Q r.st) : Kept Q (drainTile g w r t k accs).st := by
  unfold drainTile
  try dsimp only
  repeat' first
    | with_reducible assumption
    | with_reducible apply Run.wrote_kept
    | with_reducible apply fetchTile_kept
    | with_reducible refine kept_fst ?_ (by with_reducible assumption)
    | split
    | dsimp only
    | fail_if_no_progress with_reducible apply kept_same

theorem setBoard_kept (p : Nat) (o : Option Nat) {s : State} (h : Kept Q s) : Kept Q (setBoard p o s) := by
  unfold setBoard
  split
  · exact State.updPart_kept _ _ h
  · exact h

theorem State.loadAcc_kept {s : State} (m : MatUnit) (a : AccSlot) (hk : Kept Q s) : Kept Q (State.loadAcc s m a) := by
  unfold State.loadAcc
  try dsimp only
  repeat' first
    | with_reducible assumption
    | with_reducible apply State.odInc_kept
    | with_reducible refine kept_fst ?_ (by with_reducible assumption)
    | split
    | dsimp only
    | fail_if_no_progress with_reducible apply kept_same

theorem visitOne_kept (g : Gemm) (w : Who) {x : GemmRun} (v : Visit) (h : Kept Q x.run.st) : Kept Q (visitOne g w x v).run.st := by
  unfold visitOne
  dsimp only
  repeat' first
    | with_reducible assumption
    | with_reducible apply Run.stopped_kept
    | with_reducible apply fetchVisit_kept
    | with_reducible apply drainTile_kept
    | with_reducible apply setBoard_kept
    | with_reducible apply State.drew_kept
    | with_reducible apply State.loadAcc_kept
    | split
    | dsimp only

theorem runVisits_kept (g : Gemm) (w : Who) (upTo : Option Nat) (l : List Visit) {x : GemmRun} (h : Kept Q x.run.st) : Kept Q (runVisits g w upTo x l).run.st := by
  induction l generalizing x with
  | nil => exact h
  | cons v l ih =>
    unfold runVisits
    split
    · exact h
    · split
      · exact Run.stopped_kept _ h
      · exact ih (visitOne_kept _ _ _ h)

theorem Gemm.go_kept (g : Gemm) {s : State} (w : Who) (e : Exec) (upTo : Option Nat) (h : Kept Q s) : Kept Q (g.go s w e upTo).run.st := by
  unfold Gemm.go
  dsimp only
  exact State.updCore_kept _ _ (runVisits_kept _ _ _ _ h)

theorem State.runCore_kept {s : State} (n : Nat) (mine : CmdInst → Bool) (checks : CmdInst → Exec → Checks) {body : State → Nat → Exec → Run} (hb : ∀ e, Kept Q (body s n e).st) (h : Kept Q s) :
    Kept Q (s.runCore n mine checks body) := by
  unfold State.runCore
  split
  · exact h
  · split
    · exact State.endCore_kept _ _ _ h
    · exact State.endCore_kept _ _ _ (hb _)

theorem matRun_kept (upTo : Option Nat) {s : State} (n : Nat) (e : Exec) (hk : Kept Q s) : Kept Q (matRun upTo s n e).st := by
  unfold matRun
  try dsimp only
  repeat' first
    | with_reducible assumption
    | with_reducible apply Gemm.go_kept
    | with_reducible refine kept_fst ?_ (by with_reducible assumption)
    | split
    | dsimp only
    | fail_if_no_progress with_reducible apply kept_same

theorem Run.input_kept {r : Run} (w : Who) (set : Nat) (o : Option Desc) (is : List Ix) (g : Nat) (dflt : A32) (hk : Kept Q r.st) : Kept Q (Run.input r w set o is g dflt).1.st := by
  unfold Run.input
  try dsimp only
  repeat' first
    | with_reducible assumption
    | with_reducible apply Run.readGroup_kept
    | with_reducible refine kept_fst ?_ (by with_reducible assumption)
    | split
    | dsimp only
    | fail_if_no_progress with_reducible apply kept_same

theorem vopGroup_kept (w : Who) (c : CmdInst) (a : VopArgs) {r : Run} (g : Nat) (hk : Kept Q r.st) : Kept Q (vopGroup w c a r g).st := by
  unfold vopGroup
  try dsimp only
  repeat' first
    | with_reducible assumption
    | with_reducible apply Run.wrote_kept
    | with_reducible apply Run.input_kept
    | with_reducible refine kept_fst ?_ (by with_reducible assumption)
    | split
    | dsimp only
    | fail_if_no_progress with_reducible apply kept_same

theorem vopRun_kept (upTo : Option Nat) {s : State} (n : Nat) (e : Exec) (hk : Kept Q s) : Kept Q (vopRun upTo s n e).st := by
  unfold vopRun
  try dsimp only
  repeat' first
    | with_reducible assumption
    | with_reducible apply Run.start_kept
    | with_reducible apply runGroups_kept
    | with_reducible apply vopGroup_kept
    | with_reducible refine kept_fst ?_ (by with_reducible assumption)
    | with_reducible refine runGroups_kept (fun _ _ _ => ?_) _ _ ?_
    | split
    | dsimp only
    | fail_if_no_progress with_reducible apply kept_same

theorem vreduceGroup_kept (w : Who) (sub : Nat) (mode : Mode) (x o : Desc) {r : Run} (g : Nat) (hk : Kept Q r.st) : Kept Q (vreduceGroup w sub mode x o r g).st := by
  unfold vreduceGroup
  try dsimp only
  repeat' first
    | with_reducible assumption
    | with_reducible apply State.drew_kept
    | with_reducible apply Run.wrote_kept
    | with_reducible apply Run.readGroup_kept
    | with_reducible refine kept_fst ?_ (by with_reducible assumption)
    | split
    | dsimp only
    | fail_if_no_progress with_reducible apply kept_same

theorem vreduceRun_kept (upTo : Option Nat) {s : State} (n : Nat) (e : Exec) (hk : Kept Q s) : Kept Q (vreduceRun upTo s n e).st := by
  unfold vreduceRun
  try dsimp only
  repeat' first
    | with_reducible assumption
    | with_reducible apply Run.start_kept
    | with_reducible apply runGroups_kept
    | with_reducible apply vreduceGroup_kept
    | with_reducible refine kept_fst ?_ (by with_reducible assumption)
    | with_reducible refine runGroups_kept (fun _ _ _ => ?_) _ _ ?_
    | split
    | dsimp only
    | fail_if_no_progress with_reducible apply kept_same

theorem copyGroup_kept (w : Who) (a b : Desc) {r : Run} (g : Nat) (hk : Kept Q r.st) : Kept Q (copyGroup w a b r g).st := by
  unfold copyGroup
  try dsimp only
  repeat' first
    | with_reducible assumption
    | with_reducible apply Run.wrote_kept
    | with_reducible apply Run.readGroup_kept
    | with_reducible refine kept_fst ?_ (by with_reducible assumption)
    | split
    | dsimp only
    | fail_if_no_progress with_reducible apply kept_same

theorem copyRun_kept (upTo : Option Nat) {s : State} (n : Nat) (e : Exec) (hk : Kept Q s) : Kept Q (copyRun upTo s n e).st := by
  unfold copyRun
  try dsimp only
  repeat' first
    | with_reducible assumption
    | with_reducible apply Run.start_kept
    | with_reducible apply runGroups_kept
    | with_reducible apply copyGroup_kept
    | with_reducible refine kept_fst ?_ (by with_reducible assumption)
    | with_reducible refine runGroups_kept (fun _ _ _ => ?_) _ _ ?_
    | split
    | dsimp only
    | fail_if_no_progress with_reducible apply kept_same

theorem convRun_kept (upTo : Option Nat) {s : State} (n : Nat) (e : Exec) (hk : Kept Q s) : Kept Q (convRun upTo s n e).st := by
  unfold convRun
  try dsimp only
  repeat' first
    | with_reducible assumption
    | with_reducible apply Gemm.go_kept
    | with_reducible refine kept_fst ?_ (by with_reducible assumption)
    | split
    | dsimp only
    | fail_if_no_progress with_reducible apply kept_same

theorem wgradRun_kept (upTo : Option Nat) {s : State} (n : Nat) (e : Exec) (hk : Kept Q s) : Kept Q (wgradRun upTo s n e).st := by
  unfold wgradRun
  try dsimp only
  repeat' first
    | with_reducible assumption
    | with_reducible apply Gemm.go_kept
    | with_reducible refine kept_fst ?_ (by with_reducible assumption)
    | split
    | dsimp only
    | fail_if_no_progress with_reducible apply kept_same

theorem State.drainNext_kept {s : State} (n : Nat) (e : Exec) (g : Gemm) (hk : Kept Q s) : Kept Q (State.drainNext s n e g) := by
  unfold State.drainNext
  try dsimp only
  repeat' first
    | with_reducible assumption
    | with_reducible apply State.updCore_kept
    | with_reducible apply Gemm.go_kept
    | with_reducible refine kept_fst ?_ (by with_reducible assumption)
    | split
    | dsimp only
    | fail_if_no_progress with_reducible apply kept_same

theorem Run.readSegment_kept {r : Run} (w : Who) (set pad : Nat) (d : Desc) (ixs : List (Option Ix)) (g : Segment) (j : Nat) (hk : Kept Q r.st) : Kept Q (Run.readSegment r w set pad d ixs g j).1.st := by
  unfold Run.readSegment
  try dsimp only
  repeat' first
    | with_reducible assumption
    | with_reducible apply Run.counted_kept
    | with_reducible apply Run.touched_kept
    | with_reducible apply Run.stopped_kept
    | with_reducible refine kept_fst ?_ (by with_reducible assumption)
    | split
    | dsimp only
    | fail_if_no_progress with_reducible apply kept_same

theorem Run.wroteSegment_kept {r : Run} (w : Who) (y : Desc) (d : ConvDims) (g : Segment) (j : Nat) (xs : List A32) (hk : Kept Q r.st) : Kept Q (Run.wroteSegment r w y d g j xs).st := by
  unfold Run.wroteSegment
  try dsimp only
  repeat' first
    | with_reducible assumption
    | with_reducible apply Run.wrote_kept
    | with_reducible apply setBoard_kept
    | with_reducible refine kept_fst ?_ (by with_reducible assumption)
    | split
    | dsimp only
    | fail_if_no_progress with_reducible apply kept_same

theorem State.stage_kept {s : State} (n : Nat) (xs : List Elem) (hk : Kept Q s) : Kept Q (State.stage s n xs) := by
  unfold State.stage
  try dsimp only
  repeat' first
    | with_reducible assumption
    | with_reducible apply State.updCore_kept
    | with_reducible refine kept_fst ?_ (by with_reducible assumption)
    | split
    | dsimp only
    | fail_if_no_progress with_reducible apply kept_same

theorem Run.readShelf_kept {r : Run} (n : Nat) (g : Segment) (j : Nat) (hk : Kept Q r.st) : Kept Q (Run.readShelf r n g j).st := by
  unfold Run.readShelf
  try dsimp only
  repeat' first
    | with_reducible assumption
    | with_reducible apply State.updCore_kept
    | with_reducible apply State.odInc_kept
    | with_reducible apply Run.stopped_kept
    | with_reducible refine kept_fst ?_ (by with_reducible assumption)
    | split
    | dsimp only
    | fail_if_no_progress with_reducible apply kept_same

theorem dwSegment_kept (w : Who) (c : CmdInst) (e : Exec) (d : ConvDims) (mode : Mode) {r : Run} (j : Nat) (hk : Kept Q r.st) : Kept Q (dwSegment w c e d mode r j).st := by
  have h := hk
  unfold dwSegment
  extract_lets x wt y g grp steps xi
  split
  rename_i r1 xs e1
  have h1 := kept_fst_run (Run.readSegment_kept _ _ _ _ _ _ _ h) e1
  split
  · exact h1
  · split
    rename_i r2 ws e2
    have h2 := kept_fst_run (Run.readSegment_kept _ _ _ _ _ _ _ h1) e2
    split
    · exact h2
    · extract_lets t r3
      have h3 : Kept Q r3.st := Run.readShelf_kept _ _ _ (State.stage_kept _ _ (State.drew_kept _ h2))
      split
      · exact h3
      · split
        rename_i r4 old e4
        have h4 : Kept Q r4.st := by
          refine kept_fst_run ?_ e4
          split
          · exact Run.readSegment_kept _ _ _ _ _ _ _ h3
          · exact h3
        split
        · exact h4
        · split
          rename_i r5 ds e5
          have h5 : Kept Q r5.st := by
            refine kept_fst_run ?_ e5
            split
            · exact Run.readSegment_kept _ _ _ _ _ _ _ h4
            · exact h4
          split
          · exact h5
          · exact Run.wroteSegment_kept _ _ _ _ _ _ h5

theorem segRun_kept (d : ConvDims) (pool : Bool) {f : Run → Nat → Run} (hf : ∀ r i, Kept Q r.st → Kept Q (f r i).st) (upTo : Option Nat) {r : Run} (h : Kept Q r.st) : Kept Q (segRun d pool f upTo r).st := by
  unfold segRun
  split
  · exact Run.stopped_kept _ h
  · exact runGroups_kept hf _ _ h

theorem dwRun_kept (upTo : Option Nat) {s : State} (n : Nat) (e : Exec) (hk : Kept Q s) : Kept Q (dwRun upTo s n e).st := by
  have h := hk
  exact segRun_kept _ _ (fun _ _ h => dwSegment_kept _ _ _ _ _ _ h) _ h

theorem poolSegment_kept (w : Who) (c : CmdInst) (e : Exec) (d : ConvDims) (mode : Mode) {r : Run} (j : Nat) (hk : Kept Q r.st) : Kept Q (poolSegment w c e d mode r j).st := by
  unfold poolSegment
  try dsimp only
  repeat' first
    | with_reducible assumption
    | with_reducible apply State.drew_kept
    | with_reducible apply Run.readSegment_kept
    | with_reducible apply Run.wroteSegment_kept
    | with_reducible apply State.stage_kept
    | with_reducible apply Run.readShelf_kept
    | with_reducible refine kept_fst ?_ (by with_reducible assumption)
    | with_reducible refine kept_foldl (fun _ _ _ => ?_) _ ?_
    | with_reducible refine kept_foldl_run (fun _ _ _ => ?_) _ ?_
    | with_reducible refine kept_foldl_fst (fun _ _ _ => ?_) _ ?_
    | split
    | dsimp only
    | fail_if_no_progress with_reducible apply kept_same

theorem poolRun_kept (upTo : Option Nat) {s : State} (n : Nat) (e : Exec) (hk : Kept Q s) : Kept Q (poolRun upTo s n e).st := by
  have h := hk
  exact segRun_kept _ _ (fun _ _ h => poolSegment_kept _ _ _ _ _ _ h) _ h

theorem gatherOne_kept (src : State) (w : Who) (n : Nat) (c : CmdInst) {r : Run} (i : Nat) (hk : Kept Q r.st) : Kept Q (gatherOne src w n c r i).st := by
  unfold gatherOne
  try dsimp only
  repeat' first
    | with_reducible assumption
    | with_reducible apply State.touch_kept
    | with_reducible apply State.store_kept
    | with_reducible apply Run.stopped_kept
    | with_reducible refine kept_fst ?_ (by with_reducible assumption)
    | split
    | dsimp only
    | fail_if_no_progress with_reducible apply kept_same

theorem scatterOne_kept (src : State) (w : Who) (n : Nat) (c : CmdInst) {r : Run} (i : Nat) (hk : Kept Q r.st) : Kept Q (scatterOne src w n c r i).st := by
  unfold scatterOne
  try dsimp only
  repeat' first
    | with_reducible assumption
    | with_reducible apply State.store_kept
    | with_reducible refine kept_fst ?_ (by with_reducible assumption)
    | split
    | dsimp only
    | fail_if_no_progress with_reducible apply kept_same

theorem listRun_kept {one : State → Who → Nat → CmdInst → Run → Nat → Run} (ho : ∀ s w n c r i, Kept Q r.st → Kept Q (one s w n c r i).st) (upTo : Option Nat) {s : State} (n : Nat) (e : Exec) (h : Kept Q s) :
    Kept Q (listRun one upTo s n e).st := by
  unfold listRun
  dsimp only
  have h1 := State.touch_kept (s.whoExec n e) 0 (e.cmd.listAt 0) (4 * min (min e.cmd.gatherCount 4096) (((List.range e.cmd.gatherCount).find? fun i => (s.entryFault (s.whoExec n e) n e.cmd i).isSome).getD e.cmd.gatherCount + 1)) h
  split
  · exact Run.stopped_kept _ (runGroups_kept (fun _ _ h => ho _ _ _ _ _ _ h) _ _ h1)
  · exact runGroups_kept (fun _ _ h => ho _ _ _ _ _ _ h) _ _ h1

theorem State.putBlock_kept {s : State} (x : AtticBlock) (hk : Kept Q s) : Kept Q (State.putBlock s x) := by
  unfold State.putBlock
  try dsimp only
  repeat' first
    | with_reducible assumption
    | with_reducible apply State.withTier_kept
    | with_reducible refine kept_fst ?_ (by with_reducible assumption)
    | split
    | dsimp only
    | fail_if_no_progress with_reducible apply kept_same

theorem State.enqueue_kept {s : State} (b : Nat) (hk : Kept Q s) : Kept Q (State.enqueue s b) := by
  unfold State.enqueue
  try dsimp only
  repeat' first
    | with_reducible assumption
    | with_reducible apply State.withTier_kept
    | with_reducible refine kept_fst ?_ (by with_reducible assumption)
    | split
    | dsimp only
    | fail_if_no_progress with_reducible apply kept_same

theorem State.pageRead_kept {s : State} (b : Nat) (hk : Kept Q s) : Kept Q (State.pageRead s b) := by
  unfold State.pageRead
  try dsimp only
  repeat' first
    | with_reducible assumption
    | with_reducible apply State.raise_kept
    | with_reducible apply State.putBlock_kept
    | with_reducible apply State.enqueue_kept
    | with_reducible refine kept_fst ?_ (by with_reducible assumption)
    | split
    | dsimp only
    | fail_if_no_progress with_reducible apply kept_same

theorem State.closeBlock_kept {s : State} (b : Nat) (hk : Kept Q s) : Kept Q (State.closeBlock s b) := by
  unfold State.closeBlock
  try dsimp only
  repeat' first
    | with_reducible assumption
    | with_reducible apply State.withTier_kept
    | with_reducible refine kept_fst ?_ (by with_reducible assumption)
    | split
    | dsimp only
    | fail_if_no_progress with_reducible apply kept_same

theorem State.condemn_kept {s : State} (b : Nat) (hk : Kept Q s) : Kept Q (State.condemn s b) := by
  unfold State.condemn
  try dsimp only
  repeat' first
    | with_reducible assumption
    | with_reducible apply State.putBlock_kept
    | with_reducible apply State.enqueue_kept
    | with_reducible apply State.closeBlock_kept
    | with_reducible refine kept_fst ?_ (by with_reducible assumption)
    | split
    | dsimp only
    | fail_if_no_progress with_reducible apply kept_same

theorem State.retire_kept {s : State} (b : Nat) (hk : Kept Q s) : Kept Q (State.retire s b) := by
  unfold State.retire
  try dsimp only
  repeat' first
    | with_reducible assumption
    | with_reducible apply State.withTier_kept
    | with_reducible apply State.raise_kept
    | with_reducible apply State.putBlock_kept
    | with_reducible apply State.closeBlock_kept
    | with_reducible refine kept_fst ?_ (by with_reducible assumption)
    | split
    | dsimp only
    | fail_if_no_progress with_reducible apply kept_same

theorem State.eraseBlock_kept {s : State} (b : Nat) (hk : Kept Q s) : Kept Q (State.eraseBlock s b) := by
  unfold State.eraseBlock
  try dsimp only
  repeat' first
    | with_reducible assumption
    | with_reducible apply State.withTier_kept
    | with_reducible apply State.putBlock_kept
    | with_reducible apply State.closeBlock_kept
    | with_reducible apply State.retire_kept
    | with_reducible refine kept_fst ?_ (by with_reducible assumption)
    | split
    | dsimp only
    | fail_if_no_progress with_reducible apply kept_same

theorem State.takeUnits_kept {s : State} (u b : Nat) (hk : Kept Q s) : Kept Q (State.takeUnits s u b) := by
  unfold State.takeUnits
  try dsimp only
  repeat' first
    | with_reducible assumption
    | with_reducible apply State.putBlock_kept
    | with_reducible refine kept_fst ?_ (by with_reducible assumption)
    | split
    | dsimp only
    | fail_if_no_progress with_reducible apply kept_same

theorem State.findPage_kept (n k u : Nat) {s : State} (h : Kept Q s) : Kept Q (State.findPage n s k u).1 := by
  induction n generalizing s with
  | zero => exact h
  | succ n ih =>
    unfold State.findPage
    dsimp only
    split
    · split
      · exact ih (State.condemn_kept _ h)
      · exact State.takeUnits_kept _ _ h
    · split
      · exact h
      · refine ih ?_
        repeat' first
          | with_reducible assumption
          | with_reducible apply State.withTier_kept
          | with_reducible apply State.eraseBlock_kept
          | split

theorem State.pageIn_kept {s : State} (k u : Nat) (hk : Kept Q s) : Kept Q (State.pageIn s k u).1 := by
  unfold State.pageIn
  try dsimp only
  repeat' first
    | with_reducible assumption
    | with_reducible apply State.findPage_kept
    | with_reducible refine kept_fst ?_ (by with_reducible assumption)
    | split
    | dsimp only
    | fail_if_no_progress with_reducible apply kept_same

theorem State.placeFrom_kept (u : Nat) (l : List Nat) {s : State} (h : Kept Q s) : Kept Q (s.placeFrom u l).1 := by
  induction l generalizing s with
  | nil => exact h
  | cons k l ih =>
    have hp := State.pageIn_kept k u h
    unfold State.placeFrom
    split
    · rename_i e
      have ht := kept_fst hp e
      dsimp only
      apply State.withTier_kept
      exact ht
    · rename_i e
      exact ih (kept_fst hp e)

theorem State.placeNext_kept {s : State} (u : Nat) (hk : Kept Q s) : Kept Q (State.placeNext s u).1 := by
  unfold State.placeNext
  try dsimp only
  repeat' first
    | with_reducible assumption
    | with_reducible apply State.placeFrom_kept
    | with_reducible refine kept_fst ?_ (by with_reducible assumption)
    | split
    | dsimp only
    | fail_if_no_progress with_reducible apply kept_same

theorem State.programmed_kept {s : State} (bs : List Byte) (hk : Kept Q s) : Kept Q (State.programmed s bs) := by
  unfold State.programmed
  try dsimp only
  repeat' first
    | with_reducible assumption
    | with_reducible apply State.nvSet_kept
    | with_reducible apply State.odAdd_kept
    | with_reducible refine kept_fst ?_ (by with_reducible assumption)
    | split
    | dsimp only
    | fail_if_no_progress with_reducible apply kept_same

theorem State.writeBody_kept {s : State} (r : AtticCrate) (hk : Kept Q s) : Kept Q (State.writeBody s r) := by
  unfold State.writeBody
  try dsimp only
  repeat' first
    | with_reducible assumption
    | with_reducible apply State.withTier_kept
    | with_reducible refine kept_fst ?_ (by with_reducible assumption)
    | split
    | dsimp only
    | fail_if_no_progress with_reducible apply kept_same

theorem State.writeCommit_kept {s : State} (gen : Nat) (hk : Kept Q s) : Kept Q (State.writeCommit s gen) := by
  unfold State.writeCommit
  try dsimp only
  repeat' first
    | with_reducible assumption
    | with_reducible apply State.withTier_kept
    | with_reducible refine kept_fst ?_ (by with_reducible assumption)
    | split
    | dsimp only
    | fail_if_no_progress with_reducible apply kept_same

theorem State.programRecord_kept {s : State} (ops : Nat) (r : AtticCrate) (hk : Kept Q s) : Kept Q (State.programRecord s ops r) := by
  unfold State.programRecord
  try dsimp only
  repeat' first
    | with_reducible assumption
    | with_reducible apply State.programmed_kept
    | with_reducible apply State.writeBody_kept
    | with_reducible apply State.writeCommit_kept
    | with_reducible refine kept_fst ?_ (by with_reducible assumption)
    | split
    | dsimp only
    | fail_if_no_progress with_reducible apply kept_same

theorem State.applyRecord_kept {s : State} (r : AtticCrate) (hk : Kept Q s) : Kept Q (State.applyRecord s r) := by
  unfold State.applyRecord
  try dsimp only
  repeat' first
    | with_reducible assumption
    | with_reducible apply State.withTier_kept
    | with_reducible refine kept_fst ?_ (by with_reducible assumption)
    | split
    | dsimp only
    | fail_if_no_progress with_reducible apply kept_same

theorem State.dropCopies_kept {s : State} (i : Nat) (hk : Kept Q s) : Kept Q (State.dropCopies s i) := by
  unfold State.dropCopies
  try dsimp only
  repeat' first
    | with_reducible assumption
    | with_reducible apply State.withTier_kept
    | with_reducible refine kept_fst ?_ (by with_reducible assumption)
    | split
    | dsimp only
    | fail_if_no_progress with_reducible apply kept_same

theorem State.atticCommit_kept {s : State} (w : Who) (p i : Nat) (bs : List Byte) (hk : Kept Q s) : Kept Q (State.atticCommit s w p i bs) := by
  unfold State.atticCommit
  try dsimp only
  repeat' first
    | with_reducible assumption
    | with_reducible apply State.charge_kept
    | with_reducible apply State.placeNext_kept
    | with_reducible apply State.programRecord_kept
    | with_reducible apply State.applyRecord_kept
    | with_reducible apply State.dropCopies_kept
    | with_reducible refine kept_fst ?_ (by with_reducible assumption)
    | split
    | dsimp only
    | fail_if_no_progress with_reducible apply kept_same

theorem State.atticDiscard_kept {s : State} (p i : Nat) (hk : Kept Q s) : Kept Q (State.atticDiscard s p i) := by
  unfold State.atticDiscard
  try dsimp only
  repeat' first
    | with_reducible assumption
    | with_reducible apply State.programRecord_kept
    | with_reducible apply State.applyRecord_kept
    | with_reducible apply State.dropCopies_kept
    | with_reducible refine kept_fst ?_ (by with_reducible assumption)
    | split
    | dsimp only
    | fail_if_no_progress with_reducible apply kept_same

theorem State.dropSlot_kept {s : State} (c : CacheSlot) (hk : Kept Q s) : Kept Q (State.dropSlot s c) := by
  unfold State.dropSlot
  try dsimp only
  repeat' first
    | with_reducible assumption
    | with_reducible apply State.withTier_kept
    | with_reducible refine kept_fst ?_ (by with_reducible assumption)
    | split
    | dsimp only
    | fail_if_no_progress with_reducible apply kept_same

theorem State.useCopy_kept {s : State} (c : CacheSlot) (hk : Kept Q s) : Kept Q (State.useCopy s c) := by
  unfold State.useCopy
  try dsimp only
  repeat' first
    | with_reducible assumption
    | with_reducible apply State.withTier_kept
    | with_reducible refine kept_fst ?_ (by with_reducible assumption)
    | split
    | dsimp only
    | fail_if_no_progress with_reducible apply kept_same

theorem State.readCopy_kept {s : State} (w : Who) (c : CacheSlot) (hk : Kept Q s) : Kept Q (State.readCopy s w c).1 := by
  unfold State.readCopy
  try dsimp only
  repeat' first
    | with_reducible assumption
    | with_reducible apply State.touch_kept
    | with_reducible apply State.countUncorrectable_kept
    | with_reducible refine kept_fst ?_ (by with_reducible assumption)
    | rintro _ ⟨⟩
    | rintro ⟨⟩
    | split
    | dsimp only
    | fail_if_no_progress with_reducible apply kept_same

theorem State.readFlash_kept {s : State} (w : Who) (p i : Nat) (hk : Kept Q s) : Kept Q (State.readFlash s w p i).1 := by
  unfold State.readFlash
  try dsimp only
  repeat' first
    | with_reducible assumption
    | with_reducible apply State.charge_kept
    | with_reducible apply State.pageRead_kept
    | with_reducible apply State.condemn_kept
    | with_reducible refine kept_fst ?_ (by with_reducible assumption)
    | rintro _ ⟨⟩
    | rintro ⟨⟩
    | split
    | dsimp only
    | fail_if_no_progress with_reducible apply kept_same

theorem State.readIndex_kept (w : Who) (p i : Nat) (l : List Bool) {s : State} (h : Kept Q s) : Kept Q (s.readIndex w p i l).1 := by
  induction l generalizing s with
  | nil => exact State.readFlash_kept _ _ _ h
  | cons k l ih =>
    unfold State.readIndex
    split
    · exact ih h
    · split <;> rename_i e <;> have ht := kept_fst (State.readCopy_kept _ _ h) e
      · exact ht
      · exact State.useCopy_kept _ ht
      · exact ih (State.odInc_kept _ _ (State.dropSlot_kept _ ht))

theorem State.readAttic_kept {s : State} (w : Who) (p i : Nat) (hk : Kept Q s) : Kept Q (State.readAttic s w p i).1 := by
  unfold State.readAttic
  try dsimp only
  repeat' first
    | with_reducible assumption
    | with_reducible apply State.odInc_kept
    | with_reducible apply State.readIndex_kept
    | with_reducible refine kept_fst ?_ (by with_reducible assumption)
    | rintro _ ⟨⟩
    | rintro ⟨⟩
    | split
    | dsimp only
    | fail_if_no_progress with_reducible apply kept_same

theorem State.readBytes_kept {s : State} (w : Who) (skip : Bool) (a : Nat) (hk : Kept Q s) : Kept Q (State.readBytes s w skip a).1 := by
  unfold State.readBytes
  try dsimp only
  repeat' first
    | with_reducible assumption
    | with_reducible apply State.touch_kept
    | with_reducible apply State.countFault_kept
    | with_reducible refine kept_fst ?_ (by with_reducible assumption)
    | rintro _ ⟨⟩
    | rintro ⟨⟩
    | split
    | dsimp only
    | fail_if_no_progress with_reducible apply kept_same

theorem State.readCrate_kept {s : State} (w : Who) (c : CmdInst) (i : Nat) (hk : Kept Q s) : Kept Q (State.readCrate s w c i).1 := by
  unfold State.readCrate
  try dsimp only
  repeat' first
    | with_reducible assumption
    | with_reducible apply State.readAttic_kept
    | with_reducible apply State.readBytes_kept
    | with_reducible refine kept_fst ?_ (by with_reducible assumption)
    | rintro _ ⟨⟩
    | rintro ⟨⟩
    | split
    | dsimp only
    | fail_if_no_progress with_reducible apply kept_same

theorem moveCrate_kept (w : Who) (c : CmdInst) {r : Run} (i : Nat) (hk : Kept Q r.st) : Kept Q (moveCrate w c r i).st := by
  unfold moveCrate
  try dsimp only
  repeat' first
    | with_reducible assumption
    | with_reducible apply State.store_kept
    | with_reducible apply State.countFault_kept
    | with_reducible apply Run.stopped_kept
    | with_reducible apply State.atticCommit_kept
    | with_reducible apply State.readCrate_kept
    | with_reducible refine kept_fst ?_ (by with_reducible assumption)
    | split
    | dsimp only
    | fail_if_no_progress with_reducible apply kept_same

theorem discardCrate_kept (c : CmdInst) {r : Run} (i : Nat) (hk : Kept Q r.st) : Kept Q (discardCrate c r i).st := by
  unfold discardCrate
  try dsimp only
  repeat' first
    | with_reducible assumption
    | with_reducible apply Run.stopped_kept
    | with_reducible apply State.atticDiscard_kept
    | with_reducible refine kept_fst ?_ (by with_reducible assumption)
    | split
    | dsimp only
    | fail_if_no_progress with_reducible apply kept_same

theorem dropCrate_kept (c : CmdInst) {r : Run} (i : Nat) (hk : Kept Q r.st) : Kept Q (dropCrate c r i).st := by
  unfold dropCrate
  try dsimp only
  repeat' first
    | with_reducible assumption
    | with_reducible apply State.withTier_kept
    | with_reducible refine kept_fst ?_ (by with_reducible assumption)
    | split
    | dsimp only
    | fail_if_no_progress with_reducible apply kept_same

theorem stageCrate_kept (w : Who) (c : CmdInst) {r : Run} (i : Nat) (hk : Kept Q r.st) : Kept Q (stageCrate w c r i).st := by
  unfold stageCrate
  try dsimp only
  repeat' first
    | with_reducible assumption
    | with_reducible apply State.withTier_kept
    | with_reducible apply State.odInc_kept
    | with_reducible apply State.store_kept
    | with_reducible apply Run.stopped_kept
    | with_reducible apply State.dropSlot_kept
    | with_reducible apply State.useCopy_kept
    | with_reducible apply State.readIndex_kept
    | with_reducible refine kept_fst ?_ (by with_reducible assumption)
    | split
    | dsimp only
    | fail_if_no_progress with_reducible apply kept_same

theorem tierRun_kept (upTo : Option Nat) {s : State} (w : Who) (e : Exec) (hk : Kept Q s) : Kept Q (tierRun upTo s w e).st := by
  have h := hk
  have h1 : ∀ (o : Option Nat) (f : Run → Nat → Run), (∀ r i, Kept Q r.st → Kept Q (f r i).st) → Kept Q (runGroups f o (Run.start s e) (List.range e.cmd.tmCount)).st :=
    fun o f hf => runGroups_kept hf _ _ h
  have h2 : ∀ r i, Kept Q r.st → Kept Q ((match e.cmd.sub with
      | 2 => stageCrate w e.cmd
      | 3 => discardCrate e.cmd
      | 4 => dropCrate e.cmd
      | _ => moveCrate w e.cmd) r i).st := by
    intro r i hr
    generalize e.cmd.sub = k
    match k with
    | 2 => exact stageCrate_kept _ _ _ hr
    | 3 => exact discardCrate_kept _ _ hr
    | 4 => exact dropCrate_kept _ _ hr
    | 0 | 1 | _ + 5 => exact moveCrate_kept _ _ _ hr
  unfold tierRun
  dsimp only
  split
  · split
    · exact h1 _ _ h2
    · exact h1 _ _ h2
  · exact h1 _ _ h2

theorem State.endHub_kept {s : State} (e : Exec) (d : Fin) (hk : Kept Q s) : Kept Q (State.endHub s e d) := by
  unfold State.endHub
  try dsimp only
  repeat' first
    | with_reducible assumption
    | with_reducible apply State.putBack_kept
    | with_reducible apply State.finish_kept
    | with_reducible apply Run.start_kept
    | with_reducible refine kept_fst ?_ (by with_reducible assumption)
    | split
    | dsimp only
    | fail_if_no_progress with_reducible apply kept_same

theorem State.tierMove_kept {s : State} (c : Consumer) (mine : CmdInst → Bool) (hk : Kept Q s) : Kept Q (State.tierMove s c mine) := by
  have h := hk
  unfold State.tierMove
  dsimp only
  split
  · exact State.runCore_kept _ _ _ (fun _ => tierRun_kept _ _ _ h) h
  · split
    · exact h
    · split
      · exact h
      · split
        · exact State.endHub_kept _ _ h
        · exact State.endHub_kept _ _ (tierRun_kept _ _ _ h)
  all_goals exact h

theorem State.cutWrite_kept {s : State} (w : Who) (c : CmdInst) (hk : Kept Q s) : Kept Q (State.cutWrite s w c) := by
  unfold State.cutWrite
  try dsimp only
  repeat' first
    | with_reducible assumption
    | with_reducible apply State.placeNext_kept
    | with_reducible apply State.programRecord_kept
    | with_reducible apply State.readCrate_kept
    | with_reducible refine kept_fst ?_ (by with_reducible assumption)
    | split
    | dsimp only
    | fail_if_no_progress with_reducible apply kept_same

theorem State.cutWrites_kept {s : State} (hk : Kept Q s) : Kept Q (State.cutWrites s) := by
  unfold State.cutWrites
  try dsimp only
  repeat' first
    | with_reducible assumption
    | with_reducible apply State.cutWrite_kept
    | with_reducible refine kept_fst ?_ (by with_reducible assumption)
    | with_reducible refine kept_foldl (fun _ _ _ => ?_) _ ?_
    | with_reducible refine kept_foldl_run (fun _ _ _ => ?_) _ ?_
    | with_reducible refine kept_foldl_fst (fun _ _ _ => ?_) _ ?_
    | split
    | dsimp only
    | fail_if_no_progress with_reducible apply kept_same

theorem State.relocateOne_kept {s : State} (c : AtticCrate) (hk : Kept Q s) : Kept Q (State.relocateOne s c) := by
  unfold State.relocateOne
  try dsimp only
  repeat' first
    | with_reducible assumption
    | with_reducible apply State.charge_kept
    | with_reducible apply State.pageIn_kept
    | with_reducible apply State.programRecord_kept
    | with_reducible apply State.applyRecord_kept
    | with_reducible refine kept_fst ?_ (by with_reducible assumption)
    | split
    | dsimp only
    | fail_if_no_progress with_reducible apply kept_same

theorem State.emptyBlock_kept {s : State} (b : Nat) (hk : Kept Q s) : Kept Q (State.emptyBlock s b) := by
  unfold State.emptyBlock
  try dsimp only
  repeat' first
    | with_reducible assumption
    | with_reducible apply State.closeBlock_kept
    | with_reducible apply State.relocateOne_kept
    | with_reducible refine kept_fst ?_ (by with_reducible assumption)
    | with_reducible refine kept_foldl (fun _ _ _ => ?_) _ ?_
    | with_reducible refine kept_foldl_run (fun _ _ _ => ?_) _ ?_
    | with_reducible refine kept_foldl_fst (fun _ _ _ => ?_) _ ?_
    | split
    | dsimp only
    | fail_if_no_progress with_reducible apply kept_same

theorem State.relocate_kept {s : State} (b : Nat) (hk : Kept Q s) : Kept Q (State.relocate s b) := by
  unfold State.relocate
  try dsimp only
  repeat' first
    | with_reducible assumption
    | with_reducible apply State.odInc_kept
    | with_reducible apply State.retire_kept
    | with_reducible apply State.eraseBlock_kept
    | with_reducible apply State.emptyBlock_kept
    | with_reducible refine kept_fst ?_ (by with_reducible assumption)
    | split
    | dsimp only
    | fail_if_no_progress with_reducible apply kept_same

theorem State.upset_kept (s : State) (u : Upset) (h : Kept Q s) : Kept Q (s.upset u) := by
  cases u <;> unfold State.upset <;> dsimp only
  all_goals
    repeat' first
      | with_reducible assumption
      | with_reducible apply State.withHbm_kept
      | with_reducible apply State.withTier_kept
      | with_reducible apply State.updCore_kept
      | with_reducible apply State.putBlock_kept
      | with_reducible refine State.withDiag_kept ?_ ?_
      | exact ⟨rfl, rfl⟩
      | split
      | fail_if_no_progress with_reducible apply kept_same

theorem State.tick_kept {s : State} (hk : Kept Q s) : Kept Q (State.tick s) := by
  have h := hk
  unfold State.tick
  exact kept_foldl (fun _ _ h => State.upset_kept _ _ h) _ (State.advance_kept _ h)

end Sys2Proof.Machine
end

