-- ==== Sys2Proof/Laws/KeepFabric.lean ====
section
/-! SUPPORT. What is kept by scheduling, arbiters, partitions and contexts, packets sent, fences and credits. -/
set_option linter.unusedTactic false
set_option linter.unreachableTactic false
set_option linter.unusedVariables false

namespace Sys2Proof.Machine

variable {Q : List Instr}

/-- The cores replaced by as many others. -/
theorem kept_cores {s : State} {l : List Core} (h : Kept Q s) (hl : l.length = s.cores.length) : Kept Q { s with cores := l } := kept_mk h rfl rfl hl rfl rfl rfl ⟨rfl, rfl⟩ ⟨rfl, rfl⟩ ⟨rfl, rfl⟩

theorem State.startOn_kept {s : State} (n : Nat) (c : CmdInst) (hk : Kept Q s) : Kept Q (State.startOn s n c) := by
  unfold State.startOn
  try dsimp only
  repeat' first
    | with_reducible assumption
    | with_reducible apply State.updCore_kept
    | with_reducible apply State.updCtx_kept
    | with_reducible apply State.noteFlying_kept
    | with_reducible apply State.refresh_kept
    | with_reducible apply State.touchDescs_kept
    | with_reducible apply Run.start_kept
    | with_reducible refine kept_fst ?_ (by with_reducible assumption)
    | split
    | dsimp only
    | fail_if_no_progress with_reducible apply kept_same

theorem State.makeCurrent_kept {s : State} (n cc : Nat) (hk : Kept Q s) : Kept Q (State.makeCurrent s n cc) := by
  unfold State.makeCurrent
  try dsimp only
  repeat' first
    | with_reducible assumption
    | with_reducible apply State.updCore_kept
    | with_reducible apply State.updCtx_kept
    | with_reducible apply State.discardWindow_kept
    | with_reducible refine kept_fst ?_ (by with_reducible assumption)
    | split
    | dsimp only
    | fail_if_no_progress with_reducible apply kept_same

theorem State.schedule_kept {s : State} (n : Nat) (hk : Kept Q s) : Kept Q (State.schedule s n) := by
  unfold State.schedule
  try dsimp only
  repeat' first
    | with_reducible assumption
    | with_reducible apply State.updCore_kept
    | with_reducible apply State.accept_kept
    | with_reducible apply State.startOn_kept
    | with_reducible apply State.makeCurrent_kept
    | with_reducible refine kept_fst ?_ (by with_reducible assumption)
    | split
    | dsimp only
    | fail_if_no_progress with_reducible apply kept_same

theorem State.noteWithdrawn_kept {s : State} (es : List Exec) (hk : Kept Q s) : Kept Q (State.noteWithdrawn s es) := by
  unfold State.noteWithdrawn
  try dsimp only
  repeat' first
    | with_reducible assumption
    | with_reducible apply State.withColl_kept
    | with_reducible refine kept_fst ?_ (by with_reducible assumption)
    | split
    | dsimp only
    | fail_if_no_progress with_reducible apply kept_same

theorem State.forgetWithdrawn_kept {s : State} (cc : Nat) (hk : Kept Q s) : Kept Q (State.forgetWithdrawn s cc) := by
  unfold State.forgetWithdrawn
  try dsimp only
  repeat' first
    | with_reducible assumption
    | with_reducible apply State.withColl_kept
    | with_reducible refine kept_fst ?_ (by with_reducible assumption)
    | split
    | dsimp only
    | fail_if_no_progress with_reducible apply kept_same

theorem State.withdraw_kept {s : State} (cc : Nat) (hk : Kept Q s) : Kept Q (State.withdraw s cc) := by
  have h := hk
  unfold State.withdraw
  dsimp only
  exact State.putBack_kept _ (State.updCtx_kept _ _ (State.noteWithdrawn_kept _ (kept_mk h rfl rfl (List.length_map ..) (List.length_map ..) rfl rfl ⟨rfl, rfl⟩ ⟨rfl, rfl⟩ ⟨rfl, rfl⟩)))

theorem State.swapIn_kept {s : State} (cc : Nat) (hk : Kept Q s) : Kept Q (State.swapIn s cc) := by
  unfold State.swapIn
  try dsimp only
  repeat' first
    | with_reducible assumption
    | with_reducible apply State.updCtx_kept
    | with_reducible apply State.refresh_kept
    | with_reducible apply State.preempt_kept
    | with_reducible refine kept_fst ?_ (by with_reducible assumption)
    | split
    | dsimp only
    | fail_if_no_progress with_reducible apply kept_same

theorem State.swapOut_kept {s : State} (cc : Nat) (hk : Kept Q s) : Kept Q (State.swapOut s cc) := by
  unfold State.swapOut
  try dsimp only
  repeat' first
    | with_reducible assumption
    | with_reducible apply State.updCtx_kept
    | with_reducible apply State.refresh_kept
    | with_reducible apply State.withdraw_kept
    | with_reducible refine kept_fst ?_ (by with_reducible assumption)
    | split
    | dsimp only
    | fail_if_no_progress with_reducible apply kept_same

theorem State.chargeDomain_kept {s : State} {t : State} (d : Nat) (h : Kept Q t) : Kept Q (State.chargeDomain s t d) := by
  unfold State.chargeDomain
  dsimp only
  repeat' first
    | with_reducible assumption
    | with_reducible apply State.odAdd_kept
    | split
    | with_reducible refine kept_foldl (fun _ _ _ => ?_) _ ?_

theorem State.atRegulator_kept {s : State} (hk : Kept Q s) : Kept Q (State.atRegulator s) := by
  unfold State.atRegulator
  try dsimp only
  repeat' first
    | with_reducible assumption
    | with_reducible apply State.chargeDomain_kept
    | with_reducible refine kept_fst ?_ (by with_reducible assumption)
    | with_reducible refine kept_foldl (fun _ _ _ => ?_) _ ?_
    | with_reducible refine kept_foldl_fst (fun _ _ _ => ?_) _ ?_
    | split
    | dsimp only
    | fail_if_no_progress with_reducible apply kept_same

theorem State.arbCommit_kept {s : State} (mask : Nat) (hk : Kept Q s) : Kept Q (State.arbCommit s mask).1 := by
  unfold State.arbCommit
  try dsimp only
  repeat' first
    | with_reducible assumption
    | with_reducible refine kept_fst ?_ (by with_reducible assumption)
    | split
    | dsimp only
    | fail_if_no_progress with_reducible apply kept_same

theorem State.atWindow_kept {s : State} (k : Nat) (hk : Kept Q s) : Kept Q (State.atWindow s k) := by
  unfold State.atWindow
  try dsimp only
  repeat' first
    | with_reducible assumption
    | with_reducible refine kept_fst ?_ (by with_reducible assumption)
    | split
    | dsimp only
    | fail_if_no_progress with_reducible apply kept_same

theorem State.stepTime_kept {s : State} (t : Nat) (hk : Kept Q s) : Kept Q (State.stepTime s t) := by
  unfold State.stepTime
  try dsimp only
  repeat' first
    | with_reducible assumption
    | with_reducible apply State.advance_kept
    | with_reducible apply State.atRegulator_kept
    | with_reducible apply State.atWindow_kept
    | with_reducible refine kept_fst ?_ (by with_reducible assumption)
    | with_reducible refine kept_foldl (fun _ _ _ => ?_) _ ?_
    | with_reducible refine kept_foldl_fst (fun _ _ _ => ?_) _ ?_
    | split
    | dsimp only
    | fail_if_no_progress with_reducible apply kept_same

theorem State.odClear_kept {s : State} (ix : Nat) (h : Kept Q s) : Kept Q (s.odClear ix) := kept_entries h (mapWfFrom_filter _ _ _ _ h.od) h.nv

theorem State.clearQuarters_kept {s : State} (mask : Nat) (hk : Kept Q s) : Kept Q (State.clearQuarters s mask) := by
  have h := hk
  unfold State.clearQuarters
  exact kept_cores (kept_mem h (memWf_filter _ h.mem)) (by simp only [List.length_map, List.length_zipIdx])

theorem State.retainQuarters_kept {s : State} (mask : Nat) (hk : Kept Q s) : Kept Q (State.retainQuarters s mask) := by
  unfold State.retainQuarters
  try dsimp only
  repeat' first
    | with_reducible assumption
    | with_reducible apply State.updCore_kept
    | with_reducible apply State.updIsland_kept
    | with_reducible refine kept_fst ?_ (by with_reducible assumption)
    | with_reducible refine kept_foldl (fun _ _ _ => ?_) _ ?_
    | with_reducible refine kept_foldl_fst (fun _ _ _ => ?_) _ ?_
    | split
    | dsimp only
    | fail_if_no_progress with_reducible apply kept_same

theorem State.leaveQuarters_kept {s : State} (p mask : Nat) (hk : Kept Q s) : Kept Q (State.leaveQuarters s p mask) := by
  unfold State.leaveQuarters
  try dsimp only
  repeat' first
    | with_reducible assumption
    | with_reducible apply State.updPart_kept
    | with_reducible apply State.retainQuarters_kept
    | with_reducible refine kept_fst ?_ (by with_reducible assumption)
    | with_reducible refine kept_foldl (fun _ _ _ => ?_) _ ?_
    | with_reducible refine kept_foldl_fst (fun _ _ _ => ?_) _ ?_
    | split
    | dsimp only
    | fail_if_no_progress with_reducible apply kept_same

theorem State.createPart_kept {s : State} (p : Nat) (hk : Kept Q s) : Kept Q (State.createPart s p).1 := by
  unfold State.createPart
  try dsimp only
  repeat' first
    | with_reducible assumption
    | with_reducible apply State.updPart_kept
    | with_reducible apply State.setPart_kept
    | with_reducible apply State.odClear_kept
    | with_reducible refine kept_fst ?_ (by with_reducible assumption)
    | with_reducible refine kept_foldl (fun _ _ _ => ?_) _ ?_
    | with_reducible refine kept_foldl_fst (fun _ _ _ => ?_) _ ?_
    | split
    | dsimp only
    | fail_if_no_progress with_reducible apply kept_same

theorem State.stopControl_kept {s : State} (p : Nat) (hk : Kept Q s) : Kept Q (State.stopControl s p).1 := by
  unfold State.stopControl
  try dsimp only
  repeat' first
    | with_reducible assumption
    | with_reducible apply State.stopPart_kept
    | with_reducible refine kept_fst ?_ (by with_reducible assumption)
    | split
    | dsimp only
    | fail_if_no_progress with_reducible apply kept_same

theorem State.startPart_kept {s : State} (p : Nat) (hk : Kept Q s) : Kept Q (State.startPart s p).1 := by
  unfold State.startPart
  try dsimp only
  repeat' first
    | with_reducible assumption
    | with_reducible apply State.updPart_kept
    | with_reducible apply State.setPart_kept
    | with_reducible apply Run.stopped_kept
    | with_reducible apply State.clearQuarters_kept
    | with_reducible refine kept_fst ?_ (by with_reducible assumption)
    | split
    | dsimp only
    | fail_if_no_progress with_reducible apply kept_same

theorem State.removePart_kept {s : State} (p : Nat) (hk : Kept Q s) : Kept Q (State.removePart s p).1 := by
  unfold State.removePart
  try dsimp only
  repeat' first
    | with_reducible assumption
    | with_reducible apply State.updPart_kept
    | with_reducible apply State.odSetN_kept
    | with_reducible apply State.setPart_kept
    | with_reducible apply Run.stopped_kept
    | with_reducible apply State.retainQuarters_kept
    | with_reducible refine kept_fst ?_ (by with_reducible assumption)
    | with_reducible refine kept_foldl (fun _ _ _ => ?_) _ ?_
    | with_reducible refine kept_foldl_fst (fun _ _ _ => ?_) _ ?_
    | split
    | dsimp only
    | fail_if_no_progress with_reducible apply kept_same

theorem State.partControl_kept {s : State} (p v : Nat) (hk : Kept Q s) : Kept Q (State.partControl s p v).1 := by
  unfold State.partControl
  try dsimp only
  repeat' first
    | with_reducible assumption
    | with_reducible apply State.createPart_kept
    | with_reducible apply State.stopControl_kept
    | with_reducible apply State.startPart_kept
    | with_reducible apply State.removePart_kept
    | with_reducible refine kept_fst ?_ (by with_reducible assumption)
    | split
    | dsimp only
    | fail_if_no_progress with_reducible apply kept_same

theorem State.createDone_kept {s : State} (p : Nat) (hk : Kept Q s) : Kept Q (State.createDone s p) := by
  unfold State.createDone
  try dsimp only
  repeat' first
    | with_reducible assumption
    | with_reducible apply State.setPart_kept
    | with_reducible apply Run.stopped_kept
    | with_reducible apply State.clearQuarters_kept
    | with_reducible refine kept_fst ?_ (by with_reducible assumption)
    | split
    | dsimp only
    | fail_if_no_progress with_reducible apply kept_same

theorem State.addCtx_kept {s : State} (cc : Nat) (hk : Kept Q s) : Kept Q (State.addCtx s cc).1 := by
  unfold State.addCtx
  try dsimp only
  repeat' first
    | with_reducible assumption
    | with_reducible apply State.updCtx_kept
    | with_reducible apply State.setCond_kept
    | with_reducible apply State.odClear_kept
    | with_reducible refine kept_fst ?_ (by with_reducible assumption)
    | split
    | dsimp only
    | fail_if_no_progress with_reducible apply kept_same

theorem State.recoverCores_kept {s : State} (cc : Nat) (hk : Kept Q s) : Kept Q (State.recoverCores s cc) := by
  have h := hk
  unfold State.recoverCores
  exact kept_cores h (by simp only [List.length_map])

theorem State.resumeCtx_kept {s : State} (cc : Nat) (hk : Kept Q s) : Kept Q (State.resumeCtx s cc).1 := by
  unfold State.resumeCtx
  try dsimp only
  repeat' first
    | with_reducible assumption
    | with_reducible apply State.setCond_kept
    | with_reducible apply State.refresh_kept
    | with_reducible apply State.preempt_kept
    | with_reducible apply State.recoverCores_kept
    | with_reducible refine kept_fst ?_ (by with_reducible assumption)
    | split
    | dsimp only
    | fail_if_no_progress with_reducible apply kept_same

theorem State.abortCtx_kept {s : State} (cc : Nat) (hk : Kept Q s) : Kept Q (State.abortCtx s cc).1 := by
  unfold State.abortCtx
  try dsimp only
  repeat' first
    | with_reducible assumption
    | with_reducible apply State.updCtx_kept
    | with_reducible apply State.setCond_kept
    | with_reducible apply State.abortCtxs_kept
    | with_reducible apply State.recoverCores_kept
    | with_reducible refine kept_fst ?_ (by with_reducible assumption)
    | split
    | dsimp only
    | fail_if_no_progress with_reducible apply kept_same

theorem State.removeCtx_kept {s : State} (cc : Nat) (hk : Kept Q s) : Kept Q (State.removeCtx s cc).1 := by
  unfold State.removeCtx
  try dsimp only
  repeat' first
    | with_reducible assumption
    | with_reducible apply State.updCtx_kept
    | with_reducible apply State.setCond_kept
    | with_reducible apply State.forgetWithdrawn_kept
    | with_reducible apply State.recoverCores_kept
    | with_reducible refine kept_fst ?_ (by with_reducible assumption)
    | split
    | dsimp only
    | fail_if_no_progress with_reducible apply kept_same

theorem State.ctxControl_kept {s : State} (cc v : Nat) (hk : Kept Q s) : Kept Q (State.ctxControl s cc v).1 := by
  unfold State.ctxControl
  try dsimp only
  repeat' first
    | with_reducible assumption
    | with_reducible apply State.addCtx_kept
    | with_reducible apply State.resumeCtx_kept
    | with_reducible apply State.abortCtx_kept
    | with_reducible apply State.removeCtx_kept
    | with_reducible refine kept_fst ?_ (by with_reducible assumption)
    | split
    | dsimp only
    | fail_if_no_progress with_reducible apply kept_same

theorem State.abortDone_kept {s : State} (cc : Nat) (hk : Kept Q s) : Kept Q (State.abortDone s cc) := by
  unfold State.abortDone
  try dsimp only
  repeat' first
    | with_reducible assumption
    | with_reducible apply State.updCtx_kept
    | with_reducible apply State.setCond_kept
    | with_reducible apply State.forgetWithdrawn_kept
    | with_reducible refine kept_fst ?_ (by with_reducible assumption)
    | split
    | dsimp only
    | fail_if_no_progress with_reducible apply kept_same

theorem State.forward_kept {s : State} (p : Packet) (h : Kept Q s) {t : State} (ht : s.forward p = some t) : Kept Q t := by
  revert ht
  unfold State.forward
  split
  · nofun
  · rintro ⟨⟩
    exact State.updLink_kept _ _ h
-- use: refine State.forward_kept _ ?_ (by with_reducible assumption)

theorem State.toPort_kept {s : State} (die l : Nat) (part : Option Nat) (p : Packet) (hk : Kept Q s) : Kept Q (State.toPort s die l part p) := by
  unfold State.toPort
  try dsimp only
  repeat' first
    | with_reducible assumption
    | with_reducible apply State.portUnits_kept
    | with_reducible apply State.crossMesh_kept
    | with_reducible refine kept_fst ?_ (by with_reducible assumption)
    | split
    | dsimp only
    | fail_if_no_progress with_reducible apply kept_same

theorem State.send_kept {s : State} (w : Who) (p0 : Packet) (h : Kept Q s) {t : State} (ht : s.send w p0 = .ok t) : Kept Q t := by
  revert ht
  unfold State.send
  dsimp only
  split
  · nofun
  · split
    · rintro ⟨⟩
      exact kept_same h
    · split
      · rename_i e
        rintro ⟨⟩
        have h1 := State.forward_kept _ h e
        split
        · exact State.toPort_kept _ _ _ _ h1
        · exact State.charge_kept _ _ _ _ _ (State.toPort_kept _ _ _ _ h1)
      · nofun
-- use: refine State.send_kept _ _ ?_ (by with_reducible assumption)

theorem State.message_kept {s : State} (w : Who) (dst flow addr : Nat) (data : List Byte) (h : Kept Q s) {t : State} (ht : s.message w dst flow addr data = .ok t) : Kept Q t :=
  State.send_kept _ _ h ht
-- use: refine State.message_kept _ _ _ _ _ ?_ (by with_reducible assumption)

theorem State.sendAll_kept (w : Who) (dst cls flow xfer n : Nat) (l : List (Nat × Nat × List Byte)) {s : State} (h : Kept Q s) {t : State} (ht : s.sendAll w dst cls flow xfer n l = .ok t) : Kept Q t := by
  induction l generalizing s with
  | nil =>
    cases ht
    exact h
  | cons p l ih =>
    obtain ⟨i, a, bs⟩ := p
    unfold State.sendAll at ht
    split at ht
    · cases ht
    · exact ih (State.send_kept _ _ h ‹_›) ht
-- use: refine State.sendAll_kept _ _ _ _ _ _ _ ?_ (by with_reducible assumption)

theorem State.writeTo_kept {s : State} (w : Who) (dst cls flow : Nat) (pieces : List (Nat × List Byte)) (h : Kept Q s) {t : State} {x : Xfer} (ht : s.writeTo w dst cls flow pieces = .ok (t, x)) : Kept Q t := by
  revert ht
  unfold State.writeTo
  dsimp only
  split
  · nofun
  · rintro ⟨⟩
    exact State.sendAll_kept _ _ _ _ _ _ _ (kept_same h) ‹_›
-- use: refine State.writeTo_kept _ _ _ _ _ ?_ (by with_reducible assumption)

theorem State.fenceAdd_kept {s : State} (p n v : Nat) (hk : Kept Q s) : Kept Q (State.fenceAdd s p n v) := by
  unfold State.fenceAdd
  try dsimp only
  repeat' first
    | with_reducible assumption
    | with_reducible apply State.odSetN_kept
    | with_reducible refine kept_fst ?_ (by with_reducible assumption)
    | split
    | dsimp only
    | fail_if_no_progress with_reducible apply kept_same

theorem State.fenceMax_kept {s : State} (p n v : Nat) (hk : Kept Q s) : Kept Q (State.fenceMax s p n v) := by
  unfold State.fenceMax
  try dsimp only
  repeat' first
    | with_reducible assumption
    | with_reducible apply State.odSetN_kept
    | with_reducible refine kept_fst ?_ (by with_reducible assumption)
    | split
    | dsimp only
    | fail_if_no_progress with_reducible apply kept_same

theorem State.fenceSet_kept {s : State} (p n v : Nat) (hk : Kept Q s) : Kept Q (State.fenceSet s p n v) := by
  unfold State.fenceSet
  try dsimp only
  repeat' first
    | with_reducible assumption
    | with_reducible apply State.odSetN_kept
    | with_reducible refine kept_fst ?_ (by with_reducible assumption)
    | split
    | dsimp only
    | fail_if_no_progress with_reducible apply kept_same

theorem State.creditAdd_kept {s : State} (p n v : Nat) (hk : Kept Q s) : Kept Q (State.creditAdd s p n v) := by
  unfold State.creditAdd
  try dsimp only
  repeat' first
    | with_reducible assumption
    | with_reducible apply State.odSetN_kept
    | with_reducible refine kept_fst ?_ (by with_reducible assumption)
    | split
    | dsimp only
    | fail_if_no_progress with_reducible apply kept_same

theorem State.creditOverflow_kept {s : State} (before v p : Nat) (hk : Kept Q s) : Kept Q (State.creditOverflow s before v p) := by
  unfold State.creditOverflow
  try dsimp only
  repeat' first
    | with_reducible assumption
    | with_reducible apply State.raise_kept
    | with_reducible refine kept_fst ?_ (by with_reducible assumption)
    | split
    | dsimp only
    | fail_if_no_progress with_reducible apply kept_same

theorem State.startSync_kept {s : State} (n : Nat) (mine : CmdInst → Bool) (checks : CmdInst → Exec → Checks) {body : State → Exec → State} (hb : ∀ e, Kept Q (body s e)) (h : Kept Q s) :
    Kept Q (s.startSync n mine checks body) := by
  unfold State.startSync
  repeat' first
    | with_reducible assumption
    | with_reducible apply State.endCore_kept
    | with_reducible apply hb
    | split

theorem State.waitOn_kept {s : State} (n : Nat) (e : Exec) (hk : Kept Q s) : Kept Q (State.waitOn s n e) := by
  unfold State.waitOn
  try dsimp only
  repeat' first
    | with_reducible assumption
    | with_reducible apply State.updCore_kept
    | with_reducible apply State.refresh_kept
    | with_reducible refine kept_fst ?_ (by with_reducible assumption)
    | split
    | dsimp only
    | fail_if_no_progress with_reducible apply kept_same

theorem State.syncMessage_kept {s : State} (n : Nat) (e : Exec) (addr op value : Nat) (d : Fin) (hk : Kept Q s) : Kept Q (State.syncMessage s n e addr op value d) := by
  unfold State.syncMessage
  try dsimp only
  repeat' first
    | with_reducible assumption
    | with_reducible apply State.endCore_kept
    | with_reducible refine State.message_kept _ _ _ _ _ ?_ (by with_reducible assumption)
    | with_reducible refine kept_fst ?_ (by with_reducible assumption)
    | split
    | dsimp only
    | fail_if_no_progress with_reducible apply kept_same

theorem State.fenceUpdate_kept {s : State} (n : Nat) (e : Exec) (op : Nat) {f : State → Nat → Nat → Nat → State} (hf : ∀ p k v, Kept Q (f s p k v)) (h : Kept Q s) : Kept Q (s.fenceUpdate n e op f) := by
  unfold State.fenceUpdate
  dsimp only
  split
  · exact State.syncMessage_kept _ _ _ _ _ _ h
  · exact State.endCore_kept _ _ _ (hf _ _ _)

theorem sendGroup_kept (w : Who) (a b : Desc) {r : Run} (g : Nat) (hk : Kept Q r.st) : Kept Q (sendGroup w a b r g).st := by
  unfold sendGroup
  try dsimp only
  repeat' first
    | with_reducible assumption
    | with_reducible apply Run.wrotePatch_kept
    | with_reducible apply Run.readGroup_kept
    | with_reducible refine kept_fst ?_ (by with_reducible assumption)
    | split
    | dsimp only
    | fail_if_no_progress with_reducible apply kept_same

theorem sendRun_kept (upTo : Option Nat) {s : State} (n : Nat) (e : Exec) (hk : Kept Q s) : Kept Q (sendRun upTo s n e).st := by
  unfold sendRun
  try dsimp only
  repeat' first
    | with_reducible assumption
    | with_reducible apply Run.start_kept
    | with_reducible apply runGroups_kept
    | with_reducible apply sendGroup_kept
    | with_reducible refine kept_fst ?_ (by with_reducible assumption)
    | with_reducible refine runGroups_kept (fun _ _ _ => ?_) _ _ ?_
    | split
    | dsimp only
    | fail_if_no_progress with_reducible apply kept_same

theorem gatherGroup_kept (w : Who) (a b : Desc) {r : Run × List OutElem} (g : Nat) (h : Kept Q r.1.st) : Kept Q (gatherGroup w a b r g).1.st := by
  unfold gatherGroup
  dsimp only
  repeat' first
    | with_reducible assumption
    | with_reducible apply Run.readGroup_kept
    | split
    | dsimp only

theorem State.sendRemote_kept {s : State} (n : Nat) (e : Exec) (h : Kept Q s) : Kept Q (s.sendRemote n e) := by
  have hg : ∀ (f : Run × List OutElem → Nat → Run × List OutElem) (l : List Nat) (x : Run × List OutElem), (∀ r g, Kept Q r.1.st → Kept Q (f r g).1.st) → Kept Q x.1.st → Kept Q (l.foldl f x).1.st := by
    intro f l
    induction l with
    | nil => exact fun _ _ h => h
    | cons a l ih => exact fun x hf h => ih _ hf (hf _ _ h)
  have h1 := hg (gatherGroup (s.whoExec n e) (descAt e 0) (denseDesc (descAt e 0) (fld e.cmd.words 4 51 0))) (List.range (groupCount (denseDesc (descAt e 0) (fld e.cmd.words 4 51 0)))) (Run.start s e, [])
    (fun _ _ h => gatherGroup_kept _ _ _ _ h) h
  unfold State.sendRemote
  dsimp only
  split
  · exact State.endCore_kept _ _ _ h1
  · split
    · exact State.endCore_kept _ _ _ h1
    · exact State.updCore_kept _ _ (State.writeTo_kept _ _ _ _ _ h1 ‹_›)

theorem State.sendCovered_kept {s : State} (n : Nat) (e : Exec) (hk : Kept Q s) : Kept Q (State.sendCovered s n e) := by
  unfold State.sendCovered
  try dsimp only
  repeat' first
    | with_reducible assumption
    | with_reducible apply State.endCore_kept
    | with_reducible apply State.syncMessage_kept
    | with_reducible refine kept_fst ?_ (by with_reducible assumption)
    | split
    | dsimp only
    | fail_if_no_progress with_reducible apply kept_same

theorem State.takeHead_kept {s : State} (p n amount : Nat) (hk : Kept Q s) : Kept Q (State.takeHead s p n amount) := by
  unfold State.takeHead
  try dsimp only
  repeat' first
    | with_reducible assumption
    | with_reducible apply State.odSetN_kept
    | with_reducible refine kept_fst ?_ (by with_reducible assumption)
    | split
    | dsimp only
    | fail_if_no_progress with_reducible apply kept_same

theorem State.openRange_kept {s : State} (n : Nat) (hk : Kept Q s) : Kept Q (State.openRange s n) := by
  unfold State.openRange
  try dsimp only
  repeat' first
    | with_reducible assumption
    | with_reducible apply State.updCore_kept
    | with_reducible refine kept_fst ?_ (by with_reducible assumption)
    | split
    | dsimp only
    | fail_if_no_progress with_reducible apply kept_same

end Sys2Proof.Machine
end

