-- ==== Sys2Proof/Laws/KeepTrain.lean ====
section
/-! SUPPORT. What is kept by the update and reduction engines, barriers and time limits. -/
set_option linter.unusedTactic false
set_option linter.unreachableTactic false
set_option linter.unusedVariables false

namespace Sys2Proof.Machine

variable {Q : List Instr}

/-- A fold over pass one. -/
theorem kept_foldl_pass {α : Type} {f : PassOne → α → PassOne} (hf : ∀ r a, Kept Q r.run.st → Kept Q (f r a).run.st) (l : List α) {r : PassOne} (h : Kept Q r.run.st) : Kept Q (l.foldl f r).run.st := by
  induction l generalizing r with
  | nil => exact h
  | cons a l ih => exact ih (hf r a h)

/-- A fold over a REDUCE at work. -/
theorem kept_foldl_work {α : Type} {f : Work → α → Work} (hf : ∀ r a, Kept Q r.run.st → Kept Q (f r a).run.st) (l : List α) {r : Work} (h : Kept Q r.run.st) : Kept Q (l.foldl f r).run.st := by
  induction l generalizing r with
  | nil => exact h
  | cons a l ih => exact ih (hf r a h)

/-- A fold over a REDUCE at work and what it gathers. -/
theorem kept_foldl_workp {α β : Type} {f : Work × β → α → Work × β} (hf : ∀ r a, Kept Q r.1.run.st → Kept Q (f r a).1.run.st) (l : List α) {r : Work × β} (h : Kept Q r.1.run.st) : Kept Q (l.foldl f r).1.run.st := by
  induction l generalizing r with
  | nil => exact h
  | cons a l ih => exact ih (hf r a h)

/-- A fold over a BROADCAST under way. -/
theorem kept_foldl_cast {α : Type} {f : Casting → α → Casting} (hf : ∀ r a, Kept Q r.st → Kept Q (f r a).st) (l : List α) {r : Casting} (h : Kept Q r.st) : Kept Q (l.foldl f r).st := by
  induction l generalizing r with
  | nil => exact h
  | cons a l ih => exact ih (hf r a h)

theorem State.updSlot_kept {s : State} (c p k : Nat) (f : NormSlot → NormSlot) (hk : Kept Q s) : Kept Q (State.updSlot s c p k f) := by
  unfold State.updSlot
  try dsimp only
  repeat' first
    | with_reducible assumption
    | with_reducible apply State.updEngine_kept
    | with_reducible refine kept_fst ?_ (by with_reducible assumption)
    | split
    | dsimp only
    | fail_if_no_progress with_reducible apply kept_same

theorem State.endUpdate_kept {s : State} (c : Nat) (e : Exec) (d : Fin) (hk : Kept Q s) : Kept Q (State.endUpdate s c e d) := by
  unfold State.endUpdate
  try dsimp only
  repeat' first
    | with_reducible assumption
    | with_reducible apply State.updEngine_kept
    | with_reducible apply State.putBack_kept
    | with_reducible apply State.finish_kept
    | with_reducible apply Run.start_kept
    | with_reducible refine kept_fst ?_ (by with_reducible assumption)
    | split
    | dsimp only
    | fail_if_no_progress with_reducible apply kept_same

theorem State.setLoss_kept {s : State} (p g : Nat) (l : Int) (hk : Kept Q s) : Kept Q (State.setLoss s p g l) := by
  unfold State.setLoss
  try dsimp only
  repeat' first
    | with_reducible assumption
    | with_reducible apply State.odSet_kept
    | with_reducible refine kept_fst ?_ (by with_reducible assumption)
    | split
    | dsimp only
    | fail_if_no_progress with_reducible apply kept_same

theorem State.applyVerdict_kept {s : State} (p g t : Nat) (go : Bool) (cause : Nat) (hk : Kept Q s) : Kept Q (State.applyVerdict s p g t go cause) := by
  unfold State.applyVerdict
  try dsimp only
  repeat' first
    | with_reducible assumption
    | with_reducible apply State.updGroup_kept
    | with_reducible apply State.raise_kept
    | with_reducible apply Gemm.go_kept
    | with_reducible apply State.setLoss_kept
    | with_reducible refine kept_fst ?_ (by with_reducible assumption)
    | split
    | dsimp only
    | fail_if_no_progress with_reducible apply kept_same

theorem State.sendNorm_kept {s : State} (p g dst : Nat) (r : NormRec) (h : Kept Q s) {t : State} (ht : s.sendNorm p g dst r = .ok t) : Kept Q t := State.message_kept _ _ _ _ _ h ht
-- use: refine State.sendNorm_kept _ _ _ _ ?_ (by with_reducible assumption)

theorem State.sendNorms_kept (p g : Nat) (r : NormRec) (l : List Nat) {s : State} (h : Kept Q s) : Kept Q (s.sendNorms p g r l).1 := by
  induction l generalizing s with
  | nil => exact h
  | cons d l ih =>
    unfold State.sendNorms
    split
    · exact ih (State.sendNorm_kept _ _ _ _ h ‹_›)
    · exact ih h

theorem State.giveVerdict_kept {s : State} (v : NormRec) (late : Option (Code × Nat)) (x : Nat × Exec) (hk : Kept Q s) : Kept Q (State.giveVerdict s v late x) := by
  unfold State.giveVerdict
  try dsimp only
  repeat' first
    | with_reducible assumption
    | with_reducible apply State.store_kept
    | with_reducible apply Gemm.go_kept
    | with_reducible apply State.updSlot_kept
    | with_reducible apply State.endUpdate_kept
    | with_reducible refine kept_fst ?_ (by with_reducible assumption)
    | split
    | dsimp only
    | fail_if_no_progress with_reducible apply kept_same

theorem State.takeVerdict_kept {s : State} (p g : Nat) (v : NormRec) (hk : Kept Q s) : Kept Q (State.takeVerdict s p g v) := by
  unfold State.takeVerdict
  try dsimp only
  repeat' first
    | with_reducible assumption
    | with_reducible apply State.updGroup_kept
    | with_reducible apply Gemm.go_kept
    | with_reducible apply State.applyVerdict_kept
    | with_reducible apply State.sendNorms_kept
    | with_reducible apply State.giveVerdict_kept
    | with_reducible refine kept_fst ?_ (by with_reducible assumption)
    | with_reducible refine kept_foldl (fun _ _ _ => ?_) _ ?_
    | with_reducible refine kept_foldl_run (fun _ _ _ => ?_) _ ?_
    | with_reducible refine kept_foldl_work (fun _ _ _ => ?_) _ ?_
    | with_reducible refine kept_foldl_cast (fun _ _ _ => ?_) _ ?_
    | with_reducible refine kept_foldl_pass (fun _ _ _ => ?_) _ ?_
    | with_reducible refine kept_foldl_workp (fun _ _ _ => ?_) _ ?_
    | with_reducible refine kept_foldl_fst (fun _ _ _ => ?_) _ ?_
    | split
    | dsimp only
    | fail_if_no_progress with_reducible apply kept_same

theorem State.abandon_kept {s : State} (p g : Nat) (d : Fin) (hk : Kept Q s) : Kept Q (State.abandon s p g d) := by
  unfold State.abandon
  try dsimp only
  repeat' first
    | with_reducible assumption
    | with_reducible apply State.updGroup_kept
    | with_reducible apply State.endUpdate_kept
    | with_reducible refine kept_fst ?_ (by with_reducible assumption)
    | with_reducible refine kept_foldl (fun _ _ _ => ?_) _ ?_
    | with_reducible refine kept_foldl_run (fun _ _ _ => ?_) _ ?_
    | with_reducible refine kept_foldl_work (fun _ _ _ => ?_) _ ?_
    | with_reducible refine kept_foldl_cast (fun _ _ _ => ?_) _ ?_
    | with_reducible refine kept_foldl_pass (fun _ _ _ => ?_) _ ?_
    | with_reducible refine kept_foldl_workp (fun _ _ _ => ?_) _ ?_
    | with_reducible refine kept_foldl_fst (fun _ _ _ => ?_) _ ?_
    | split
    | dsimp only
    | fail_if_no_progress with_reducible apply kept_same

theorem State.sendUp_kept {s : State} (p g : Nat) (r : NormRec) (hk : Kept Q s) : Kept Q (State.sendUp s p g r) := by
  unfold State.sendUp
  try dsimp only
  repeat' first
    | with_reducible assumption
    | with_reducible apply State.updGroup_kept
    | with_reducible refine State.sendNorm_kept _ _ _ _ ?_ (by with_reducible assumption)
    | with_reducible apply State.abandon_kept
    | with_reducible refine kept_fst ?_ (by with_reducible assumption)
    | split
    | dsimp only
    | fail_if_no_progress with_reducible apply kept_same

theorem State.moveGroup_kept {s : State} (p g t : Nat) (hk : Kept Q s) : Kept Q (State.moveGroup s p g t) := by
  unfold State.moveGroup
  try dsimp only
  repeat' first
    | with_reducible assumption
    | with_reducible apply State.updGroup_kept
    | with_reducible apply State.odAdd_kept
    | with_reducible refine kept_fst ?_ (by with_reducible assumption)
    | split
    | dsimp only
    | fail_if_no_progress with_reducible apply kept_same

theorem State.contribute_kept {s : State} (c : Nat) (e : Exec) (hk : Kept Q s) : Kept Q (State.contribute s c e) := by
  unfold State.contribute
  try dsimp only
  repeat' first
    | with_reducible assumption
    | with_reducible apply State.updGroup_kept
    | with_reducible apply State.updEngine_kept
    | with_reducible apply State.updSlot_kept
    | with_reducible refine kept_fst ?_ (by with_reducible assumption)
    | split
    | dsimp only
    | fail_if_no_progress with_reducible apply kept_same

theorem State.joinGroup_kept {s : State} (c : Nat) (e : Exec) (hk : Kept Q s) : Kept Q (State.joinGroup s c e) := by
  unfold State.joinGroup
  try dsimp only
  repeat' first
    | with_reducible assumption
    | with_reducible apply State.updEngine_kept
    | with_reducible apply Gemm.go_kept
    | with_reducible apply State.endUpdate_kept
    | with_reducible apply State.moveGroup_kept
    | with_reducible apply State.contribute_kept
    | with_reducible refine kept_fst ?_ (by with_reducible assumption)
    | split
    | dsimp only
    | fail_if_no_progress with_reducible apply kept_same

theorem State.settleGroup_kept (p g n : Nat) {s : State} (h : Kept Q s) : Kept Q (State.settleGroup p g n s) := by
  induction n generalizing s with
  | zero => exact h
  | succ n ih =>
    unfold State.settleGroup
    dsimp only
    repeat' first
      | with_reducible assumption
      | with_reducible apply ih
      | with_reducible apply State.takeVerdict_kept
      | with_reducible apply State.sendUp_kept
      | with_reducible apply State.joinGroup_kept
      | split

theorem State.normStray_kept {s : State} (p : Nat) (raise : Bool) (hk : Kept Q s) : Kept Q (State.normStray s p raise) := by
  unfold State.normStray
  try dsimp only
  repeat' first
    | with_reducible assumption
    | with_reducible apply State.odInc_kept
    | with_reducible apply State.recordLimited_kept
    | with_reducible apply State.raise_kept
    | with_reducible refine kept_fst ?_ (by with_reducible assumption)
    | split
    | dsimp only
    | fail_if_no_progress with_reducible apply kept_same

theorem State.normDrop_kept {s : State} (p g step : Nat) (hk : Kept Q s) : Kept Q (State.normDrop s p g step) := by
  unfold State.normDrop
  try dsimp only
  repeat' first
    | with_reducible assumption
    | with_reducible apply State.normStray_kept
    | with_reducible refine kept_fst ?_ (by with_reducible assumption)
    | split
    | dsimp only
    | fail_if_no_progress with_reducible apply kept_same

theorem State.childPartial_kept {s : State} (p g src : Nat) (r : NormRec) (hk : Kept Q s) : Kept Q (State.childPartial s p g src r) := by
  unfold State.childPartial
  try dsimp only
  repeat' first
    | with_reducible assumption
    | with_reducible apply State.updGroup_kept
    | with_reducible apply State.settleGroup_kept
    | with_reducible apply State.normDrop_kept
    | with_reducible refine kept_fst ?_ (by with_reducible assumption)
    | split
    | dsimp only
    | fail_if_no_progress with_reducible apply kept_same

theorem State.normMessage_kept {s : State} (q : Packet) (p g : Nat) (hk : Kept Q s) : Kept Q (State.normMessage s q p g) := by
  unfold State.normMessage
  try dsimp only
  repeat' first
    | with_reducible assumption
    | with_reducible apply State.record_kept
    | with_reducible apply State.takeVerdict_kept
    | with_reducible apply State.settleGroup_kept
    | with_reducible apply State.normStray_kept
    | with_reducible apply State.normDrop_kept
    | with_reducible apply State.childPartial_kept
    | with_reducible refine kept_fst ?_ (by with_reducible assumption)
    | split
    | dsimp only
    | fail_if_no_progress with_reducible apply kept_same

theorem State.updTaken_kept {s : State} (k : Nat) (c : CmdInst) (hk : Kept Q s) : Kept Q (State.updTaken s k c) := by
  unfold State.updTaken
  try dsimp only
  repeat' first
    | with_reducible assumption
    | with_reducible apply State.updEngine_kept
    | with_reducible refine kept_fst ?_ (by with_reducible assumption)
    | split
    | dsimp only
    | fail_if_no_progress with_reducible apply kept_same

theorem State.updBegun_kept {s : State} (k : Nat) (c : CmdInst) (hk : Kept Q s) : Kept Q (State.updBegun s k c) := by
  unfold State.updBegun
  try dsimp only
  repeat' first
    | with_reducible assumption
    | with_reducible apply State.touchRecord_kept
    | with_reducible apply State.touchDescs_kept
    | with_reducible apply State.updTaken_kept
    | with_reducible refine kept_fst ?_ (by with_reducible assumption)
    | with_reducible refine kept_foldl (fun _ _ _ => ?_) _ ?_
    | with_reducible refine kept_foldl_run (fun _ _ _ => ?_) _ ?_
    | with_reducible refine kept_foldl_work (fun _ _ _ => ?_) _ ?_
    | with_reducible refine kept_foldl_cast (fun _ _ _ => ?_) _ ?_
    | with_reducible refine kept_foldl_pass (fun _ _ _ => ?_) _ ?_
    | with_reducible refine kept_foldl_workp (fun _ _ _ => ?_) _ ?_
    | with_reducible refine kept_foldl_fst (fun _ _ _ => ?_) _ ?_
    | split
    | dsimp only
    | fail_if_no_progress with_reducible apply kept_same

theorem State.runUpdate_kept {s : State} (k : Nat) (mine : CmdInst → Bool) {body : State → Exec → UpdReads → State} (hb : ∀ t e x, Kept Q t → Kept Q (body t e x)) (h : Kept Q s) :
    Kept Q (s.runUpdate k mine body) := by
  unfold State.runUpdate
  dsimp only
  split
  · exact h
  · split
    · exact State.endUpdate_kept _ _ _ (State.updTaken_kept _ _ h)
    · exact hb _ _ _ (State.updBegun_kept _ _ h)

theorem passBlock_kept (w : Who) (g : Desc) {x : PassOne} (b : Nat) (h : Kept Q x.run.st) : Kept Q (passBlock w g x b).run.st := by
  unfold passBlock
  dsimp only
  repeat' first
    | with_reducible assumption
    | with_reducible apply Run.readGroup_kept
    | split
    | dsimp only

theorem passResid_kept (w : Who) (d : Desc) {x : PassOne} (k : Nat) (h : Kept Q x.run.st) : Kept Q (passResid w d x k).run.st := by
  unfold passResid
  dsimp only
  repeat' first
    | with_reducible assumption
    | with_reducible apply Run.readGroup_kept
    | split
    | dsimp only

theorem State.normPasses_kept {s : State} (k : Nat) (e : Exec) (x : UpdReads) (g : Desc) (u : Option Nat) (h : Kept Q s) : Kept Q (s.normPasses k e x g u).run.st := by
  have h0 : Kept Q (Run.start s e).st := h
  unfold State.normPasses
  dsimp only
  repeat' first
    | with_reducible exact h0
    | with_reducible refine kept_foldl_pass (fun _ _ h => passBlock_kept _ _ _ h) _ ?_
    | with_reducible refine kept_foldl_pass (fun _ _ h => passResid_kept _ _ _ h) _ ?_
    | split

theorem State.normPart_kept {s0 : State} (k : Nat) (e : Exec) (x : UpdReads) (late : Option Late) (h : Kept Q s0) : Kept Q (s0.normPart k e x late) := by
  unfold State.normPart
  dsimp only
  repeat' first
    | with_reducible assumption
    | with_reducible apply State.endUpdate_kept
    | with_reducible apply State.updSlot_kept
    | with_reducible apply State.normPasses_kept
    | with_reducible apply State.touch_kept
    | split

theorem State.normReduce_kept {s : State} (k : Nat) (e : Exec) (hk : Kept Q s) : Kept Q (State.normReduce s k e) := by
  unfold State.normReduce
  try dsimp only
  repeat' first
    | with_reducible assumption
    | with_reducible apply State.endUpdate_kept
    | with_reducible apply State.joinGroup_kept
    | with_reducible apply State.settleGroup_kept
    | with_reducible refine kept_fst ?_ (by with_reducible assumption)
    | split
    | dsimp only
    | fail_if_no_progress with_reducible apply kept_same

theorem State.normRead_kept {s : State} (k : Nat) (e : Exec) (hk : Kept Q s) : Kept Q (State.normRead s k e) := by
  unfold State.normRead
  try dsimp only
  repeat' first
    | with_reducible assumption
    | with_reducible apply State.store_kept
    | with_reducible apply State.endUpdate_kept
    | with_reducible refine kept_fst ?_ (by with_reducible assumption)
    | split
    | dsimp only
    | fail_if_no_progress with_reducible apply kept_same

theorem State.normLoad_kept {s : State} (k : Nat) (e : Exec) (hk : Kept Q s) : Kept Q (State.normLoad s k e) := by
  unfold State.normLoad
  try dsimp only
  repeat' first
    | with_reducible assumption
    | with_reducible apply Gemm.go_kept
    | with_reducible apply State.updSlot_kept
    | with_reducible apply State.endUpdate_kept
    | with_reducible refine kept_fst ?_ (by with_reducible assumption)
    | split
    | dsimp only
    | fail_if_no_progress with_reducible apply kept_same

theorem putStream_kept (w : Who) {r : Run} (x : Nat × Desc × List OutElem) (hk : Kept Q r.st) : Kept Q (putStream w r x).st := by
  unfold putStream
  try dsimp only
  repeat' first
    | with_reducible assumption
    | with_reducible apply State.putPatch_kept
    | with_reducible refine kept_fst ?_ (by with_reducible assumption)
    | with_reducible refine kept_foldl (fun _ _ _ => ?_) _ ?_
    | with_reducible refine kept_foldl_run (fun _ _ _ => ?_) _ ?_
    | with_reducible refine kept_foldl_work (fun _ _ _ => ?_) _ ?_
    | with_reducible refine kept_foldl_cast (fun _ _ _ => ?_) _ ?_
    | with_reducible refine kept_foldl_pass (fun _ _ _ => ?_) _ ?_
    | with_reducible refine kept_foldl_workp (fun _ _ _ => ?_) _ ?_
    | with_reducible refine kept_foldl_fst (fun _ _ _ => ?_) _ ?_
    | split
    | dsimp only
    | fail_if_no_progress with_reducible apply kept_same

theorem Apply.group_kept (a : Apply) (n : Nat) {r : Run} (g : Nat) (h : Kept Q r.st) : Kept Q (a.group n r g).st := by
  unfold Apply.group
  extract_lets js r1
  have h1 : Kept Q r1.st := by
    refine kept_foldl_run (fun _ _ h => ?_) _ h
    split
    · exact h
    · exact Run.readGroup_kept _ _ _ _ _ h
  split
  · exact h1
  · split
    split
    · exact Run.stopped_kept _ h1
    · refine kept_foldl_run (fun _ _ h => putStream_kept _ _ h) _ ?_
      exact kept_same h1

theorem State.finalHeader_kept {s : State} (k : Nat) (w : Who) (c : CmdInst) (h : List Word) (sl : NormSlot) (hk : Kept Q s) : Kept Q (State.finalHeader s k w c h sl) := by
  unfold State.finalHeader
  try dsimp only
  repeat' first
    | with_reducible assumption
    | with_reducible apply State.odInc_kept
    | with_reducible apply State.store_kept
    | with_reducible apply Gemm.go_kept
    | with_reducible refine kept_fst ?_ (by with_reducible assumption)
    | split
    | dsimp only
    | fail_if_no_progress with_reducible apply kept_same

theorem applyRun_kept (upTo : Option Nat) {s : State} (k : Nat) (e : Exec) (x : UpdReads) (sl : NormSlot) (hk : Kept Q s) : Kept Q (applyRun upTo s k e x sl).st := by
  exact runGroups_kept (fun _ _ h => Apply.group_kept _ _ _ h) _ _ hk

theorem State.stateNonfinite_kept {s : State} (k : Nat) (c : CmdInst) (r : Run) (hk : Kept Q s) : Kept Q (State.stateNonfinite s k c r) := by
  unfold State.stateNonfinite
  try dsimp only
  repeat' first
    | with_reducible assumption
    | with_reducible apply State.record_kept
    | with_reducible refine kept_fst ?_ (by with_reducible assumption)
    | split
    | dsimp only
    | fail_if_no_progress with_reducible apply kept_same

theorem State.apply_kept {s : State} (k : Nat) (e : Exec) (x : UpdReads) (late : Option Late) (h : Kept Q s) : Kept Q (s.apply k e x late) := by
  unfold State.apply
  dsimp only
  repeat' first
    | with_reducible assumption
    | with_reducible apply State.endUpdate_kept
    | with_reducible apply State.finalHeader_kept
    | with_reducible apply State.stateNonfinite_kept
    | with_reducible apply applyRun_kept
    | split

theorem State.putHub_kept {s : State} (e : Exec) (hk : Kept Q s) : Kept Q (State.putHub s e) := by
  unfold State.putHub
  try dsimp only
  repeat' first
    | with_reducible assumption
    | with_reducible refine kept_fst ?_ (by with_reducible assumption)
    | split
    | dsimp only
    | fail_if_no_progress with_reducible apply kept_same

theorem State.endBarrier_kept {s : State} (e : Exec) (d : Fin) (hk : Kept Q s) : Kept Q (State.endBarrier s e d) := by
  unfold State.endBarrier
  try dsimp only
  repeat' first
    | with_reducible assumption
    | with_reducible apply State.odSetN_kept
    | with_reducible apply State.endHub_kept
    | with_reducible refine kept_fst ?_ (by with_reducible assumption)
    | split
    | dsimp only
    | fail_if_no_progress with_reducible apply kept_same

theorem State.sendBarrier_kept {s : State} (p g dst step contrib kind : Nat) (h : Kept Q s) {t : State} (ht : s.sendBarrier p g dst step contrib kind = .ok t) : Kept Q t := State.message_kept _ _ _ _ _ h ht
-- use: refine State.sendBarrier_kept _ _ _ _ _ _ ?_ (by with_reducible assumption)

theorem State.sendReleases_kept (p g step contrib : Nat) (l : List Nat) {s : State} (h : Kept Q s) : Kept Q (s.sendReleases p g step contrib l).1 := by
  induction l generalizing s with
  | nil => exact h
  | cons d l ih =>
    unfold State.sendReleases
    split
    · exact ih (State.sendBarrier_kept _ _ _ _ _ _ h ‹_›)
    · exact ih h

theorem State.moveBarrier_kept {s : State} (p g t : Nat) (hk : Kept Q s) : Kept Q (State.moveBarrier s p g t) := by
  unfold State.moveBarrier
  try dsimp only
  repeat' first
    | with_reducible assumption
    | with_reducible apply State.updBarrier_kept
    | with_reducible apply State.odAdd_kept
    | with_reducible refine kept_fst ?_ (by with_reducible assumption)
    | split
    | dsimp only
    | fail_if_no_progress with_reducible apply kept_same

theorem State.release_kept {s : State} (p g contrib : Nat) (hk : Kept Q s) : Kept Q (State.release s p g contrib) := by
  unfold State.release
  try dsimp only
  repeat' first
    | with_reducible assumption
    | with_reducible apply State.updBarrier_kept
    | with_reducible apply State.endBarrier_kept
    | with_reducible apply State.sendReleases_kept
    | with_reducible refine kept_fst ?_ (by with_reducible assumption)
    | with_reducible refine kept_foldl (fun _ _ _ => ?_) _ ?_
    | with_reducible refine kept_foldl_run (fun _ _ _ => ?_) _ ?_
    | with_reducible refine kept_foldl_work (fun _ _ _ => ?_) _ ?_
    | with_reducible refine kept_foldl_cast (fun _ _ _ => ?_) _ ?_
    | with_reducible refine kept_foldl_pass (fun _ _ _ => ?_) _ ?_
    | with_reducible refine kept_foldl_workp (fun _ _ _ => ?_) _ ?_
    | with_reducible refine kept_foldl_fst (fun _ _ _ => ?_) _ ?_
    | split
    | dsimp only
    | fail_if_no_progress with_reducible apply kept_same

theorem State.combine_kept {s : State} (p g : Nat) (hk : Kept Q s) : Kept Q (State.combine s p g) := by
  unfold State.combine
  try dsimp only
  repeat' first
    | with_reducible assumption
    | with_reducible apply State.updBarrier_kept
    | with_reducible apply State.endBarrier_kept
    | with_reducible refine State.sendBarrier_kept _ _ _ _ _ _ ?_ (by with_reducible assumption)
    | with_reducible apply State.release_kept
    | with_reducible refine kept_fst ?_ (by with_reducible assumption)
    | with_reducible refine kept_foldl (fun _ _ _ => ?_) _ ?_
    | with_reducible refine kept_foldl_run (fun _ _ _ => ?_) _ ?_
    | with_reducible refine kept_foldl_work (fun _ _ _ => ?_) _ ?_
    | with_reducible refine kept_foldl_cast (fun _ _ _ => ?_) _ ?_
    | with_reducible refine kept_foldl_pass (fun _ _ _ => ?_) _ ?_
    | with_reducible refine kept_foldl_workp (fun _ _ _ => ?_) _ ?_
    | with_reducible refine kept_foldl_fst (fun _ _ _ => ?_) _ ?_
    | split
    | dsimp only
    | fail_if_no_progress with_reducible apply kept_same

theorem State.arrive_kept {s : State} (e : Exec) (hk : Kept Q s) : Kept Q (State.arrive s e) := by
  unfold State.arrive
  try dsimp only
  repeat' first
    | with_reducible assumption
    | with_reducible apply State.updBarrier_kept
    | with_reducible apply State.endHub_kept
    | with_reducible apply State.putHub_kept
    | with_reducible apply State.combine_kept
    | with_reducible refine kept_fst ?_ (by with_reducible assumption)
    | split
    | dsimp only
    | fail_if_no_progress with_reducible apply kept_same

theorem State.arriveOrWait_kept {s : State} (e : Exec) (hk : Kept Q s) : Kept Q (State.arriveOrWait s e) := by
  unfold State.arriveOrWait
  try dsimp only
  repeat' first
    | with_reducible assumption
    | with_reducible apply State.putHub_kept
    | with_reducible apply State.arrive_kept
    | with_reducible refine kept_fst ?_ (by with_reducible assumption)
    | split
    | dsimp only
    | fail_if_no_progress with_reducible apply kept_same

theorem State.rejoin_kept {s : State} (e : Exec) (hk : Kept Q s) : Kept Q (State.rejoin s e) := by
  unfold State.rejoin
  try dsimp only
  repeat' first
    | with_reducible assumption
    | with_reducible apply State.updBarrier_kept
    | with_reducible apply State.putHub_kept
    | with_reducible apply State.endBarrier_kept
    | with_reducible refine kept_fst ?_ (by with_reducible assumption)
    | split
    | dsimp only
    | fail_if_no_progress with_reducible apply kept_same

theorem State.joinBarrier_kept {s : State} (e : Exec) (hk : Kept Q s) : Kept Q (State.joinBarrier s e) := by
  unfold State.joinBarrier
  try dsimp only
  repeat' first
    | with_reducible assumption
    | with_reducible apply State.endHub_kept
    | with_reducible apply State.putHub_kept
    | with_reducible apply State.moveBarrier_kept
    | with_reducible apply State.arriveOrWait_kept
    | with_reducible apply State.rejoin_kept
    | with_reducible refine kept_fst ?_ (by with_reducible assumption)
    | split
    | dsimp only
    | fail_if_no_progress with_reducible apply kept_same

theorem State.settleBarrier_kept (p g n : Nat) {s : State} (h : Kept Q s) : Kept Q (State.settleBarrier p g n s) := by
  induction n generalizing s with
  | zero => exact h
  | succ n ih =>
    unfold State.settleBarrier
    repeat' first
      | with_reducible assumption
      | with_reducible apply ih
      | with_reducible apply State.joinBarrier_kept
      | split

theorem State.barrierStray_kept {s : State} (p : Nat) (hk : Kept Q s) : Kept Q (State.barrierStray s p) := by
  unfold State.barrierStray
  try dsimp only
  repeat' first
    | with_reducible assumption
    | with_reducible apply State.odInc_kept
    | with_reducible apply State.recordLimited_kept
    | with_reducible refine kept_fst ?_ (by with_reducible assumption)
    | split
    | dsimp only
    | fail_if_no_progress with_reducible apply kept_same

theorem State.barrierDrop_kept {s : State} (p g step : Nat) (hk : Kept Q s) : Kept Q (State.barrierDrop s p g step) := by
  unfold State.barrierDrop
  try dsimp only
  repeat' first
    | with_reducible assumption
    | with_reducible apply State.barrierStray_kept
    | with_reducible refine kept_fst ?_ (by with_reducible assumption)
    | split
    | dsimp only
    | fail_if_no_progress with_reducible apply kept_same

theorem State.childArrival_kept {s : State} (p g src step contrib : Nat) (hk : Kept Q s) : Kept Q (State.childArrival s p g src step contrib) := by
  unfold State.childArrival
  try dsimp only
  repeat' first
    | with_reducible assumption
    | with_reducible apply State.updBarrier_kept
    | with_reducible apply State.combine_kept
    | with_reducible apply State.settleBarrier_kept
    | with_reducible apply State.barrierDrop_kept
    | with_reducible refine kept_fst ?_ (by with_reducible assumption)
    | split
    | dsimp only
    | fail_if_no_progress with_reducible apply kept_same

theorem State.barrierMessage_kept {s : State} (q : Packet) (p g : Nat) (hk : Kept Q s) : Kept Q (State.barrierMessage s q p g) := by
  unfold State.barrierMessage
  try dsimp only
  repeat' first
    | with_reducible assumption
    | with_reducible apply State.record_kept
    | with_reducible apply State.release_kept
    | with_reducible apply State.settleBarrier_kept
    | with_reducible apply State.barrierStray_kept
    | with_reducible apply State.barrierDrop_kept
    | with_reducible apply State.childArrival_kept
    | with_reducible refine kept_fst ?_ (by with_reducible assumption)
    | split
    | dsimp only
    | fail_if_no_progress with_reducible apply kept_same

theorem State.collTake_kept {s : State} (c : CmdInst) (hk : Kept Q s) : Kept Q (State.collTake s c) := by
  unfold State.collTake
  try dsimp only
  repeat' first
    | with_reducible assumption
    | with_reducible apply State.withColl_kept
    | with_reducible refine kept_fst ?_ (by with_reducible assumption)
    | split
    | dsimp only
    | fail_if_no_progress with_reducible apply kept_same

theorem State.endColl_kept {s : State} (e : Exec) (d : Fin) (hk : Kept Q s) : Kept Q (State.endColl s e d) := by
  unfold State.endColl
  try dsimp only
  repeat' first
    | with_reducible assumption
    | with_reducible apply State.withColl_kept
    | with_reducible apply State.putBack_kept
    | with_reducible apply State.finish_kept
    | with_reducible apply Run.start_kept
    | with_reducible refine kept_fst ?_ (by with_reducible assumption)
    | split
    | dsimp only
    | fail_if_no_progress with_reducible apply kept_same

theorem State.closeColl_kept {s : State} (e : Exec) (d : Fin) (hk : Kept Q s) : Kept Q (State.closeColl s e d) := by
  unfold State.closeColl
  try dsimp only
  repeat' first
    | with_reducible assumption
    | with_reducible apply State.withColl_kept
    | with_reducible apply State.endColl_kept
    | with_reducible refine kept_fst ?_ (by with_reducible assumption)
    | split
    | dsimp only
    | fail_if_no_progress with_reducible apply kept_same

theorem State.putRun_kept {s : State} (r : RedRun) (hk : Kept Q s) : Kept Q (State.putRun s r) := by
  unfold State.putRun
  try dsimp only
  repeat' first
    | with_reducible assumption
    | with_reducible apply State.withColl_kept
    | with_reducible refine kept_fst ?_ (by with_reducible assumption)
    | split
    | dsimp only
    | fail_if_no_progress with_reducible apply kept_same

theorem State.work_kept {s : State} (r : RedRun) (hk : Kept Q s) : Kept Q (State.work s r).run.st := by
  unfold State.work
  try dsimp only
  repeat' first
    | with_reducible assumption
    | with_reducible apply Run.start_kept
    | with_reducible refine kept_fst ?_ (by with_reducible assumption)
    | split
    | dsimp only
    | fail_if_no_progress with_reducible apply kept_same

theorem Work.withSt_kept {x : Work} {f : State → State} (hf : Kept Q (f x.run.st)) : Kept Q (x.withSt f).run.st := hf

theorem Work.faultOf_kept {x : Work} (entry : Nat) (f : Code) (addr : Nat) (hk : Kept Q x.run.st) : Kept Q (Work.faultOf x entry f addr).run.st := by
  unfold Work.faultOf
  try dsimp only
  repeat' first
    | with_reducible assumption
    | with_reducible apply Run.stopped_kept
    | with_reducible refine kept_fst ?_ (by with_reducible assumption)
    | split
    | dsimp only
    | fail_if_no_progress with_reducible apply kept_same

theorem Work.fault_kept {x : Work} (f : Code) (addr : Nat) (hk : Kept Q x.run.st) : Kept Q (Work.fault x f addr).run.st := by
  unfold Work.fault
  try dsimp only
  repeat' first
    | with_reducible assumption
    | with_reducible apply Work.faultOf_kept
    | with_reducible refine kept_fst ?_ (by with_reducible assumption)
    | split
    | dsimp only
    | fail_if_no_progress with_reducible apply kept_same

theorem Work.faultAt_kept {x : Work} (f : Code × Nat) (hk : Kept Q x.run.st) : Kept Q (Work.faultAt x f).run.st := by
  unfold Work.faultAt
  try dsimp only
  repeat' first
    | with_reducible assumption
    | with_reducible apply Work.fault_kept
    | with_reducible refine kept_fst ?_ (by with_reducible assumption)
    | split
    | dsimp only
    | fail_if_no_progress with_reducible apply kept_same

theorem Work.withRun_kept {x : Work} {r : Run} (h : Kept Q r.st) : Kept Q (x.withRun r).run.st := h

theorem Work.readBlock_kept {x : Work} (d : Desc) (set b : Nat) (hk : Kept Q x.run.st) : Kept Q (Work.readBlock x d set b).1.run.st := by
  unfold Work.readBlock
  try dsimp only
  repeat' first
    | with_reducible assumption
    | with_reducible apply Run.readGroup_kept
    | with_reducible apply Work.withRun_kept
    | with_reducible refine kept_fst ?_ (by with_reducible assumption)
    | split
    | dsimp only
    | fail_if_no_progress with_reducible apply kept_same

theorem Work.writeOwn_kept {x : Work} (b exp : Nat) (ms : List (Nat × Kind)) (hk : Kept Q x.run.st) : Kept Q (Work.writeOwn x b exp ms).run.st := by
  unfold Work.writeOwn
  try dsimp only
  repeat' first
    | with_reducible assumption
    | with_reducible apply Run.wrote_kept
    | with_reducible apply Work.withRun_kept
    | with_reducible refine kept_fst ?_ (by with_reducible assumption)
    | split
    | dsimp only
    | fail_if_no_progress with_reducible apply kept_same

theorem Work.fillOwn_kept {x : Work} (lo hi : Nat) (hk : Kept Q x.run.st) : Kept Q (Work.fillOwn x lo hi).run.st := by
  unfold Work.fillOwn
  try dsimp only
  repeat' first
    | with_reducible assumption
    | with_reducible apply Work.writeOwn_kept
    | with_reducible refine kept_fst ?_ (by with_reducible assumption)
    | with_reducible refine kept_foldl (fun _ _ _ => ?_) _ ?_
    | with_reducible refine kept_foldl_run (fun _ _ _ => ?_) _ ?_
    | with_reducible refine kept_foldl_work (fun _ _ _ => ?_) _ ?_
    | with_reducible refine kept_foldl_cast (fun _ _ _ => ?_) _ ?_
    | with_reducible refine kept_foldl_pass (fun _ _ _ => ?_) _ ?_
    | with_reducible refine kept_foldl_workp (fun _ _ _ => ?_) _ ?_
    | with_reducible refine kept_foldl_fst (fun _ _ _ => ?_) _ ?_
    | split
    | dsimp only
    | fail_if_no_progress with_reducible apply kept_same

theorem Work.noteSat_kept {x : Work} (sat : Bool) (hk : Kept Q x.run.st) : Kept Q (Work.noteSat x sat).run.st := by
  unfold Work.noteSat
  try dsimp only
  repeat' first
    | with_reducible assumption
    | with_reducible apply State.odInc_kept
    | with_reducible apply State.record_kept
    | with_reducible apply Work.withSt_kept
    | with_reducible refine kept_fst ?_ (by with_reducible assumption)
    | split
    | dsimp only
    | fail_if_no_progress with_reducible apply kept_same

theorem Work.addOne_kept {x : Work} (b : Nat) (cs : List Contribution) (hk : Kept Q x.run.st) : Kept Q (Work.addOne x b cs).run.st := by
  unfold Work.addOne
  try dsimp only
  repeat' first
    | with_reducible assumption
    | with_reducible apply State.odInc_kept
    | with_reducible apply State.drew_kept
    | with_reducible apply Work.withSt_kept
    | with_reducible apply Work.faultAt_kept
    | with_reducible apply Work.writeOwn_kept
    | with_reducible apply Work.noteSat_kept
    | with_reducible refine kept_fst ?_ (by with_reducible assumption)
    | split
    | dsimp only
    | fail_if_no_progress with_reducible apply kept_same

theorem Work.values_kept {x : Work} (hk : Kept Q x.run.st) : Kept Q (Work.values x).1.run.st := by
  unfold Work.values
  try dsimp only
  repeat' first
    | with_reducible assumption
    | with_reducible apply Work.readBlock_kept
    | with_reducible refine kept_fst ?_ (by with_reducible assumption)
    | with_reducible refine kept_foldl (fun _ _ _ => ?_) _ ?_
    | with_reducible refine kept_foldl_run (fun _ _ _ => ?_) _ ?_
    | with_reducible refine kept_foldl_work (fun _ _ _ => ?_) _ ?_
    | with_reducible refine kept_foldl_cast (fun _ _ _ => ?_) _ ?_
    | with_reducible refine kept_foldl_pass (fun _ _ _ => ?_) _ ?_
    | with_reducible refine kept_foldl_workp (fun _ _ _ => ?_) _ ?_
    | with_reducible refine kept_foldl_fst (fun _ _ _ => ?_) _ ?_
    | split
    | dsimp only
    | fail_if_no_progress with_reducible apply kept_same

theorem Work.putResid_kept {x : Work} (b : Nat) (vs : List A32) (hk : Kept Q x.run.st) : Kept Q (Work.putResid x b vs).run.st := by
  unfold Work.putResid
  try dsimp only
  repeat' first
    | with_reducible assumption
    | with_reducible apply State.drew_kept
    | with_reducible apply State.putPatch_kept
    | with_reducible apply Work.faultAt_kept
    | with_reducible refine kept_fst ?_ (by with_reducible assumption)
    | with_reducible refine kept_foldl (fun _ _ _ => ?_) _ ?_
    | with_reducible refine kept_foldl_run (fun _ _ _ => ?_) _ ?_
    | with_reducible refine kept_foldl_work (fun _ _ _ => ?_) _ ?_
    | with_reducible refine kept_foldl_cast (fun _ _ _ => ?_) _ ?_
    | with_reducible refine kept_foldl_pass (fun _ _ _ => ?_) _ ?_
    | with_reducible refine kept_foldl_workp (fun _ _ _ => ?_) _ ?_
    | with_reducible refine kept_foldl_fst (fun _ _ _ => ?_) _ ?_
    | split
    | dsimp only
    | fail_if_no_progress with_reducible apply kept_same

theorem Work.sentBlock_kept {x : Work} (b : Nat) (vs : List A32) (hk : Kept Q x.run.st) : Kept Q (Work.sentBlock x b vs).1.run.st := by
  unfold Work.sentBlock
  try dsimp only
  repeat' first
    | with_reducible assumption
    | with_reducible apply State.drew_kept
    | with_reducible apply Work.noteSat_kept
    | with_reducible refine kept_fst ?_ (by with_reducible assumption)
    | split
    | dsimp only
    | fail_if_no_progress with_reducible apply kept_same

theorem Work.enter_kept {x : Work} (hk : Kept Q x.run.st) : Kept Q (Work.enter x).run.st := by
  unfold Work.enter
  try dsimp only
  repeat' first
    | with_reducible assumption
    | with_reducible apply Work.values_kept
    | with_reducible apply Work.putResid_kept
    | with_reducible apply Work.sentBlock_kept
    | with_reducible refine kept_fst ?_ (by with_reducible assumption)
    | with_reducible refine kept_foldl (fun _ _ _ => ?_) _ ?_
    | with_reducible refine kept_foldl_run (fun _ _ _ => ?_) _ ?_
    | with_reducible refine kept_foldl_work (fun _ _ _ => ?_) _ ?_
    | with_reducible refine kept_foldl_cast (fun _ _ _ => ?_) _ ?_
    | with_reducible refine kept_foldl_pass (fun _ _ _ => ?_) _ ?_
    | with_reducible refine kept_foldl_workp (fun _ _ _ => ?_) _ ?_
    | with_reducible refine kept_foldl_fst (fun _ _ _ => ?_) _ ?_
    | split
    | dsimp only
    | fail_if_no_progress with_reducible apply kept_same

theorem Work.setInput_kept {x : Work} (i : Nat) (f : RedInput → RedInput) (hk : Kept Q x.run.st) : Kept Q (Work.setInput x i f).run.st := by
  unfold Work.setInput
  try dsimp only
  repeat' first
    | with_reducible assumption
    | with_reducible refine kept_fst ?_ (by with_reducible assumption)
    | split
    | dsimp only
    | fail_if_no_progress with_reducible apply kept_same

theorem Work.prepare_kept {x : Work} (i : Nat) (hk : Kept Q x.run.st) {t : Work} (ht : Work.prepare x i = some t) : Kept Q t.run.st := by
  revert ht
  unfold Work.prepare
  try dsimp only
  repeat' first
    | with_reducible assumption
    | with_reducible apply State.touch_kept
    | with_reducible apply Work.withSt_kept
    | with_reducible apply Work.fault_kept
    | with_reducible apply Work.faultAt_kept
    | with_reducible apply Work.setInput_kept
    | with_reducible refine kept_fst ?_ (by with_reducible assumption)
    | rintro _ ⟨⟩
    | rintro ⟨⟩
    | split
    | dsimp only
    | fail_if_no_progress with_reducible apply kept_same

theorem Work.prepareAll_kept (l : List Nat) {x : Work} (h : Kept Q x.run.st) {t : Work} (ht : x.prepareAll l = some t) : Kept Q t.run.st := by
  induction l generalizing x with
  | nil =>
    cases ht
    exact h
  | cons i l ih =>
    unfold Work.prepareAll at ht
    split at ht
    · exact ih (Work.prepare_kept _ h ‹_›) ht
    · cases ht
-- use: refine Work.prepareAll_kept _ ?_ (by with_reducible assumption)

theorem Work.pass_kept {x : Work} (i : Nat) (hk : Kept Q x.run.st) : Kept Q (Work.pass x i).run.st := by
  unfold Work.pass
  try dsimp only
  repeat' first
    | with_reducible assumption
    | with_reducible apply State.withColl_kept
    | with_reducible refine State.message_kept _ _ _ _ _ ?_ (by with_reducible assumption)
    | with_reducible apply Work.withSt_kept
    | with_reducible apply Work.fault_kept
    | with_reducible apply Work.setInput_kept
    | with_reducible refine kept_fst ?_ (by with_reducible assumption)
    | split
    | dsimp only
    | fail_if_no_progress with_reducible apply kept_same

theorem Work.received_kept {x : Work} (b : RedBlock) (hk : Kept Q x.run.st) : Kept Q (Work.received x b).run.st := by
  unfold Work.received
  try dsimp only
  repeat' first
    | with_reducible assumption
    | with_reducible apply Run.counted_kept
    | with_reducible refine kept_fst ?_ (by with_reducible assumption)
    | split
    | dsimp only
    | fail_if_no_progress with_reducible apply kept_same

theorem Work.stepDense_kept {x : Work} (hk : Kept Q x.run.st) {t : Work} (ht : Work.stepDense x = some t) : Kept Q t.run.st := by
  revert ht
  unfold Work.stepDense
  try dsimp only
  repeat' first
    | with_reducible assumption
    | with_reducible apply Work.readBlock_kept
    | with_reducible apply Work.addOne_kept
    | with_reducible refine Work.prepareAll_kept _ ?_ (by with_reducible assumption)
    | with_reducible apply Work.pass_kept
    | with_reducible apply Work.received_kept
    | with_reducible refine kept_fst ?_ (by with_reducible assumption)
    | with_reducible refine kept_foldl (fun _ _ _ => ?_) _ ?_
    | with_reducible refine kept_foldl_run (fun _ _ _ => ?_) _ ?_
    | with_reducible refine kept_foldl_work (fun _ _ _ => ?_) _ ?_
    | with_reducible refine kept_foldl_cast (fun _ _ _ => ?_) _ ?_
    | with_reducible refine kept_foldl_pass (fun _ _ _ => ?_) _ ?_
    | with_reducible refine kept_foldl_workp (fun _ _ _ => ?_) _ ?_
    | with_reducible refine kept_foldl_fst (fun _ _ _ => ?_) _ ?_
    | rintro _ ⟨⟩
    | rintro ⟨⟩
    | split
    | dsimp only
    | fail_if_no_progress with_reducible apply kept_same

theorem Work.stepSparse_kept {x : Work} (hk : Kept Q x.run.st) {t : Work} (ht : Work.stepSparse x = some t) : Kept Q t.run.st := by
  revert ht
  unfold Work.stepSparse
  try dsimp only
  repeat' first
    | with_reducible assumption
    | with_reducible apply Work.fillOwn_kept
    | with_reducible apply Work.addOne_kept
    | with_reducible refine Work.prepareAll_kept _ ?_ (by with_reducible assumption)
    | with_reducible apply Work.pass_kept
    | with_reducible apply Work.received_kept
    | with_reducible refine kept_fst ?_ (by with_reducible assumption)
    | with_reducible refine kept_foldl (fun _ _ _ => ?_) _ ?_
    | with_reducible refine kept_foldl_run (fun _ _ _ => ?_) _ ?_
    | with_reducible refine kept_foldl_work (fun _ _ _ => ?_) _ ?_
    | with_reducible refine kept_foldl_cast (fun _ _ _ => ?_) _ ?_
    | with_reducible refine kept_foldl_pass (fun _ _ _ => ?_) _ ?_
    | with_reducible refine kept_foldl_workp (fun _ _ _ => ?_) _ ?_
    | with_reducible refine kept_foldl_fst (fun _ _ _ => ?_) _ ?_
    | rintro _ ⟨⟩
    | rintro ⟨⟩
    | split
    | dsimp only
    | fail_if_no_progress with_reducible apply kept_same

theorem Work.step_kept {x : Work} (h : Kept Q x.run.st) {t : Work} (ht : x.step = some t) : Kept Q t.run.st := by
  unfold Work.step at ht
  split at ht
  · exact Work.stepSparse_kept h ht
  · exact Work.stepDense_kept h ht
-- use: refine Work.step_kept ?_ (by with_reducible assumption)

theorem addLoop_kept (n : Nat) {x : Work} (h : Kept Q x.run.st) : Kept Q (addLoop n x).run.st := by
  induction n generalizing x with
  | zero => exact h
  | succ n ih =>
    unfold addLoop
    split
    · exact h
    · split
      · exact h
      · split
        · exact ih (Work.step_kept h ‹_›)
        · exact Work.step_kept h ‹_›

theorem Work.add_kept {x : Work} (hk : Kept Q x.run.st) : Kept Q (Work.add x).run.st := by
  unfold Work.add
  try dsimp only
  repeat' first
    | with_reducible assumption
    | with_reducible apply addLoop_kept
    | with_reducible refine kept_fst ?_ (by with_reducible assumption)
    | split
    | dsimp only
    | fail_if_no_progress with_reducible apply kept_same

theorem Work.endOwn_kept {x : Work} (hk : Kept Q x.run.st) : Kept Q (Work.endOwn x).run.st := by
  unfold Work.endOwn
  try dsimp only
  repeat' first
    | with_reducible assumption
    | with_reducible apply State.store_kept
    | with_reducible apply Work.withSt_kept
    | with_reducible apply Work.faultAt_kept
    | with_reducible refine kept_fst ?_ (by with_reducible assumption)
    | with_reducible refine kept_foldl (fun _ _ _ => ?_) _ ?_
    | with_reducible refine kept_foldl_run (fun _ _ _ => ?_) _ ?_
    | with_reducible refine kept_foldl_work (fun _ _ _ => ?_) _ ?_
    | with_reducible refine kept_foldl_cast (fun _ _ _ => ?_) _ ?_
    | with_reducible refine kept_foldl_pass (fun _ _ _ => ?_) _ ?_
    | with_reducible refine kept_foldl_workp (fun _ _ _ => ?_) _ ?_
    | with_reducible refine kept_foldl_fst (fun _ _ _ => ?_) _ ?_
    | split
    | dsimp only
    | fail_if_no_progress with_reducible apply kept_same

theorem settleWork_kept (n : Nat) {x : Work} (h : Kept Q x.run.st) : Kept Q (settleWork n x).run.st := by
  induction n generalizing x with
  | zero => exact h
  | succ n ih =>
    unfold settleWork
    dsimp only
    repeat' first
      | with_reducible assumption
      | with_reducible apply ih
      | with_reducible apply Work.enter_kept
      | with_reducible apply Work.endOwn_kept
      | with_reducible apply Work.add_kept
      | split
      | dsimp only

theorem Work.settle_kept {x0 : Work} (h : Kept Q x0.run.st) : Kept Q x0.settle := by
  have h1 := settleWork_kept (2 * planCount x0.r.plan + 2) h
  unfold Work.settle
  dsimp only
  repeat' first
    | with_reducible assumption
    | with_reducible apply State.endColl_kept
    | with_reducible apply State.closeColl_kept
    | with_reducible apply State.putRun_kept
    | split

theorem State.redReady_kept {s : State} (r : RedRun) (h : Kept Q s) : Kept Q (s.redReady r) := by
  unfold State.redReady
  dsimp only
  refine State.refresh_kept _ (Work.settle_kept (Work.enter_kept ?_))
  exact State.putRun_kept _ h

theorem Work.sendUnit_kept {x : Work} (hk : Kept Q x.run.st) : Kept Q (Work.sendUnit x).run.st := by
  unfold Work.sendUnit
  try dsimp only
  repeat' first
    | with_reducible assumption
    | with_reducible refine State.writeTo_kept _ _ _ _ _ ?_ (by with_reducible assumption)
    | with_reducible apply Work.fault_kept
    | with_reducible refine Work.step_kept ?_ (by with_reducible assumption)
    | with_reducible refine kept_fst ?_ (by with_reducible assumption)
    | split
    | dsimp only
    | fail_if_no_progress with_reducible apply kept_same

theorem State.redCovered_kept {s : State} (r : RedRun) (hk : Kept Q s) : Kept Q (State.redCovered s r) := by
  unfold State.redCovered
  try dsimp only
  repeat' first
    | with_reducible assumption
    | with_reducible refine State.writeTo_kept _ _ _ _ _ ?_ (by with_reducible assumption)
    | with_reducible apply State.endColl_kept
    | with_reducible apply State.closeColl_kept
    | with_reducible apply State.putRun_kept
    | with_reducible apply State.work_kept
    | with_reducible apply Work.faultOf_kept
    | with_reducible apply Work.settle_kept
    | with_reducible refine kept_fst ?_ (by with_reducible assumption)
    | with_reducible refine kept_foldl (fun _ _ _ => ?_) _ ?_
    | with_reducible refine kept_foldl_run (fun _ _ _ => ?_) _ ?_
    | with_reducible refine kept_foldl_work (fun _ _ _ => ?_) _ ?_
    | with_reducible refine kept_foldl_cast (fun _ _ _ => ?_) _ ?_
    | with_reducible refine kept_foldl_pass (fun _ _ _ => ?_) _ ?_
    | with_reducible refine kept_foldl_workp (fun _ _ _ => ?_) _ ?_
    | with_reducible refine kept_foldl_fst (fun _ _ _ => ?_) _ ?_
    | split
    | dsimp only
    | fail_if_no_progress with_reducible apply kept_same

theorem State.reduceCredit_kept {s : State} (q : Packet) (p : Nat) (hk : Kept Q s) : Kept Q (State.reduceCredit s q p) := by
  unfold State.reduceCredit
  try dsimp only
  repeat' first
    | with_reducible assumption
    | with_reducible apply State.odInc_kept
    | with_reducible apply State.recordLimited_kept
    | with_reducible apply State.putRun_kept
    | with_reducible refine kept_fst ?_ (by with_reducible assumption)
    | split
    | dsimp only
    | fail_if_no_progress with_reducible apply kept_same

theorem castOne_kept (c : CmdInst) (w : Who) (total j : Nat) (bs : List Byte) {x : Casting} (d : Nat) (hk : Kept Q x.st) : Kept Q (castOne c w total j bs x d).st := by
  unfold castOne
  try dsimp only
  repeat' first
    | with_reducible assumption
    | with_reducible apply State.store_kept
    | with_reducible refine State.send_kept _ _ ?_ (by with_reducible assumption)
    | with_reducible apply Work.fault_kept
    | with_reducible refine kept_fst ?_ (by with_reducible assumption)
    | split
    | dsimp only
    | fail_if_no_progress with_reducible apply kept_same

theorem castPacket_kept (c : CmdInst) (w : Who) (es : List Nat) (total : Nat) {x : Casting} (j : Nat) (hk : Kept Q x.st) : Kept Q (castPacket c w es total x j).st := by
  unfold castPacket
  try dsimp only
  repeat' first
    | with_reducible assumption
    | with_reducible apply State.touch_kept
    | with_reducible apply Work.fault_kept
    | with_reducible apply castOne_kept
    | with_reducible refine kept_fst ?_ (by with_reducible assumption)
    | with_reducible refine kept_foldl (fun _ _ _ => ?_) _ ?_
    | with_reducible refine kept_foldl_run (fun _ _ _ => ?_) _ ?_
    | with_reducible refine kept_foldl_work (fun _ _ _ => ?_) _ ?_
    | with_reducible refine kept_foldl_cast (fun _ _ _ => ?_) _ ?_
    | with_reducible refine kept_foldl_pass (fun _ _ _ => ?_) _ ?_
    | with_reducible refine kept_foldl_workp (fun _ _ _ => ?_) _ ?_
    | with_reducible refine kept_foldl_fst (fun _ _ _ => ?_) _ ?_
    | split
    | dsimp only
    | fail_if_no_progress with_reducible apply kept_same

theorem Casting.sent_kept {x : Casting} (e : Exec) (hk : Kept Q x.st) : Kept Q (Casting.sent x e) := by
  unfold Casting.sent
  try dsimp only
  repeat' first
    | with_reducible assumption
    | with_reducible apply State.withColl_kept
    | with_reducible refine kept_fst ?_ (by with_reducible assumption)
    | split
    | dsimp only
    | fail_if_no_progress with_reducible apply kept_same

theorem Casting.finish_kept {x : Casting} (e : Exec) (hk : Kept Q x.st) : Kept Q (Casting.finish x e) := by
  unfold Casting.finish
  split
  · exact State.closeColl_kept _ _ (Casting.sent_kept _ hk)
  · exact State.closeColl_kept _ _ (Casting.sent_kept _ hk)

theorem State.castPackets_kept {s : State} (e : Exec) (es : List Nat) (h : Kept Q s) : Kept Q (s.castPackets e es).st := by
  unfold State.castPackets
  with_reducible refine kept_foldl_cast (fun _ j h => castPacket_kept e.cmd (s.whoRed e.cmd.ctx e.cmd.port) es (ceilDiv e.cmd.bcLen 4096) j h) _ ?_
  exact h

theorem State.cast_kept {s : State} (e : Exec) (es : List Nat) (h : Kept Q s) : Kept Q (s.cast e es) := Casting.finish_kept e (State.castPackets_kept e es h)

theorem State.castCovered_kept {s : State} (e : Exec) (hk : Kept Q s) : Kept Q (State.castCovered s e) := by
  unfold State.castCovered
  try dsimp only
  repeat' first
    | with_reducible assumption
    | with_reducible apply State.endColl_kept
    | with_reducible refine kept_fst ?_ (by with_reducible assumption)
    | split
    | dsimp only
    | fail_if_no_progress with_reducible apply kept_same

theorem State.leaveOrder_kept {s : State} (who : Consumer) (slot : Nat) (hk : Kept Q s) : Kept Q (State.leaveOrder s who slot) := by
  unfold State.leaveOrder
  try dsimp only
  repeat' first
    | with_reducible assumption
    | with_reducible refine kept_fst ?_ (by with_reducible assumption)
    | split
    | dsimp only
    | fail_if_no_progress with_reducible apply kept_same

/-- Every run that a time limit can stop. -/
theorem timedRow_kept {c : CmdInst} {ch : CmdInst → Exec → Checks} {run : Option Nat → State → Nat → Exec → Run} (hr : timedRow c = some (ch, run))
    (u : Option Nat) {s : State} (n : Nat) (e : Exec) (h : Kept Q s) : Kept Q (run u s n e).st := by
  unfold timedRow at hr
  split at hr
  · cases hr
    exact matRun_kept _ _ _ h
  · simp only [Option.some.injEq] at hr
    split at hr
    · cases hr
      exact wgradRun_kept _ _ _ h
    · cases hr
      exact convRun_kept _ _ _ h
  · cases hr
    exact dwRun_kept _ _ _ h
  · cases hr
    exact poolRun_kept _ _ _ h
  · cases hr
    exact vopRun_kept _ _ _ h
  · cases hr
    exact vreduceRun_kept _ _ _ h
  · cases hr
    exact copyRun_kept _ _ _ h
  · simp only [Option.some.injEq, Prod.mk.injEq] at hr
    obtain ⟨_, rfl⟩ := hr
    split
    · exact listRun_kept (fun _ _ _ _ _ _ h => scatterOne_kept _ _ _ _ _ h) _ _ _ h
    · exact listRun_kept (fun _ _ _ _ _ _ h => gatherOne_kept _ _ _ _ _ h) _ _ _ h
  · cases hr
    exact tierRun_kept _ _ _ h
  · split at hr
    · cases hr
      exact sendRun_kept _ _ _ h
    · cases hr
  · cases hr

theorem State.timeCore_kept {s : State} (n closed : Nat) (e : Exec) (h : Kept Q s) : Kept Q (s.timeCore n closed e) := by
  unfold State.timeCore
  dsimp only
  have h1 : Kept Q (s.advance e.due) := State.advance_kept _ h
  split
  · exact State.endCore_kept _ _ _ (State.leaveOrder_kept _ _ h1)
  · split
    · exact State.endCore_kept _ _ _ h1
    · split
      · exact h
      · rename_i hr
        split
        · exact h
        · split
          · exact State.endCore_kept _ _ _ (timedRow_kept hr _ _ _ h1)
          · exact h

theorem State.timeHub_kept {s : State} (cc closed : Nat) (hk : Kept Q s) : Kept Q (State.timeHub s cc closed) := by
  unfold State.timeHub
  try dsimp only
  repeat' first
    | with_reducible assumption
    | with_reducible apply State.advance_kept
    | with_reducible apply Run.start_kept
    | with_reducible apply tierRun_kept
    | with_reducible apply State.endHub_kept
    | with_reducible refine kept_fst ?_ (by with_reducible assumption)
    | split
    | dsimp only
    | fail_if_no_progress with_reducible apply kept_same

theorem State.timeUpdate_kept {s : State} (k closed : Nat) (h : Kept Q s) : Kept Q (s.timeUpdate k closed) := by
  unfold State.timeUpdate
  dsimp only
  split
  · have h1 := fun (e : Exec) (d : Fin) => State.endUpdate_kept k e d (State.advance_kept e.due h)
    split
    · exact State.settleGroup_kept _ _ _ (State.abandon_kept _ _ _ (h1 _ _))
    · exact h1 _ _
  · split
    · exact h
    · repeat' split
      all_goals first
        | exact h
        | exact State.runUpdate_kept _ _ (fun _ _ _ h => State.apply_kept _ _ _ _ (State.advance_kept _ h)) h
        | exact State.runUpdate_kept _ _ (fun _ _ _ h => State.normPart_kept _ _ _ _ (State.advance_kept _ h)) h
        | (refine State.runUpdate_kept _ _ (fun _ _ _ h => ?_) h
           split
           · exact State.apply_kept _ _ _ _ (State.advance_kept _ h)
           · exact State.normPart_kept _ _ _ _ (State.advance_kept _ h))

theorem State.timeColl_kept {s : State} (cc : Nat) (hk : Kept Q s) : Kept Q (State.timeColl s cc) := by
  unfold State.timeColl
  try dsimp only
  repeat' first
    | with_reducible assumption
    | with_reducible apply State.advance_kept
    | with_reducible apply State.endColl_kept
    | with_reducible apply Work.fault_kept
    | with_reducible apply State.leaveOrder_kept
    | with_reducible refine kept_fst ?_ (by with_reducible assumption)
    | split
    | dsimp only
    | fail_if_no_progress with_reducible apply kept_same

end Sys2Proof.Machine
end

