-- ==== Sys2Proof/Laws/KeepLink.lean ====
section
/-! SUPPORT. What is kept by links, packets received and fabric time. -/
set_option linter.unusedTactic false
set_option linter.unreachableTactic false
set_option linter.unusedVariables false

namespace Sys2Proof.Machine

variable {Q : List Instr}

theorem State.setLink_kept {s : State} (l : Nat) (st : LinkSt) (hk : Kept Q s) : Kept Q (State.setLink s l st) := by
  unfold State.setLink
  try dsimp only
  repeat' first
    | with_reducible assumption
    | with_reducible apply State.updLink_kept
    | with_reducible apply State.flight_kept
    | with_reducible refine kept_fst ?_ (by with_reducible assumption)
    | split
    | dsimp only
    | fail_if_no_progress with_reducible apply kept_same

theorem State.putFlit_kept {s : State} (lead kind seq cls vc sop : Nat) (body : List Word) (hk : Kept Q s) : Kept Q (State.putFlit s lead kind seq cls vc sop body).1 := by
  unfold State.putFlit
  try dsimp only
  repeat' first
    | with_reducible assumption
    | with_reducible apply State.updLink_kept
    | with_reducible apply State.emit_kept
    | with_reducible refine kept_fst ?_ (by with_reducible assumption)
    | split
    | dsimp only
    | fail_if_no_progress with_reducible apply kept_same

theorem State.idleFlit_kept {s : State} (lead : Nat) (hk : Kept Q s) : Kept Q (State.idleFlit s lead) := by
  unfold State.idleFlit
  try dsimp only
  repeat' first
    | with_reducible assumption
    | with_reducible apply State.putFlit_kept
    | with_reducible refine kept_fst ?_ (by with_reducible assumption)
    | split
    | dsimp only
    | fail_if_no_progress with_reducible apply kept_same

theorem State.nakFlit_kept {s : State} (lead : Nat) (hk : Kept Q s) : Kept Q (State.nakFlit s lead) := by
  unfold State.nakFlit
  try dsimp only
  repeat' first
    | with_reducible assumption
    | with_reducible apply State.putFlit_kept
    | with_reducible refine kept_fst ?_ (by with_reducible assumption)
    | split
    | dsimp only
    | fail_if_no_progress with_reducible apply kept_same

theorem State.sendClass_kept {s : State} (lead cls : Nat) (hk : Kept Q s) {t : State} (ht : State.sendClass s lead cls = some t) : Kept Q t := by
  revert ht
  unfold State.sendClass
  try dsimp only
  repeat' first
    | with_reducible assumption
    | with_reducible apply State.updLink_kept
    | with_reducible apply State.putFlit_kept
    | with_reducible refine kept_fst ?_ (by with_reducible assumption)
    | rintro _ ⟨⟩
    | rintro ⟨⟩
    | split
    | dsimp only
    | fail_if_no_progress with_reducible apply kept_same

theorem State.messageLost_kept {s : State} (p : Packet) (d : Fin) (hk : Kept Q s) : Kept Q (State.messageLost s p d) := by
  unfold State.messageLost
  try dsimp only
  repeat' first
    | with_reducible assumption
    | with_reducible apply State.abandon_kept
    | with_reducible apply Apply.group_kept
    | with_reducible apply State.endBarrier_kept
    | with_reducible apply State.closeColl_kept
    | with_reducible apply State.work_kept
    | with_reducible apply Work.fault_kept
    | with_reducible apply Casting.sent_kept
    | with_reducible refine kept_fst ?_ (by with_reducible assumption)
    | with_reducible refine kept_foldl (fun _ _ _ => ?_) _ ?_
    | with_reducible refine kept_foldl_fst (fun _ _ _ => ?_) _ ?_
    | split
    | dsimp only
    | fail_if_no_progress with_reducible apply kept_same

theorem State.ownUnreachable_kept {s : State} (p : Packet) (hk : Kept Q s) : Kept Q (State.ownUnreachable s p) := by
  unfold State.ownUnreachable
  try dsimp only
  repeat' first
    | with_reducible assumption
    | with_reducible apply State.endCore_kept
    | with_reducible apply State.endColl_kept
    | with_reducible apply State.work_kept
    | with_reducible apply Work.fault_kept
    | with_reducible apply State.messageLost_kept
    | with_reducible refine kept_fst ?_ (by with_reducible assumption)
    | split
    | dsimp only
    | fail_if_no_progress with_reducible apply kept_same

theorem State.reroute_kept {s : State} (ps : List Packet) (hk : Kept Q s) : Kept Q (State.reroute s ps) := by
  unfold State.reroute
  try dsimp only
  repeat' first
    | with_reducible assumption
    | with_reducible apply State.odInc_kept
    | with_reducible refine State.forward_kept _ ?_ (by with_reducible assumption)
    | with_reducible apply State.ownUnreachable_kept
    | with_reducible refine kept_fst ?_ (by with_reducible assumption)
    | with_reducible refine kept_foldl (fun _ _ _ => ?_) _ ?_
    | with_reducible refine kept_foldl_fst (fun _ _ _ => ?_) _ ?_
    | split
    | dsimp only
    | fail_if_no_progress with_reducible apply kept_same

theorem State.moveStream_kept {s : State} (a b : Nat) (hk : Kept Q s) : Kept Q (State.moveStream s a b) := by
  unfold State.moveStream
  try dsimp only
  repeat' first
    | with_reducible assumption
    | with_reducible apply State.updLink_kept
    | with_reducible refine kept_fst ?_ (by with_reducible assumption)
    | split
    | dsimp only
    | fail_if_no_progress with_reducible apply kept_same

theorem State.resend_kept {s : State} (lead : Nat) (hk : Kept Q s) : Kept Q (State.resend s lead) := by
  unfold State.resend
  try dsimp only
  repeat' first
    | with_reducible assumption
    | with_reducible apply State.updLink_kept
    | with_reducible apply State.emit_kept
    | with_reducible apply State.odInc_kept
    | with_reducible refine kept_fst ?_ (by with_reducible assumption)
    | with_reducible refine kept_foldl (fun _ _ _ => ?_) _ ?_
    | with_reducible refine kept_foldl_fst (fun _ _ _ => ?_) _ ?_
    | split
    | dsimp only
    | fail_if_no_progress with_reducible apply kept_same

theorem State.leaveBond_kept {s : State} (l : Nat) (hk : Kept Q s) : Kept Q (State.leaveBond s l) := by
  unfold State.leaveBond
  try dsimp only
  repeat' first
    | with_reducible assumption
    | with_reducible apply State.updLink_kept
    | with_reducible apply State.record_kept
    | with_reducible apply State.setLink_kept
    | with_reducible apply State.moveStream_kept
    | with_reducible apply State.resend_kept
    | with_reducible refine kept_fst ?_ (by with_reducible assumption)
    | with_reducible refine kept_foldl (fun _ _ _ => ?_) _ ?_
    | with_reducible refine kept_foldl_fst (fun _ _ _ => ?_) _ ?_
    | split
    | dsimp only
    | fail_if_no_progress with_reducible apply kept_same

theorem State.stopLink_kept {s : State} (l : Nat) (st : LinkSt) (hk : Kept Q s) : Kept Q (State.stopLink s l st) := by
  unfold State.stopLink
  try dsimp only
  repeat' first
    | with_reducible assumption
    | with_reducible apply State.updLink_kept
    | with_reducible apply State.setLink_kept
    | with_reducible apply State.reroute_kept
    | with_reducible apply State.leaveBond_kept
    | with_reducible refine kept_fst ?_ (by with_reducible assumption)
    | split
    | dsimp only
    | fail_if_no_progress with_reducible apply kept_same

theorem State.linkDown_kept {s : State} (l : Nat) (hk : Kept Q s) : Kept Q (State.linkDown s l) := by
  unfold State.linkDown
  try dsimp only
  repeat' first
    | with_reducible assumption
    | with_reducible apply State.record_kept
    | with_reducible apply State.stopLink_kept
    | with_reducible refine kept_fst ?_ (by with_reducible assumption)
    | split
    | dsimp only
    | fail_if_no_progress with_reducible apply kept_same

theorem State.linkLost_kept {s : State} (l : Nat) (hk : Kept Q s) : Kept Q (State.linkLost s l) := by
  unfold State.linkLost
  try dsimp only
  repeat' first
    | with_reducible assumption
    | with_reducible apply State.stopLink_kept
    | with_reducible apply State.linkDown_kept
    | with_reducible refine kept_fst ?_ (by with_reducible assumption)
    | split
    | dsimp only
    | fail_if_no_progress with_reducible apply kept_same

theorem State.linkControl_kept {s : State} (l v : Nat) (hk : Kept Q s) : Kept Q (State.linkControl s l v).1 := by
  unfold State.linkControl
  try dsimp only
  repeat' first
    | with_reducible assumption
    | with_reducible apply State.updLink_kept
    | with_reducible apply State.odSetN_kept
    | with_reducible apply State.setLink_kept
    | with_reducible apply State.stopLink_kept
    | with_reducible refine kept_fst ?_ (by with_reducible assumption)
    | split
    | dsimp only
    | fail_if_no_progress with_reducible apply kept_same

theorem State.joinLink_kept {s : State} (l : Nat) (hk : Kept Q s) : Kept Q (State.joinLink s l) := by
  unfold State.joinLink
  try dsimp only
  repeat' first
    | with_reducible assumption
    | with_reducible apply State.updLink_kept
    | with_reducible apply State.record_kept
    | with_reducible apply State.setLink_kept
    | with_reducible apply State.moveStream_kept
    | with_reducible refine kept_fst ?_ (by with_reducible assumption)
    | with_reducible refine kept_foldl (fun _ _ _ => ?_) _ ?_
    | with_reducible refine kept_foldl_fst (fun _ _ _ => ?_) _ ?_
    | split
    | dsimp only
    | fail_if_no_progress with_reducible apply kept_same

theorem State.sendIdentity_kept {s : State} (l : Nat) (hk : Kept Q s) : Kept Q (State.sendIdentity s l) := by
  unfold State.sendIdentity
  try dsimp only
  repeat' first
    | with_reducible assumption
    | with_reducible apply State.emit_kept
    | with_reducible refine kept_fst ?_ (by with_reducible assumption)
    | split
    | dsimp only
    | fail_if_no_progress with_reducible apply kept_same

theorem State.heldRelease_kept {s : State} (l : Nat) (hk : Kept Q s) : Kept Q (State.heldRelease s l).1 := by
  unfold State.heldRelease
  try dsimp only
  repeat' first
    | with_reducible assumption
    | with_reducible apply State.joinLink_kept
    | with_reducible refine kept_fst ?_ (by with_reducible assumption)
    | split
    | dsimp only
    | fail_if_no_progress with_reducible apply kept_same

theorem State.spareIn_kept {s : State} (l lane sp : Nat) (hk : Kept Q s) : Kept Q (State.spareIn s l lane sp) := by
  unfold State.spareIn
  try dsimp only
  repeat' first
    | with_reducible assumption
    | with_reducible apply State.updLink_kept
    | with_reducible apply State.record_kept
    | with_reducible refine kept_fst ?_ (by with_reducible assumption)
    | split
    | dsimp only
    | fail_if_no_progress with_reducible apply kept_same

theorem State.laneFlit_kept {s : State} (lead : Nat) (hk : Kept Q s) : Kept Q (State.laneFlit s lead) := by
  unfold State.laneFlit
  try dsimp only
  repeat' first
    | with_reducible assumption
    | with_reducible apply State.putFlit_kept
    | with_reducible refine kept_fst ?_ (by with_reducible assumption)
    | split
    | dsimp only
    | fail_if_no_progress with_reducible apply kept_same

theorem State.takeLane_kept {s : State} (l : Nat) (f : Flit) (hk : Kept Q s) : Kept Q (State.takeLane s l f) := by
  unfold State.takeLane
  try dsimp only
  repeat' first
    | with_reducible assumption
    | with_reducible apply State.spareIn_kept
    | with_reducible refine kept_fst ?_ (by with_reducible assumption)
    | split
    | dsimp only
    | fail_if_no_progress with_reducible apply kept_same

theorem State.takeReturns_kept {s : State} (lead : Nat) (f : Flit) (hk : Kept Q s) : Kept Q (State.takeReturns s lead f) := by
  unfold State.takeReturns
  try dsimp only
  repeat' first
    | with_reducible assumption
    | with_reducible apply State.updLink_kept
    | with_reducible apply Work.add_kept
    | with_reducible refine kept_fst ?_ (by with_reducible assumption)
    | split
    | dsimp only
    | fail_if_no_progress with_reducible apply kept_same

theorem State.replayLink_kept {s : State} (lead : Nat) (hk : Kept Q s) : Kept Q (State.replayLink s lead) := by
  unfold State.replayLink
  try dsimp only
  repeat' first
    | with_reducible assumption
    | with_reducible apply State.resend_kept
    | with_reducible apply State.linkDown_kept
    | with_reducible refine kept_fst ?_ (by with_reducible assumption)
    | split
    | dsimp only
    | fail_if_no_progress with_reducible apply kept_same

theorem State.takeNak_kept {s : State} (lead ack : Nat) (hk : Kept Q s) : Kept Q (State.takeNak s lead ack) := by
  unfold State.takeNak
  try dsimp only
  repeat' first
    | with_reducible assumption
    | with_reducible apply State.updLink_kept
    | with_reducible apply State.replayLink_kept
    | with_reducible refine kept_fst ?_ (by with_reducible assumption)
    | split
    | dsimp only
    | fail_if_no_progress with_reducible apply kept_same

theorem State.countSymbols_kept {s : State} (l : Nat) (f : Flit) (hk : Kept Q s) : Kept Q (State.countSymbols s l f) := by
  unfold State.countSymbols
  try dsimp only
  repeat' first
    | with_reducible assumption
    | with_reducible apply State.updLink_kept
    | with_reducible apply State.odAdd_kept
    | with_reducible refine kept_fst ?_ (by with_reducible assumption)
    | with_reducible refine kept_foldl (fun _ _ _ => ?_) _ ?_
    | with_reducible refine kept_foldl_fst (fun _ _ _ => ?_) _ ?_
    | split
    | dsimp only
    | fail_if_no_progress with_reducible apply kept_same

theorem State.takeFlit_kept {s : State} (l lead : Nat) (f : Flit) (hk : Kept Q s) : Kept Q (State.takeFlit s l lead f) := by
  unfold State.takeFlit
  try dsimp only
  repeat' first
    | with_reducible assumption
    | with_reducible apply State.updLink_kept
    | with_reducible apply State.idleFlit_kept
    | with_reducible apply State.nakFlit_kept
    | with_reducible apply State.takeLane_kept
    | with_reducible apply State.takeReturns_kept
    | with_reducible apply State.takeNak_kept
    | with_reducible refine kept_fst ?_ (by with_reducible assumption)
    | split
    | dsimp only
    | fail_if_no_progress with_reducible apply kept_same

theorem State.transit_kept {s : State} (die l : Nat) (p : Packet) (hk : Kept Q s) : Kept Q (State.transit s die l p) := by
  unfold State.transit
  try dsimp only
  repeat' first
    | with_reducible assumption
    | with_reducible apply State.updLink_kept
    | with_reducible apply State.odAdd_kept
    | with_reducible apply State.portUnits_kept
    | with_reducible apply State.toPort_kept
    | with_reducible refine kept_fst ?_ (by with_reducible assumption)
    | split
    | dsimp only
    | fail_if_no_progress with_reducible apply kept_same

theorem State.passOn_kept {s : State} (die : Nat) (out : Option (Nat × Bool)) (p : Packet) (hk : Kept Q s) : Kept Q (State.passOn s die out p) := by
  unfold State.passOn
  try dsimp only
  repeat' first
    | with_reducible assumption
    | with_reducible apply State.odInc_kept
    | with_reducible apply State.transit_kept
    | with_reducible refine kept_fst ?_ (by with_reducible assumption)
    | split
    | dsimp only
    | fail_if_no_progress with_reducible apply kept_same

theorem State.routePacket_kept {s : State} (l time : Nat) (out : Option (Nat × Bool)) (p : Packet) (hk : Kept Q s) : Kept Q (State.routePacket s l time out p) := by
  unfold State.routePacket
  try dsimp only
  repeat' first
    | with_reducible assumption
    | with_reducible apply State.updLink_kept
    | with_reducible apply State.odInc_kept
    | with_reducible apply State.recordLimited_kept
    | with_reducible apply State.passOn_kept
    | with_reducible refine kept_fst ?_ (by with_reducible assumption)
    | split
    | dsimp only
    | fail_if_no_progress with_reducible apply kept_same

theorem State.copyRoutes_kept {s : State} (hk : Kept Q s) : Kept Q (State.copyRoutes s) := by
  unfold State.copyRoutes
  try dsimp only
  repeat' first
    | with_reducible assumption
    | with_reducible apply State.odSet_kept
    | with_reducible refine kept_fst ?_ (by with_reducible assumption)
    | with_reducible refine kept_foldl (fun _ _ _ => ?_) _ ?_
    | with_reducible refine kept_foldl_fst (fun _ _ _ => ?_) _ ?_
    | split
    | dsimp only
    | fail_if_no_progress with_reducible apply kept_same

theorem State.routeCommit_kept {s : State} (t : Nat) (hk : Kept Q s) : Kept Q (State.routeCommit s t).1 := by
  unfold State.routeCommit
  try dsimp only
  repeat' first
    | with_reducible assumption
    | with_reducible apply State.withTime_kept
    | with_reducible apply State.copyRoutes_kept
    | with_reducible refine kept_fst ?_ (by with_reducible assumption)
    | split
    | dsimp only
    | fail_if_no_progress with_reducible apply kept_same

theorem State.onPacket_kept {s : State} (f : Packet → Bool) {g : State → Packet → State} (hg : ∀ t p, Kept Q t → Kept Q (g t p)) (h : Kept Q s) : Kept Q (s.onPacket f g) := by
  unfold State.onPacket
  split
  · exact hg _ _ (kept_same h)
  · exact h
-- use: refine State.onPacket_kept _ (fun _ _ _ => ?_) ?_

theorem State.writeRejected_kept {s : State} (q : Packet) (c : Code) (hk : Kept Q s) : Kept Q (State.writeRejected s q c) := by
  unfold State.writeRejected
  try dsimp only
  repeat' first
    | with_reducible assumption
    | with_reducible apply State.odInc_kept
    | with_reducible apply State.record_kept
    | with_reducible apply State.countUncorrectable_kept
    | with_reducible apply State.stopOwed_kept
    | with_reducible refine kept_fst ?_ (by with_reducible assumption)
    | split
    | dsimp only
    | fail_if_no_progress with_reducible apply kept_same

theorem State.takeWrite_kept {s : State} (q : Packet) (hk : Kept Q s) : Kept Q (State.takeWrite s q) := by
  unfold State.takeWrite
  try dsimp only
  repeat' first
    | with_reducible assumption
    | with_reducible apply State.withColl_kept
    | with_reducible apply State.store_kept
    | with_reducible apply State.writeRejected_kept
    | with_reducible refine kept_fst ?_ (by with_reducible assumption)
    | with_reducible refine kept_foldl (fun _ _ _ => ?_) _ ?_
    | with_reducible refine kept_foldl_fst (fun _ _ _ => ?_) _ ?_
    | split
    | dsimp only
    | fail_if_no_progress with_reducible apply kept_same

theorem State.sendDone_kept {s : State} (d : PendingDone) (hk : Kept Q s) : Kept Q (State.sendDone s d) := by
  unfold State.sendDone
  try dsimp only
  repeat' first
    | with_reducible assumption
    | with_reducible refine State.send_kept _ _ ?_ (by with_reducible assumption)
    | with_reducible refine kept_fst ?_ (by with_reducible assumption)
    | split
    | dsimp only
    | fail_if_no_progress with_reducible apply kept_same

theorem State.doneCore_kept {s : State} (n : Nat) (e : Exec) (q : Packet) (hk : Kept Q s) : Kept Q (State.doneCore s n e q) := by
  unfold State.doneCore
  try dsimp only
  repeat' first
    | with_reducible assumption
    | with_reducible apply State.updCore_kept
    | with_reducible apply State.sendCovered_kept
    | with_reducible refine kept_fst ?_ (by with_reducible assumption)
    | split
    | dsimp only
    | fail_if_no_progress with_reducible apply kept_same

theorem State.takeDone_kept {s : State} (q : Packet) (hk : Kept Q s) : Kept Q (State.takeDone s q) := by
  unfold State.takeDone
  try dsimp only
  repeat' first
    | with_reducible assumption
    | with_reducible apply State.withColl_kept
    | with_reducible apply State.redCovered_kept
    | with_reducible apply State.castCovered_kept
    | with_reducible apply State.doneCore_kept
    | with_reducible refine kept_fst ?_ (by with_reducible assumption)
    | split
    | dsimp only
    | fail_if_no_progress with_reducible apply kept_same

theorem State.syncStray_kept {s : State} (p : Nat) (hk : Kept Q s) : Kept Q (State.syncStray s p) := by
  unfold State.syncStray
  try dsimp only
  repeat' first
    | with_reducible assumption
    | with_reducible apply State.odInc_kept
    | with_reducible apply State.recordLimited_kept
    | with_reducible refine kept_fst ?_ (by with_reducible assumption)
    | split
    | dsimp only
    | fail_if_no_progress with_reducible apply kept_same

theorem State.fenceMessage_kept {s : State} (q : Packet) (p n : Nat) (hk : Kept Q s) : Kept Q (State.fenceMessage s q p n) := by
  unfold State.fenceMessage
  try dsimp only
  repeat' first
    | with_reducible assumption
    | with_reducible apply State.fenceAdd_kept
    | with_reducible apply State.fenceMax_kept
    | with_reducible apply State.syncStray_kept
    | with_reducible refine kept_fst ?_ (by with_reducible assumption)
    | split
    | dsimp only
    | fail_if_no_progress with_reducible apply kept_same

theorem State.creditMessage_kept {s : State} (q : Packet) (p n : Nat) (hk : Kept Q s) : Kept Q (State.creditMessage s q p n) := by
  unfold State.creditMessage
  try dsimp only
  repeat' first
    | with_reducible assumption
    | with_reducible apply State.creditAdd_kept
    | with_reducible apply State.creditOverflow_kept
    | with_reducible apply State.syncStray_kept
    | with_reducible refine kept_fst ?_ (by with_reducible assumption)
    | split
    | dsimp only
    | fail_if_no_progress with_reducible apply kept_same

theorem State.spend_kept {s : State} (k inst : Nat) (r : Request) (units : Nat) (hk : Kept Q s) : Kept Q (State.spend s k inst r units) := by
  unfold State.spend
  try dsimp only
  repeat' first
    | with_reducible assumption
    | with_reducible refine kept_fst ?_ (by with_reducible assumption)
    | split
    | dsimp only
    | fail_if_no_progress with_reducible apply kept_same

theorem State.grant_kept {s : State} (k inst : Nat) (rs : List Request) (who units : Nat) (hk : Kept Q s) : Kept Q (State.grant s k inst rs who units) := by
  unfold State.grant
  try dsimp only
  repeat' first
    | with_reducible assumption
    | with_reducible apply State.emit_kept
    | with_reducible refine kept_fst ?_ (by with_reducible assumption)
    | split
    | dsimp only
    | fail_if_no_progress with_reducible apply kept_same

theorem State.tc0Wait_kept {s : State} (l : Nat) (hk : Kept Q s) : Kept Q (State.tc0Wait s l) := by
  unfold State.tc0Wait
  try dsimp only
  repeat' first
    | with_reducible assumption
    | with_reducible apply State.updLink_kept
    | with_reducible apply State.odInc_kept
    | with_reducible apply State.recordLimited_kept
    | with_reducible refine kept_fst ?_ (by with_reducible assumption)
    | split
    | dsimp only
    | fail_if_no_progress with_reducible apply kept_same

theorem State.sendFlits_kept (c l n d : Nat) {s : State} (h : Kept Q s) : Kept Q (State.sendFlits c l n d s).1 := by
  induction n generalizing d s with
  | zero => exact h
  | succ n ih =>
    unfold State.sendFlits
    split
    · exact ih _ (State.sendClass_kept _ _ h ‹_›)
    · exact h

theorem State.decideLink_kept {s0 : State} (l : Nat) (hk : Kept Q s0) : Kept Q (State.decideLink s0 l) := by
  unfold State.decideLink
  try dsimp only
  repeat' first
    | with_reducible assumption
    | with_reducible apply State.updLink_kept
    | with_reducible apply State.grant_kept
    | with_reducible apply State.tc0Wait_kept
    | with_reducible apply State.sendFlits_kept
    | with_reducible refine kept_fst ?_ (by with_reducible assumption)
    | split
    | dsimp only
    | fail_if_no_progress with_reducible apply kept_same

theorem State.setTimeSt_kept {s : State} (st : TimeSt) (hk : Kept Q s) : Kept Q (State.setTimeSt s st) := by
  unfold State.setTimeSt
  try dsimp only
  repeat' first
    | with_reducible assumption
    | with_reducible apply State.withTime_kept
    | with_reducible apply State.flight_kept
    | with_reducible apply State.record_kept
    | with_reducible refine kept_fst ?_ (by with_reducible assumption)
    | split
    | dsimp only
    | fail_if_no_progress with_reducible apply kept_same

theorem State.follow_kept {s : State} (hk : Kept Q s) : Kept Q (State.follow s) := by
  unfold State.follow
  try dsimp only
  repeat' first
    | with_reducible assumption
    | with_reducible apply State.withTime_kept
    | with_reducible apply State.setTimeSt_kept
    | with_reducible refine kept_fst ?_ (by with_reducible assumption)
    | split
    | dsimp only
    | fail_if_no_progress with_reducible apply kept_same

theorem State.setRoot_kept {s : State} (v : Nat) (hk : Kept Q s) : Kept Q (State.setRoot s v) := by
  unfold State.setRoot
  try dsimp only
  repeat' first
    | with_reducible assumption
    | with_reducible apply State.withTime_kept
    | with_reducible apply State.odSetN_kept
    | with_reducible apply State.setTimeSt_kept
    | with_reducible apply State.follow_kept
    | with_reducible refine kept_fst ?_ (by with_reducible assumption)
    | split
    | dsimp only
    | fail_if_no_progress with_reducible apply kept_same

theorem State.missInterval_kept {s : State} (hk : Kept Q s) : Kept Q (State.missInterval s) := by
  unfold State.missInterval
  try dsimp only
  repeat' first
    | with_reducible assumption
    | with_reducible apply State.updLink_kept
    | with_reducible apply State.withTime_kept
    | with_reducible apply State.setTimeSt_kept
    | with_reducible refine kept_fst ?_ (by with_reducible assumption)
    | split
    | dsimp only
    | fail_if_no_progress with_reducible apply kept_same

theorem State.sendTime_kept {s : State} (l : Nat) (m : TimeMsg) (hk : Kept Q s) : Kept Q (State.sendTime s l m) := by
  unfold State.sendTime
  try dsimp only
  repeat' first
    | with_reducible assumption
    | with_reducible apply State.updLink_kept
    | with_reducible refine kept_fst ?_ (by with_reducible assumption)
    | split
    | dsimp only
    | fail_if_no_progress with_reducible apply kept_same

end Sys2Proof.Machine
end

