-- ==== Sys2Proof/Laws/KeepMedia.lean ====
section
/-! SUPPORT. What is kept by the media die. -/
set_option linter.unusedTactic false
set_option linter.unreachableTactic false
set_option linter.unusedVariables false

namespace Sys2Proof.Machine

variable {Q : List Instr}

theorem State.endMedia_kept {s : State} (e : Exec) (d : Fin) (hk : Kept Q s) : Kept Q (State.endMedia s e d) := by
  unfold State.endMedia
  try dsimp only
  repeat' first
    | with_reducible assumption
    | with_reducible apply State.withMedia_kept
    | with_reducible apply State.putBack_kept
    | with_reducible apply State.finish_kept
    | with_reducible apply Casting.finish_kept
    | with_reducible refine kept_fst ?_ (by with_reducible assumption)
    | split
    | dsimp only
    | fail_if_no_progress with_reducible apply kept_same

theorem State.runMedia_kept {s : State} (cc : Nat) (mine : CmdInst → Bool) (recs : State → CmdInst → List RecRead) (list : State → CmdInst → Option RecRead)
    (checks : CmdInst → List RecRead → Checks) {body : State → Exec → List RecRead → List Word → State} (hb : ∀ t e rs ws, Kept Q t → Kept Q (body t e rs ws)) (h : Kept Q s) : Kept Q (s.runMedia cc mine recs list checks body) := by
  unfold State.runMedia
  dsimp only
  split
  · exact h
  · split
    · exact State.endMedia_kept _ _ h
    · split
      · exact State.endMedia_kept _ _ h
      · exact hb _ _ _ _ h
-- use: refine State.runMedia_kept _ _ _ _ _ (fun _ _ _ _ _ => ?_) ?_

theorem State.rejectMedia_kept {s : State} (e : Exec) (c : Code) (info addr : Nat) (hk : Kept Q s) : Kept Q (State.rejectMedia s e c info addr) := by
  unfold State.rejectMedia
  try dsimp only
  repeat' first
    | with_reducible assumption
    | with_reducible apply Work.fault_kept
    | with_reducible apply State.endMedia_kept
    | with_reducible refine kept_fst ?_ (by with_reducible assumption)
    | split
    | dsimp only
    | fail_if_no_progress with_reducible apply kept_same

theorem State.putBatch_kept {s : State} (x : Batch) (hk : Kept Q s) : Kept Q (State.putBatch s x) := by
  unfold State.putBatch
  try dsimp only
  repeat' first
    | with_reducible assumption
    | with_reducible apply State.withMedia_kept
    | with_reducible refine kept_fst ?_ (by with_reducible assumption)
    | split
    | dsimp only
    | fail_if_no_progress with_reducible apply kept_same

theorem State.enrol_kept {s : State} (b : Nat) (stream : Option Nat) (ws : List Word) (hk : Kept Q s) : Kept Q (State.enrol s b stream ws) := by
  unfold State.enrol
  try dsimp only
  repeat' first
    | with_reducible assumption
    | with_reducible apply State.withMedia_kept
    | with_reducible apply State.updSlot_kept
    | with_reducible apply State.putBatch_kept
    | with_reducible refine kept_fst ?_ (by with_reducible assumption)
    | split
    | dsimp only
    | fail_if_no_progress with_reducible apply kept_same

theorem State.zeroFill_kept {s : State} (x : Batch) (i : Nat) (hk : Kept Q s) : Kept Q (State.zeroFill s x i) := by
  unfold State.zeroFill
  try dsimp only
  repeat' first
    | with_reducible assumption
    | with_reducible apply State.putPatch_kept
    | with_reducible refine kept_fst ?_ (by with_reducible assumption)
    | split
    | dsimp only
    | fail_if_no_progress with_reducible apply kept_same

theorem State.resolve_kept {s : State} (b i : Nat) (r : SlotRes) (reason : Nat) (hk : Kept Q s) : Kept Q (State.resolve s b i r reason) := by
  unfold State.resolve
  try dsimp only
  repeat' first
    | with_reducible assumption
    | with_reducible apply State.odInc_kept
    | with_reducible apply State.recordLimited_kept
    | with_reducible apply State.updSlot_kept
    | with_reducible apply State.putBatch_kept
    | with_reducible apply State.zeroFill_kept
    | with_reducible refine kept_fst ?_ (by with_reducible assumption)
    | split
    | dsimp only
    | fail_if_no_progress with_reducible apply kept_same

theorem State.passDeadline_kept {s : State} (b i : Nat) (hk : Kept Q s) : Kept Q (State.passDeadline s b i) := by
  unfold State.passDeadline
  try dsimp only
  repeat' first
    | with_reducible assumption
    | with_reducible apply State.odInc_kept
    | with_reducible apply State.recordLimited_kept
    | with_reducible apply State.updSlot_kept
    | with_reducible apply State.putBatch_kept
    | with_reducible apply State.resolve_kept
    | with_reducible refine kept_fst ?_ (by with_reducible assumption)
    | split
    | dsimp only
    | fail_if_no_progress with_reducible apply kept_same

theorem State.bringSlot_kept {s : State} (b i : Nat) (hk : Kept Q s) : Kept Q (State.bringSlot s b i) := by
  unfold State.bringSlot
  try dsimp only
  repeat' first
    | with_reducible assumption
    | with_reducible apply State.passDeadline_kept
    | with_reducible refine kept_fst ?_ (by with_reducible assumption)
    | split
    | dsimp only
    | fail_if_no_progress with_reducible apply kept_same

theorem State.fillSlot_kept {s : State} (x : Batch) (i : Nat) (es : List OutElem) (hk : Kept Q s) : Kept Q (State.fillSlot s x i es) := by
  unfold State.fillSlot
  try dsimp only
  repeat' first
    | with_reducible assumption
    | with_reducible apply State.putPatch_kept
    | with_reducible apply State.putBatch_kept
    | with_reducible apply State.resolve_kept
    | with_reducible refine kept_fst ?_ (by with_reducible assumption)
    | with_reducible refine kept_foldl (fun _ _ _ => ?_) _ ?_
    | with_reducible refine kept_foldl_fst (fun _ _ _ => ?_) _ ?_
    | split
    | dsimp only
    | fail_if_no_progress with_reducible apply kept_same

theorem State.sampleDone_kept {s : State} (b sl : Nat) {f : State → Batch → BatchSlot → State} (hf : ∀ t x y, Kept Q t → Kept Q (f t x y)) (h : Kept Q s) : Kept Q (s.sampleDone b sl f) := by
  unfold State.sampleDone
  dsimp only
  repeat' first
    | with_reducible assumption
    | with_reducible apply hf
    | with_reducible apply State.bringSlot_kept
    | split
-- use: refine State.sampleDone_kept _ _ (fun _ _ _ _ => ?_) ?_

theorem State.mediaPut_kept {s : State} (w : Who) (a : Nat) (bs : List Byte) (hk : Kept Q s) : Kept Q (State.mediaPut s w a bs) := by
  unfold State.mediaPut
  try dsimp only
  repeat' first
    | with_reducible assumption
    | with_reducible apply State.putPatch_kept
    | with_reducible refine kept_fst ?_ (by with_reducible assumption)
    | split
    | dsimp only
    | fail_if_no_progress with_reducible apply kept_same

theorem State.putStream_kept {s : State} (x : Stream) (hk : Kept Q s) : Kept Q (State.putStream s x) := by
  unfold State.putStream
  try dsimp only
  repeat' first
    | with_reducible assumption
    | with_reducible apply State.withMedia_kept
    | with_reducible refine kept_fst ?_ (by with_reducible assumption)
    | split
    | dsimp only
    | fail_if_no_progress with_reducible apply kept_same

theorem State.streamFault_kept {s : State} (x : Stream) (c : Code) (hk : Kept Q s) : Kept Q (State.streamFault s x c) := by
  unfold State.streamFault
  try dsimp only
  repeat' first
    | with_reducible assumption
    | with_reducible apply State.recordLimited_kept
    | with_reducible refine kept_fst ?_ (by with_reducible assumption)
    | split
    | dsimp only
    | fail_if_no_progress with_reducible apply kept_same

theorem State.resolveRoutes_kept {s : State} (sc : Nat) (f : BatchSlot → Bool) (r : SlotRes) (reason : Nat) (hk : Kept Q s) : Kept Q (State.resolveRoutes s sc f r reason) := by
  unfold State.resolveRoutes
  try dsimp only
  repeat' first
    | with_reducible assumption
    | with_reducible apply State.resolve_kept
    | with_reducible apply State.bringSlot_kept
    | with_reducible refine kept_fst ?_ (by with_reducible assumption)
    | with_reducible refine kept_foldl (fun _ _ _ => ?_) _ ?_
    | with_reducible refine kept_foldl_fst (fun _ _ _ => ?_) _ ?_
    | split
    | dsimp only
    | fail_if_no_progress with_reducible apply kept_same

theorem State.failStream_kept {s : State} (x : Stream) (hk : Kept Q s) : Kept Q (State.failStream s x) := by
  unfold State.failStream
  try dsimp only
  repeat' first
    | with_reducible assumption
    | with_reducible apply putStream_kept
    | with_reducible apply State.putStream_kept
    | with_reducible apply State.streamFault_kept
    | with_reducible apply State.resolveRoutes_kept
    | with_reducible refine kept_fst ?_ (by with_reducible assumption)
    | split
    | dsimp only
    | fail_if_no_progress with_reducible apply kept_same

theorem settleStream_kept (sc n : Nat) {s : State} (h : Kept Q s) : Kept Q (settleStream sc n s) := by
  induction n generalizing s with
  | zero => exact h
  | succ n ih =>
    unfold settleStream
    dsimp only
    repeat' first
      | with_reducible assumption
      | with_reducible apply ih
      | with_reducible apply State.resolveRoutes_kept
      | with_reducible apply State.putStream_kept
      | split

theorem State.lateRoutes_kept {s : State} (sc : Nat) (hk : Kept Q s) : Kept Q (State.lateRoutes s sc) := by
  unfold State.lateRoutes
  try dsimp only
  repeat' first
    | with_reducible assumption
    | with_reducible apply State.resolveRoutes_kept
    | with_reducible refine kept_fst ?_ (by with_reducible assumption)
    | split
    | dsimp only
    | fail_if_no_progress with_reducible apply kept_same

theorem State.settle_kept {s : State} (sc : Nat) (hk : Kept Q s) : Kept Q (State.settle s sc) := by
  unfold State.settle
  try dsimp only
  repeat' first
    | with_reducible assumption
    | with_reducible apply settleStream_kept
    | with_reducible apply State.lateRoutes_kept
    | with_reducible refine kept_fst ?_ (by with_reducible assumption)
    | split
    | dsimp only
    | fail_if_no_progress with_reducible apply kept_same

theorem State.tightenRoutes_kept {s : State} (sc : Nat) (hk : Kept Q s) : Kept Q (State.tightenRoutes s sc) := by
  unfold State.tightenRoutes
  try dsimp only
  repeat' first
    | with_reducible assumption
    | with_reducible apply State.updSlot_kept
    | with_reducible apply State.putBatch_kept
    | with_reducible refine kept_fst ?_ (by with_reducible assumption)
    | with_reducible refine kept_foldl (fun _ _ _ => ?_) _ ?_
    | with_reducible refine kept_foldl_fst (fun _ _ _ => ?_) _ ?_
    | split
    | dsimp only
    | fail_if_no_progress with_reducible apply kept_same

theorem State.feedStream_kept {s : State} (w : Who) (x : Stream) (ws : List Word) (hk : Kept Q s) : Kept Q (State.feedStream s w x ws) := by
  unfold State.feedStream
  try dsimp only
  repeat' first
    | with_reducible assumption
    | with_reducible apply State.touch_kept
    | with_reducible apply putStream_kept
    | with_reducible apply Work.settle_kept
    | with_reducible apply State.putStream_kept
    | with_reducible apply State.failStream_kept
    | with_reducible apply State.settle_kept
    | with_reducible apply State.tightenRoutes_kept
    | with_reducible refine kept_fst ?_ (by with_reducible assumption)
    | split
    | dsimp only
    | fail_if_no_progress with_reducible apply kept_same

theorem State.admitRoute_kept {s : State} (x : Stream) (ws : List Word) (hk : Kept Q s) : Kept Q (State.admitRoute s x ws) := by
  unfold State.admitRoute
  try dsimp only
  repeat' first
    | with_reducible assumption
    | with_reducible apply State.enrol_kept
    | with_reducible refine kept_fst ?_ (by with_reducible assumption)
    | split
    | dsimp only
    | fail_if_no_progress with_reducible apply kept_same

theorem State.admitRoutes_kept {s : State} (x : Stream) (rs : List (List Word)) (hk : Kept Q s) : Kept Q (State.admitRoutes s x rs) := by
  unfold State.admitRoutes
  try dsimp only
  repeat' first
    | with_reducible assumption
    | with_reducible apply Work.settle_kept
    | with_reducible apply State.resolve_kept
    | with_reducible apply State.settle_kept
    | with_reducible apply State.tightenRoutes_kept
    | with_reducible apply State.admitRoute_kept
    | with_reducible refine kept_fst ?_ (by with_reducible assumption)
    | with_reducible refine kept_foldl (fun _ _ _ => ?_) _ ?_
    | with_reducible refine kept_foldl_fst (fun _ _ _ => ?_) _ ?_
    | split
    | dsimp only
    | fail_if_no_progress with_reducible apply kept_same

theorem State.updPic_kept {s : State} (sc n : Nat) (f : Pic → Pic) (hk : Kept Q s) : Kept Q (State.updPic s sc n f) := by
  unfold State.updPic
  try dsimp only
  repeat' first
    | with_reducible assumption
    | with_reducible apply putStream_kept
    | with_reducible apply State.putStream_kept
    | with_reducible refine kept_fst ?_ (by with_reducible assumption)
    | split
    | dsimp only
    | fail_if_no_progress with_reducible apply kept_same

theorem State.readArea_kept {s : State} (w : Who) (runs : List (Nat × Nat)) (hk : Kept Q s) : Kept Q (State.readArea s w runs) := by
  unfold State.readArea
  try dsimp only
  repeat' first
    | with_reducible assumption
    | with_reducible apply State.touch_kept
    | with_reducible refine kept_fst ?_ (by with_reducible assumption)
    | with_reducible refine kept_foldl (fun _ _ _ => ?_) _ ?_
    | with_reducible refine kept_foldl_fst (fun _ _ _ => ?_) _ ?_
    | split
    | dsimp only
    | fail_if_no_progress with_reducible apply kept_same

theorem State.keepPicture_kept {s : State} (x : Stream) (p : Pic) (hk : Kept Q s) : Kept Q (State.keepPicture s x p) := by
  unfold State.keepPicture
  try dsimp only
  repeat' first
    | with_reducible assumption
    | with_reducible apply State.store_kept
    | with_reducible apply State.updPic_kept
    | with_reducible refine kept_fst ?_ (by with_reducible assumption)
    | split
    | dsimp only
    | fail_if_no_progress with_reducible apply kept_same

theorem State.lateSlots_kept {s : State} (sc : Nat) (p : Pic) (hk : Kept Q s) : Kept Q (State.lateSlots s sc p) := by
  unfold State.lateSlots
  try dsimp only
  repeat' first
    | with_reducible assumption
    | with_reducible apply State.passDeadline_kept
    | with_reducible refine kept_fst ?_ (by with_reducible assumption)
    | with_reducible refine kept_foldl (fun _ _ _ => ?_) _ ?_
    | with_reducible refine kept_foldl_fst (fun _ _ _ => ?_) _ ?_
    | split
    | dsimp only
    | fail_if_no_progress with_reducible apply kept_same

theorem State.closeStream_kept {s : State} (x : Stream) (hk : Kept Q s) : Kept Q (State.closeStream s x) := by
  unfold State.closeStream
  try dsimp only
  repeat' first
    | with_reducible assumption
    | with_reducible apply State.withMedia_kept
    | with_reducible apply State.abortExecs_kept
    | with_reducible apply State.resolveRoutes_kept
    | with_reducible refine kept_fst ?_ (by with_reducible assumption)
    | split
    | dsimp only
    | fail_if_no_progress with_reducible apply kept_same

theorem State.keepCoded_kept {s : State} (w : Who) (x : Stream) (k : Coded) (hk : Kept Q s) : Kept Q (State.keepCoded s w x k) := by
  unfold State.keepCoded
  try dsimp only
  repeat' first
    | with_reducible assumption
    | with_reducible apply State.store_kept
    | with_reducible apply putStream_kept
    | with_reducible apply State.putStream_kept
    | with_reducible refine kept_fst ?_ (by with_reducible assumption)
    | split
    | dsimp only
    | fail_if_no_progress with_reducible apply kept_same

theorem State.storeCoded_kept {s : State} (w : Who) (x : Stream) (ws : List Word) (k : Coded) (hk : Kept Q s) : Kept Q (State.storeCoded s w x ws k) := by
  unfold State.storeCoded
  try dsimp only
  repeat' first
    | with_reducible assumption
    | with_reducible apply State.store_kept
    | with_reducible apply putStream_kept
    | with_reducible apply State.putStream_kept
    | with_reducible apply State.streamFault_kept
    | with_reducible refine kept_fst ?_ (by with_reducible assumption)
    | split
    | dsimp only
    | fail_if_no_progress with_reducible apply kept_same

end Sys2Proof.Machine
end

