-- ==== Sys2Proof/Laws/KeepModule.lean ====
section
/-! SUPPORT. What is kept by power, self-test, start-up, management and the host. -/
set_option linter.unusedTactic false
set_option linter.unreachableTactic false
set_option linter.unusedVariables false

namespace Sys2Proof.Machine

variable {Q : List Instr}

theorem State.withHost_bound {s : State} {f : HostPort → HostPort} (h : Kept Q s) (h1 : (f s.host).cache.length ≤ 16384) (h2 : (f s.host).snoop.length ≤ 2097152) : Kept Q (s.withHost f) := kept_host h h1 h2
/-- What holds of the first branch's value and of what the second answers. -/
theorem opt_ite {α : Type} {P : α → Prop} {c : Prop} [Decidable c] {a t : α} {b : Option α} (h1 : P a) (h2 : b = some t → P t) : (if c then some a else b) = some t → P t := by
  split
  · rintro ⟨⟩
    exact h1
  · exact h2

theorem State.clearKeep_kept {s : State} (p : Nat) (hk : Kept Q s) : Kept Q (State.clearKeep s p).1 := by
  unfold State.clearKeep
  try dsimp only
  repeat' first
    | with_reducible assumption
    | with_reducible refine kept_fst ?_ (by with_reducible assumption)
    | split
    | dsimp only
    | fail_if_no_progress with_reducible apply kept_same

theorem State.clearBoard_kept {s : State} (p : Nat) (hk : Kept Q s) : Kept Q (State.clearBoard s p).1 := by
  unfold State.clearBoard
  try dsimp only
  repeat' first
    | with_reducible assumption
    | with_reducible apply State.withColl_kept
    | with_reducible refine kept_fst ?_ (by with_reducible assumption)
    | split
    | dsimp only
    | fail_if_no_progress with_reducible apply kept_same

theorem State.larderFault_kept {s : State} (c : Code) (addr : Nat) (part : Option Nat) (hk : Kept Q s) : Kept Q (State.larderFault s c addr part) := by
  unfold State.larderFault
  try dsimp only
  repeat' first
    | with_reducible assumption
    | with_reducible apply State.record_kept
    | with_reducible apply State.countFault_kept
    | with_reducible apply State.stopOwed_kept
    | with_reducible refine kept_fst ?_ (by with_reducible assumption)
    | split
    | dsimp only
    | fail_if_no_progress with_reducible apply kept_same

theorem State.readLarder_kept {s : State} (addr hint : Nat) (part : Option Nat) (hk : Kept Q s) : Kept Q (State.readLarder s addr hint part) := by
  unfold State.readLarder
  try dsimp only
  repeat' first
    | with_reducible assumption
    | with_reducible apply State.emit_kept
    | with_reducible apply State.touch_kept
    | with_reducible apply State.larderFault_kept
    | with_reducible refine kept_fst ?_ (by with_reducible assumption)
    | split
    | dsimp only
    | fail_if_no_progress with_reducible apply kept_same

theorem State.writeLarder_kept {s : State} (addr hint : Nat) (part : Option Nat) (bytes : List (Option Byte)) (h : Kept Q s) : Kept Q (s.writeLarder addr hint part bytes) := by
  unfold State.writeLarder
  dsimp only
  split
  · exact h
  · split
    · exact State.larderFault_kept _ _ _ h
    · have h1 := State.passWrite_kept { part := part } hint (32 * (addr / 32)) 32 [32 * (addr / 32)] (fun _ => (bytes.take 32).length == 32 && (bytes.take 32).all Option.isSome) (State.backInvalidate_kept true (32 * (addr / 32)) 32 h)
      exact kept_mem h1 (memWf_putSome _ _ h1.mem)

theorem State.judge_kept {s : State} (d ratio : Nat) (hk : Kept Q s) : Kept Q (State.judge s d ratio) := by
  unfold State.judge
  try dsimp only
  repeat' first
    | with_reducible assumption
    | with_reducible apply State.withHbm_kept
    | with_reducible apply State.odSetN_kept
    | with_reducible apply State.raise_kept
    | with_reducible refine kept_fst ?_ (by with_reducible assumption)
    | split
    | dsimp only
    | fail_if_no_progress with_reducible apply kept_same

theorem State.nextWindow_kept {s : State} (d : Nat) (hk : Kept Q s) : Kept Q (State.nextWindow s d) := by
  unfold State.nextWindow
  try dsimp only
  repeat' first
    | with_reducible assumption
    | with_reducible apply State.withHbm_kept
    | with_reducible refine kept_fst ?_ (by with_reducible assumption)
    | split
    | dsimp only
    | fail_if_no_progress with_reducible apply kept_same

theorem State.endWindow_kept {s : State} (d : Nat) (hk : Kept Q s) : Kept Q (State.endWindow s d) := by
  unfold State.endWindow
  try dsimp only
  repeat' first
    | with_reducible assumption
    | with_reducible apply State.judge_kept
    | with_reducible apply State.nextWindow_kept
    | with_reducible refine kept_fst ?_ (by with_reducible assumption)
    | split
    | dsimp only
    | fail_if_no_progress with_reducible apply kept_same

theorem State.loseMemory_kept {s : State} (h : Kept Q s) : Kept Q s.loseMemory := by
  unfold State.loseMemory
  exact kept_same (kept_mem h (memWf_filter _ h.mem))

theorem State.loseAll_kept {s : State} (h : Kept Q s) : Kept Q s.loseAll := by
  have h1 : Kept Q s.loseMemory := State.loseMemory_kept h
  unfold State.loseAll
  exact kept_mem h1 (memWf_filter _ h1.mem)

theorem State.dropLinks_kept {s : State} (hk : Kept Q s) : Kept Q (State.dropLinks s) := by
  unfold State.dropLinks
  try dsimp only
  repeat' first
    | with_reducible assumption
    | with_reducible apply State.linkLost_kept
    | with_reducible refine kept_fst ?_ (by with_reducible assumption)
    | with_reducible refine kept_foldl (fun _ _ _ => ?_) _ ?_
    | with_reducible refine kept_foldl_fst (fun _ _ _ => ?_) _ ?_
    | split
    | dsimp only
    | fail_if_no_progress with_reducible apply kept_same

theorem State.darken_kept {s : State} (h : Kept Q s) : Kept Q s.darken := by
  have h1 : Kept Q s.loseMemory.dropLinks := State.dropLinks_kept (State.loseMemory_kept h)
  unfold State.darken
  dsimp only
  generalize s.loseMemory.dropLinks = x at h1 ⊢
  have hu := (kept_iff.1 h1).2.2.1.2.2.2.1
  exact kept_mk (kept_mem h1 (memWf_filter _ h1.mem)) rfl rfl (List.length_map _) ((List.length_replicate ..).trans hu.symm) rfl rfl ⟨rfl, rfl⟩ ⟨rfl, rfl⟩ ⟨rfl, rfl⟩

theorem State.haltAll_kept {s : State} (hk : Kept Q s) : Kept Q (State.haltAll s) := by
  unfold State.haltAll
  try dsimp only
  repeat' first
    | with_reducible assumption
    | with_reducible apply State.setCond_kept
    | with_reducible refine kept_fst ?_ (by with_reducible assumption)
    | with_reducible refine kept_foldl (fun _ _ _ => ?_) _ ?_
    | with_reducible refine kept_foldl_fst (fun _ _ _ => ?_) _ ?_
    | split
    | dsimp only
    | fail_if_no_progress with_reducible apply kept_same

theorem nvApply_wf (l : List NvRec) : mapWf odDefault (nvApply l) = true := by
  induction l with
  | nil => rfl
  | cons r l ih =>
    show mapWf odDefault (if goodNv r then _ else _) = true
    split
    · exact mapWf_put _ _ ih
    · exact ih

theorem State.reload_kept {s : State} (h : Kept Q s) : Kept Q s.reload := kept_entries h h.od (nvApply_wf _)

theorem State.restart_kept {s0 : State} (cause : Nat) (h0 : Kept Q s0) : Kept Q (s0.restart cause) := by
  have h : Kept Q s0.cutWrites.reload := State.reload_kept (State.cutWrites_kept h0)
  have hr := h.recorder
  have hm := memWf_filter hostCell h.mem
  have hp := (kept_iff.1 h).1
  have hw : State.reset.parts.length = 16 ∧ State.reset.ctxs.length = 256 ∧ State.reset.cores.length = 384 ∧ State.reset.upd.length = 4 ∧ State.reset.groups.length = 256 ∧ State.reset.links.length = 36 := by decide +kernel
  rw [kept_iff]
  exact ⟨hp, hm, hw, ⟨Nat.zero_le _, hr, Nat.zero_le _, Nat.zero_le _, Nat.zero_le _, Nat.zero_le _⟩, h.nv, h.nv⟩

theorem State.off_kept {s : State} (hubTrip : Bool) (h : Kept Q s) : Kept Q (s.off hubTrip) := by
  have h1 : Kept Q (s.restart 0) := State.restart_kept 0 h
  unfold State.off
  exact kept_same (kept_diag (d := { repair := s.diag.repair, withheld := s.waysOut }) h1 (Nat.zero_le _) (Nat.zero_le _))

theorem State.countTwin_kept {s : State} (sensor n : Nat) (hk : Kept Q s) : Kept Q (State.countTwin s sensor n) := by
  unfold State.countTwin
  try dsimp only
  repeat' first
    | with_reducible assumption
    | with_reducible apply State.withDiag_kept
    | with_reducible refine kept_fst ?_ (by with_reducible assumption)
    | exact ⟨rfl, rfl⟩
    | split
    | dsimp only
    | fail_if_no_progress with_reducible apply kept_same

theorem State.checkTwin_kept {s : State} (sensor : Nat) (t twin : Int) (hk : Kept Q s) : Kept Q (State.checkTwin s sensor t twin) := by
  unfold State.checkTwin
  try dsimp only
  repeat' first
    | with_reducible assumption
    | with_reducible apply State.withDiag_kept
    | with_reducible apply State.raise_kept
    | with_reducible apply State.countTwin_kept
    | with_reducible refine kept_fst ?_ (by with_reducible assumption)
    | exact ⟨rfl, rfl⟩
    | split
    | dsimp only
    | fail_if_no_progress with_reducible apply kept_same

theorem State.trip_kept {s : State} (sensor : Nat) (hk : Kept Q s) : Kept Q (State.trip s sensor) := by
  unfold State.trip
  try dsimp only
  repeat' first
    | with_reducible assumption
    | with_reducible apply State.withPwr_kept
    | with_reducible apply State.alert_kept
    | with_reducible apply State.raise_kept
    | with_reducible apply State.loseAll_kept
    | with_reducible apply State.darken_kept
    | with_reducible apply State.haltAll_kept
    | with_reducible refine kept_fst ?_ (by with_reducible assumption)
    | split
    | dsimp only
    | fail_if_no_progress with_reducible apply kept_same

theorem State.junctionCeiling_kept {s : State} (i : Nat) (t : Int) (hk : Kept Q s) : Kept Q (State.junctionCeiling s i t) := by
  unfold State.junctionCeiling
  try dsimp only
  repeat' first
    | with_reducible assumption
    | with_reducible apply State.updIsland_kept
    | with_reducible apply State.alert_kept
    | with_reducible apply State.raise_kept
    | with_reducible refine kept_fst ?_ (by with_reducible assumption)
    | split
    | dsimp only
    | fail_if_no_progress with_reducible apply kept_same

theorem State.sampleIsland_kept {s : State} (i : Nat) (t0 twin : Int) (hk : Kept Q s) : Kept Q (State.sampleIsland s i t0 twin) := by
  unfold State.sampleIsland
  try dsimp only
  repeat' first
    | with_reducible assumption
    | with_reducible apply State.updIsland_kept
    | with_reducible apply State.off_kept
    | with_reducible apply State.checkTwin_kept
    | with_reducible apply State.trip_kept
    | with_reducible apply State.junctionCeiling_kept
    | with_reducible refine kept_fst ?_ (by with_reducible assumption)
    | split
    | dsimp only
    | fail_if_no_progress with_reducible apply kept_same

theorem State.sampleNand_kept {s : State} (k : Nat) (t0 twin : Int) (hk : Kept Q s) : Kept Q (State.sampleNand s k t0 twin) := by
  unfold State.sampleNand
  try dsimp only
  repeat' first
    | with_reducible assumption
    | with_reducible apply State.withTier_kept
    | with_reducible apply State.checkTwin_kept
    | with_reducible refine kept_fst ?_ (by with_reducible assumption)
    | split
    | dsimp only
    | fail_if_no_progress with_reducible apply kept_same

theorem State.sampleUncore_kept {s : State} (k : Nat) (t0 twin : Int) (hk : Kept Q s) : Kept Q (State.sampleUncore s k t0 twin) := by
  unfold State.sampleUncore
  try dsimp only
  repeat' first
    | with_reducible assumption
    | with_reducible apply State.checkTwin_kept
    | with_reducible apply State.trip_kept
    | with_reducible refine kept_fst ?_ (by with_reducible assumption)
    | split
    | dsimp only
    | fail_if_no_progress with_reducible apply kept_same

theorem State.setStackCeiling_kept {s : State} (st c : Nat) (hk : Kept Q s) : Kept Q (State.setStackCeiling s st c) := by
  unfold State.setStackCeiling
  try dsimp only
  repeat' first
    | with_reducible assumption
    | with_reducible apply State.updStack_kept
    | with_reducible apply State.flight_kept
    | with_reducible refine kept_fst ?_ (by with_reducible assumption)
    | split
    | dsimp only
    | fail_if_no_progress with_reducible apply kept_same

theorem State.stackCeiling_kept {s : State} (st : Nat) (t : Int) (hk : Kept Q s) : Kept Q (State.stackCeiling s st t) := by
  unfold State.stackCeiling
  try dsimp only
  repeat' first
    | with_reducible assumption
    | with_reducible apply State.alert_kept
    | with_reducible apply State.raise_kept
    | with_reducible apply State.setStackCeiling_kept
    | with_reducible refine kept_fst ?_ (by with_reducible assumption)
    | split
    | dsimp only
    | fail_if_no_progress with_reducible apply kept_same

theorem State.sampleStack_kept {s : State} (st : Nat) (t0 twin : Int) (hk : Kept Q s) : Kept Q (State.sampleStack s st t0 twin) := by
  unfold State.sampleStack
  try dsimp only
  repeat' first
    | with_reducible assumption
    | with_reducible apply State.updStack_kept
    | with_reducible apply State.checkTwin_kept
    | with_reducible apply State.trip_kept
    | with_reducible apply State.stackCeiling_kept
    | with_reducible refine kept_fst ?_ (by with_reducible assumption)
    | split
    | dsimp only
    | fail_if_no_progress with_reducible apply kept_same

theorem State.raiseLimit_kept {s : State} (hk : Kept Q s) : Kept Q (State.raiseLimit s) := by
  unfold State.raiseLimit
  try dsimp only
  repeat' first
    | with_reducible assumption
    | with_reducible apply State.withPwr_kept
    | with_reducible apply State.alert_kept
    | with_reducible apply State.raise_kept
    | with_reducible refine kept_fst ?_ (by with_reducible assumption)
    | split
    | dsimp only
    | fail_if_no_progress with_reducible apply kept_same

theorem State.moveCeiling_kept {s : State} (avg limit : Nat) (hk : Kept Q s) : Kept Q (State.moveCeiling s avg limit) := by
  unfold State.moveCeiling
  try dsimp only
  repeat' first
    | with_reducible assumption
    | with_reducible apply State.withPwr_kept
    | with_reducible apply State.raiseLimit_kept
    | with_reducible refine kept_fst ?_ (by with_reducible assumption)
    | split
    | dsimp only
    | fail_if_no_progress with_reducible apply kept_same

theorem State.powerTick_kept {s : State} (avgMw ma : Nat) (hk : Kept Q s) : Kept Q (State.powerTick s avgMw ma) := by
  unfold State.powerTick
  try dsimp only
  repeat' first
    | with_reducible assumption
    | with_reducible apply State.withPwr_kept
    | with_reducible apply State.moveCeiling_kept
    | with_reducible refine kept_fst ?_ (by with_reducible assumption)
    | split
    | dsimp only
    | fail_if_no_progress with_reducible apply kept_same

theorem State.writePerf_kept {s : State} (i mv : Nat) (hk : Kept Q s) : Kept Q (State.writePerf s i mv).1 := by
  unfold State.writePerf
  try dsimp only
  repeat' first
    | with_reducible assumption
    | with_reducible apply State.odSetN_kept
    | with_reducible refine kept_fst ?_ (by with_reducible assumption)
    | split
    | dsimp only
    | fail_if_no_progress with_reducible apply kept_same

theorem State.retain_kept {s : State} (q : Nat) (hk : Kept Q s) : Kept Q (State.retain s q) := by
  unfold State.retain
  try dsimp only
  repeat' first
    | with_reducible assumption
    | with_reducible apply State.updCore_kept
    | with_reducible apply State.updIsland_kept
    | with_reducible refine kept_fst ?_ (by with_reducible assumption)
    | with_reducible refine kept_foldl (fun _ _ _ => ?_) _ ?_
    | with_reducible refine kept_foldl_fst (fun _ _ _ => ?_) _ ?_
    | split
    | dsimp only
    | fail_if_no_progress with_reducible apply kept_same

theorem State.coolant_kept {s : State} (tin tout : Int) (hk : Kept Q s) : Kept Q (State.coolant s tin tout) := by
  unfold State.coolant
  try dsimp only
  repeat' first
    | with_reducible assumption
    | with_reducible apply State.withPwr_kept
    | with_reducible apply State.alert_kept
    | with_reducible apply State.raise_kept
    | with_reducible refine kept_fst ?_ (by with_reducible assumption)
    | split
    | dsimp only
    | fail_if_no_progress with_reducible apply kept_same

theorem State.inputRange_kept {s : State} (mv : Nat) (hk : Kept Q s) : Kept Q (State.inputRange s mv) := by
  unfold State.inputRange
  try dsimp only
  repeat' first
    | with_reducible assumption
    | with_reducible apply State.withPwr_kept
    | with_reducible apply State.alert_kept
    | with_reducible apply State.raise_kept
    | with_reducible refine kept_fst ?_ (by with_reducible assumption)
    | split
    | dsimp only
    | fail_if_no_progress with_reducible apply kept_same

theorem State.lowerIslands_kept {s : State} (hk : Kept Q s) : Kept Q (State.lowerIslands s) := by
  unfold State.lowerIslands
  try dsimp only
  repeat' first
    | with_reducible assumption
    | with_reducible refine kept_fst ?_ (by with_reducible assumption)
    | split
    | dsimp only
    | fail_if_no_progress with_reducible apply kept_same

theorem State.inputLoss_kept {s : State} (mv : Nat) (hk : Kept Q s) : Kept Q (State.inputLoss s mv) := by
  unfold State.inputLoss
  try dsimp only
  repeat' first
    | with_reducible assumption
    | with_reducible apply State.withPwr_kept
    | with_reducible apply State.alert_kept
    | with_reducible apply State.raise_kept
    | with_reducible apply State.loseMemory_kept
    | with_reducible apply State.darken_kept
    | with_reducible apply State.lowerIslands_kept
    | with_reducible refine kept_fst ?_ (by with_reducible assumption)
    | split
    | dsimp only
    | fail_if_no_progress with_reducible apply kept_same

theorem State.faultStage_kept {s : State} (g : Nat) (hk : Kept Q s) : Kept Q (State.faultStage s g) := by
  unfold State.faultStage
  try dsimp only
  repeat' first
    | with_reducible assumption
    | with_reducible apply State.updIsland_kept
    | with_reducible apply State.withPwr_kept
    | with_reducible apply State.alert_kept
    | with_reducible apply State.raise_kept
    | with_reducible apply State.loseMemory_kept
    | with_reducible refine kept_fst ?_ (by with_reducible assumption)
    | with_reducible refine kept_foldl (fun _ _ _ => ?_) _ ?_
    | with_reducible refine kept_foldl_fst (fun _ _ _ => ?_) _ ?_
    | split
    | dsimp only
    | fail_if_no_progress with_reducible apply kept_same

theorem State.clearAlerts_kept {s : State} (mask : Nat) (hk : Kept Q s) : Kept Q (State.clearAlerts s mask).1 := by
  unfold State.clearAlerts
  try dsimp only
  repeat' first
    | with_reducible assumption
    | with_reducible apply State.withPwr_kept
    | with_reducible apply State.alert_kept
    | with_reducible refine kept_fst ?_ (by with_reducible assumption)
    | with_reducible refine kept_foldl (fun _ _ _ => ?_) _ ?_
    | with_reducible refine kept_foldl_fst (fun _ _ _ => ?_) _ ?_
    | split
    | dsimp only
    | fail_if_no_progress with_reducible apply kept_same

theorem State.flushWay_kept {s : State} (d w : Nat) (hk : Kept Q s) : Kept Q (State.flushWay s d w) := by
  unfold State.flushWay
  try dsimp only
  repeat' first
    | with_reducible assumption
    | with_reducible apply State.evict_kept
    | with_reducible refine kept_fst ?_ (by with_reducible assumption)
    | with_reducible refine kept_foldl (fun _ _ _ => ?_) _ ?_
    | with_reducible refine kept_foldl_fst (fun _ _ _ => ?_) _ ?_
    | split
    | dsimp only
    | fail_if_no_progress with_reducible apply kept_same

theorem State.beginPass_kept {s : State} (u : TestUnit) (hk : Kept Q s) : Kept Q (State.beginPass s u) := by
  unfold State.beginPass
  try dsimp only
  repeat' first
    | with_reducible assumption
    | with_reducible apply State.withDiag_kept
    | with_reducible refine kept_fst ?_ (by with_reducible assumption)
    | exact ⟨rfl, rfl⟩
    | split
    | dsimp only
    | fail_if_no_progress with_reducible apply kept_same

theorem State.startSlice_kept {s : State} (u : TestUnit) (hk : Kept Q s) : Kept Q (State.startSlice s u) := by
  unfold State.startSlice
  try dsimp only
  repeat' first
    | with_reducible assumption
    | with_reducible apply State.updCore_kept
    | with_reducible apply State.withDiag_kept
    | with_reducible apply State.wake_kept
    | with_reducible apply State.flushWay_kept
    | with_reducible apply State.beginPass_kept
    | with_reducible refine kept_fst ?_ (by with_reducible assumption)
    | exact ⟨rfl, rfl⟩
    | split
    | dsimp only
    | fail_if_no_progress with_reducible apply kept_same

theorem State.fenceUnit_kept {s : State} (u : TestUnit) (addr d0 d1 : Nat) (hk : Kept Q s) : Kept Q (State.fenceUnit s u addr d0 d1) := by
  unfold State.fenceUnit
  try dsimp only
  repeat' first
    | with_reducible assumption
    | with_reducible apply State.updCore_kept
    | with_reducible apply State.withDiag_kept
    | with_reducible apply State.raise_kept
    | with_reducible apply State.addRepair_kept
    | with_reducible refine kept_fst ?_ (by with_reducible assumption)
    | exact ⟨rfl, rfl⟩
    | split
    | dsimp only
    | fail_if_no_progress with_reducible apply kept_same

theorem State.markCell_kept {s : State} (addr : Nat) (hk : Kept Q s) : Kept Q (State.markCell s addr) := by
  unfold State.markCell
  try dsimp only
  repeat' first
    | with_reducible assumption
    | with_reducible apply State.withDiag_kept
    | with_reducible refine kept_fst ?_ (by with_reducible assumption)
    | exact ⟨rfl, rfl⟩
    | split
    | dsimp only
    | fail_if_no_progress with_reducible apply kept_same

theorem State.sliceFailed_kept {s : State} (u : TestUnit) (kind : Nat) (correctable : Bool) (addr d0 d1 location : Nat) (hk : Kept Q s) : Kept Q (State.sliceFailed s u kind correctable addr d0 d1 location) := by
  unfold State.sliceFailed
  try dsimp only
  repeat' first
    | with_reducible assumption
    | with_reducible apply State.withDiag_kept
    | with_reducible apply State.raise_kept
    | with_reducible apply State.addRepair_kept
    | with_reducible apply State.fenceUnit_kept
    | with_reducible apply State.markCell_kept
    | with_reducible refine kept_fst ?_ (by with_reducible assumption)
    | exact ⟨rfl, rfl⟩
    | split
    | dsimp only
    | fail_if_no_progress with_reducible apply kept_same

theorem State.cover_kept {s : State} (u : TestUnit) (n : Nat) (hk : Kept Q s) : Kept Q (State.cover s u n) := by
  unfold State.cover
  try dsimp only
  repeat' first
    | with_reducible assumption
    | with_reducible apply State.withDiag_kept
    | with_reducible refine kept_fst ?_ (by with_reducible assumption)
    | exact ⟨rfl, rfl⟩
    | split
    | dsimp only
    | fail_if_no_progress with_reducible apply kept_same

theorem State.raiseOverdue_kept {s : State} (hk : Kept Q s) : Kept Q (State.raiseOverdue s) := by
  unfold State.raiseOverdue
  try dsimp only
  repeat' first
    | with_reducible assumption
    | with_reducible apply State.withDiag_kept
    | with_reducible apply State.raise_kept
    | with_reducible refine kept_fst ?_ (by with_reducible assumption)
    | with_reducible refine kept_foldl (fun _ _ _ => ?_) _ ?_
    | with_reducible refine kept_foldl_fst (fun _ _ _ => ?_) _ ?_
    | exact ⟨rfl, rfl⟩
    | split
    | dsimp only
    | fail_if_no_progress with_reducible apply kept_same

theorem State.leaveSlice_kept {s : State} (u : TestUnit) (hk : Kept Q s) : Kept Q (State.leaveSlice s u) := by
  unfold State.leaveSlice
  try dsimp only
  repeat' first
    | with_reducible assumption
    | with_reducible apply State.updCore_kept
    | with_reducible apply State.updLink_kept
    | with_reducible apply State.withDiag_kept
    | with_reducible refine kept_fst ?_ (by with_reducible assumption)
    | exact ⟨rfl, rfl⟩
    | split
    | dsimp only
    | fail_if_no_progress with_reducible apply kept_same

theorem State.sliceResult_kept {s : State} (u : TestUnit) (r : SliceResult) (h : Kept Q s) : Kept Q (s.sliceResult u r) := by
  unfold State.sliceResult
  split
  · exact State.cover_kept _ _ (State.flight_kept _ _ _ _ _ h)
  · exact State.cover_kept _ _ (State.flight_kept _ _ _ _ _ (State.sliceFailed_kept _ _ _ _ _ _ _ h))

theorem State.moveWindow_kept {s : State} (pc : Nat) (hk : Kept Q s) : Kept Q (State.moveWindow s pc) := by
  unfold State.moveWindow
  try dsimp only
  repeat' first
    | with_reducible assumption
    | with_reducible apply State.withDiag_kept
    | with_reducible apply State.beginPass_kept
    | with_reducible refine kept_fst ?_ (by with_reducible assumption)
    | exact ⟨rfl, rfl⟩
    | split
    | dsimp only
    | fail_if_no_progress with_reducible apply kept_same

theorem State.windowResult_kept {s : State} (pc : Nat) (r : SliceResult) (h : Kept Q s) : Kept Q (s.windowResult pc r) := by
  unfold State.windowResult
  dsimp only
  split
  · exact State.cover_kept _ _ (State.flight_kept _ _ _ _ _ h)
  · exact State.cover_kept _ _ (State.flight_kept _ _ _ _ _ (State.addRepair_kept _ _ _ (State.raise_kept _ h)))

theorem State.startLoopback_kept {s : State} (l : Nat) (u : TestUnit) (hk : Kept Q s) : Kept Q (State.startLoopback s l u) := by
  unfold State.startLoopback
  try dsimp only
  repeat' first
    | with_reducible assumption
    | with_reducible apply State.updLink_kept
    | with_reducible apply State.withDiag_kept
    | with_reducible refine kept_fst ?_ (by with_reducible assumption)
    | exact ⟨rfl, rfl⟩
    | split
    | dsimp only
    | fail_if_no_progress with_reducible apply kept_same

theorem State.updFw_kept {s : State} (t : Nat) (f : Firmware → Firmware) (hk : Kept Q s) : Kept Q (State.updFw s t f) := by
  unfold State.updFw
  try dsimp only
  repeat' first
    | with_reducible assumption
    | with_reducible apply State.withSec_kept
    | with_reducible refine kept_fst ?_ (by with_reducible assumption)
    | split
    | dsimp only
    | fail_if_no_progress with_reducible apply kept_same

theorem State.bootType_kept {s : State} (t : Nat) (hk : Kept Q s) : Kept Q (State.bootType s t) := by
  unfold State.bootType
  try dsimp only
  repeat' first
    | with_reducible assumption
    | with_reducible apply State.raise_kept
    | with_reducible apply State.updFw_kept
    | with_reducible refine kept_fst ?_ (by with_reducible assumption)
    | split
    | dsimp only
    | fail_if_no_progress with_reducible apply kept_same

theorem State.fwCommit_kept {s : State} (t : Nat) (hk : Kept Q s) : Kept Q (State.fwCommit s t).1 := by
  unfold State.fwCommit
  try dsimp only
  repeat' first
    | with_reducible assumption
    | with_reducible apply State.raise_kept
    | with_reducible apply State.updFw_kept
    | with_reducible refine kept_fst ?_ (by with_reducible assumption)
    | split
    | dsimp only
    | fail_if_no_progress with_reducible apply kept_same

theorem State.fwAdvance_kept {s : State} (t : Nat) (hk : Kept Q s) : Kept Q (State.fwAdvance s t).1 := by
  unfold State.fwAdvance
  try dsimp only
  repeat' first
    | with_reducible assumption
    | with_reducible apply State.updFw_kept
    | with_reducible refine kept_fst ?_ (by with_reducible assumption)
    | split
    | dsimp only
    | fail_if_no_progress with_reducible apply kept_same

theorem State.fwControl_kept {s : State} (t v : Nat) (hk : Kept Q s) : Kept Q (State.fwControl s t v).1 := by
  unfold State.fwControl
  try dsimp only
  repeat' first
    | with_reducible assumption
    | with_reducible apply State.fwCommit_kept
    | with_reducible apply State.fwAdvance_kept
    | with_reducible refine kept_fst ?_ (by with_reducible assumption)
    | split
    | dsimp only
    | fail_if_no_progress with_reducible apply kept_same

theorem State.fwBlob_kept {s : State} (t offset : Nat) (bs : List Byte) (hk : Kept Q s) : Kept Q (State.fwBlob s t offset bs) := by
  unfold State.fwBlob
  try dsimp only
  repeat' first
    | with_reducible assumption
    | with_reducible apply State.updFw_kept
    | with_reducible refine kept_fst ?_ (by with_reducible assumption)
    | split
    | dsimp only
    | fail_if_no_progress with_reducible apply kept_same

theorem State.submitToken_kept {s : State} (hk : Kept Q s) : Kept Q (State.submitToken s).1 := by
  unfold State.submitToken
  try dsimp only
  repeat' first
    | with_reducible assumption
    | with_reducible apply State.withSec_kept
    | with_reducible apply State.raise_kept
    | with_reducible refine kept_fst ?_ (by with_reducible assumption)
    | split
    | dsimp only
    | fail_if_no_progress with_reducible apply kept_same

theorem State.answerSpdm_kept {s : State} (tchioz secured : Bool) (msg : List Byte) (hk : Kept Q s) : Kept Q (State.answerSpdm s tchioz secured msg) := by
  unfold State.answerSpdm
  try dsimp only
  repeat' first
    | with_reducible assumption
    | with_reducible apply State.withSec_kept
    | with_reducible apply State.emit_kept
    | with_reducible apply State.withHost_kept
    | with_reducible apply State.msix_kept
    | with_reducible refine kept_fst ?_ (by with_reducible assumption)
    | exact ⟨rfl, rfl⟩
    | split
    | dsimp only
    | fail_if_no_progress with_reducible apply kept_same

theorem State.goStage_kept {s : State} (k : Nat) (hk : Kept Q s) : Kept Q (State.goStage s k) := by
  unfold State.goStage
  try dsimp only
  repeat' first
    | with_reducible assumption
    | with_reducible apply State.withPwr_kept
    | with_reducible apply State.flight_kept
    | with_reducible apply State.stage_kept
    | with_reducible refine kept_fst ?_ (by with_reducible assumption)
    | split
    | dsimp only
    | fail_if_no_progress with_reducible apply kept_same

theorem State.stopStart_kept {s : State} (hk : Kept Q s) : Kept Q (State.stopStart s) := by
  unfold State.stopStart
  try dsimp only
  repeat' first
    | with_reducible assumption
    | with_reducible apply State.goStage_kept
    | with_reducible refine kept_fst ?_ (by with_reducible assumption)
    | split
    | dsimp only
    | fail_if_no_progress with_reducible apply kept_same

theorem State.failBanks_kept {s : State} (hk : Kept Q s) : Kept Q (State.failBanks s) := by
  unfold State.failBanks
  try dsimp only
  repeat' first
    | with_reducible assumption
    | with_reducible apply State.addRepair_kept
    | with_reducible refine kept_fst ?_ (by with_reducible assumption)
    | with_reducible refine kept_foldl (fun _ _ _ => ?_) _ ?_
    | with_reducible refine kept_foldl_fst (fun _ _ _ => ?_) _ ?_
    | split
    | dsimp only
    | fail_if_no_progress with_reducible apply kept_same

theorem State.placeCores_kept {s : State} (h : Kept Q s) : Kept Q s.placeCores := by
  have hc := h.cores
  unfold State.placeCores
  exact kept_mk h rfl rfl (by rw [hc, List.length_map, List.length_range]) rfl rfl rfl ⟨rfl, rfl⟩ ⟨rfl, rfl⟩ ⟨rfl, rfl⟩

theorem State.powerIslands_kept {s : State} (hk : Kept Q s) : Kept Q (State.powerIslands s) := by
  unfold State.powerIslands
  try dsimp only
  repeat' first
    | with_reducible assumption
    | with_reducible refine kept_fst ?_ (by with_reducible assumption)
    | split
    | dsimp only
    | fail_if_no_progress with_reducible apply kept_same

theorem State.stageFive_kept {s : State} (r : StageResult) (hk : Kept Q s) : Kept Q (State.stageFive s r) := by
  unfold State.stageFive
  try dsimp only
  repeat' first
    | with_reducible assumption
    | with_reducible apply State.withPwr_kept
    | with_reducible apply State.raise_kept
    | with_reducible apply State.goStage_kept
    | with_reducible apply State.failBanks_kept
    | with_reducible apply State.placeCores_kept
    | with_reducible apply State.powerIslands_kept
    | with_reducible refine kept_fst ?_ (by with_reducible assumption)
    | split
    | dsimp only
    | fail_if_no_progress with_reducible apply kept_same

theorem State.reportShort_kept {s : State} (hk : Kept Q s) : Kept Q (State.reportShort s) := by
  unfold State.reportShort
  try dsimp only
  repeat' first
    | with_reducible assumption
    | with_reducible apply State.raise_kept
    | with_reducible refine kept_fst ?_ (by with_reducible assumption)
    | with_reducible refine kept_foldl (fun _ _ _ => ?_) _ ?_
    | with_reducible refine kept_foldl_fst (fun _ _ _ => ?_) _ ?_
    | split
    | dsimp only
    | fail_if_no_progress with_reducible apply kept_same

theorem State.startupFail_kept {s : State} (x : Nat) (hk : Kept Q s) : Kept Q (State.startupFail s x) := by
  unfold State.startupFail
  try dsimp only
  repeat' first
    | with_reducible assumption
    | with_reducible apply State.raise_kept
    | with_reducible apply State.addRepair_kept
    | with_reducible refine kept_fst ?_ (by with_reducible assumption)
    | split
    | dsimp only
    | fail_if_no_progress with_reducible apply kept_same

theorem State.stageSix_kept {s : State} (r : StageResult) (hk : Kept Q s) : Kept Q (State.stageSix s r) := by
  unfold State.stageSix
  try dsimp only
  repeat' first
    | with_reducible assumption
    | with_reducible apply State.raise_kept
    | with_reducible apply State.goStage_kept
    | with_reducible apply State.placeCores_kept
    | with_reducible apply State.reportShort_kept
    | with_reducible apply State.startupFail_kept
    | with_reducible refine kept_fst ?_ (by with_reducible assumption)
    | with_reducible refine kept_foldl (fun _ _ _ => ?_) _ ?_
    | with_reducible refine kept_foldl_fst (fun _ _ _ => ?_) _ ?_
    | split
    | dsimp only
    | fail_if_no_progress with_reducible apply kept_same

theorem State.reportMapout_kept {s : State} (hk : Kept Q s) : Kept Q (State.reportMapout s) := by
  unfold State.reportMapout
  try dsimp only
  repeat' first
    | with_reducible assumption
    | with_reducible apply State.raise_kept
    | with_reducible refine kept_fst ?_ (by with_reducible assumption)
    | with_reducible refine kept_foldl (fun _ _ _ => ?_) _ ?_
    | with_reducible refine kept_foldl_fst (fun _ _ _ => ?_) _ ?_
    | split
    | dsimp only
    | fail_if_no_progress with_reducible apply kept_same

theorem State.recoverAttic_kept {s : State} (r : StageResult) (hk : Kept Q s) : Kept Q (State.recoverAttic s r) := by
  unfold State.recoverAttic
  try dsimp only
  repeat' first
    | with_reducible assumption
    | with_reducible apply State.withTier_kept
    | with_reducible apply State.raise_kept
    | with_reducible refine kept_fst ?_ (by with_reducible assumption)
    | with_reducible refine kept_foldl (fun _ _ _ => ?_) _ ?_
    | with_reducible refine kept_foldl_fst (fun _ _ _ => ?_) _ ?_
    | split
    | dsimp only
    | fail_if_no_progress with_reducible apply kept_same

theorem State.mapWindows_kept {s : State} (hk : Kept Q s) : Kept Q (State.mapWindows s) := by
  unfold State.mapWindows
  try dsimp only
  repeat' first
    | with_reducible assumption
    | with_reducible apply State.withHost_kept
    | with_reducible apply State.raise_kept
    | with_reducible refine kept_fst ?_ (by with_reducible assumption)
    | exact ⟨rfl, rfl⟩
    | split
    | dsimp only
    | fail_if_no_progress with_reducible apply kept_same

theorem State.fixMaps_kept {s : State} (hk : Kept Q s) : Kept Q (State.fixMaps s) := by
  unfold State.fixMaps
  try dsimp only
  repeat' first
    | with_reducible assumption
    | with_reducible refine kept_fst ?_ (by with_reducible assumption)
    | split
    | dsimp only
    | fail_if_no_progress with_reducible apply kept_same

theorem State.stageSeven_kept {s : State} (r : StageResult) (hk : Kept Q s) : Kept Q (State.stageSeven s r) := by
  unfold State.stageSeven
  try dsimp only
  repeat' first
    | with_reducible assumption
    | with_reducible apply State.raise_kept
    | with_reducible apply State.addRepair_kept
    | with_reducible apply State.goStage_kept
    | with_reducible apply State.reportMapout_kept
    | with_reducible apply State.recoverAttic_kept
    | with_reducible apply State.fixMaps_kept
    | with_reducible refine kept_fst ?_ (by with_reducible assumption)
    | with_reducible refine kept_foldl (fun _ _ _ => ?_) _ ?_
    | with_reducible refine kept_foldl_fst (fun _ _ _ => ?_) _ ?_
    | split
    | dsimp only
    | fail_if_no_progress with_reducible apply kept_same

theorem State.stageDone_kept {s : State} (r : StageResult) (hk : Kept Q s) : Kept Q (State.stageDone s r) := by
  unfold State.stageDone
  try dsimp only
  repeat' first
    | with_reducible assumption
    | with_reducible apply State.updIsland_kept
    | with_reducible apply State.msix_kept
    | with_reducible apply State.raise_kept
    | with_reducible apply State.stage_kept
    | with_reducible apply State.bootType_kept
    | with_reducible apply State.goStage_kept
    | with_reducible apply State.stageFive_kept
    | with_reducible apply State.stageSix_kept
    | with_reducible apply State.mapWindows_kept
    | with_reducible apply State.stageSeven_kept
    | with_reducible refine kept_fst ?_ (by with_reducible assumption)
    | with_reducible refine kept_foldl (fun _ _ _ => ?_) _ ?_
    | with_reducible refine kept_foldl_fst (fun _ _ _ => ?_) _ ?_
    | split
    | dsimp only
    | fail_if_no_progress with_reducible apply kept_same

theorem State.restarted_kept {s : State} (cause : Nat) (hk : Kept Q s) : Kept Q (State.restarted s cause) := by
  unfold State.restarted
  try dsimp only
  repeat' first
    | with_reducible assumption
    | with_reducible apply State.flight_kept
    | with_reducible apply State.stage_kept
    | with_reducible apply State.restart_kept
    | with_reducible refine kept_fst ?_ (by with_reducible assumption)
    | split
    | dsimp only
    | fail_if_no_progress with_reducible apply kept_same

theorem State.deliver_kept {s : State} (b key v : Nat) (hk : Kept Q s) : Kept Q (State.deliver s b key v) := by
  unfold State.deliver
  try dsimp only
  repeat' first
    | with_reducible assumption
    | with_reducible apply State.withDiag_kept
    | with_reducible refine kept_fst ?_ (by with_reducible assumption)
    | exact ⟨rfl, rfl⟩
    | split
    | dsimp only
    | fail_if_no_progress with_reducible apply kept_same

theorem State.odRead_kept {s : State} (ix sub : Nat) (hk : Kept Q s) : Kept Q (State.odRead s ix sub).1 := by
  unfold State.odRead
  try dsimp only
  repeat' first
    | with_reducible assumption
    | with_reducible apply State.odSetN_kept
    | with_reducible apply State.withDiag_kept
    | with_reducible apply State.deliver_kept
    | with_reducible refine kept_fst ?_ (by with_reducible assumption)
    | exact ⟨rfl, rfl⟩
    | split
    | dsimp only
    | fail_if_no_progress with_reducible apply kept_same

theorem State.controlWrite_kept {s : State} (ix sub v : Nat) (h : Kept Q s) {t : State × Nat} (ht : s.controlWrite ix sub v = some t) : Kept Q t.1 := by
  revert ht
  unfold State.controlWrite
  refine opt_ite (P := fun t : State × Nat => Kept Q t.1) (State.partControl_kept _ _ h) ?_
  refine opt_ite (P := fun t : State × Nat => Kept Q t.1) (State.ctxControl_kept _ _ h) ?_
  refine opt_ite (P := fun t : State × Nat => Kept Q t.1) (State.clearKeep_kept _ h) ?_
  refine opt_ite (P := fun t : State × Nat => Kept Q t.1) (State.clearBoard_kept _ h) ?_
  refine opt_ite (P := fun t : State × Nat => Kept Q t.1) (State.arbCommit_kept _ h) ?_
  refine opt_ite (P := fun t : State × Nat => Kept Q t.1) (State.linkControl_kept _ _ h) ?_
  refine opt_ite (P := fun t : State × Nat => Kept Q t.1) (State.heldRelease_kept _ h) ?_
  refine opt_ite (P := fun t : State × Nat => Kept Q t.1) (State.routeCommit_kept _ h) ?_
  refine opt_ite (P := fun t : State × Nat => Kept Q t.1) (State.setRoot_kept _ h) ?_
  refine opt_ite (P := fun t : State × Nat => Kept Q t.1) (State.restarted_kept _ h) ?_
  refine opt_ite (P := fun t : State × Nat => Kept Q t.1) (State.fwControl_kept _ _ h) ?_
  refine opt_ite (P := fun t : State × Nat => Kept Q t.1) (State.submitToken_kept h) ?_
  refine opt_ite (P := fun t : State × Nat => Kept Q t.1) (State.clearAlerts_kept _ h) ?_
  refine opt_ite (P := fun t : State × Nat => Kept Q t.1) (State.writePerf_kept _ _ h) ?_
  nofun

theorem State.changeQuarters_kept {s : State} (p v : Nat) (hk : Kept Q s) : Kept Q (State.changeQuarters s p v) := by
  unfold State.changeQuarters
  try dsimp only
  repeat' first
    | with_reducible assumption
    | with_reducible apply State.updPart_kept
    | with_reducible apply Run.stopped_kept
    | with_reducible apply State.leaveQuarters_kept
    | with_reducible refine kept_fst ?_ (by with_reducible assumption)
    | with_reducible refine kept_foldl (fun _ _ _ => ?_) _ ?_
    | with_reducible refine kept_foldl_fst (fun _ _ _ => ?_) _ ?_
    | split
    | dsimp only
    | fail_if_no_progress with_reducible apply kept_same

theorem State.beforeWrite_kept {s : State} (ix sub v : Nat) (hk : Kept Q s) : Kept Q (State.beforeWrite s ix sub v) := by
  unfold State.beforeWrite
  try dsimp only
  repeat' first
    | with_reducible assumption
    | with_reducible apply State.updGroup_kept
    | with_reducible apply State.changeQuarters_kept
    | with_reducible refine kept_fst ?_ (by with_reducible assumption)
    | split
    | dsimp only
    | fail_if_no_progress with_reducible apply kept_same

theorem State.setEntry_kept {s : State} (r : OdRow) (ix sub v : Nat) (hk : Kept Q s) : Kept Q (State.setEntry s r ix sub v) := by
  unfold State.setEntry
  try dsimp only
  repeat' first
    | with_reducible assumption
    | with_reducible apply State.odSet_kept
    | with_reducible apply State.nvSet_kept
    | with_reducible apply State.beforeWrite_kept
    | with_reducible refine kept_fst ?_ (by with_reducible assumption)
    | split
    | dsimp only
    | fail_if_no_progress with_reducible apply kept_same

theorem State.commitEntry_kept {s : State} (r : OdRow) (ix sub v : Nat) (hk : Kept Q s) : Kept Q (State.commitEntry s r ix sub v).1 := by
  unfold State.commitEntry
  try dsimp only
  repeat' first
    | with_reducible assumption
    | with_reducible apply State.raise_kept
    | with_reducible apply State.setEntry_kept
    | with_reducible refine kept_fst ?_ (by with_reducible assumption)
    | split
    | dsimp only
    | fail_if_no_progress with_reducible apply kept_same

theorem State.odWrite_kept {s : State} (ix sub v : Nat) (h : Kept Q s) : Kept Q (s.odWrite ix sub v).1 := by
  unfold State.odWrite
  split
  · exact h
  · split
    · exact h
    · split
      · exact h
      · split
        · exact State.controlWrite_kept _ _ _ h ‹_›
        · split
          · exact h
          · split
            · exact h
            · exact State.commitEntry_kept _ _ _ _ h

theorem State.odWriteNoted_kept {s : State} (ix sub v : Nat) (hk : Kept Q s) : Kept Q (State.odWriteNoted s ix sub v).1 := by
  unfold State.odWriteNoted
  try dsimp only
  repeat' first
    | with_reducible assumption
    | with_reducible apply State.noteWrite_kept
    | with_reducible apply State.odWrite_kept
    | with_reducible refine kept_fst ?_ (by with_reducible assumption)
    | split
    | dsimp only
    | fail_if_no_progress with_reducible apply kept_same

theorem State.serveRead_kept {s : State} (bs : List Byte) (hk : Kept Q s) : Kept Q (State.serveRead s bs).1 := by
  unfold State.serveRead
  try dsimp only
  repeat' first
    | with_reducible assumption
    | with_reducible apply State.odRead_kept
    | with_reducible refine kept_fst ?_ (by with_reducible assumption)
    | with_reducible refine kept_foldl (fun _ _ _ => ?_) _ ?_
    | with_reducible refine kept_foldl_fst (fun _ _ _ => ?_) _ ?_
    | split
    | dsimp only
    | fail_if_no_progress with_reducible apply kept_same

theorem State.serveWrite_kept {s : State} (bs : List Byte) (hk : Kept Q s) : Kept Q (State.serveWrite s bs).1 := by
  unfold State.serveWrite
  try dsimp only
  repeat' first
    | with_reducible assumption
    | with_reducible apply State.odWriteNoted_kept
    | with_reducible refine kept_fst ?_ (by with_reducible assumption)
    | with_reducible refine kept_foldl (fun _ _ _ => ?_) _ ?_
    | with_reducible refine kept_foldl_fst (fun _ _ _ => ?_) _ ?_
    | split
    | dsimp only
    | fail_if_no_progress with_reducible apply kept_same

theorem State.putBlob_kept {s : State} (target off : Nat) (d : List Byte) (hk : Kept Q s) : Kept Q (State.putBlob s target off d).1 := by
  unfold State.putBlob
  try dsimp only
  repeat' first
    | with_reducible assumption
    | with_reducible apply State.withSec_kept
    | with_reducible apply State.off_kept
    | with_reducible apply State.fwBlob_kept
    | with_reducible refine kept_fst ?_ (by with_reducible assumption)
    | split
    | dsimp only
    | fail_if_no_progress with_reducible apply kept_same

theorem State.serveBlob_kept {s : State} (bs : List Byte) (hk : Kept Q s) : Kept Q (State.serveBlob s bs).1 := by
  unfold State.serveBlob
  try dsimp only
  repeat' first
    | with_reducible assumption
    | with_reducible apply State.putBlob_kept
    | with_reducible refine kept_fst ?_ (by with_reducible assumption)
    | split
    | dsimp only
    | fail_if_no_progress with_reducible apply kept_same

theorem State.serveDump_kept {s : State} (bs : List Byte) (hk : Kept Q s) : Kept Q (State.serveDump s bs).1 := by
  unfold State.serveDump
  try dsimp only
  repeat' first
    | with_reducible assumption
    | with_reducible apply State.withDiag_kept
    | with_reducible refine kept_fst ?_ (by with_reducible assumption)
    | exact ⟨rfl, rfl⟩
    | split
    | dsimp only
    | fail_if_no_progress with_reducible apply kept_same

theorem State.serveType_kept {s : State} (typ : Nat) (bs : List Byte) (hk : Kept Q s) : Kept Q (State.serveType s typ bs).1 := by
  unfold State.serveType
  try dsimp only
  repeat' first
    | with_reducible assumption
    | with_reducible apply State.serveRead_kept
    | with_reducible apply State.serveWrite_kept
    | with_reducible apply State.serveBlob_kept
    | with_reducible apply State.serveDump_kept
    | with_reducible refine kept_fst ?_ (by with_reducible assumption)
    | split
    | dsimp only
    | fail_if_no_progress with_reducible apply kept_same

theorem State.tchioz_kept {s : State} (typ : Nat) (m : MgmtMsg) {f : State → State} (hf : ∀ t, Kept Q t → Kept Q (f t)) (h : Kept Q s) : Kept Q (s.tchioz typ m f) := by
  unfold State.tchioz
  split
  · exact h
  · split
    · exact State.odInc_kept _ _ h
    · split
      · exact State.sendMgmt_kept _ _ _ h
      · split
        · exact h
        · split
          · exact State.sendMgmt_kept _ _ _ h
          · exact hf _ h
-- use: refine State.tchioz_kept _ _ (fun _ _ => ?_) ?_

theorem State.reply_kept {s : State} (typ seq : Nat) (r : Nat × List Byte) (h : Kept Q s) : Kept Q (s.reply typ seq r) := by
  have h1 : Kept Q (s.sendMgmt r.1 seq r.2) := State.sendMgmt_kept _ _ _ h
  unfold State.reply
  dsimp only
  split
  · exact h1
  · exact kept_mgmt h1 h1.events (List.length_take_le _ _)

theorem State.tchiozRequest_kept {s : State} (typ : Nat) (m : MgmtMsg) (hk : Kept Q s) : Kept Q (State.tchiozRequest s typ m) := by
  unfold State.tchiozRequest
  try dsimp only
  repeat' first
    | with_reducible assumption
    | with_reducible apply State.emit_kept
    | with_reducible apply State.serveType_kept
    | with_reducible refine State.tchioz_kept _ _ (fun _ _ => ?_) ?_
    | with_reducible apply State.reply_kept
    | with_reducible refine kept_fst ?_ (by with_reducible assumption)
    | split
    | dsimp only
    | fail_if_no_progress with_reducible apply kept_same

theorem State.mailboxReply_kept {s : State} (seq : Nat) (r : Nat × List Byte) (hk : Kept Q s) : Kept Q (State.mailboxReply s seq r) := by
  unfold State.mailboxReply
  try dsimp only
  repeat' first
    | with_reducible assumption
    | with_reducible apply State.withMgmt_kept
    | with_reducible apply State.msix_kept
    | with_reducible apply Gemm.go_kept
    | with_reducible apply State.reply_kept
    | with_reducible refine kept_fst ?_ (by with_reducible assumption)
    | exact ⟨rfl, rfl⟩
    | split
    | dsimp only
    | fail_if_no_progress with_reducible apply kept_same

theorem State.mailboxRequest_kept {s : State} (typ : Nat) (m : MgmtMsg) (hk : Kept Q s) : Kept Q (State.mailboxRequest s typ m) := by
  unfold State.mailboxRequest
  try dsimp only
  repeat' first
    | with_reducible assumption
    | with_reducible apply State.serveType_kept
    | with_reducible apply State.mailboxReply_kept
    | with_reducible refine kept_fst ?_ (by with_reducible assumption)
    | split
    | dsimp only
    | fail_if_no_progress with_reducible apply kept_same

theorem State.request_kept {s : State} (typ : Nat) (m : MgmtMsg) (hk : Kept Q s) : Kept Q (State.request s typ m) := by
  unfold State.request
  try dsimp only
  repeat' first
    | with_reducible assumption
    | with_reducible apply State.tchiozRequest_kept
    | with_reducible apply State.mailboxRequest_kept
    | with_reducible refine kept_fst ?_ (by with_reducible assumption)
    | split
    | dsimp only
    | fail_if_no_progress with_reducible apply kept_same

theorem State.fillRequest_kept {s : State} (bytes : List Byte) (hk : Kept Q s) : Kept Q (State.fillRequest s bytes) := by
  unfold State.fillRequest
  try dsimp only
  repeat' first
    | with_reducible assumption
    | with_reducible apply State.withMgmt_kept
    | with_reducible apply State.request_kept
    | with_reducible refine kept_fst ?_ (by with_reducible assumption)
    | exact ⟨rfl, rfl⟩
    | split
    | dsimp only
    | fail_if_no_progress with_reducible apply kept_same

theorem State.clearDone_kept {s : State} (v : Nat) (hk : Kept Q s) : Kept Q (State.clearDone s v) := by
  unfold State.clearDone
  try dsimp only
  repeat' first
    | with_reducible assumption
    | with_reducible apply State.withMgmt_kept
    | with_reducible refine kept_fst ?_ (by with_reducible assumption)
    | exact ⟨rfl, rfl⟩
    | split
    | dsimp only
    | fail_if_no_progress with_reducible apply kept_same

theorem State.notice_kept {s : State} (typ : Nat) (m : MgmtMsg) {f : State → State} (hf : ∀ t, Kept Q t → Kept Q (f t)) (h : Kept Q s) : Kept Q (s.notice typ m f) := by
  unfold State.notice
  split
  · exact State.mailboxRequest_kept _ _ h
  · exact State.tchioz_kept _ _ hf h
-- use: refine State.notice_kept _ _ (fun _ _ => ?_) ?_

theorem State.badPayload_kept {s : State} (m : MgmtMsg) (hk : Kept Q s) : Kept Q (State.badPayload s m) := by
  unfold State.badPayload
  try dsimp only
  repeat' first
    | with_reducible assumption
    | with_reducible apply State.sendMgmt_kept
    | with_reducible refine kept_fst ?_ (by with_reducible assumption)
    | split
    | dsimp only
    | fail_if_no_progress with_reducible apply kept_same

theorem State.sendAssignAck_kept {s : State} (m : MgmtMsg) (hk : Kept Q s) : Kept Q (State.sendAssignAck s m) := by
  unfold State.sendAssignAck
  try dsimp only
  repeat' first
    | with_reducible assumption
    | with_reducible apply State.sendMgmt_kept
    | with_reducible apply State.stage_kept
    | with_reducible refine kept_fst ?_ (by with_reducible assumption)
    | split
    | dsimp only
    | fail_if_no_progress with_reducible apply kept_same

theorem State.takeAssign_kept {s : State} (m : MgmtMsg) (hk : Kept Q s) : Kept Q (State.takeAssign s m) := by
  unfold State.takeAssign
  try dsimp only
  repeat' first
    | with_reducible assumption
    | with_reducible apply State.withMgmt_kept
    | with_reducible apply State.badPayload_kept
    | with_reducible apply State.sendAssignAck_kept
    | with_reducible refine kept_fst ?_ (by with_reducible assumption)
    | exact ⟨rfl, rfl⟩
    | split
    | dsimp only
    | fail_if_no_progress with_reducible apply kept_same

theorem State.takeConfirm_kept {s : State} (m : MgmtMsg) (hk : Kept Q s) : Kept Q (State.takeConfirm s m) := by
  unfold State.takeConfirm
  try dsimp only
  repeat' first
    | with_reducible assumption
    | with_reducible apply State.withMgmt_kept
    | with_reducible apply State.badPayload_kept
    | with_reducible refine kept_fst ?_ (by with_reducible assumption)
    | exact ⟨rfl, rfl⟩
    | split
    | dsimp only
    | fail_if_no_progress with_reducible apply kept_same

theorem State.takeRelease_kept {s : State} (m : MgmtMsg) (hk : Kept Q s) : Kept Q (State.takeRelease s m) := by
  unfold State.takeRelease
  try dsimp only
  repeat' first
    | with_reducible assumption
    | with_reducible apply State.withMgmt_kept
    | with_reducible apply State.badPayload_kept
    | with_reducible refine kept_fst ?_ (by with_reducible assumption)
    | exact ⟨rfl, rfl⟩
    | split
    | dsimp only
    | fail_if_no_progress with_reducible apply kept_same

theorem State.conflict_kept {s : State} (mac src : Nat) (hk : Kept Q s) : Kept Q (State.conflict s mac src) := by
  unfold State.conflict
  try dsimp only
  repeat' first
    | with_reducible assumption
    | with_reducible apply State.raise_kept
    | with_reducible refine kept_fst ?_ (by with_reducible assumption)
    | split
    | dsimp only
    | fail_if_no_progress with_reducible apply kept_same

theorem State.sendPending_kept {s : State} (hk : Kept Q s) : Kept Q (State.sendPending s) := by
  unfold State.sendPending
  try dsimp only
  repeat' first
    | with_reducible assumption
    | with_reducible apply State.emit_kept
    | with_reducible apply State.withHost_kept
    | with_reducible apply State.msix_kept
    | with_reducible apply Gemm.go_kept
    | with_reducible refine kept_fst ?_ (by with_reducible assumption)
    | with_reducible refine kept_foldl (fun _ _ _ => ?_) _ ?_
    | with_reducible refine kept_foldl_fst (fun _ _ _ => ?_) _ ?_
    | exact ⟨rfl, rfl⟩
    | split
    | dsimp only
    | fail_if_no_progress with_reducible apply kept_same

theorem State.maskVector_kept {s : State} (v : Nat) (masked : Bool) (hk : Kept Q s) : Kept Q (State.maskVector s v masked) := by
  unfold State.maskVector
  try dsimp only
  repeat' first
    | with_reducible assumption
    | with_reducible apply State.withHost_kept
    | with_reducible apply State.sendPending_kept
    | with_reducible refine kept_fst ?_ (by with_reducible assumption)
    | exact ⟨rfl, rfl⟩
    | split
    | dsimp only
    | fail_if_no_progress with_reducible apply kept_same

theorem State.trainCxl_kept {s : State} (k : Nat) (hk : Kept Q s) : Kept Q (State.trainCxl s k) := by
  unfold State.trainCxl
  try dsimp only
  repeat' first
    | with_reducible assumption
    | with_reducible apply State.withHost_kept
    | with_reducible apply State.msix_kept
    | with_reducible apply State.raise_kept
    | with_reducible apply State.sendPending_kept
    | with_reducible refine kept_fst ?_ (by with_reducible assumption)
    | exact ⟨rfl, rfl⟩
    | split
    | dsimp only
    | fail_if_no_progress with_reducible apply kept_same

theorem State.haltHostRings_kept {s : State} (hk : Kept Q s) : Kept Q (State.haltHostRings s) := by
  unfold State.haltHostRings
  try dsimp only
  repeat' first
    | with_reducible assumption
    | with_reducible apply State.setCond_kept
    | with_reducible refine kept_fst ?_ (by with_reducible assumption)
    | with_reducible refine kept_foldl (fun _ _ _ => ?_) _ ?_
    | with_reducible refine kept_foldl_fst (fun _ _ _ => ?_) _ ?_
    | split
    | dsimp only
    | fail_if_no_progress with_reducible apply kept_same

theorem State.loseHost_kept {s : State} (h : Kept Q s) : Kept Q s.loseHost :=
  State.raise_kept _ (State.haltHostRings_kept (State.withHost_bound h (Nat.zero_le _) (Nat.zero_le _)))

theorem State.hostDown_kept {s : State} (hk : Kept Q s) : Kept Q (State.hostDown s) := by
  unfold State.hostDown
  try dsimp only
  repeat' first
    | with_reducible assumption
    | with_reducible apply State.withHost_kept
    | with_reducible apply State.loseHost_kept
    | with_reducible refine kept_fst ?_ (by with_reducible assumption)
    | exact ⟨rfl, rfl⟩
    | split
    | dsimp only
    | fail_if_no_progress with_reducible apply kept_same

theorem State.failIde_kept {s : State} (hk : Kept Q s) : Kept Q (State.failIde s) := by
  unfold State.failIde
  try dsimp only
  repeat' first
    | with_reducible assumption
    | with_reducible apply State.withHost_kept
    | with_reducible apply State.msix_kept
    | with_reducible apply State.raise_kept
    | with_reducible apply State.loseHost_kept
    | with_reducible refine kept_fst ?_ (by with_reducible assumption)
    | exact ⟨rfl, rfl⟩
    | split
    | dsimp only
    | fail_if_no_progress with_reducible apply kept_same

theorem State.emptyFilter_kept {s : State} (h : Kept Q s) : Kept Q s.emptyFilter := by
  have h1 : Kept Q (s.host.snoop.foldl (fun (t : State) l => t.emit (.snoop l true)) s) := kept_foldl (fun _ _ h => State.emit_kept _ h) _ h
  exact State.withHost_bound h1 h1.cache (Nat.zero_le _)

theorem State.recordLine_kept {s : State} (l : Nat) (h : Kept Q s) : Kept Q (s.recordLine l) := by
  have hs := h.snoop
  unfold State.recordLine
  split
  · exact h
  · split
    · rename_i x r hx
      rw [hx] at hs
      split
      · exact State.withHost_bound (State.emit_kept _ h) (State.emit_kept (.snoop x true) h).cache (by simpa using hs)
      · refine State.withHost_bound h h.cache ?_
        simp only [List.length_append, List.length_cons, List.length_nil]
        omega
    · exact State.withHost_bound h h.cache (by simp)

theorem State.poisoned_kept {s : State} (a : Nat) (hk : Kept Q s) : Kept Q (State.poisoned s a) := by
  unfold State.poisoned
  try dsimp only
  repeat' first
    | with_reducible assumption
    | with_reducible apply State.odInc_kept
    | with_reducible apply State.recordLimited_kept
    | with_reducible apply State.countUncorrectable_kept
    | with_reducible apply State.stopOwed_kept
    | with_reducible refine kept_fst ?_ (by with_reducible assumption)
    | split
    | dsimp only
    | fail_if_no_progress with_reducible apply kept_same

theorem State.readWindow_kept {s : State} (dpa a : Nat) (h : Kept Q s) : Kept Q (s.readWindow dpa a) := by
  unfold State.readWindow
  dsimp only
  have h0 : Kept Q (s.withHost fun x => { x with snoop := x.snoop.filter (· != a / 64) }) := State.withHost_bound h h.cache ((List.length_filter_le _ _).trans h.snoop)
  have h1 := kept_foldl (f := fun (t : State) x => t.touch { part := s.winPart } 1 x 32) (fun _ _ h => State.touch_kept _ _ _ _ h) ((sectorsOf a 64).filter fun x => !((s.badIn a).contains x)) h0
  refine State.emit_kept _ ?_
  repeat' first
    | exact h1
    | with_reducible apply State.poisoned_kept
    | with_reducible apply State.recordLine_kept
    | exact State.withHost_bound h1 h1.cache h.snoop
    | split

theorem State.writeSectorBytes_kept {s : State} (a : Nat) (b : List (Option Byte)) (h : Kept Q s) : Kept Q (s.writeSectorBytes a b) := by
  unfold State.writeSectorBytes
  dsimp only
  split
  · exact h
  · split
    · exact State.poisoned_kept _ h
    · have h1 := State.passWrite_kept { part := s.winPart } 1 a (b.filter Option.isSome).length [a] (fun _ => b.length == 32 && b.all Option.isSome) (State.backInvalidate_kept true a 32 h)
      split
      · have h2 := State.healed_kept a 32 h1
        exact kept_mem h2 (memWf_putSome _ _ h2.mem)
      · exact kept_mem h1 (memWf_putSome _ _ h1.mem)

theorem State.writeWindow_kept {s : State} (a : Nat) (b : List (Option Byte)) (h : Kept Q s) : Kept Q (s.writeWindow a b) := by
  have h0 : Kept Q (s.withHost fun x => { x with snoop := x.snoop.filter (· != a / 64) }) := State.withHost_bound h h.cache ((List.length_filter_le _ _).trans h.snoop)
  exact State.recordLine_kept _ (State.writeSectorBytes_kept _ _ (State.writeSectorBytes_kept _ _ h0))

theorem State.failBy_kept {s : State} (by_ : Consumer) (closed : Nat) (code : Code) (addr : Nat) (h : Kept Q s) {t : State} (ht : s.failBy by_ closed code addr = some t) : Kept Q t := by
  revert ht
  unfold State.failBy
  dsimp only
  split
  · split
    · rintro ⟨⟩
    · split
      · rintro ⟨⟩
      · split
        · rintro ⟨⟩
        · rename_i hr
          split
          · rintro ⟨⟩
          · rintro ⟨⟩
            exact State.endCore_kept _ _ _ (timedRow_kept hr _ _ _ h)
  · split
    · rintro ⟨⟩
    · split
      · rintro ⟨⟩
      · rintro ⟨⟩
        exact State.endHub_kept _ _ (tierRun_kept _ _ _ h)
  · split
    · rintro ⟨⟩
    · split
      · rintro ⟨⟩
      · rintro ⟨⟩
        refine State.runUpdate_kept _ _ (fun _ _ _ h => ?_) h
        split
        · exact State.normPart_kept _ _ _ _ h
        · exact State.apply_kept _ _ _ _ h
        · exact State.endUpdate_kept _ _ _ h
  · rintro hx
    obtain ⟨x, _, rfl⟩ := Option.map_eq_some_iff.1 hx
    exact State.closeColl_kept _ _ h
  · cases s.mediaNext _ _ with
    | none => rintro ⟨⟩
    | some x =>
      rintro ⟨⟩
      exact State.endMedia_kept _ _ h

theorem State.killLine_kept {s : State} (addr : Nat) (hk : Kept Q s) : Kept Q (State.killLine s addr) := by
  unfold State.killLine
  try dsimp only
  repeat' first
    | with_reducible assumption
    | with_reducible apply State.withHost_kept
    | with_reducible refine kept_fst ?_ (by with_reducible assumption)
    | exact ⟨rfl, rfl⟩
    | split
    | dsimp only
    | fail_if_no_progress with_reducible apply kept_same

theorem State.failOwn_kept {s : State} (by_ : Consumer) (addr : Nat) (h : Kept Q s) {t : State} (ht : s.failOwn by_ addr = some t) : Kept Q t := by
  unfold State.failOwn at ht
  split at ht
  · split at ht
    · cases ht
      exact State.queueFault_kept _ _ _ h
    · split at ht
      · cases ht
        exact State.killLine_kept _ h
      · cases ht
  · obtain ⟨x, _, rfl⟩ := Option.map_eq_some_iff.1 ht
    exact State.resolve_kept _ _ _ _ h
  all_goals cases ht
-- use: refine State.failOwn_kept _ _ ?_ (by with_reducible assumption)

theorem State.snoopCache_kept {s : State} (line : Nat) (inv : Bool) (h : Kept Q s) : Kept Q (s.snoopCache line inv) := by
  refine State.withHost_bound h ?_ h.snoop
  dsimp only
  split
  · exact (List.length_filter_le _ _).trans h.cache
  · rw [List.length_map]
    exact h.cache

end Sys2Proof.Machine
end

