-- ==== Sys2Proof/Laws/KeepRows.lean ====
section
/-! SUPPORT. What is kept by every command but those that step fabric time, when it answers a next state. -/
set_option linter.unusedTactic false
set_option linter.unreachableTactic false
set_option linter.unusedVariables false

namespace Sys2Proof.Machine

variable {Q : List Instr}

/-- A command that answers a state which keeps. -/
theorem next_kept {u t : State} (h : Kept Q u) : (Host.Outcome.next u : Host.Outcome State Fault Refusal) = .next t → Kept Q t := by
  rintro ⟨⟩
  exact h

/-- An operation that may answer none. -/
theorem getD_kept {o : Option State} {u : State} (ho : ∀ t, o = some t → Kept Q t) (h : Kept Q u) : Kept Q (o.getD u) := by
  cases o with
  | none => exact h
  | some t => exact ho t rfl

/-- A control write that was answered. -/
theorem answered_kept {u : State} (ix sub old new : Nat) {r : State × Nat} (h : Kept Q r.1) : answered ix sub old new r = .next u → Kept Q u := by
  refine next_kept ?_
  exact State.emit_kept _ (State.noteWrite_kept _ _ _ _ h)

theorem execDoorbellSqTail_kept (cc v : Nat) {s : State} (hk : Kept Q s) {z : State} (hz : execDoorbellSqTail cc v s = .next z) : Kept Q z := by
  revert hz
  unfold execDoorbellSqTail
  try dsimp only
  try with_reducible refine next_kept ?_
  try dsimp only
  repeat' first
    | with_reducible assumption
    | with_reducible apply State.ringSqTail_kept
    | with_reducible refine kept_fst ?_ (by with_reducible assumption)
    | split
    | dsimp only
    | fail_if_no_progress with_reducible apply kept_same
    | with_reducible refine answered_kept _ _ _ _ ?_
    | with_reducible refine next_kept ?_
    | intro _

theorem execDoorbellCqHead_kept (cc v : Nat) {s : State} (hk : Kept Q s) {z : State} (hz : execDoorbellCqHead cc v s = .next z) : Kept Q z := by
  revert hz
  unfold execDoorbellCqHead
  try dsimp only
  try with_reducible refine next_kept ?_
  try dsimp only
  repeat' first
    | with_reducible assumption
    | with_reducible apply State.ringCqHead_kept
    | with_reducible refine kept_fst ?_ (by with_reducible assumption)
    | split
    | dsimp only
    | fail_if_no_progress with_reducible apply kept_same
    | with_reducible refine answered_kept _ _ _ _ ?_
    | with_reducible refine next_kept ?_
    | intro _

theorem execCommandFetch_kept (cc : Nat) {s : State} (hk : Kept Q s) {z : State} (hz : execCommandFetch cc s = .next z) : Kept Q z := by
  revert hz
  unfold execCommandFetch
  try dsimp only
  try with_reducible refine next_kept ?_
  try dsimp only
  repeat' first
    | with_reducible assumption
    | with_reducible apply State.fetchOne_kept
    | with_reducible refine kept_fst ?_ (by with_reducible assumption)
    | split
    | dsimp only
    | fail_if_no_progress with_reducible apply kept_same
    | with_reducible refine answered_kept _ _ _ _ ?_
    | with_reducible refine next_kept ?_
    | intro _

theorem execCommandDispatch_kept (cc : Nat) {s : State} (hk : Kept Q s) {z : State} (hz : execCommandDispatch cc s = .next z) : Kept Q z := by
  revert hz
  unfold execCommandDispatch
  try dsimp only
  try with_reducible refine next_kept ?_
  try dsimp only
  repeat' first
    | with_reducible assumption
    | with_reducible apply State.holdBack_kept
    | with_reducible apply State.accept_kept
    | with_reducible apply State.rejectFetched_kept
    | with_reducible refine kept_fst ?_ (by with_reducible assumption)
    | split
    | dsimp only
    | fail_if_no_progress with_reducible apply kept_same
    | with_reducible refine answered_kept _ _ _ _ ?_
    | with_reducible refine next_kept ?_
    | intro _

theorem execInterruptHoldoffEnd_kept (cc : Nat) {s : State} (hk : Kept Q s) {z : State} (hz : execInterruptHoldoffEnd cc s = .next z) : Kept Q z := by
  revert hz
  unfold execInterruptHoldoffEnd
  try dsimp only
  try with_reducible refine next_kept ?_
  try dsimp only
  repeat' first
    | with_reducible assumption
    | with_reducible apply State.updCtx_kept
    | with_reducible apply State.msix_kept
    | with_reducible apply State.advance_kept
    | with_reducible apply State.trigger_kept
    | with_reducible refine kept_fst ?_ (by with_reducible assumption)
    | split
    | dsimp only
    | fail_if_no_progress with_reducible apply kept_same
    | with_reducible refine answered_kept _ _ _ _ ?_
    | with_reducible refine next_kept ?_
    | intro _

theorem execNop_kept (n : Nat) {s : State} (hk : Kept Q s) {z : State} (hz : execNop n s = .next z) : Kept Q z := by
  revert hz
  unfold execNop
  try dsimp only
  try with_reducible refine next_kept ?_
  try dsimp only
  repeat' first
    | with_reducible assumption
    | with_reducible apply Run.start_kept
    | with_reducible apply State.runCore_kept
    | with_reducible refine kept_fst ?_ (by with_reducible assumption)
    | split
    | dsimp only
    | fail_if_no_progress with_reducible apply kept_same
    | with_reducible refine answered_kept _ _ _ _ ?_
    | with_reducible refine next_kept ?_
    | intro _

theorem execMatmul_kept (n : Nat) {s : State} (hk : Kept Q s) {z : State} (hz : execMatmul n s = .next z) : Kept Q z := by
  revert hz
  unfold execMatmul
  try dsimp only
  try with_reducible refine next_kept ?_
  try dsimp only
  repeat' first
    | with_reducible assumption
    | with_reducible apply State.runCore_kept
    | with_reducible apply matRun_kept
    | with_reducible refine kept_fst ?_ (by with_reducible assumption)
    | split
    | dsimp only
    | fail_if_no_progress with_reducible apply kept_same
    | with_reducible refine answered_kept _ _ _ _ ?_
    | with_reducible refine next_kept ?_
    | intro _

theorem execVop_kept (n : Nat) {s : State} (hk : Kept Q s) {z : State} (hz : execVop n s = .next z) : Kept Q z := by
  revert hz
  unfold execVop
  try dsimp only
  try with_reducible refine next_kept ?_
  try dsimp only
  repeat' first
    | with_reducible assumption
    | with_reducible apply State.runCore_kept
    | with_reducible apply vopRun_kept
    | with_reducible refine kept_fst ?_ (by with_reducible assumption)
    | split
    | dsimp only
    | fail_if_no_progress with_reducible apply kept_same
    | with_reducible refine answered_kept _ _ _ _ ?_
    | with_reducible refine next_kept ?_
    | intro _

theorem execVreduce_kept (n : Nat) {s : State} (hk : Kept Q s) {z : State} (hz : execVreduce n s = .next z) : Kept Q z := by
  revert hz
  unfold execVreduce
  try dsimp only
  try with_reducible refine next_kept ?_
  try dsimp only
  repeat' first
    | with_reducible assumption
    | with_reducible apply State.runCore_kept
    | with_reducible apply vreduceRun_kept
    | with_reducible refine kept_fst ?_ (by with_reducible assumption)
    | split
    | dsimp only
    | fail_if_no_progress with_reducible apply kept_same
    | with_reducible refine answered_kept _ _ _ _ ?_
    | with_reducible refine next_kept ?_
    | intro _

theorem execCopy_kept (n : Nat) {s : State} (hk : Kept Q s) {z : State} (hz : execCopy n s = .next z) : Kept Q z := by
  revert hz
  unfold execCopy
  try dsimp only
  try with_reducible refine next_kept ?_
  try dsimp only
  repeat' first
    | with_reducible assumption
    | with_reducible apply State.runCore_kept
    | with_reducible apply copyRun_kept
    | with_reducible refine kept_fst ?_ (by with_reducible assumption)
    | split
    | dsimp only
    | fail_if_no_progress with_reducible apply kept_same
    | with_reducible refine answered_kept _ _ _ _ ?_
    | with_reducible refine next_kept ?_
    | intro _

theorem execConv_kept (n : Nat) {s : State} (hk : Kept Q s) {z : State} (hz : execConv n s = .next z) : Kept Q z := by
  revert hz
  unfold execConv
  try dsimp only
  try with_reducible refine next_kept ?_
  try dsimp only
  repeat' first
    | with_reducible assumption
    | with_reducible apply State.runCore_kept
    | with_reducible apply convRun_kept
    | with_reducible refine kept_fst ?_ (by with_reducible assumption)
    | split
    | dsimp only
    | fail_if_no_progress with_reducible apply kept_same
    | with_reducible refine answered_kept _ _ _ _ ?_
    | with_reducible refine next_kept ?_
    | intro _

theorem execConvWgrad_kept (n : Nat) {s : State} (hk : Kept Q s) {z : State} (hz : execConvWgrad n s = .next z) : Kept Q z := by
  revert hz
  unfold execConvWgrad
  try dsimp only
  try with_reducible refine next_kept ?_
  try dsimp only
  repeat' first
    | with_reducible assumption
    | with_reducible apply State.runCore_kept
    | with_reducible apply wgradRun_kept
    | with_reducible refine kept_fst ?_ (by with_reducible assumption)
    | split
    | dsimp only
    | fail_if_no_progress with_reducible apply kept_same
    | with_reducible refine answered_kept _ _ _ _ ?_
    | with_reducible refine next_kept ?_
    | intro _

theorem execTileDrain_kept (n : Nat) {s : State} (hk : Kept Q s) {z : State} (hz : execTileDrain n s = .next z) : Kept Q z := by
  revert hz
  unfold execTileDrain
  try dsimp only
  try with_reducible refine next_kept ?_
  try dsimp only
  repeat' first
    | with_reducible assumption
    | with_reducible apply State.drainNext_kept
    | with_reducible refine kept_fst ?_ (by with_reducible assumption)
    | split
    | dsimp only
    | fail_if_no_progress with_reducible apply kept_same
    | with_reducible refine answered_kept _ _ _ _ ?_
    | with_reducible refine next_kept ?_
    | intro _

theorem execDwconv_kept (n : Nat) {s : State} (hk : Kept Q s) {z : State} (hz : execDwconv n s = .next z) : Kept Q z := by
  revert hz
  unfold execDwconv
  try dsimp only
  try with_reducible refine next_kept ?_
  try dsimp only
  repeat' first
    | with_reducible assumption
    | with_reducible apply State.runCore_kept
    | with_reducible apply dwRun_kept
    | with_reducible refine kept_fst ?_ (by with_reducible assumption)
    | split
    | dsimp only
    | fail_if_no_progress with_reducible apply kept_same
    | with_reducible refine answered_kept _ _ _ _ ?_
    | with_reducible refine next_kept ?_
    | intro _

theorem execPool_kept (n : Nat) {s : State} (hk : Kept Q s) {z : State} (hz : execPool n s = .next z) : Kept Q z := by
  revert hz
  unfold execPool
  try dsimp only
  try with_reducible refine next_kept ?_
  try dsimp only
  repeat' first
    | with_reducible assumption
    | with_reducible apply State.runCore_kept
    | with_reducible apply poolRun_kept
    | with_reducible refine kept_fst ?_ (by with_reducible assumption)
    | split
    | dsimp only
    | fail_if_no_progress with_reducible apply kept_same
    | with_reducible refine answered_kept _ _ _ _ ?_
    | with_reducible refine next_kept ?_
    | intro _

theorem execGather_kept (n : Nat) {s : State} (hk : Kept Q s) {z : State} (hz : execGather n s = .next z) : Kept Q z := by
  revert hz
  unfold execGather
  try dsimp only
  try with_reducible refine next_kept ?_
  try dsimp only
  repeat' first
    | with_reducible assumption
    | with_reducible apply State.runCore_kept
    | with_reducible apply gatherOne_kept
    | with_reducible apply listRun_kept
    | with_reducible refine kept_fst ?_ (by with_reducible assumption)
    | split
    | dsimp only
    | fail_if_no_progress with_reducible apply kept_same
    | with_reducible refine answered_kept _ _ _ _ ?_
    | with_reducible refine next_kept ?_
    | intro _

theorem execScatter_kept (n : Nat) {s : State} (hk : Kept Q s) {z : State} (hz : execScatter n s = .next z) : Kept Q z := by
  revert hz
  unfold execScatter
  try dsimp only
  try with_reducible refine next_kept ?_
  try dsimp only
  repeat' first
    | with_reducible assumption
    | with_reducible apply State.runCore_kept
    | with_reducible apply scatterOne_kept
    | with_reducible apply listRun_kept
    | with_reducible refine kept_fst ?_ (by with_reducible assumption)
    | split
    | dsimp only
    | fail_if_no_progress with_reducible apply kept_same
    | with_reducible refine answered_kept _ _ _ _ ?_
    | with_reducible refine next_kept ?_
    | intro _

theorem execTierMoveMove_kept (c : Consumer) {s : State} (hk : Kept Q s) {z : State} (hz : execTierMoveMove c s = .next z) : Kept Q z := by
  revert hz
  unfold execTierMoveMove
  try dsimp only
  try with_reducible refine next_kept ?_
  try dsimp only
  repeat' first
    | with_reducible assumption
    | with_reducible apply State.tierMove_kept
    | with_reducible refine kept_fst ?_ (by with_reducible assumption)
    | split
    | dsimp only
    | fail_if_no_progress with_reducible apply kept_same
    | with_reducible refine answered_kept _ _ _ _ ?_
    | with_reducible refine next_kept ?_
    | intro _

theorem execTierMoveSeal_kept (c : Consumer) {s : State} (hk : Kept Q s) {z : State} (hz : execTierMoveSeal c s = .next z) : Kept Q z := by
  revert hz
  unfold execTierMoveSeal
  try dsimp only
  try with_reducible refine next_kept ?_
  try dsimp only
  repeat' first
    | with_reducible assumption
    | with_reducible apply State.tierMove_kept
    | with_reducible refine kept_fst ?_ (by with_reducible assumption)
    | split
    | dsimp only
    | fail_if_no_progress with_reducible apply kept_same
    | with_reducible refine answered_kept _ _ _ _ ?_
    | with_reducible refine next_kept ?_
    | intro _

theorem execTierMoveStage_kept (c : Consumer) {s : State} (hk : Kept Q s) {z : State} (hz : execTierMoveStage c s = .next z) : Kept Q z := by
  revert hz
  unfold execTierMoveStage
  try dsimp only
  try with_reducible refine next_kept ?_
  try dsimp only
  repeat' first
    | with_reducible assumption
    | with_reducible apply State.tierMove_kept
    | with_reducible refine kept_fst ?_ (by with_reducible assumption)
    | split
    | dsimp only
    | fail_if_no_progress with_reducible apply kept_same
    | with_reducible refine answered_kept _ _ _ _ ?_
    | with_reducible refine next_kept ?_
    | intro _

theorem execTierMoveDiscard_kept (c : Consumer) {s : State} (hk : Kept Q s) {z : State} (hz : execTierMoveDiscard c s = .next z) : Kept Q z := by
  revert hz
  unfold execTierMoveDiscard
  try dsimp only
  try with_reducible refine next_kept ?_
  try dsimp only
  repeat' first
    | with_reducible assumption
    | with_reducible apply State.tierMove_kept
    | with_reducible refine kept_fst ?_ (by with_reducible assumption)
    | split
    | dsimp only
    | fail_if_no_progress with_reducible apply kept_same
    | with_reducible refine answered_kept _ _ _ _ ?_
    | with_reducible refine next_kept ?_
    | intro _

theorem execTierMoveDrop_kept (c : Consumer) {s : State} (hk : Kept Q s) {z : State} (hz : execTierMoveDrop c s = .next z) : Kept Q z := by
  revert hz
  unfold execTierMoveDrop
  try dsimp only
  try with_reducible refine next_kept ?_
  try dsimp only
  repeat' first
    | with_reducible assumption
    | with_reducible apply State.tierMove_kept
    | with_reducible refine kept_fst ?_ (by with_reducible assumption)
    | split
    | dsimp only
    | fail_if_no_progress with_reducible apply kept_same
    | with_reducible refine answered_kept _ _ _ _ ?_
    | with_reducible refine next_kept ?_
    | intro _

theorem execAtticRelocate_kept (block : Nat) {s : State} (hk : Kept Q s) {z : State} (hz : execAtticRelocate block s = .next z) : Kept Q z := by
  revert hz
  unfold execAtticRelocate
  try dsimp only
  try with_reducible refine next_kept ?_
  try dsimp only
  repeat' first
    | with_reducible assumption
    | with_reducible apply State.relocate_kept
    | with_reducible refine kept_fst ?_ (by with_reducible assumption)
    | split
    | dsimp only
    | fail_if_no_progress with_reducible apply kept_same
    | with_reducible refine answered_kept _ _ _ _ ?_
    | with_reducible refine next_kept ?_
    | intro _

theorem execWearLevelRelocate_kept {s : State} (hk : Kept Q s) {z : State} (hz : execWearLevelRelocate s = .next z) : Kept Q z := by
  revert hz
  unfold execWearLevelRelocate
  try dsimp only
  try with_reducible refine next_kept ?_
  try dsimp only
  repeat' first
    | with_reducible assumption
    | with_reducible apply State.relocate_kept
    | with_reducible refine kept_fst ?_ (by with_reducible assumption)
    | split
    | dsimp only
    | fail_if_no_progress with_reducible apply kept_same
    | with_reducible refine answered_kept _ _ _ _ ?_
    | with_reducible refine next_kept ?_
    | intro _

theorem execContextSwap_kept (p : Nat) {s : State} (hk : Kept Q s) {z : State} (hz : execContextSwap p s = .next z) : Kept Q z := by
  revert hz
  unfold execContextSwap
  try dsimp only
  try with_reducible refine next_kept ?_
  try dsimp only
  repeat' first
    | with_reducible assumption
    | with_reducible apply State.swapIn_kept
    | with_reducible apply State.swapOut_kept
    | with_reducible refine kept_fst ?_ (by with_reducible assumption)
    | split
    | dsimp only
    | fail_if_no_progress with_reducible apply kept_same
    | with_reducible refine answered_kept _ _ _ _ ?_
    | with_reducible refine next_kept ?_
    | intro _

theorem execRegulatorBoundary_kept {s : State} (hk : Kept Q s) {z : State} (hz : execRegulatorBoundary s = .next z) : Kept Q z := by
  revert hz
  unfold execRegulatorBoundary
  try dsimp only
  try with_reducible refine next_kept ?_
  try dsimp only
  repeat' first
    | with_reducible assumption
    | with_reducible apply State.advance_kept
    | with_reducible apply State.atRegulator_kept
    | with_reducible refine kept_fst ?_ (by with_reducible assumption)
    | split
    | dsimp only
    | fail_if_no_progress with_reducible apply kept_same
    | with_reducible refine answered_kept _ _ _ _ ?_
    | with_reducible refine next_kept ?_
    | intro _

theorem execArbiterCommit_kept (mask : Nat) {s : State} (hk : Kept Q s) {z : State} (hz : execArbiterCommit mask s = .next z) : Kept Q z := by
  revert hz
  unfold execArbiterCommit
  try dsimp only
  try with_reducible refine next_kept ?_
  try dsimp only
  repeat' first
    | with_reducible assumption
    | with_reducible apply State.arbCommit_kept
    | with_reducible refine kept_fst ?_ (by with_reducible assumption)
    | split
    | dsimp only
    | fail_if_no_progress with_reducible apply kept_same
    | with_reducible refine answered_kept _ _ _ _ ?_
    | with_reducible refine next_kept ?_
    | intro _

theorem execArbiterWindowBoundary_kept (k : Nat) {s : State} (hk : Kept Q s) {z : State} (hz : execArbiterWindowBoundary k s = .next z) : Kept Q z := by
  revert hz
  unfold execArbiterWindowBoundary
  try dsimp only
  try with_reducible refine next_kept ?_
  try dsimp only
  repeat' first
    | with_reducible assumption
    | with_reducible apply State.advance_kept
    | with_reducible apply State.atWindow_kept
    | with_reducible refine kept_fst ?_ (by with_reducible assumption)
    | split
    | dsimp only
    | fail_if_no_progress with_reducible apply kept_same
    | with_reducible refine answered_kept _ _ _ _ ?_
    | with_reducible refine next_kept ?_
    | intro _

theorem execArbiterBackoffEnd_kept (k inst who : Nat) {s : State} (hk : Kept Q s) {z : State} (hz : execArbiterBackoffEnd k inst who s = .next z) : Kept Q z := by
  revert hz
  unfold execArbiterBackoffEnd
  try dsimp only
  try with_reducible refine next_kept ?_
  try dsimp only
  repeat' first
    | with_reducible assumption
    | with_reducible apply State.advance_kept
    | with_reducible apply State.updReq_kept
    | with_reducible refine kept_fst ?_ (by with_reducible assumption)
    | split
    | dsimp only
    | fail_if_no_progress with_reducible apply kept_same
    | with_reducible refine answered_kept _ _ _ _ ?_
    | with_reducible refine next_kept ?_
    | intro _

theorem execPartitionCreate_kept (p : Nat) {s : State} (hk : Kept Q s) {z : State} (hz : execPartitionCreate p s = .next z) : Kept Q z := by
  revert hz
  unfold execPartitionCreate
  try dsimp only
  try with_reducible refine next_kept ?_
  try dsimp only
  repeat' first
    | with_reducible assumption
    | with_reducible apply State.partControl_kept
    | with_reducible refine kept_fst ?_ (by with_reducible assumption)
    | split
    | dsimp only
    | fail_if_no_progress with_reducible apply kept_same
    | with_reducible refine answered_kept _ _ _ _ ?_
    | with_reducible refine next_kept ?_
    | intro _

theorem execPartitionCreateDone_kept (p : Nat) {s : State} (hk : Kept Q s) {z : State} (hz : execPartitionCreateDone p s = .next z) : Kept Q z := by
  revert hz
  unfold execPartitionCreateDone
  try dsimp only
  try with_reducible refine next_kept ?_
  try dsimp only
  repeat' first
    | with_reducible assumption
    | with_reducible apply State.createDone_kept
    | with_reducible refine kept_fst ?_ (by with_reducible assumption)
    | split
    | dsimp only
    | fail_if_no_progress with_reducible apply kept_same
    | with_reducible refine answered_kept _ _ _ _ ?_
    | with_reducible refine next_kept ?_
    | intro _

theorem execPartitionStop_kept (p : Nat) {s : State} (hk : Kept Q s) {z : State} (hz : execPartitionStop p s = .next z) : Kept Q z := by
  revert hz
  unfold execPartitionStop
  try dsimp only
  try with_reducible refine next_kept ?_
  try dsimp only
  repeat' first
    | with_reducible assumption
    | with_reducible apply State.partControl_kept
    | with_reducible refine kept_fst ?_ (by with_reducible assumption)
    | split
    | dsimp only
    | fail_if_no_progress with_reducible apply kept_same
    | with_reducible refine answered_kept _ _ _ _ ?_
    | with_reducible refine next_kept ?_
    | intro _

theorem execPartitionStopDone_kept (p : Nat) {s : State} (hk : Kept Q s) {z : State} (hz : execPartitionStopDone p s = .next z) : Kept Q z := by
  revert hz
  unfold execPartitionStopDone
  try dsimp only
  try with_reducible refine next_kept ?_
  try dsimp only
  repeat' first
    | with_reducible assumption
    | with_reducible apply State.setPart_kept
    | with_reducible apply Run.stopped_kept
    | with_reducible refine kept_fst ?_ (by with_reducible assumption)
    | split
    | dsimp only
    | fail_if_no_progress with_reducible apply kept_same
    | with_reducible refine answered_kept _ _ _ _ ?_
    | with_reducible refine next_kept ?_
    | intro _

theorem execPartitionStart_kept (p : Nat) {s : State} (hk : Kept Q s) {z : State} (hz : execPartitionStart p s = .next z) : Kept Q z := by
  revert hz
  unfold execPartitionStart
  try dsimp only
  try with_reducible refine next_kept ?_
  try dsimp only
  repeat' first
    | with_reducible assumption
    | with_reducible apply State.partControl_kept
    | with_reducible refine kept_fst ?_ (by with_reducible assumption)
    | split
    | dsimp only
    | fail_if_no_progress with_reducible apply kept_same
    | with_reducible refine answered_kept _ _ _ _ ?_
    | with_reducible refine next_kept ?_
    | intro _

theorem execPartitionRemove_kept (p : Nat) {s : State} (hk : Kept Q s) {z : State} (hz : execPartitionRemove p s = .next z) : Kept Q z := by
  revert hz
  unfold execPartitionRemove
  try dsimp only
  try with_reducible refine next_kept ?_
  try dsimp only
  repeat' first
    | with_reducible assumption
    | with_reducible apply State.partControl_kept
    | with_reducible refine kept_fst ?_ (by with_reducible assumption)
    | split
    | dsimp only
    | fail_if_no_progress with_reducible apply kept_same
    | with_reducible refine answered_kept _ _ _ _ ?_
    | with_reducible refine next_kept ?_
    | intro _

theorem execContextAdd_kept (cc : Nat) {s : State} (hk : Kept Q s) {z : State} (hz : execContextAdd cc s = .next z) : Kept Q z := by
  revert hz
  unfold execContextAdd
  try dsimp only
  try with_reducible refine next_kept ?_
  try dsimp only
  repeat' first
    | with_reducible assumption
    | with_reducible apply State.ctxControl_kept
    | with_reducible refine kept_fst ?_ (by with_reducible assumption)
    | split
    | dsimp only
    | fail_if_no_progress with_reducible apply kept_same
    | with_reducible refine answered_kept _ _ _ _ ?_
    | with_reducible refine next_kept ?_
    | intro _

theorem execContextResume_kept (cc : Nat) {s : State} (hk : Kept Q s) {z : State} (hz : execContextResume cc s = .next z) : Kept Q z := by
  revert hz
  unfold execContextResume
  try dsimp only
  try with_reducible refine next_kept ?_
  try dsimp only
  repeat' first
    | with_reducible assumption
    | with_reducible apply State.ctxControl_kept
    | with_reducible refine kept_fst ?_ (by with_reducible assumption)
    | split
    | dsimp only
    | fail_if_no_progress with_reducible apply kept_same
    | with_reducible refine answered_kept _ _ _ _ ?_
    | with_reducible refine next_kept ?_
    | intro _

theorem execContextAbort_kept (cc : Nat) {s : State} (hk : Kept Q s) {z : State} (hz : execContextAbort cc s = .next z) : Kept Q z := by
  revert hz
  unfold execContextAbort
  try dsimp only
  try with_reducible refine next_kept ?_
  try dsimp only
  repeat' first
    | with_reducible assumption
    | with_reducible apply State.ctxControl_kept
    | with_reducible refine kept_fst ?_ (by with_reducible assumption)
    | split
    | dsimp only
    | fail_if_no_progress with_reducible apply kept_same
    | with_reducible refine answered_kept _ _ _ _ ?_
    | with_reducible refine next_kept ?_
    | intro _

theorem execContextAbortDone_kept (cc : Nat) {s : State} (hk : Kept Q s) {z : State} (hz : execContextAbortDone cc s = .next z) : Kept Q z := by
  revert hz
  unfold execContextAbortDone
  try dsimp only
  try with_reducible refine next_kept ?_
  try dsimp only
  repeat' first
    | with_reducible assumption
    | with_reducible apply State.abortDone_kept
    | with_reducible refine kept_fst ?_ (by with_reducible assumption)
    | split
    | dsimp only
    | fail_if_no_progress with_reducible apply kept_same
    | with_reducible refine answered_kept _ _ _ _ ?_
    | with_reducible refine next_kept ?_
    | intro _

theorem execContextRemove_kept (cc : Nat) {s : State} (hk : Kept Q s) {z : State} (hz : execContextRemove cc s = .next z) : Kept Q z := by
  revert hz
  unfold execContextRemove
  try dsimp only
  try with_reducible refine next_kept ?_
  try dsimp only
  repeat' first
    | with_reducible assumption
    | with_reducible apply State.ctxControl_kept
    | with_reducible refine kept_fst ?_ (by with_reducible assumption)
    | split
    | dsimp only
    | fail_if_no_progress with_reducible apply kept_same
    | with_reducible refine answered_kept _ _ _ _ ?_
    | with_reducible refine next_kept ?_
    | intro _

theorem execFenceWait_kept (n : Nat) {s : State} (hk : Kept Q s) {z : State} (hz : execFenceWait n s = .next z) : Kept Q z := by
  revert hz
  unfold execFenceWait
  try dsimp only
  try with_reducible refine next_kept ?_
  try dsimp only
  repeat' first
    | with_reducible assumption
    | with_reducible apply State.endCore_kept
    | with_reducible apply State.startSync_kept
    | with_reducible apply State.waitOn_kept
    | with_reducible refine kept_fst ?_ (by with_reducible assumption)
    | split
    | dsimp only
    | fail_if_no_progress with_reducible apply kept_same
    | with_reducible refine answered_kept _ _ _ _ ?_
    | with_reducible refine next_kept ?_
    | intro _

theorem execFenceWaitComplete_kept (n : Nat) {s : State} (hk : Kept Q s) {z : State} (hz : execFenceWaitComplete n s = .next z) : Kept Q z := by
  revert hz
  unfold execFenceWaitComplete
  try dsimp only
  try with_reducible refine next_kept ?_
  try dsimp only
  repeat' first
    | with_reducible assumption
    | with_reducible apply State.endCore_kept
    | with_reducible refine kept_fst ?_ (by with_reducible assumption)
    | split
    | dsimp only
    | fail_if_no_progress with_reducible apply kept_same
    | with_reducible refine answered_kept _ _ _ _ ?_
    | with_reducible refine next_kept ?_
    | intro _

theorem execFenceAdd_kept (n : Nat) {s : State} (hk : Kept Q s) {z : State} (hz : execFenceAdd n s = .next z) : Kept Q z := by
  revert hz
  unfold execFenceAdd
  try dsimp only
  try with_reducible refine next_kept ?_
  try dsimp only
  repeat' first
    | with_reducible assumption
    | with_reducible apply State.fenceAdd_kept
    | with_reducible apply State.startSync_kept
    | with_reducible apply State.fenceUpdate_kept
    | with_reducible refine kept_fst ?_ (by with_reducible assumption)
    | split
    | dsimp only
    | fail_if_no_progress with_reducible apply kept_same
    | with_reducible refine answered_kept _ _ _ _ ?_
    | with_reducible refine next_kept ?_
    | intro _

theorem execFenceMax_kept (n : Nat) {s : State} (hk : Kept Q s) {z : State} (hz : execFenceMax n s = .next z) : Kept Q z := by
  revert hz
  unfold execFenceMax
  try dsimp only
  try with_reducible refine next_kept ?_
  try dsimp only
  repeat' first
    | with_reducible assumption
    | with_reducible apply State.fenceMax_kept
    | with_reducible apply State.startSync_kept
    | with_reducible apply State.fenceUpdate_kept
    | with_reducible refine kept_fst ?_ (by with_reducible assumption)
    | split
    | dsimp only
    | fail_if_no_progress with_reducible apply kept_same
    | with_reducible refine answered_kept _ _ _ _ ?_
    | with_reducible refine next_kept ?_
    | intro _

theorem execFenceSet_kept (n : Nat) {s : State} (hk : Kept Q s) {z : State} (hz : execFenceSet n s = .next z) : Kept Q z := by
  revert hz
  unfold execFenceSet
  try dsimp only
  try with_reducible refine next_kept ?_
  try dsimp only
  repeat' first
    | with_reducible assumption
    | with_reducible apply State.fenceSet_kept
    | with_reducible apply State.startSync_kept
    | with_reducible apply State.fenceUpdate_kept
    | with_reducible refine kept_fst ?_ (by with_reducible assumption)
    | split
    | dsimp only
    | fail_if_no_progress with_reducible apply kept_same
    | with_reducible refine answered_kept _ _ _ _ ?_
    | with_reducible refine next_kept ?_
    | intro _

theorem execFenceSend_kept (n : Nat) {s : State} (hk : Kept Q s) {z : State} (hz : execFenceSend n s = .next z) : Kept Q z := by
  revert hz
  unfold execFenceSend
  try dsimp only
  try with_reducible refine next_kept ?_
  try dsimp only
  repeat' first
    | with_reducible assumption
    | with_reducible apply State.endCore_kept
    | with_reducible apply State.fenceAdd_kept
    | with_reducible apply State.startSync_kept
    | with_reducible apply sendRun_kept
    | with_reducible apply State.sendRemote_kept
    | with_reducible refine kept_fst ?_ (by with_reducible assumption)
    | split
    | dsimp only
    | fail_if_no_progress with_reducible apply kept_same
    | with_reducible refine answered_kept _ _ _ _ ?_
    | with_reducible refine next_kept ?_
    | intro _

theorem execCreditTake_kept (n : Nat) {s : State} (hk : Kept Q s) {z : State} (hz : execCreditTake n s = .next z) : Kept Q z := by
  revert hz
  unfold execCreditTake
  try dsimp only
  try with_reducible refine next_kept ?_
  try dsimp only
  repeat' first
    | with_reducible assumption
    | with_reducible apply State.endCore_kept
    | with_reducible apply State.startSync_kept
    | with_reducible apply State.waitOn_kept
    | with_reducible apply State.takeHead_kept
    | with_reducible refine kept_fst ?_ (by with_reducible assumption)
    | split
    | dsimp only
    | fail_if_no_progress with_reducible apply kept_same
    | with_reducible refine answered_kept _ _ _ _ ?_
    | with_reducible refine next_kept ?_
    | intro _

theorem execCreditTakeComplete_kept (p k : Nat) {s : State} (hk : Kept Q s) {z : State} (hz : execCreditTakeComplete p k s = .next z) : Kept Q z := by
  revert hz
  unfold execCreditTakeComplete
  try dsimp only
  try with_reducible refine next_kept ?_
  try dsimp only
  repeat' first
    | with_reducible assumption
    | with_reducible apply State.endCore_kept
    | with_reducible apply State.takeHead_kept
    | with_reducible refine kept_fst ?_ (by with_reducible assumption)
    | split
    | dsimp only
    | fail_if_no_progress with_reducible apply kept_same
    | with_reducible refine answered_kept _ _ _ _ ?_
    | with_reducible refine next_kept ?_
    | intro _

theorem execCreditGive_kept (n : Nat) {s : State} (hk : Kept Q s) {z : State} (hz : execCreditGive n s = .next z) : Kept Q z := by
  revert hz
  unfold execCreditGive
  try dsimp only
  try with_reducible refine next_kept ?_
  try dsimp only
  repeat' first
    | with_reducible assumption
    | with_reducible apply State.endCore_kept
    | with_reducible apply State.creditAdd_kept
    | with_reducible apply State.creditOverflow_kept
    | with_reducible apply State.startSync_kept
    | with_reducible apply State.syncMessage_kept
    | with_reducible refine kept_fst ?_ (by with_reducible assumption)
    | split
    | dsimp only
    | fail_if_no_progress with_reducible apply kept_same
    | with_reducible refine answered_kept _ _ _ _ ?_
    | with_reducible refine next_kept ?_
    | intro _

theorem execCreditSet_kept (n : Nat) {s : State} (hk : Kept Q s) {z : State} (hz : execCreditSet n s = .next z) : Kept Q z := by
  revert hz
  unfold execCreditSet
  try dsimp only
  try with_reducible refine next_kept ?_
  try dsimp only
  repeat' first
    | with_reducible assumption
    | with_reducible apply State.odSetN_kept
    | with_reducible apply State.endCore_kept
    | with_reducible apply State.startSync_kept
    | with_reducible refine kept_fst ?_ (by with_reducible assumption)
    | split
    | dsimp only
    | fail_if_no_progress with_reducible apply kept_same
    | with_reducible refine answered_kept _ _ _ _ ?_
    | with_reducible refine next_kept ?_
    | intro _

theorem execRowFenceWait_kept (n : Nat) {s : State} (hk : Kept Q s) {z : State} (hz : execRowFenceWait n s = .next z) : Kept Q z := by
  revert hz
  unfold execRowFenceWait
  try dsimp only
  try with_reducible refine next_kept ?_
  try dsimp only
  repeat' first
    | with_reducible assumption
    | with_reducible apply State.endCore_kept
    | with_reducible apply State.startSync_kept
    | with_reducible apply State.waitOn_kept
    | with_reducible refine kept_fst ?_ (by with_reducible assumption)
    | split
    | dsimp only
    | fail_if_no_progress with_reducible apply kept_same
    | with_reducible refine answered_kept _ _ _ _ ?_
    | with_reducible refine next_kept ?_
    | intro _

theorem execRowFenceClear_kept (n : Nat) {s : State} (hk : Kept Q s) {z : State} (hz : execRowFenceClear n s = .next z) : Kept Q z := by
  revert hz
  unfold execRowFenceClear
  try dsimp only
  try with_reducible refine next_kept ?_
  try dsimp only
  repeat' first
    | with_reducible assumption
    | with_reducible apply State.updPart_kept
    | with_reducible apply State.endCore_kept
    | with_reducible apply State.startSync_kept
    | with_reducible refine kept_fst ?_ (by with_reducible assumption)
    | split
    | dsimp only
    | fail_if_no_progress with_reducible apply kept_same
    | with_reducible refine answered_kept _ _ _ _ ?_
    | with_reducible refine next_kept ?_
    | intro _

theorem execRowFenceWaitComplete_kept (n : Nat) {s : State} (hk : Kept Q s) {z : State} (hz : execRowFenceWaitComplete n s = .next z) : Kept Q z := by
  revert hz
  unfold execRowFenceWaitComplete
  try dsimp only
  try with_reducible refine next_kept ?_
  try dsimp only
  repeat' first
    | with_reducible assumption
    | with_reducible apply State.endCore_kept
    | with_reducible refine kept_fst ?_ (by with_reducible assumption)
    | split
    | dsimp only
    | fail_if_no_progress with_reducible apply kept_same
    | with_reducible refine answered_kept _ _ _ _ ?_
    | with_reducible refine next_kept ?_
    | intro _

theorem execCoreSchedule_kept (n : Nat) {s : State} (hk : Kept Q s) {z : State} (hz : execCoreSchedule n s = .next z) : Kept Q z := by
  revert hz
  unfold execCoreSchedule
  try dsimp only
  try with_reducible refine next_kept ?_
  try dsimp only
  repeat' first
    | with_reducible assumption
    | with_reducible apply State.schedule_kept
    | with_reducible apply State.openRange_kept
    | with_reducible refine kept_fst ?_ (by with_reducible assumption)
    | split
    | dsimp only
    | fail_if_no_progress with_reducible apply kept_same
    | with_reducible refine answered_kept _ _ _ _ ?_
    | with_reducible refine next_kept ?_
    | intro _

theorem execNormPart_kept (c : Nat) {s : State} (hk : Kept Q s) {z : State} (hz : execNormPart c s = .next z) : Kept Q z := by
  revert hz
  unfold execNormPart
  try dsimp only
  try with_reducible refine next_kept ?_
  try dsimp only
  repeat' first
    | with_reducible assumption
    | with_reducible apply State.runUpdate_kept
    | with_reducible apply State.normPart_kept
    | with_reducible refine kept_fst ?_ (by with_reducible assumption)
    | split
    | dsimp only
    | fail_if_no_progress with_reducible apply kept_same
    | with_reducible refine answered_kept _ _ _ _ ?_
    | with_reducible refine next_kept ?_
    | intro _

theorem execNormReduce_kept (c : Nat) {s : State} (hk : Kept Q s) {z : State} (hz : execNormReduce c s = .next z) : Kept Q z := by
  revert hz
  unfold execNormReduce
  try dsimp only
  try with_reducible refine next_kept ?_
  try dsimp only
  repeat' first
    | with_reducible assumption
    | with_reducible apply State.runUpdate_kept
    | with_reducible apply State.normReduce_kept
    | with_reducible refine kept_fst ?_ (by with_reducible assumption)
    | split
    | dsimp only
    | fail_if_no_progress with_reducible apply kept_same
    | with_reducible refine answered_kept _ _ _ _ ?_
    | with_reducible refine next_kept ?_
    | intro _

theorem execNormRead_kept (c : Nat) {s : State} (hk : Kept Q s) {z : State} (hz : execNormRead c s = .next z) : Kept Q z := by
  revert hz
  unfold execNormRead
  try dsimp only
  try with_reducible refine next_kept ?_
  try dsimp only
  repeat' first
    | with_reducible assumption
    | with_reducible apply State.runUpdate_kept
    | with_reducible apply State.normRead_kept
    | with_reducible refine kept_fst ?_ (by with_reducible assumption)
    | split
    | dsimp only
    | fail_if_no_progress with_reducible apply kept_same
    | with_reducible refine answered_kept _ _ _ _ ?_
    | with_reducible refine next_kept ?_
    | intro _

theorem execNormLoad_kept (c : Nat) {s : State} (hk : Kept Q s) {z : State} (hz : execNormLoad c s = .next z) : Kept Q z := by
  revert hz
  unfold execNormLoad
  try dsimp only
  try with_reducible refine next_kept ?_
  try dsimp only
  repeat' first
    | with_reducible assumption
    | with_reducible apply State.runUpdate_kept
    | with_reducible apply State.normLoad_kept
    | with_reducible refine kept_fst ?_ (by with_reducible assumption)
    | split
    | dsimp only
    | fail_if_no_progress with_reducible apply kept_same
    | with_reducible refine answered_kept _ _ _ _ ?_
    | with_reducible refine next_kept ?_
    | intro _

theorem execApply_kept (c : Nat) {s : State} (hk : Kept Q s) {z : State} (hz : execApply c s = .next z) : Kept Q z := by
  revert hz
  unfold execApply
  try dsimp only
  try with_reducible refine next_kept ?_
  try dsimp only
  repeat' first
    | with_reducible assumption
    | with_reducible apply State.runUpdate_kept
    | with_reducible apply State.apply_kept
    | with_reducible refine kept_fst ?_ (by with_reducible assumption)
    | split
    | dsimp only
    | fail_if_no_progress with_reducible apply kept_same
    | with_reducible refine answered_kept _ _ _ _ ?_
    | with_reducible refine next_kept ?_
    | intro _

theorem execBarrierLocal_kept (cc : Nat) {s : State} (hk : Kept Q s) {z : State} (hz : execBarrierLocal cc s = .next z) : Kept Q z := by
  revert hz
  unfold execBarrierLocal
  try dsimp only
  try with_reducible refine next_kept ?_
  try dsimp only
  repeat' first
    | with_reducible assumption
    | with_reducible apply State.refresh_kept
    | with_reducible apply Run.start_kept
    | with_reducible apply State.endHub_kept
    | with_reducible apply State.putHub_kept
    | with_reducible apply State.endBarrier_kept
    | with_reducible refine kept_fst ?_ (by with_reducible assumption)
    | split
    | dsimp only
    | fail_if_no_progress with_reducible apply kept_same
    | with_reducible refine answered_kept _ _ _ _ ?_
    | with_reducible refine next_kept ?_
    | intro _

theorem execBarrierStep_kept (cc : Nat) {s : State} (hk : Kept Q s) {z : State} (hz : execBarrierStep cc s = .next z) : Kept Q z := by
  revert hz
  unfold execBarrierStep
  try dsimp only
  try with_reducible refine next_kept ?_
  try dsimp only
  repeat' first
    | with_reducible assumption
    | with_reducible apply State.refresh_kept
    | with_reducible apply State.touchRecord_kept
    | with_reducible apply Run.start_kept
    | with_reducible apply State.endHub_kept
    | with_reducible apply State.joinBarrier_kept
    | with_reducible apply State.settleBarrier_kept
    | with_reducible refine kept_fst ?_ (by with_reducible assumption)
    | split
    | dsimp only
    | fail_if_no_progress with_reducible apply kept_same
    | with_reducible refine answered_kept _ _ _ _ ?_
    | with_reducible refine next_kept ?_
    | intro _

theorem execBarrierArrive_kept (cc : Nat) {s : State} (hk : Kept Q s) {z : State} (hz : execBarrierArrive cc s = .next z) : Kept Q z := by
  revert hz
  unfold execBarrierArrive
  try dsimp only
  try with_reducible refine next_kept ?_
  try dsimp only
  repeat' first
    | with_reducible assumption
    | with_reducible apply State.refresh_kept
    | with_reducible apply State.endBarrier_kept
    | with_reducible apply State.joinBarrier_kept
    | with_reducible apply State.settleBarrier_kept
    | with_reducible refine kept_fst ?_ (by with_reducible assumption)
    | split
    | dsimp only
    | fail_if_no_progress with_reducible apply kept_same
    | with_reducible refine answered_kept _ _ _ _ ?_
    | with_reducible refine next_kept ?_
    | intro _

theorem execReduce_kept (cc slot : Nat) {s : State} (hk : Kept Q s) {z : State} (hz : execReduce cc slot s = .next z) : Kept Q z := by
  revert hz
  unfold execReduce
  try dsimp only
  try with_reducible refine next_kept ?_
  try dsimp only
  repeat' first
    | with_reducible assumption
    | with_reducible apply State.withColl_kept
    | with_reducible apply State.refresh_kept
    | with_reducible apply State.touchRecord_kept
    | with_reducible apply State.touchDescs_kept
    | with_reducible apply Run.start_kept
    | with_reducible apply State.takeHead_kept
    | with_reducible apply State.collTake_kept
    | with_reducible apply State.endColl_kept
    | with_reducible apply State.redReady_kept
    | with_reducible refine kept_fst ?_ (by with_reducible assumption)
    | split
    | dsimp only
    | fail_if_no_progress with_reducible apply kept_same
    | with_reducible refine answered_kept _ _ _ _ ?_
    | with_reducible refine next_kept ?_
    | intro _

theorem execReduceLocallyReady_kept (cc slot : Nat) {s : State} (hk : Kept Q s) {z : State} (hz : execReduceLocallyReady cc slot s = .next z) : Kept Q z := by
  revert hz
  unfold execReduceLocallyReady
  try dsimp only
  try with_reducible refine next_kept ?_
  try dsimp only
  repeat' first
    | with_reducible assumption
    | with_reducible apply State.takeHead_kept
    | with_reducible apply State.redReady_kept
    | with_reducible refine kept_fst ?_ (by with_reducible assumption)
    | split
    | dsimp only
    | fail_if_no_progress with_reducible apply kept_same
    | with_reducible refine answered_kept _ _ _ _ ?_
    | with_reducible refine next_kept ?_
    | intro _

theorem execReduceUnitSend_kept (cc slot entry : Nat) {s : State} (hk : Kept Q s) {z : State} (hz : execReduceUnitSend cc slot entry s = .next z) : Kept Q z := by
  revert hz
  unfold execReduceUnitSend
  try dsimp only
  try with_reducible refine next_kept ?_
  try dsimp only
  repeat' first
    | with_reducible assumption
    | with_reducible apply State.work_kept
    | with_reducible apply Work.add_kept
    | with_reducible apply Work.settle_kept
    | with_reducible apply Work.sendUnit_kept
    | with_reducible apply State.settle_kept
    | with_reducible refine kept_fst ?_ (by with_reducible assumption)
    | split
    | dsimp only
    | fail_if_no_progress with_reducible apply kept_same
    | with_reducible refine answered_kept _ _ _ _ ?_
    | with_reducible refine next_kept ?_
    | intro _

theorem execReduceUnitConsume_kept (cc slot entry : Nat) {s : State} (hk : Kept Q s) {z : State} (hz : execReduceUnitConsume cc slot entry s = .next z) : Kept Q z := by
  revert hz
  unfold execReduceUnitConsume
  try dsimp only
  try with_reducible refine next_kept ?_
  try dsimp only
  repeat' first
    | with_reducible assumption
    | with_reducible apply State.work_kept
    | with_reducible apply Work.add_kept
    | with_reducible apply Work.settle_kept
    | with_reducible apply State.settle_kept
    | with_reducible refine kept_fst ?_ (by with_reducible assumption)
    | split
    | dsimp only
    | fail_if_no_progress with_reducible apply kept_same
    | with_reducible refine answered_kept _ _ _ _ ?_
    | with_reducible refine next_kept ?_
    | intro _

theorem execBroadcast_kept (cc slot : Nat) {s : State} (hk : Kept Q s) {z : State} (hz : execBroadcast cc slot s = .next z) : Kept Q z := by
  revert hz
  unfold execBroadcast
  try dsimp only
  try with_reducible refine next_kept ?_
  try dsimp only
  repeat' first
    | with_reducible assumption
    | with_reducible apply State.withColl_kept
    | with_reducible apply State.touch_kept
    | with_reducible apply Run.start_kept
    | with_reducible apply State.collTake_kept
    | with_reducible apply State.endColl_kept
    | with_reducible apply State.cast_kept
    | with_reducible refine kept_fst ?_ (by with_reducible assumption)
    | split
    | dsimp only
    | fail_if_no_progress with_reducible apply kept_same
    | with_reducible refine answered_kept _ _ _ _ ?_
    | with_reducible refine next_kept ?_
    | intro _

theorem execBroadcastSendStart_kept (cc slot : Nat) {s : State} (hk : Kept Q s) {z : State} (hz : execBroadcastSendStart cc slot s = .next z) : Kept Q z := by
  revert hz
  unfold execBroadcastSendStart
  try dsimp only
  try with_reducible refine next_kept ?_
  try dsimp only
  repeat' first
    | with_reducible assumption
    | with_reducible apply State.cast_kept
    | with_reducible refine kept_fst ?_ (by with_reducible assumption)
    | split
    | dsimp only
    | fail_if_no_progress with_reducible apply kept_same
    | with_reducible refine answered_kept _ _ _ _ ?_
    | with_reducible refine next_kept ?_
    | intro _

theorem execCmdTime_kept (c : Consumer) (closed : Nat) {s : State} (hk : Kept Q s) {z : State} (hz : execCmdTime c closed s = .next z) : Kept Q z := by
  revert hz
  unfold execCmdTime
  try dsimp only
  try with_reducible refine next_kept ?_
  try dsimp only
  repeat' first
    | with_reducible assumption
    | with_reducible apply State.timeCore_kept
    | with_reducible apply State.timeHub_kept
    | with_reducible apply State.timeUpdate_kept
    | with_reducible apply State.timeColl_kept
    | with_reducible refine kept_fst ?_ (by with_reducible assumption)
    | split
    | dsimp only
    | fail_if_no_progress with_reducible apply kept_same
    | with_reducible refine answered_kept _ _ _ _ ?_
    | with_reducible refine next_kept ?_
    | intro _

theorem execLinkDisable_kept (l : Nat) {s : State} (hk : Kept Q s) {z : State} (hz : execLinkDisable l s = .next z) : Kept Q z := by
  revert hz
  unfold execLinkDisable
  try dsimp only
  try with_reducible refine next_kept ?_
  try dsimp only
  repeat' first
    | with_reducible assumption
    | with_reducible apply State.linkControl_kept
    | with_reducible refine kept_fst ?_ (by with_reducible assumption)
    | split
    | dsimp only
    | fail_if_no_progress with_reducible apply kept_same
    | with_reducible refine answered_kept _ _ _ _ ?_
    | with_reducible refine next_kept ?_
    | intro _

theorem execLinkEnable_kept (l : Nat) {s : State} (hk : Kept Q s) {z : State} (hz : execLinkEnable l s = .next z) : Kept Q z := by
  revert hz
  unfold execLinkEnable
  try dsimp only
  try with_reducible refine next_kept ?_
  try dsimp only
  repeat' first
    | with_reducible assumption
    | with_reducible apply State.linkControl_kept
    | with_reducible refine kept_fst ?_ (by with_reducible assumption)
    | split
    | dsimp only
    | fail_if_no_progress with_reducible apply kept_same
    | with_reducible refine answered_kept _ _ _ _ ?_
    | with_reducible refine next_kept ?_
    | intro _

theorem execLinkIsolate_kept (l : Nat) {s : State} (hk : Kept Q s) {z : State} (hz : execLinkIsolate l s = .next z) : Kept Q z := by
  revert hz
  unfold execLinkIsolate
  try dsimp only
  try with_reducible refine next_kept ?_
  try dsimp only
  repeat' first
    | with_reducible assumption
    | with_reducible apply State.linkControl_kept
    | with_reducible refine kept_fst ?_ (by with_reducible assumption)
    | split
    | dsimp only
    | fail_if_no_progress with_reducible apply kept_same
    | with_reducible refine answered_kept _ _ _ _ ?_
    | with_reducible refine next_kept ?_
    | intro _

theorem execLinkTrained_kept (l : Nat) (tr : Training) {s : State} (hk : Kept Q s) {z : State} (hz : execLinkTrained l tr s = .next z) : Kept Q z := by
  revert hz
  unfold execLinkTrained
  try dsimp only
  try with_reducible refine next_kept ?_
  try dsimp only
  repeat' first
    | with_reducible assumption
    | with_reducible apply State.updLink_kept
    | with_reducible apply State.record_kept
    | with_reducible apply State.setLink_kept
    | with_reducible apply State.joinLink_kept
    | with_reducible apply State.sendIdentity_kept
    | with_reducible refine kept_fst ?_ (by with_reducible assumption)
    | split
    | dsimp only
    | fail_if_no_progress with_reducible apply kept_same
    | with_reducible refine answered_kept _ _ _ _ ?_
    | with_reducible refine next_kept ?_
    | intro _

theorem execLinkTrainRetry_kept (l : Nat) {s : State} (hk : Kept Q s) {z : State} (hz : execLinkTrainRetry l s = .next z) : Kept Q z := by
  revert hz
  unfold execLinkTrainRetry
  try dsimp only
  try with_reducible refine next_kept ?_
  try dsimp only
  repeat' first
    | with_reducible assumption
    | with_reducible apply State.updLink_kept
    | with_reducible apply State.sendIdentity_kept
    | with_reducible refine kept_fst ?_ (by with_reducible assumption)
    | split
    | dsimp only
    | fail_if_no_progress with_reducible apply kept_same
    | with_reducible refine answered_kept _ _ _ _ ?_
    | with_reducible refine next_kept ?_
    | intro _

theorem execLinkHeldRelease_kept (l : Nat) {s : State} (hk : Kept Q s) {z : State} (hz : execLinkHeldRelease l s = .next z) : Kept Q z := by
  revert hz
  unfold execLinkHeldRelease
  try dsimp only
  try with_reducible refine next_kept ?_
  try dsimp only
  repeat' first
    | with_reducible assumption
    | with_reducible apply State.heldRelease_kept
    | with_reducible refine kept_fst ?_ (by with_reducible assumption)
    | split
    | dsimp only
    | fail_if_no_progress with_reducible apply kept_same
    | with_reducible refine answered_kept _ _ _ _ ?_
    | with_reducible refine next_kept ?_
    | intro _

theorem execLaneSubstitute_kept (l lane symbols : Nat) {s : State} (hk : Kept Q s) {z : State} (hz : execLaneSubstitute l lane symbols s = .next z) : Kept Q z := by
  revert hz
  unfold execLaneSubstitute
  try dsimp only
  try with_reducible refine next_kept ?_
  try dsimp only
  repeat' first
    | with_reducible assumption
    | with_reducible apply State.updLink_kept
    | with_reducible apply State.odAdd_kept
    | with_reducible apply State.addRepair_kept
    | with_reducible apply State.spareIn_kept
    | with_reducible apply State.laneFlit_kept
    | with_reducible refine kept_fst ?_ (by with_reducible assumption)
    | split
    | dsimp only
    | fail_if_no_progress with_reducible apply kept_same
    | with_reducible refine answered_kept _ _ _ _ ?_
    | with_reducible refine next_kept ?_
    | intro _

theorem execLaneLockLoss_kept (l lane : Nat) {s : State} (hk : Kept Q s) {z : State} (hz : execLaneLockLoss l lane s = .next z) : Kept Q z := by
  revert hz
  unfold execLaneLockLoss
  try dsimp only
  try with_reducible refine next_kept ?_
  try dsimp only
  repeat' first
    | with_reducible assumption
    | with_reducible apply State.updLink_kept
    | with_reducible apply State.record_kept
    | with_reducible apply State.addRepair_kept
    | with_reducible apply State.setLink_kept
    | with_reducible apply State.leaveBond_kept
    | with_reducible apply State.linkDown_kept
    | with_reducible apply State.spareIn_kept
    | with_reducible refine kept_fst ?_ (by with_reducible assumption)
    | split
    | dsimp only
    | fail_if_no_progress with_reducible apply kept_same
    | with_reducible refine answered_kept _ _ _ _ ?_
    | with_reducible refine next_kept ?_
    | intro _

theorem execLinkSignalLoss_kept (l : Nat) {s : State} (hk : Kept Q s) {z : State} (hz : execLinkSignalLoss l s = .next z) : Kept Q z := by
  revert hz
  unfold execLinkSignalLoss
  try dsimp only
  try with_reducible refine next_kept ?_
  try dsimp only
  repeat' first
    | with_reducible assumption
    | with_reducible apply State.linkLost_kept
    | with_reducible refine kept_fst ?_ (by with_reducible assumption)
    | split
    | dsimp only
    | fail_if_no_progress with_reducible apply kept_same
    | with_reducible refine answered_kept _ _ _ _ ?_
    | with_reducible refine next_kept ?_
    | intro _

theorem execFlitReceive_kept (l : Nat) (f : Flit) {s : State} (hk : Kept Q s) {z : State} (hz : execFlitReceive l f s = .next z) : Kept Q z := by
  revert hz
  unfold execFlitReceive
  try dsimp only
  try with_reducible refine next_kept ?_
  try dsimp only
  repeat' first
    | with_reducible assumption
    | with_reducible apply State.countSymbols_kept
    | with_reducible apply State.takeFlit_kept
    | with_reducible refine kept_fst ?_ (by with_reducible assumption)
    | split
    | dsimp only
    | fail_if_no_progress with_reducible apply kept_same
    | with_reducible refine answered_kept _ _ _ _ ?_
    | with_reducible refine next_kept ?_
    | intro _

theorem execNakReceive_kept (l ack : Nat) {s : State} (hk : Kept Q s) {z : State} (hz : execNakReceive l ack s = .next z) : Kept Q z := by
  revert hz
  unfold execNakReceive
  try dsimp only
  try with_reducible refine next_kept ?_
  try dsimp only
  repeat' first
    | with_reducible assumption
    | with_reducible apply State.takeNak_kept
    | with_reducible refine kept_fst ?_ (by with_reducible assumption)
    | split
    | dsimp only
    | fail_if_no_progress with_reducible apply kept_same
    | with_reducible refine answered_kept _ _ _ _ ?_
    | with_reducible refine next_kept ?_
    | intro _

theorem execReplayTimeout_kept (l : Nat) {s : State} (hk : Kept Q s) {z : State} (hz : execReplayTimeout l s = .next z) : Kept Q z := by
  revert hz
  unfold execReplayTimeout
  try dsimp only
  try with_reducible refine next_kept ?_
  try dsimp only
  repeat' first
    | with_reducible assumption
    | with_reducible apply State.advance_kept
    | with_reducible apply State.replayLink_kept
    | with_reducible refine kept_fst ?_ (by with_reducible assumption)
    | split
    | dsimp only
    | fail_if_no_progress with_reducible apply kept_same
    | with_reducible refine answered_kept _ _ _ _ ?_
    | with_reducible refine next_kept ?_
    | intro _

theorem execPacketRoute_kept (l cls vc : Nat) {s : State} (hk : Kept Q s) {z : State} (hz : execPacketRoute l cls vc s = .next z) : Kept Q z := by
  revert hz
  unfold execPacketRoute
  try dsimp only
  try with_reducible refine next_kept ?_
  try dsimp only
  repeat' first
    | with_reducible assumption
    | with_reducible apply State.updLink_kept
    | with_reducible apply State.idleFlit_kept
    | with_reducible apply State.routePacket_kept
    | with_reducible refine kept_fst ?_ (by with_reducible assumption)
    | split
    | dsimp only
    | fail_if_no_progress with_reducible apply kept_same
    | with_reducible refine answered_kept _ _ _ _ ?_
    | with_reducible refine next_kept ?_
    | intro _

theorem execFabStall_kept (l cls : Nat) {s : State} (hk : Kept Q s) {z : State} (hz : execFabStall l cls s = .next z) : Kept Q z := by
  revert hz
  unfold execFabStall
  try dsimp only
  try with_reducible refine next_kept ?_
  try dsimp only
  repeat' first
    | with_reducible assumption
    | with_reducible apply State.updLink_kept
    | with_reducible apply State.record_kept
    | with_reducible apply State.advance_kept
    | with_reducible refine kept_fst ?_ (by with_reducible assumption)
    | split
    | dsimp only
    | fail_if_no_progress with_reducible apply kept_same
    | with_reducible refine answered_kept _ _ _ _ ?_
    | with_reducible refine next_kept ?_
    | intro _

theorem execTc0TokenGain_kept (l : Nat) {s : State} (hk : Kept Q s) {z : State} (hz : execTc0TokenGain l s = .next z) : Kept Q z := by
  revert hz
  unfold execTc0TokenGain
  try dsimp only
  try with_reducible refine next_kept ?_
  try dsimp only
  repeat' first
    | with_reducible assumption
    | with_reducible apply State.updLink_kept
    | with_reducible refine kept_fst ?_ (by with_reducible assumption)
    | split
    | dsimp only
    | fail_if_no_progress with_reducible apply kept_same
    | with_reducible refine answered_kept _ _ _ _ ?_
    | with_reducible refine next_kept ?_
    | intro _

theorem execRoutingCommit_kept (t : Nat) {s : State} (hk : Kept Q s) {z : State} (hz : execRoutingCommit t s = .next z) : Kept Q z := by
  revert hz
  unfold execRoutingCommit
  try dsimp only
  try with_reducible refine next_kept ?_
  try dsimp only
  repeat' first
    | with_reducible assumption
    | with_reducible apply State.routeCommit_kept
    | with_reducible refine kept_fst ?_ (by with_reducible assumption)
    | split
    | dsimp only
    | fail_if_no_progress with_reducible apply kept_same
    | with_reducible refine answered_kept _ _ _ _ ?_
    | with_reducible refine next_kept ?_
    | intro _

theorem execRoutingTableCopy_kept {s : State} (hk : Kept Q s) {z : State} (hz : execRoutingTableCopy s = .next z) : Kept Q z := by
  revert hz
  unfold execRoutingTableCopy
  try dsimp only
  try with_reducible refine next_kept ?_
  try dsimp only
  repeat' first
    | with_reducible assumption
    | with_reducible apply State.withTime_kept
    | with_reducible apply State.advance_kept
    | with_reducible apply State.copyRoutes_kept
    | with_reducible refine kept_fst ?_ (by with_reducible assumption)
    | split
    | dsimp only
    | fail_if_no_progress with_reducible apply kept_same
    | with_reducible refine answered_kept _ _ _ _ ?_
    | with_reducible refine next_kept ?_
    | intro _

theorem execWriteReceive_kept {s : State} (hk : Kept Q s) {z : State} (hz : execWriteReceive s = .next z) : Kept Q z := by
  revert hz
  unfold execWriteReceive
  try dsimp only
  try with_reducible refine next_kept ?_
  try dsimp only
  repeat' first
    | with_reducible assumption
    | with_reducible refine State.onPacket_kept _ (fun _ _ _ => ?_) ?_
    | with_reducible apply State.takeWrite_kept
    | with_reducible refine kept_fst ?_ (by with_reducible assumption)
    | split
    | dsimp only
    | fail_if_no_progress with_reducible apply kept_same
    | with_reducible refine answered_kept _ _ _ _ ?_
    | with_reducible refine next_kept ?_
    | intro _

theorem execDoneSend_kept (src xfer : Nat) {s : State} (hk : Kept Q s) {z : State} (hz : execDoneSend src xfer s = .next z) : Kept Q z := by
  revert hz
  unfold execDoneSend
  try dsimp only
  try with_reducible refine next_kept ?_
  try dsimp only
  repeat' first
    | with_reducible assumption
    | with_reducible apply State.sendDone_kept
    | with_reducible refine kept_fst ?_ (by with_reducible assumption)
    | split
    | dsimp only
    | fail_if_no_progress with_reducible apply kept_same
    | with_reducible refine answered_kept _ _ _ _ ?_
    | with_reducible refine next_kept ?_
    | intro _

theorem execDoneReceive_kept {s : State} (hk : Kept Q s) {z : State} (hz : execDoneReceive s = .next z) : Kept Q z := by
  revert hz
  unfold execDoneReceive
  try dsimp only
  try with_reducible refine next_kept ?_
  try dsimp only
  repeat' first
    | with_reducible assumption
    | with_reducible refine State.onPacket_kept _ (fun _ _ _ => ?_) ?_
    | with_reducible apply State.takeDone_kept
    | with_reducible refine kept_fst ?_ (by with_reducible assumption)
    | split
    | dsimp only
    | fail_if_no_progress with_reducible apply kept_same
    | with_reducible refine answered_kept _ _ _ _ ?_
    | with_reducible refine next_kept ?_
    | intro _

theorem execNormMessageReceive_kept {s : State} (hk : Kept Q s) {z : State} (hz : execNormMessageReceive s = .next z) : Kept Q z := by
  revert hz
  unfold execNormMessageReceive
  try dsimp only
  try with_reducible refine next_kept ?_
  try dsimp only
  repeat' first
    | with_reducible assumption
    | with_reducible apply State.normMessage_kept
    | with_reducible refine State.onPacket_kept _ (fun _ _ _ => ?_) ?_
    | with_reducible refine kept_fst ?_ (by with_reducible assumption)
    | split
    | dsimp only
    | fail_if_no_progress with_reducible apply kept_same
    | with_reducible refine answered_kept _ _ _ _ ?_
    | with_reducible refine next_kept ?_
    | intro _

theorem execBarrierMessageReceive_kept {s : State} (hk : Kept Q s) {z : State} (hz : execBarrierMessageReceive s = .next z) : Kept Q z := by
  revert hz
  unfold execBarrierMessageReceive
  try dsimp only
  try with_reducible refine next_kept ?_
  try dsimp only
  repeat' first
    | with_reducible assumption
    | with_reducible apply State.barrierMessage_kept
    | with_reducible refine State.onPacket_kept _ (fun _ _ _ => ?_) ?_
    | with_reducible refine kept_fst ?_ (by with_reducible assumption)
    | split
    | dsimp only
    | fail_if_no_progress with_reducible apply kept_same
    | with_reducible refine answered_kept _ _ _ _ ?_
    | with_reducible refine next_kept ?_
    | intro _

theorem execReduceCreditReceive_kept {s : State} (hk : Kept Q s) {z : State} (hz : execReduceCreditReceive s = .next z) : Kept Q z := by
  revert hz
  unfold execReduceCreditReceive
  try dsimp only
  try with_reducible refine next_kept ?_
  try dsimp only
  repeat' first
    | with_reducible assumption
    | with_reducible apply State.reduceCredit_kept
    | with_reducible refine State.onPacket_kept _ (fun _ _ _ => ?_) ?_
    | with_reducible refine kept_fst ?_ (by with_reducible assumption)
    | split
    | dsimp only
    | fail_if_no_progress with_reducible apply kept_same
    | with_reducible refine answered_kept _ _ _ _ ?_
    | with_reducible refine next_kept ?_
    | intro _

theorem execFenceMessageReceive_kept {s : State} (hk : Kept Q s) {z : State} (hz : execFenceMessageReceive s = .next z) : Kept Q z := by
  revert hz
  unfold execFenceMessageReceive
  try dsimp only
  try with_reducible refine next_kept ?_
  try dsimp only
  repeat' first
    | with_reducible assumption
    | with_reducible refine State.onPacket_kept _ (fun _ _ _ => ?_) ?_
    | with_reducible apply State.fenceMessage_kept
    | with_reducible refine kept_fst ?_ (by with_reducible assumption)
    | split
    | dsimp only
    | fail_if_no_progress with_reducible apply kept_same
    | with_reducible refine answered_kept _ _ _ _ ?_
    | with_reducible refine next_kept ?_
    | intro _

theorem execCreditMessageReceive_kept {s : State} (hk : Kept Q s) {z : State} (hz : execCreditMessageReceive s = .next z) : Kept Q z := by
  revert hz
  unfold execCreditMessageReceive
  try dsimp only
  try with_reducible refine next_kept ?_
  try dsimp only
  repeat' first
    | with_reducible assumption
    | with_reducible refine State.onPacket_kept _ (fun _ _ _ => ?_) ?_
    | with_reducible apply State.creditMessage_kept
    | with_reducible refine kept_fst ?_ (by with_reducible assumption)
    | split
    | dsimp only
    | fail_if_no_progress with_reducible apply kept_same
    | with_reducible refine answered_kept _ _ _ _ ?_
    | with_reducible refine next_kept ?_
    | intro _

theorem execArbiterDecision_kept (k inst : Nat) (reqs : List Request) {s : State} (hk : Kept Q s) {z : State} (hz : execArbiterDecision k inst reqs s = .next z) : Kept Q z := by
  revert hz
  unfold execArbiterDecision
  try dsimp only
  try with_reducible refine next_kept ?_
  try dsimp only
  repeat' first
    | with_reducible assumption
    | with_reducible apply State.spend_kept
    | with_reducible apply State.grant_kept
    | with_reducible apply State.decideLink_kept
    | with_reducible refine kept_fst ?_ (by with_reducible assumption)
    | split
    | dsimp only
    | fail_if_no_progress with_reducible apply kept_same
    | with_reducible refine answered_kept _ _ _ _ ?_
    | with_reducible refine next_kept ?_
    | intro _

theorem execTimeExchangeStart_kept {s0 : State} (hk : Kept Q s0) {z : State} (hz : execTimeExchangeStart s0 = .next z) : Kept Q z := by
  revert hz
  unfold execTimeExchangeStart
  dsimp only
  with_reducible refine next_kept ?_
  refine kept_foldl (fun _ l h => ?_) _ ?_
  · repeat' first
      | with_reducible assumption
      | with_reducible apply State.sendTime_kept
      | with_reducible apply State.updLink_kept
      | split
  · repeat' first
      | with_reducible assumption
      | with_reducible apply State.withTime_kept
      | with_reducible apply State.missInterval_kept
      | with_reducible apply State.advance_kept
      | with_reducible apply State.setTimeSt_kept
      | split

theorem execFrefLoss_kept {s : State} (hk : Kept Q s) {z : State} (hz : execFrefLoss s = .next z) : Kept Q z := by
  revert hz
  unfold execFrefLoss
  try dsimp only
  try with_reducible refine next_kept ?_
  try dsimp only
  repeat' first
    | with_reducible assumption
    | with_reducible apply State.withTime_kept
    | with_reducible apply State.record_kept
    | with_reducible apply State.linkLost_kept
    | with_reducible apply State.setTimeSt_kept
    | with_reducible refine kept_fst ?_ (by with_reducible assumption)
    | with_reducible refine kept_foldl (fun _ _ _ => ?_) _ ?_
    | with_reducible refine kept_foldl_run (fun _ _ _ => ?_) _ ?_
    | with_reducible refine kept_foldl_work (fun _ _ _ => ?_) _ ?_
    | with_reducible refine kept_foldl_cast (fun _ _ _ => ?_) _ ?_
    | with_reducible refine kept_foldl_pass (fun _ _ _ => ?_) _ ?_
    | with_reducible refine kept_foldl_workp (fun _ _ _ => ?_) _ ?_
    | with_reducible refine kept_foldl_fst (fun _ _ _ => ?_) _ ?_
    | split
    | dsimp only
    | fail_if_no_progress with_reducible apply kept_same
    | with_reducible refine answered_kept _ _ _ _ ?_
    | with_reducible refine next_kept ?_
    | intro _

theorem execFrefRestore_kept {s : State} (hk : Kept Q s) {z : State} (hz : execFrefRestore s = .next z) : Kept Q z := by
  revert hz
  unfold execFrefRestore
  try dsimp only
  try with_reducible refine next_kept ?_
  try dsimp only
  repeat' first
    | with_reducible assumption
    | with_reducible apply State.withTime_kept
    | with_reducible apply State.setTimeSt_kept
    | with_reducible refine kept_fst ?_ (by with_reducible assumption)
    | split
    | dsimp only
    | fail_if_no_progress with_reducible apply kept_same
    | with_reducible refine answered_kept _ _ _ _ ?_
    | with_reducible refine next_kept ?_
    | intro _

theorem execMediaOpen_kept (cc : Nat) {s : State} (hk : Kept Q s) {z : State} (hz : execMediaOpen cc s = .next z) : Kept Q z := by
  revert hz
  unfold execMediaOpen
  try dsimp only
  try with_reducible refine next_kept ?_
  try dsimp only
  repeat' first
    | with_reducible assumption
    | with_reducible apply State.withMedia_kept
    | with_reducible apply State.touchDescs_kept
    | with_reducible apply State.endMedia_kept
    | with_reducible refine State.runMedia_kept _ _ _ _ _ (fun _ _ _ _ _ => ?_) ?_
    | with_reducible apply State.rejectMedia_kept
    | with_reducible refine kept_fst ?_ (by with_reducible assumption)
    | split
    | dsimp only
    | fail_if_no_progress with_reducible apply kept_same
    | with_reducible refine answered_kept _ _ _ _ ?_
    | with_reducible refine next_kept ?_
    | intro _

theorem execMediaAdd_kept (cc : Nat) {s : State} (hk : Kept Q s) {z : State} (hz : execMediaAdd cc s = .next z) : Kept Q z := by
  revert hz
  unfold execMediaAdd
  try dsimp only
  try with_reducible refine next_kept ?_
  try dsimp only
  repeat' first
    | with_reducible assumption
    | with_reducible apply State.touchRecord_kept
    | with_reducible apply State.endMedia_kept
    | with_reducible refine State.runMedia_kept _ _ _ _ _ (fun _ _ _ _ _ => ?_) ?_
    | with_reducible apply State.rejectMedia_kept
    | with_reducible apply State.enrol_kept
    | with_reducible refine kept_fst ?_ (by with_reducible assumption)
    | with_reducible refine kept_foldl (fun _ _ _ => ?_) _ ?_
    | with_reducible refine kept_foldl_run (fun _ _ _ => ?_) _ ?_
    | with_reducible refine kept_foldl_work (fun _ _ _ => ?_) _ ?_
    | with_reducible refine kept_foldl_cast (fun _ _ _ => ?_) _ ?_
    | with_reducible refine kept_foldl_pass (fun _ _ _ => ?_) _ ?_
    | with_reducible refine kept_foldl_workp (fun _ _ _ => ?_) _ ?_
    | with_reducible refine kept_foldl_fst (fun _ _ _ => ?_) _ ?_
    | split
    | dsimp only
    | fail_if_no_progress with_reducible apply kept_same
    | with_reducible refine answered_kept _ _ _ _ ?_
    | with_reducible refine next_kept ?_
    | intro _

theorem execMediaClose_kept (cc : Nat) {s : State} (hk : Kept Q s) {z : State} (hz : execMediaClose cc s = .next z) : Kept Q z := by
  revert hz
  unfold execMediaClose
  try dsimp only
  try with_reducible refine next_kept ?_
  try dsimp only
  repeat' first
    | with_reducible assumption
    | with_reducible apply State.endMedia_kept
    | with_reducible refine State.runMedia_kept _ _ _ _ _ (fun _ _ _ _ _ => ?_) ?_
    | with_reducible apply State.resolve_kept
    | with_reducible apply State.bringSlot_kept
    | with_reducible refine kept_fst ?_ (by with_reducible assumption)
    | with_reducible refine kept_foldl (fun _ _ _ => ?_) _ ?_
    | with_reducible refine kept_foldl_run (fun _ _ _ => ?_) _ ?_
    | with_reducible refine kept_foldl_work (fun _ _ _ => ?_) _ ?_
    | with_reducible refine kept_foldl_cast (fun _ _ _ => ?_) _ ?_
    | with_reducible refine kept_foldl_pass (fun _ _ _ => ?_) _ ?_
    | with_reducible refine kept_foldl_workp (fun _ _ _ => ?_) _ ?_
    | with_reducible refine kept_foldl_fst (fun _ _ _ => ?_) _ ?_
    | split
    | dsimp only
    | fail_if_no_progress with_reducible apply kept_same
    | with_reducible refine answered_kept _ _ _ _ ?_
    | with_reducible refine next_kept ?_
    | intro _

theorem execSampleDecodeStart_kept (engine inst : Nat) {s : State} (hk : Kept Q s) {z : State} (hz : execSampleDecodeStart engine inst s = .next z) : Kept Q z := by
  revert hz
  unfold execSampleDecodeStart
  try dsimp only
  try with_reducible refine next_kept ?_
  try dsimp only
  repeat' first
    | with_reducible assumption
    | with_reducible apply State.touch_kept
    | with_reducible apply State.countFault_kept
    | with_reducible apply State.stopOwed_kept
    | with_reducible apply State.updSlot_kept
    | with_reducible apply State.putBatch_kept
    | with_reducible apply State.resolve_kept
    | with_reducible refine kept_fst ?_ (by with_reducible assumption)
    | split
    | dsimp only
    | fail_if_no_progress with_reducible apply kept_same
    | with_reducible refine answered_kept _ _ _ _ ?_
    | with_reducible refine next_kept ?_
    | intro _

theorem execSampleValid_kept (b sl : Nat) {s : State} (hk : Kept Q s) {z : State} (hz : execSampleValid b sl s = .next z) : Kept Q z := by
  revert hz
  unfold execSampleValid
  try dsimp only
  try with_reducible refine next_kept ?_
  try dsimp only
  repeat' first
    | with_reducible assumption
    | with_reducible apply State.fillSlot_kept
    | with_reducible refine State.sampleDone_kept _ _ (fun _ _ _ _ => ?_) ?_
    | with_reducible refine kept_fst ?_ (by with_reducible assumption)
    | split
    | dsimp only
    | fail_if_no_progress with_reducible apply kept_same
    | with_reducible refine answered_kept _ _ _ _ ?_
    | with_reducible refine next_kept ?_
    | intro _

theorem execSampleInvalid_kept (b sl reason : Nat) {s : State} (hk : Kept Q s) {z : State} (hz : execSampleInvalid b sl reason s = .next z) : Kept Q z := by
  revert hz
  unfold execSampleInvalid
  try dsimp only
  try with_reducible refine next_kept ?_
  try dsimp only
  repeat' first
    | with_reducible assumption
    | with_reducible apply State.resolve_kept
    | with_reducible refine State.sampleDone_kept _ _ (fun _ _ _ _ => ?_) ?_
    | with_reducible refine kept_fst ?_ (by with_reducible assumption)
    | split
    | dsimp only
    | fail_if_no_progress with_reducible apply kept_same
    | with_reducible refine answered_kept _ _ _ _ ?_
    | with_reducible refine next_kept ?_
    | intro _

theorem execSlotDeadline_kept (b sl : Nat) {s : State} (hk : Kept Q s) {z : State} (hz : execSlotDeadline b sl s = .next z) : Kept Q z := by
  revert hz
  unfold execSlotDeadline
  try dsimp only
  try with_reducible refine next_kept ?_
  try dsimp only
  repeat' first
    | with_reducible assumption
    | with_reducible apply State.advance_kept
    | with_reducible apply State.passDeadline_kept
    | with_reducible refine kept_fst ?_ (by with_reducible assumption)
    | split
    | dsimp only
    | fail_if_no_progress with_reducible apply kept_same
    | with_reducible refine answered_kept _ _ _ _ ?_
    | with_reducible refine next_kept ?_
    | intro _

theorem execBatchComplete_kept (b : Nat) {s : State} (hk : Kept Q s) {z : State} (hz : execBatchComplete b s = .next z) : Kept Q z := by
  revert hz
  unfold execBatchComplete
  try dsimp only
  try with_reducible refine next_kept ?_
  try dsimp only
  repeat' first
    | with_reducible assumption
    | with_reducible apply State.withMedia_kept
    | with_reducible apply State.odSetN_kept
    | with_reducible apply State.mediaPut_kept
    | with_reducible refine kept_fst ?_ (by with_reducible assumption)
    | split
    | dsimp only
    | fail_if_no_progress with_reducible apply kept_same
    | with_reducible refine answered_kept _ _ _ _ ?_
    | with_reducible refine next_kept ?_
    | intro _

theorem execSopen_kept (cc : Nat) {s : State} (hk : Kept Q s) {z : State} (hz : execSopen cc s = .next z) : Kept Q z := by
  revert hz
  unfold execSopen
  try dsimp only
  try with_reducible refine next_kept ?_
  try dsimp only
  repeat' first
    | with_reducible assumption
    | with_reducible apply State.withMedia_kept
    | with_reducible apply State.endMedia_kept
    | with_reducible refine State.runMedia_kept _ _ _ _ _ (fun _ _ _ _ _ => ?_) ?_
    | with_reducible apply State.rejectMedia_kept
    | with_reducible refine kept_fst ?_ (by with_reducible assumption)
    | split
    | dsimp only
    | fail_if_no_progress with_reducible apply kept_same
    | with_reducible refine answered_kept _ _ _ _ ?_
    | with_reducible refine next_kept ?_
    | intro _

theorem execStreamData_kept (cc : Nat) {s : State} (hk : Kept Q s) {z : State} (hz : execStreamData cc s = .next z) : Kept Q z := by
  revert hz
  unfold execStreamData
  try dsimp only
  try with_reducible refine next_kept ?_
  try dsimp only
  repeat' first
    | with_reducible assumption
    | with_reducible apply Work.fault_kept
    | with_reducible apply State.endMedia_kept
    | with_reducible refine State.runMedia_kept _ _ _ _ _ (fun _ _ _ _ _ => ?_) ?_
    | with_reducible apply State.rejectMedia_kept
    | with_reducible apply State.feedStream_kept
    | with_reducible refine kept_fst ?_ (by with_reducible assumption)
    | split
    | dsimp only
    | fail_if_no_progress with_reducible apply kept_same
    | with_reducible refine answered_kept _ _ _ _ ?_
    | with_reducible refine next_kept ?_
    | intro _

theorem execRoute_kept (cc : Nat) {s : State} (hk : Kept Q s) {z : State} (hz : execRoute cc s = .next z) : Kept Q z := by
  revert hz
  unfold execRoute
  try dsimp only
  try with_reducible refine next_kept ?_
  try dsimp only
  repeat' first
    | with_reducible assumption
    | with_reducible apply State.touchRecord_kept
    | with_reducible apply State.endMedia_kept
    | with_reducible refine State.runMedia_kept _ _ _ _ _ (fun _ _ _ _ _ => ?_) ?_
    | with_reducible apply State.rejectMedia_kept
    | with_reducible apply State.admitRoutes_kept
    | with_reducible refine kept_fst ?_ (by with_reducible assumption)
    | split
    | dsimp only
    | fail_if_no_progress with_reducible apply kept_same
    | with_reducible refine answered_kept _ _ _ _ ?_
    | with_reducible refine next_kept ?_
    | intro _

theorem execPictureEntropyStart_kept (engine : Nat) {s : State} (hk : Kept Q s) {z : State} (hz : execPictureEntropyStart engine s = .next z) : Kept Q z := by
  revert hz
  unfold execPictureEntropyStart
  try dsimp only
  try with_reducible refine next_kept ?_
  try dsimp only
  repeat' first
    | with_reducible assumption
    | with_reducible apply State.updPic_kept
    | with_reducible refine kept_fst ?_ (by with_reducible assumption)
    | with_reducible refine kept_foldl (fun _ _ _ => ?_) _ ?_
    | with_reducible refine kept_foldl_run (fun _ _ _ => ?_) _ ?_
    | with_reducible refine kept_foldl_work (fun _ _ _ => ?_) _ ?_
    | with_reducible refine kept_foldl_cast (fun _ _ _ => ?_) _ ?_
    | with_reducible refine kept_foldl_pass (fun _ _ _ => ?_) _ ?_
    | with_reducible refine kept_foldl_workp (fun _ _ _ => ?_) _ ?_
    | with_reducible refine kept_foldl_fst (fun _ _ _ => ?_) _ ?_
    | split
    | dsimp only
    | fail_if_no_progress with_reducible apply kept_same
    | with_reducible refine answered_kept _ _ _ _ ?_
    | with_reducible refine next_kept ?_
    | intro _

theorem execPictureReconstruct_kept (sc pic : Nat) {s : State} (hk : Kept Q s) {z : State} (hz : execPictureReconstruct sc pic s = .next z) : Kept Q z := by
  revert hz
  unfold execPictureReconstruct
  try dsimp only
  try with_reducible refine next_kept ?_
  try dsimp only
  repeat' first
    | with_reducible assumption
    | with_reducible apply State.odInc_kept
    | with_reducible apply State.countFault_kept
    | with_reducible apply State.stopOwed_kept
    | with_reducible apply putStream_kept
    | with_reducible apply Work.settle_kept
    | with_reducible apply State.putStream_kept
    | with_reducible apply State.streamFault_kept
    | with_reducible apply State.settle_kept
    | with_reducible apply State.readArea_kept
    | with_reducible apply State.keepPicture_kept
    | with_reducible refine kept_fst ?_ (by with_reducible assumption)
    | split
    | dsimp only
    | fail_if_no_progress with_reducible apply kept_same
    | with_reducible refine answered_kept _ _ _ _ ?_
    | with_reducible refine next_kept ?_
    | intro _

theorem execRoutedPictureShape_kept (sc pic : Nat) {s : State} (hk : Kept Q s) {z : State} (hz : execRoutedPictureShape sc pic s = .next z) : Kept Q z := by
  revert hz
  unfold execRoutedPictureShape
  try dsimp only
  try with_reducible refine next_kept ?_
  try dsimp only
  repeat' first
    | with_reducible assumption
    | with_reducible apply State.countFault_kept
    | with_reducible apply State.stopOwed_kept
    | with_reducible apply State.resolve_kept
    | with_reducible apply State.fillSlot_kept
    | with_reducible apply State.updPic_kept
    | with_reducible apply State.readArea_kept
    | with_reducible refine kept_fst ?_ (by with_reducible assumption)
    | with_reducible refine kept_foldl (fun _ _ _ => ?_) _ ?_
    | with_reducible refine kept_foldl_run (fun _ _ _ => ?_) _ ?_
    | with_reducible refine kept_foldl_work (fun _ _ _ => ?_) _ ?_
    | with_reducible refine kept_foldl_cast (fun _ _ _ => ?_) _ ?_
    | with_reducible refine kept_foldl_pass (fun _ _ _ => ?_) _ ?_
    | with_reducible refine kept_foldl_workp (fun _ _ _ => ?_) _ ?_
    | with_reducible refine kept_foldl_fst (fun _ _ _ => ?_) _ ?_
    | split
    | dsimp only
    | fail_if_no_progress with_reducible apply kept_same
    | with_reducible refine answered_kept _ _ _ _ ?_
    | with_reducible refine next_kept ?_
    | intro _

theorem execLivePictureDeadline_kept (sc pic : Nat) {s : State} (hk : Kept Q s) {z : State} (hz : execLivePictureDeadline sc pic s = .next z) : Kept Q z := by
  revert hz
  unfold execLivePictureDeadline
  try dsimp only
  try with_reducible refine next_kept ?_
  try dsimp only
  repeat' first
    | with_reducible assumption
    | with_reducible apply State.odInc_kept
    | with_reducible apply State.advance_kept
    | with_reducible apply Work.settle_kept
    | with_reducible apply State.streamFault_kept
    | with_reducible apply State.settle_kept
    | with_reducible apply State.updPic_kept
    | with_reducible apply State.lateSlots_kept
    | with_reducible refine kept_fst ?_ (by with_reducible assumption)
    | split
    | dsimp only
    | fail_if_no_progress with_reducible apply kept_same
    | with_reducible refine answered_kept _ _ _ _ ?_
    | with_reducible refine next_kept ?_
    | intro _

theorem execSclose_kept (cc : Nat) {s : State} (hk : Kept Q s) {z : State} (hz : execSclose cc s = .next z) : Kept Q z := by
  revert hz
  unfold execSclose
  try dsimp only
  try with_reducible refine next_kept ?_
  try dsimp only
  repeat' first
    | with_reducible assumption
    | with_reducible apply State.endMedia_kept
    | with_reducible refine State.runMedia_kept _ _ _ _ _ (fun _ _ _ _ _ => ?_) ?_
    | with_reducible apply State.rejectMedia_kept
    | with_reducible apply State.closeStream_kept
    | with_reducible refine kept_fst ?_ (by with_reducible assumption)
    | split
    | dsimp only
    | fail_if_no_progress with_reducible apply kept_same
    | with_reducible refine answered_kept _ _ _ _ ?_
    | with_reducible refine next_kept ?_
    | intro _

theorem execEopen_kept (cc : Nat) {s : State} (hk : Kept Q s) {z : State} (hz : execEopen cc s = .next z) : Kept Q z := by
  revert hz
  unfold execEopen
  try dsimp only
  try with_reducible refine next_kept ?_
  try dsimp only
  repeat' first
    | with_reducible assumption
    | with_reducible apply State.withMedia_kept
    | with_reducible apply State.endMedia_kept
    | with_reducible refine State.runMedia_kept _ _ _ _ _ (fun _ _ _ _ _ => ?_) ?_
    | with_reducible apply State.rejectMedia_kept
    | with_reducible refine kept_fst ?_ (by with_reducible assumption)
    | split
    | dsimp only
    | fail_if_no_progress with_reducible apply kept_same
    | with_reducible refine answered_kept _ _ _ _ ?_
    | with_reducible refine next_kept ?_
    | intro _

theorem execEncodePicture_kept (cc : Nat) {s : State} (hk : Kept Q s) {z : State} (hz : execEncodePicture cc s = .next z) : Kept Q z := by
  revert hz
  unfold execEncodePicture
  try dsimp only
  try with_reducible refine next_kept ?_
  try dsimp only
  repeat' first
    | with_reducible assumption
    | with_reducible apply Work.fault_kept
    | with_reducible apply State.endMedia_kept
    | with_reducible refine State.runMedia_kept _ _ _ _ _ (fun _ _ _ _ _ => ?_) ?_
    | with_reducible apply State.rejectMedia_kept
    | with_reducible apply State.readArea_kept
    | with_reducible apply State.keepCoded_kept
    | with_reducible apply State.storeCoded_kept
    | with_reducible refine kept_fst ?_ (by with_reducible assumption)
    | split
    | dsimp only
    | fail_if_no_progress with_reducible apply kept_same
    | with_reducible refine answered_kept _ _ _ _ ?_
    | with_reducible refine next_kept ?_
    | intro _

theorem execEclose_kept (cc : Nat) {s : State} (hk : Kept Q s) {z : State} (hz : execEclose cc s = .next z) : Kept Q z := by
  revert hz
  unfold execEclose
  try dsimp only
  try with_reducible refine next_kept ?_
  try dsimp only
  repeat' first
    | with_reducible assumption
    | with_reducible apply State.withMedia_kept
    | with_reducible apply State.endMedia_kept
    | with_reducible refine State.runMedia_kept _ _ _ _ _ (fun _ _ _ _ _ => ?_) ?_
    | with_reducible apply State.rejectMedia_kept
    | with_reducible refine kept_fst ?_ (by with_reducible assumption)
    | split
    | dsimp only
    | fail_if_no_progress with_reducible apply kept_same
    | with_reducible refine answered_kept _ _ _ _ ?_
    | with_reducible refine next_kept ?_
    | intro _

theorem execKeepLineClear_kept (p : Nat) {s : State} (hk : Kept Q s) {z : State} (hz : execKeepLineClear p s = .next z) : Kept Q z := by
  revert hz
  unfold execKeepLineClear
  try dsimp only
  try with_reducible refine next_kept ?_
  try dsimp only
  repeat' first
    | with_reducible assumption
    | with_reducible apply State.clearKeep_kept
    | with_reducible refine kept_fst ?_ (by with_reducible assumption)
    | split
    | dsimp only
    | fail_if_no_progress with_reducible apply kept_same
    | with_reducible refine answered_kept _ _ _ _ ?_
    | with_reducible refine next_kept ?_
    | intro _

theorem execLandingBoardClear_kept (p : Nat) {s : State} (hk : Kept Q s) {z : State} (hz : execLandingBoardClear p s = .next z) : Kept Q z := by
  revert hz
  unfold execLandingBoardClear
  try dsimp only
  try with_reducible refine next_kept ?_
  try dsimp only
  repeat' first
    | with_reducible assumption
    | with_reducible apply State.clearBoard_kept
    | with_reducible refine kept_fst ?_ (by with_reducible assumption)
    | split
    | dsimp only
    | fail_if_no_progress with_reducible apply kept_same
    | with_reducible refine answered_kept _ _ _ _ ?_
    | with_reducible refine next_kept ?_
    | intro _

theorem execLarderRead_kept (addr hint : Nat) (part : Option Nat) {s : State} (hk : Kept Q s) {z : State} (hz : execLarderRead addr hint part s = .next z) : Kept Q z := by
  revert hz
  unfold execLarderRead
  try dsimp only
  try with_reducible refine next_kept ?_
  try dsimp only
  repeat' first
    | with_reducible assumption
    | with_reducible apply State.readLarder_kept
    | with_reducible refine kept_fst ?_ (by with_reducible assumption)
    | split
    | dsimp only
    | fail_if_no_progress with_reducible apply kept_same
    | with_reducible refine answered_kept _ _ _ _ ?_
    | with_reducible refine next_kept ?_
    | intro _

theorem execLarderWrite_kept (addr hint : Nat) (part : Option Nat) (bytes : List (Option Byte)) {s : State} (hk : Kept Q s) {z : State} (hz : execLarderWrite addr hint part bytes s = .next z) : Kept Q z := by
  revert hz
  unfold execLarderWrite
  try dsimp only
  try with_reducible refine next_kept ?_
  try dsimp only
  repeat' first
    | with_reducible assumption
    | with_reducible apply State.writeLarder_kept
    | with_reducible refine kept_fst ?_ (by with_reducible assumption)
    | split
    | dsimp only
    | fail_if_no_progress with_reducible apply kept_same
    | with_reducible refine answered_kept _ _ _ _ ?_
    | with_reducible refine next_kept ?_
    | intro _

theorem execImbalanceWindowEnd_kept (d : Nat) {s : State} (hk : Kept Q s) {z : State} (hz : execImbalanceWindowEnd d s = .next z) : Kept Q z := by
  revert hz
  unfold execImbalanceWindowEnd
  try dsimp only
  try with_reducible refine next_kept ?_
  try dsimp only
  repeat' first
    | with_reducible assumption
    | with_reducible apply State.advance_kept
    | with_reducible apply State.endWindow_kept
    | with_reducible refine kept_fst ?_ (by with_reducible assumption)
    | split
    | dsimp only
    | fail_if_no_progress with_reducible apply kept_same
    | with_reducible refine answered_kept _ _ _ _ ?_
    | with_reducible refine next_kept ?_
    | intro _

theorem execThermalTrip_kept (sensor : Nat) {s : State} (hk : Kept Q s) {z : State} (hz : execThermalTrip sensor s = .next z) : Kept Q z := by
  revert hz
  unfold execThermalTrip
  try dsimp only
  try with_reducible refine next_kept ?_
  try dsimp only
  repeat' first
    | with_reducible assumption
    | with_reducible apply State.trip_kept
    | with_reducible refine kept_fst ?_ (by with_reducible assumption)
    | split
    | dsimp only
    | fail_if_no_progress with_reducible apply kept_same
    | with_reducible refine answered_kept _ _ _ _ ?_
    | with_reducible refine next_kept ?_
    | intro _

theorem execHubThermalTrip_kept {s : State} (hk : Kept Q s) {z : State} (hz : execHubThermalTrip s = .next z) : Kept Q z := by
  revert hz
  unfold execHubThermalTrip
  try dsimp only
  try with_reducible refine next_kept ?_
  try dsimp only
  repeat' first
    | with_reducible assumption
    | with_reducible apply State.off_kept
    | with_reducible refine kept_fst ?_ (by with_reducible assumption)
    | split
    | dsimp only
    | fail_if_no_progress with_reducible apply kept_same
    | with_reducible refine answered_kept _ _ _ _ ?_
    | with_reducible refine next_kept ?_
    | intro _

theorem execJunctionSample_kept (isl : Nat) (t twin : Int) {s : State} (hk : Kept Q s) {z : State} (hz : execJunctionSample isl t twin s = .next z) : Kept Q z := by
  revert hz
  unfold execJunctionSample
  try dsimp only
  try with_reducible refine next_kept ?_
  try dsimp only
  repeat' first
    | with_reducible assumption
    | with_reducible apply State.advance_kept
    | with_reducible apply State.sampleIsland_kept
    | with_reducible apply State.sampleNand_kept
    | with_reducible apply State.sampleUncore_kept
    | with_reducible refine kept_fst ?_ (by with_reducible assumption)
    | split
    | dsimp only
    | fail_if_no_progress with_reducible apply kept_same
    | with_reducible refine answered_kept _ _ _ _ ?_
    | with_reducible refine next_kept ?_
    | intro _

theorem execStackSample_kept (st : Nat) (t twin : Int) {s : State} (hk : Kept Q s) {z : State} (hz : execStackSample st t twin s = .next z) : Kept Q z := by
  revert hz
  unfold execStackSample
  try dsimp only
  try with_reducible refine next_kept ?_
  try dsimp only
  repeat' first
    | with_reducible assumption
    | with_reducible apply State.advance_kept
    | with_reducible apply State.sampleStack_kept
    | with_reducible refine kept_fst ?_ (by with_reducible assumption)
    | split
    | dsimp only
    | fail_if_no_progress with_reducible apply kept_same
    | with_reducible refine answered_kept _ _ _ _ ?_
    | with_reducible refine next_kept ?_
    | intro _

theorem execPowerControllerTick_kept (avgMw ma : Nat) {s : State} (hk : Kept Q s) {z : State} (hz : execPowerControllerTick avgMw ma s = .next z) : Kept Q z := by
  revert hz
  unfold execPowerControllerTick
  try dsimp only
  try with_reducible refine next_kept ?_
  try dsimp only
  repeat' first
    | with_reducible assumption
    | with_reducible apply State.advance_kept
    | with_reducible apply State.powerTick_kept
    | with_reducible refine kept_fst ?_ (by with_reducible assumption)
    | split
    | dsimp only
    | fail_if_no_progress with_reducible apply kept_same
    | with_reducible refine answered_kept _ _ _ _ ?_
    | with_reducible refine next_kept ?_
    | intro _

theorem execIslandVoltageStep_kept (isl : Nat) {s : State} (hk : Kept Q s) {z : State} (hz : execIslandVoltageStep isl s = .next z) : Kept Q z := by
  revert hz
  unfold execIslandVoltageStep
  try dsimp only
  try with_reducible refine next_kept ?_
  try dsimp only
  repeat' first
    | with_reducible assumption
    | with_reducible apply State.updIsland_kept
    | with_reducible apply State.advance_kept
    | with_reducible refine kept_fst ?_ (by with_reducible assumption)
    | split
    | dsimp only
    | fail_if_no_progress with_reducible apply kept_same
    | with_reducible refine answered_kept _ _ _ _ ?_
    | with_reducible refine next_kept ?_
    | intro _

theorem execPerformanceStateWrite_kept (isl mv : Nat) {s : State} (hk : Kept Q s) {z : State} (hz : execPerformanceStateWrite isl mv s = .next z) : Kept Q z := by
  revert hz
  unfold execPerformanceStateWrite
  try dsimp only
  try with_reducible refine next_kept ?_
  try dsimp only
  repeat' first
    | with_reducible assumption
    | with_reducible apply State.writePerf_kept
    | with_reducible refine kept_fst ?_ (by with_reducible assumption)
    | split
    | dsimp only
    | fail_if_no_progress with_reducible apply kept_same
    | with_reducible refine answered_kept _ _ _ _ ?_
    | with_reducible refine next_kept ?_
    | intro _

theorem execQuarterRetentionEntry_kept (q : Nat) {s : State} (hk : Kept Q s) {z : State} (hz : execQuarterRetentionEntry q s = .next z) : Kept Q z := by
  revert hz
  unfold execQuarterRetentionEntry
  try dsimp only
  try with_reducible refine next_kept ?_
  try dsimp only
  repeat' first
    | with_reducible assumption
    | with_reducible apply State.advance_kept
    | with_reducible apply State.retain_kept
    | with_reducible refine kept_fst ?_ (by with_reducible assumption)
    | split
    | dsimp only
    | fail_if_no_progress with_reducible apply kept_same
    | with_reducible refine answered_kept _ _ _ _ ?_
    | with_reducible refine next_kept ?_
    | intro _

theorem execCoolantSample_kept (tin tout : Int) {s : State} (hk : Kept Q s) {z : State} (hz : execCoolantSample tin tout s = .next z) : Kept Q z := by
  revert hz
  unfold execCoolantSample
  try dsimp only
  try with_reducible refine next_kept ?_
  try dsimp only
  repeat' first
    | with_reducible assumption
    | with_reducible apply State.advance_kept
    | with_reducible apply State.coolant_kept
    | with_reducible refine kept_fst ?_ (by with_reducible assumption)
    | split
    | dsimp only
    | fail_if_no_progress with_reducible apply kept_same
    | with_reducible refine answered_kept _ _ _ _ ?_
    | with_reducible refine next_kept ?_
    | intro _

theorem execP50vOn_kept (mv : Nat) {s : State} (hk : Kept Q s) {z : State} (hz : execP50vOn mv s = .next z) : Kept Q z := by
  revert hz
  unfold execP50vOn
  try dsimp only
  try with_reducible refine next_kept ?_
  try dsimp only
  repeat' first
    | with_reducible assumption
    | with_reducible apply State.alert_kept
    | with_reducible apply State.stage_kept
    | with_reducible apply State.off_kept
    | with_reducible refine kept_fst ?_ (by with_reducible assumption)
    | split
    | dsimp only
    | fail_if_no_progress with_reducible apply kept_same
    | with_reducible refine answered_kept _ _ _ _ ?_
    | with_reducible refine next_kept ?_
    | intro _

theorem execP50vOutOfRange_kept (mv : Nat) {s : State} (hk : Kept Q s) {z : State} (hz : execP50vOutOfRange mv s = .next z) : Kept Q z := by
  revert hz
  unfold execP50vOutOfRange
  try dsimp only
  try with_reducible refine next_kept ?_
  try dsimp only
  repeat' first
    | with_reducible assumption
    | with_reducible apply State.inputRange_kept
    | with_reducible refine kept_fst ?_ (by with_reducible assumption)
    | split
    | dsimp only
    | fail_if_no_progress with_reducible apply kept_same
    | with_reducible refine answered_kept _ _ _ _ ?_
    | with_reducible refine next_kept ?_
    | intro _

theorem execP50vInputLoss_kept (mv : Nat) {s : State} (hk : Kept Q s) {z : State} (hz : execP50vInputLoss mv s = .next z) : Kept Q z := by
  revert hz
  unfold execP50vInputLoss
  try dsimp only
  try with_reducible refine next_kept ?_
  try dsimp only
  repeat' first
    | with_reducible assumption
    | with_reducible apply State.inputLoss_kept
    | with_reducible refine kept_fst ?_ (by with_reducible assumption)
    | split
    | dsimp only
    | fail_if_no_progress with_reducible apply kept_same
    | with_reducible refine answered_kept _ _ _ _ ?_
    | with_reducible refine next_kept ?_
    | intro _

theorem execP50vReturnToRange_kept (mv : Nat) {s : State} (hk : Kept Q s) {z : State} (hz : execP50vReturnToRange mv s = .next z) : Kept Q z := by
  revert hz
  unfold execP50vReturnToRange
  try dsimp only
  try with_reducible refine next_kept ?_
  try dsimp only
  repeat' first
    | with_reducible assumption
    | with_reducible apply State.updIsland_kept
    | with_reducible apply State.withPwr_kept
    | with_reducible refine kept_fst ?_ (by with_reducible assumption)
    | with_reducible refine kept_foldl (fun _ _ _ => ?_) _ ?_
    | with_reducible refine kept_foldl_run (fun _ _ _ => ?_) _ ?_
    | with_reducible refine kept_foldl_work (fun _ _ _ => ?_) _ ?_
    | with_reducible refine kept_foldl_cast (fun _ _ _ => ?_) _ ?_
    | with_reducible refine kept_foldl_pass (fun _ _ _ => ?_) _ ?_
    | with_reducible refine kept_foldl_workp (fun _ _ _ => ?_) _ ?_
    | with_reducible refine kept_foldl_fst (fun _ _ _ => ?_) _ ?_
    | split
    | dsimp only
    | fail_if_no_progress with_reducible apply kept_same
    | with_reducible refine answered_kept _ _ _ _ ?_
    | with_reducible refine next_kept ?_
    | intro _

theorem execP50vOff_kept {s : State} (hk : Kept Q s) {z : State} (hz : execP50vOff s = .next z) : Kept Q z := by
  revert hz
  unfold execP50vOff
  try dsimp only
  try with_reducible refine next_kept ?_
  try dsimp only
  repeat' first
    | with_reducible assumption
    | with_reducible apply State.withPwr_kept
    | with_reducible apply State.off_kept
    | with_reducible refine kept_fst ?_ (by with_reducible assumption)
    | split
    | dsimp only
    | fail_if_no_progress with_reducible apply kept_same
    | with_reducible refine answered_kept _ _ _ _ ?_
    | with_reducible refine next_kept ?_
    | intro _

theorem execStageFault_kept (stage : Nat) {s : State} (hk : Kept Q s) {z : State} (hz : execStageFault stage s = .next z) : Kept Q z := by
  revert hz
  unfold execStageFault
  try dsimp only
  try with_reducible refine next_kept ?_
  try dsimp only
  repeat' first
    | with_reducible assumption
    | with_reducible apply State.stage_kept
    | with_reducible apply State.off_kept
    | with_reducible apply State.faultStage_kept
    | with_reducible refine kept_fst ?_ (by with_reducible assumption)
    | split
    | dsimp only
    | fail_if_no_progress with_reducible apply kept_same
    | with_reducible refine answered_kept _ _ _ _ ?_
    | with_reducible refine next_kept ?_
    | intro _

theorem execAlertClear_kept (mask : Nat) {s : State} (hk : Kept Q s) {z : State} (hz : execAlertClear mask s = .next z) : Kept Q z := by
  revert hz
  unfold execAlertClear
  try dsimp only
  try with_reducible refine next_kept ?_
  try dsimp only
  repeat' first
    | with_reducible assumption
    | with_reducible apply State.clearAlerts_kept
    | with_reducible refine kept_fst ?_ (by with_reducible assumption)
    | split
    | dsimp only
    | fail_if_no_progress with_reducible apply kept_same
    | with_reducible refine answered_kept _ _ _ _ ?_
    | with_reducible refine next_kept ?_
    | intro _

theorem execSliceStart_kept (u : TestUnit) {s : State} (hk : Kept Q s) {z : State} (hz : execSliceStart u s = .next z) : Kept Q z := by
  revert hz
  unfold execSliceStart
  try dsimp only
  try with_reducible refine next_kept ?_
  try dsimp only
  repeat' first
    | with_reducible assumption
    | with_reducible apply State.startSlice_kept
    | with_reducible refine kept_fst ?_ (by with_reducible assumption)
    | split
    | dsimp only
    | fail_if_no_progress with_reducible apply kept_same
    | with_reducible refine answered_kept _ _ _ _ ?_
    | with_reducible refine next_kept ?_
    | intro _

theorem execSliceEnd_kept (u : TestUnit) (r : SliceResult) {s : State} (hk : Kept Q s) {z : State} (hz : execSliceEnd u r s = .next z) : Kept Q z := by
  revert hz
  unfold execSliceEnd
  try dsimp only
  try with_reducible refine next_kept ?_
  try dsimp only
  repeat' first
    | with_reducible assumption
    | with_reducible apply State.raiseOverdue_kept
    | with_reducible apply State.leaveSlice_kept
    | with_reducible apply State.sliceResult_kept
    | with_reducible refine kept_fst ?_ (by with_reducible assumption)
    | split
    | dsimp only
    | fail_if_no_progress with_reducible apply kept_same
    | with_reducible refine answered_kept _ _ _ _ ?_
    | with_reducible refine next_kept ?_
    | intro _

theorem execSliceAbandon_kept (n : Nat) {s : State} (hk : Kept Q s) {z : State} (hz : execSliceAbandon n s = .next z) : Kept Q z := by
  revert hz
  unfold execSliceAbandon
  try dsimp only
  try with_reducible refine next_kept ?_
  try dsimp only
  repeat' first
    | with_reducible assumption
    | with_reducible apply State.odInc_kept
    | with_reducible apply State.flight_kept
    | with_reducible apply State.leaveSlice_kept
    | with_reducible refine kept_fst ?_ (by with_reducible assumption)
    | split
    | dsimp only
    | fail_if_no_progress with_reducible apply kept_same
    | with_reducible refine answered_kept _ _ _ _ ?_
    | with_reducible refine next_kept ?_
    | intro _

theorem execHbmWindowMove_kept (pc : Nat) (r : SliceResult) {s : State} (hk : Kept Q s) {z : State} (hz : execHbmWindowMove pc r s = .next z) : Kept Q z := by
  revert hz
  unfold execHbmWindowMove
  try dsimp only
  try with_reducible refine next_kept ?_
  try dsimp only
  repeat' first
    | with_reducible assumption
    | with_reducible apply State.raiseOverdue_kept
    | with_reducible apply State.moveWindow_kept
    | with_reducible apply State.windowResult_kept
    | with_reducible refine kept_fst ?_ (by with_reducible assumption)
    | split
    | dsimp only
    | fail_if_no_progress with_reducible apply kept_same
    | with_reducible refine answered_kept _ _ _ _ ?_
    | with_reducible refine next_kept ?_
    | intro _

theorem execLaneLoopback_kept (l : Nat) {s : State} (hk : Kept Q s) {z : State} (hz : execLaneLoopback l s = .next z) : Kept Q z := by
  revert hz
  unfold execLaneLoopback
  try dsimp only
  try with_reducible refine next_kept ?_
  try dsimp only
  repeat' first
    | with_reducible assumption
    | with_reducible apply State.startLoopback_kept
    | with_reducible refine kept_fst ?_ (by with_reducible assumption)
    | split
    | dsimp only
    | fail_if_no_progress with_reducible apply kept_same
    | with_reducible refine answered_kept _ _ _ _ ?_
    | with_reducible refine next_kept ?_
    | intro _

theorem execRepairEntryCommit_kept {s : State} (hk : Kept Q s) {z : State} (hz : execRepairEntryCommit s = .next z) : Kept Q z := by
  revert hz
  unfold execRepairEntryCommit
  try dsimp only
  try with_reducible refine next_kept ?_
  try dsimp only
  repeat' first
    | with_reducible assumption
    | with_reducible apply State.withDiag_kept
    | with_reducible refine kept_fst ?_ (by with_reducible assumption)
    | exact ⟨rfl, rfl⟩
    | split
    | dsimp only
    | fail_if_no_progress with_reducible apply kept_same
    | with_reducible refine answered_kept _ _ _ _ ?_
    | with_reducible refine next_kept ?_
    | intro _

theorem execFirmwareCommit_kept (t : Nat) {s : State} (hk : Kept Q s) {z : State} (hz : execFirmwareCommit t s = .next z) : Kept Q z := by
  revert hz
  unfold execFirmwareCommit
  try dsimp only
  try with_reducible refine next_kept ?_
  try dsimp only
  repeat' first
    | with_reducible assumption
    | with_reducible apply State.fwControl_kept
    | with_reducible refine kept_fst ?_ (by with_reducible assumption)
    | split
    | dsimp only
    | fail_if_no_progress with_reducible apply kept_same
    | with_reducible refine answered_kept _ _ _ _ ?_
    | with_reducible refine next_kept ?_
    | intro _

theorem execFirmwareAdvance_kept (t : Nat) {s : State} (hk : Kept Q s) {z : State} (hz : execFirmwareAdvance t s = .next z) : Kept Q z := by
  revert hz
  unfold execFirmwareAdvance
  try dsimp only
  try with_reducible refine next_kept ?_
  try dsimp only
  repeat' first
    | with_reducible assumption
    | with_reducible apply State.fwControl_kept
    | with_reducible refine kept_fst ?_ (by with_reducible assumption)
    | split
    | dsimp only
    | fail_if_no_progress with_reducible apply kept_same
    | with_reducible refine answered_kept _ _ _ _ ?_
    | with_reducible refine next_kept ?_
    | intro _

theorem execDebugTokenSubmit_kept {s : State} (hk : Kept Q s) {z : State} (hz : execDebugTokenSubmit s = .next z) : Kept Q z := by
  revert hz
  unfold execDebugTokenSubmit
  try dsimp only
  try with_reducible refine next_kept ?_
  try dsimp only
  repeat' first
    | with_reducible assumption
    | with_reducible apply State.submitToken_kept
    | with_reducible refine kept_fst ?_ (by with_reducible assumption)
    | split
    | dsimp only
    | fail_if_no_progress with_reducible apply kept_same
    | with_reducible refine answered_kept _ _ _ _ ?_
    | with_reducible refine next_kept ?_
    | intro _

theorem execSpdmMessage_kept (tchioz secured : Bool) (msg : List Byte) {s : State} (hk : Kept Q s) {z : State} (hz : execSpdmMessage tchioz secured msg s = .next z) : Kept Q z := by
  revert hz
  unfold execSpdmMessage
  try dsimp only
  try with_reducible refine next_kept ?_
  try dsimp only
  repeat' first
    | with_reducible assumption
    | with_reducible apply State.raise_kept
    | with_reducible apply State.answerSpdm_kept
    | with_reducible refine State.tchioz_kept _ _ (fun _ _ => ?_) ?_
    | with_reducible refine kept_fst ?_ (by with_reducible assumption)
    | split
    | dsimp only
    | fail_if_no_progress with_reducible apply kept_same
    | with_reducible refine answered_kept _ _ _ _ ?_
    | with_reducible refine next_kept ?_
    | intro _

theorem execStartupStageEnd_kept (r : StageResult) {s : State} (hk : Kept Q s) {z : State} (hz : execStartupStageEnd r s = .next z) : Kept Q z := by
  revert hz
  unfold execStartupStageEnd
  try dsimp only
  try with_reducible refine next_kept ?_
  try dsimp only
  repeat' first
    | with_reducible assumption
    | with_reducible apply State.stage_kept
    | with_reducible apply State.stopStart_kept
    | with_reducible apply State.stageDone_kept
    | with_reducible refine kept_fst ?_ (by with_reducible assumption)
    | split
    | dsimp only
    | fail_if_no_progress with_reducible apply kept_same
    | with_reducible refine answered_kept _ _ _ _ ?_
    | with_reducible refine next_kept ?_
    | intro _

theorem execModuleReset_kept {s : State} (hk : Kept Q s) {z : State} (hz : execModuleReset s = .next z) : Kept Q z := by
  revert hz
  unfold execModuleReset
  try dsimp only
  try with_reducible refine next_kept ?_
  try dsimp only
  repeat' first
    | with_reducible assumption
    | with_reducible apply State.emit_kept
    | with_reducible apply State.noteWrite_kept
    | with_reducible apply State.restarted_kept
    | with_reducible refine kept_fst ?_ (by with_reducible assumption)
    | split
    | dsimp only
    | fail_if_no_progress with_reducible apply kept_same
    | with_reducible refine answered_kept _ _ _ _ ?_
    | with_reducible refine next_kept ?_
    | intro _

theorem execResetIn_kept {s : State} (hk : Kept Q s) {z : State} (hz : execResetIn s = .next z) : Kept Q z := by
  revert hz
  unfold execResetIn
  try dsimp only
  try with_reducible refine next_kept ?_
  try dsimp only
  repeat' first
    | with_reducible assumption
    | with_reducible apply State.withPwr_kept
    | with_reducible apply State.stage_kept
    | with_reducible apply State.restarted_kept
    | with_reducible refine kept_fst ?_ (by with_reducible assumption)
    | split
    | dsimp only
    | fail_if_no_progress with_reducible apply kept_same
    | with_reducible refine answered_kept _ _ _ _ ?_
    | with_reducible refine next_kept ?_
    | intro _

theorem execResetInRelease_kept {s : State} (hk : Kept Q s) {z : State} (hz : execResetInRelease s = .next z) : Kept Q z := by
  revert hz
  unfold execResetInRelease
  try dsimp only
  try with_reducible refine next_kept ?_
  try dsimp only
  repeat' first
    | with_reducible assumption
    | with_reducible apply State.withPwr_kept
    | with_reducible refine kept_fst ?_ (by with_reducible assumption)
    | split
    | dsimp only
    | fail_if_no_progress with_reducible apply kept_same
    | with_reducible refine answered_kept _ _ _ _ ?_
    | with_reducible refine next_kept ?_
    | intro _

theorem execOdWrite_kept (ix sub v : Nat) {s : State} (hk : Kept Q s) {z : State} (hz : execOdWrite ix sub v s = .next z) : Kept Q z := by
  revert hz
  unfold execOdWrite
  try dsimp only
  try with_reducible refine next_kept ?_
  try dsimp only
  repeat' first
    | with_reducible assumption
    | with_reducible apply State.emit_kept
    | with_reducible apply State.odWriteNoted_kept
    | with_reducible refine kept_fst ?_ (by with_reducible assumption)
    | split
    | dsimp only
    | fail_if_no_progress with_reducible apply kept_same
    | with_reducible refine answered_kept _ _ _ _ ?_
    | with_reducible refine next_kept ?_
    | intro _

theorem execMailboxGo_kept (v : Nat) (bytes : List Byte) {s : State} (hk : Kept Q s) {z : State} (hz : execMailboxGo v bytes s = .next z) : Kept Q z := by
  revert hz
  unfold execMailboxGo
  try dsimp only
  try with_reducible refine next_kept ?_
  try dsimp only
  repeat' first
    | with_reducible assumption
    | with_reducible apply State.odInc_kept
    | with_reducible apply Gemm.go_kept
    | with_reducible apply State.mailboxRequest_kept
    | with_reducible apply State.fillRequest_kept
    | with_reducible apply State.clearDone_kept
    | with_reducible refine kept_fst ?_ (by with_reducible assumption)
    | split
    | dsimp only
    | fail_if_no_progress with_reducible apply kept_same
    | with_reducible refine answered_kept _ _ _ _ ?_
    | with_reducible refine next_kept ?_
    | intro _

theorem execRead_kept (m : MgmtMsg) {s : State} (hk : Kept Q s) {z : State} (hz : execRead m s = .next z) : Kept Q z := by
  revert hz
  unfold execRead
  try dsimp only
  try with_reducible refine next_kept ?_
  try dsimp only
  repeat' first
    | with_reducible assumption
    | with_reducible apply State.request_kept
    | with_reducible refine kept_fst ?_ (by with_reducible assumption)
    | split
    | dsimp only
    | fail_if_no_progress with_reducible apply kept_same
    | with_reducible refine answered_kept _ _ _ _ ?_
    | with_reducible refine next_kept ?_
    | intro _

theorem execWrite_kept (m : MgmtMsg) {s : State} (hk : Kept Q s) {z : State} (hz : execWrite m s = .next z) : Kept Q z := by
  revert hz
  unfold execWrite
  try dsimp only
  try with_reducible refine next_kept ?_
  try dsimp only
  repeat' first
    | with_reducible assumption
    | with_reducible apply State.request_kept
    | with_reducible refine kept_fst ?_ (by with_reducible assumption)
    | split
    | dsimp only
    | fail_if_no_progress with_reducible apply kept_same
    | with_reducible refine answered_kept _ _ _ _ ?_
    | with_reducible refine next_kept ?_
    | intro _

theorem execBlob_kept (m : MgmtMsg) {s : State} (hk : Kept Q s) {z : State} (hz : execBlob m s = .next z) : Kept Q z := by
  revert hz
  unfold execBlob
  try dsimp only
  try with_reducible refine next_kept ?_
  try dsimp only
  repeat' first
    | with_reducible assumption
    | with_reducible apply State.request_kept
    | with_reducible refine kept_fst ?_ (by with_reducible assumption)
    | split
    | dsimp only
    | fail_if_no_progress with_reducible apply kept_same
    | with_reducible refine answered_kept _ _ _ _ ?_
    | with_reducible refine next_kept ?_
    | intro _

theorem execDumpReq_kept (m : MgmtMsg) {s : State} (hk : Kept Q s) {z : State} (hz : execDumpReq m s = .next z) : Kept Q z := by
  revert hz
  unfold execDumpReq
  try dsimp only
  try with_reducible refine next_kept ?_
  try dsimp only
  repeat' first
    | with_reducible assumption
    | with_reducible apply State.request_kept
    | with_reducible refine kept_fst ?_ (by with_reducible assumption)
    | split
    | dsimp only
    | fail_if_no_progress with_reducible apply kept_same
    | with_reducible refine answered_kept _ _ _ _ ?_
    | with_reducible refine next_kept ?_
    | intro _

theorem execAssign_kept (m : MgmtMsg) {s : State} (hk : Kept Q s) {z : State} (hz : execAssign m s = .next z) : Kept Q z := by
  revert hz
  unfold execAssign
  try dsimp only
  try with_reducible refine next_kept ?_
  try dsimp only
  repeat' first
    | with_reducible assumption
    | with_reducible refine State.notice_kept _ _ (fun _ _ => ?_) ?_
    | with_reducible apply State.takeAssign_kept
    | with_reducible refine kept_fst ?_ (by with_reducible assumption)
    | split
    | dsimp only
    | fail_if_no_progress with_reducible apply kept_same
    | with_reducible refine answered_kept _ _ _ _ ?_
    | with_reducible refine next_kept ?_
    | intro _

theorem execConfirm_kept (m : MgmtMsg) {s : State} (hk : Kept Q s) {z : State} (hz : execConfirm m s = .next z) : Kept Q z := by
  revert hz
  unfold execConfirm
  try dsimp only
  try with_reducible refine next_kept ?_
  try dsimp only
  repeat' first
    | with_reducible assumption
    | with_reducible refine State.notice_kept _ _ (fun _ _ => ?_) ?_
    | with_reducible apply State.takeConfirm_kept
    | with_reducible refine kept_fst ?_ (by with_reducible assumption)
    | split
    | dsimp only
    | fail_if_no_progress with_reducible apply kept_same
    | with_reducible refine answered_kept _ _ _ _ ?_
    | with_reducible refine next_kept ?_
    | intro _

theorem execRelease_kept (m : MgmtMsg) {s : State} (hk : Kept Q s) {z : State} (hz : execRelease m s = .next z) : Kept Q z := by
  revert hz
  unfold execRelease
  try dsimp only
  try with_reducible refine next_kept ?_
  try dsimp only
  repeat' first
    | with_reducible assumption
    | with_reducible refine State.notice_kept _ _ (fun _ _ => ?_) ?_
    | with_reducible apply State.takeRelease_kept
    | with_reducible refine kept_fst ?_ (by with_reducible assumption)
    | split
    | dsimp only
    | fail_if_no_progress with_reducible apply kept_same
    | with_reducible refine answered_kept _ _ _ _ ?_
    | with_reducible refine next_kept ?_
    | intro _

theorem execAddrInChange_kept (level : Bool) {s : State} (hk : Kept Q s) {z : State} (hz : execAddrInChange level s = .next z) : Kept Q z := by
  revert hz
  unfold execAddrInChange
  try dsimp only
  try with_reducible refine next_kept ?_
  try dsimp only
  repeat' first
    | with_reducible assumption
    | with_reducible apply State.withMgmt_kept
    | with_reducible apply State.raise_kept
    | with_reducible refine kept_fst ?_ (by with_reducible assumption)
    | exact ⟨rfl, rfl⟩
    | split
    | dsimp only
    | fail_if_no_progress with_reducible apply kept_same
    | with_reducible refine answered_kept _ _ _ _ ?_
    | with_reducible refine next_kept ?_
    | intro _

theorem execEventAck_kept (m : MgmtMsg) {s : State} (hk : Kept Q s) {z : State} (hz : execEventAck m s = .next z) : Kept Q z := by
  revert hz
  unfold execEventAck
  with_reducible refine next_kept ?_
  refine State.notice_kept _ _ (fun t h => ?_) hk
  split
  · exact State.sendMgmt_kept _ _ _ h
  · exact kept_mgmt h ((List.length_filter_le _ _).trans h.events) h.replies

theorem execEventResend_kept {s : State} (hk : Kept Q s) {z : State} (hz : execEventResend s = .next z) : Kept Q z := by
  revert hz
  unfold execEventResend
  try dsimp only
  try with_reducible refine next_kept ?_
  try dsimp only
  repeat' first
    | with_reducible assumption
    | with_reducible apply State.sendMgmt_kept
    | with_reducible refine kept_fst ?_ (by with_reducible assumption)
    | with_reducible refine kept_foldl (fun _ _ _ => ?_) _ ?_
    | with_reducible refine kept_foldl_run (fun _ _ _ => ?_) _ ?_
    | with_reducible refine kept_foldl_work (fun _ _ _ => ?_) _ ?_
    | with_reducible refine kept_foldl_cast (fun _ _ _ => ?_) _ ?_
    | with_reducible refine kept_foldl_pass (fun _ _ _ => ?_) _ ?_
    | with_reducible refine kept_foldl_workp (fun _ _ _ => ?_) _ ?_
    | with_reducible refine kept_foldl_fst (fun _ _ _ => ?_) _ ?_
    | split
    | dsimp only
    | fail_if_no_progress with_reducible apply kept_same
    | with_reducible refine answered_kept _ _ _ _ ?_
    | with_reducible refine next_kept ?_
    | intro _

theorem execHeartbeat_kept {s : State} (hk : Kept Q s) {z : State} (hz : execHeartbeat s = .next z) : Kept Q z := by
  revert hz
  unfold execHeartbeat
  try dsimp only
  try with_reducible refine next_kept ?_
  try dsimp only
  repeat' first
    | with_reducible assumption
    | with_reducible apply State.withMgmt_kept
    | with_reducible apply State.sendMgmt_kept
    | with_reducible apply State.advance_kept
    | with_reducible apply State.stage_kept
    | with_reducible refine kept_fst ?_ (by with_reducible assumption)
    | exact ⟨rfl, rfl⟩
    | split
    | dsimp only
    | fail_if_no_progress with_reducible apply kept_same
    | with_reducible refine answered_kept _ _ _ _ ?_
    | with_reducible refine next_kept ?_
    | intro _

theorem execArpRequest_kept (arp : Bool) (ip mac src : Nat) {s : State} (hk : Kept Q s) {z : State} (hz : execArpRequest arp ip mac src s = .next z) : Kept Q z := by
  revert hz
  unfold execArpRequest
  try dsimp only
  try with_reducible refine next_kept ?_
  try dsimp only
  repeat' first
    | with_reducible assumption
    | with_reducible apply State.emit_kept
    | with_reducible apply State.conflict_kept
    | with_reducible refine kept_fst ?_ (by with_reducible assumption)
    | split
    | dsimp only
    | fail_if_no_progress with_reducible apply kept_same
    | with_reducible refine answered_kept _ _ _ _ ?_
    | with_reducible refine next_kept ?_
    | intro _

theorem execWatchdogExpiry_kept {s : State} (hk : Kept Q s) {z : State} (hz : execWatchdogExpiry s = .next z) : Kept Q z := by
  revert hz
  unfold execWatchdogExpiry
  try dsimp only
  try with_reducible refine next_kept ?_
  try dsimp only
  repeat' first
    | with_reducible assumption
    | with_reducible apply State.raise_kept
    | with_reducible refine kept_fst ?_ (by with_reducible assumption)
    | split
    | dsimp only
    | fail_if_no_progress with_reducible apply kept_same
    | with_reducible refine answered_kept _ _ _ _ ?_
    | with_reducible refine next_kept ?_
    | intro _

theorem execMsixTableWrite_kept (v : Nat) (masked : Bool) {s : State} (hk : Kept Q s) {z : State} (hz : execMsixTableWrite v masked s = .next z) : Kept Q z := by
  revert hz
  unfold execMsixTableWrite
  try dsimp only
  try with_reducible refine next_kept ?_
  try dsimp only
  repeat' first
    | with_reducible assumption
    | with_reducible apply State.maskVector_kept
    | with_reducible refine kept_fst ?_ (by with_reducible assumption)
    | split
    | dsimp only
    | fail_if_no_progress with_reducible apply kept_same
    | with_reducible refine answered_kept _ _ _ _ ?_
    | with_reducible refine next_kept ?_
    | intro _

theorem execCxlLinkTrain_kept (lanes rate : Nat) {s : State} (hk : Kept Q s) {z : State} (hz : execCxlLinkTrain lanes rate s = .next z) : Kept Q z := by
  revert hz
  unfold execCxlLinkTrain
  try dsimp only
  try with_reducible refine next_kept ?_
  try dsimp only
  repeat' first
    | with_reducible assumption
    | with_reducible apply State.stage_kept
    | with_reducible apply State.trainCxl_kept
    | with_reducible refine kept_fst ?_ (by with_reducible assumption)
    | split
    | dsimp only
    | fail_if_no_progress with_reducible apply kept_same
    | with_reducible refine answered_kept _ _ _ _ ?_
    | with_reducible refine next_kept ?_
    | intro _

theorem execHostLinkLoss_kept {s : State} (hk : Kept Q s) {z : State} (hz : execHostLinkLoss s = .next z) : Kept Q z := by
  revert hz
  unfold execHostLinkLoss
  try dsimp only
  try with_reducible refine next_kept ?_
  try dsimp only
  repeat' first
    | with_reducible assumption
    | with_reducible apply State.hostDown_kept
    | with_reducible refine kept_fst ?_ (by with_reducible assumption)
    | split
    | dsimp only
    | fail_if_no_progress with_reducible apply kept_same
    | with_reducible refine answered_kept _ _ _ _ ?_
    | with_reducible refine next_kept ?_
    | intro _

theorem execPerst_kept (asserted : Bool) {s : State} (hk : Kept Q s) {z : State} (hz : execPerst asserted s = .next z) : Kept Q z := by
  revert hz
  unfold execPerst
  with_reducible refine next_kept ?_
  split
  · exact State.withHost_bound (State.hostDown_kept hk) (Nat.zero_le _) (Nat.zero_le _)
  · exact State.withHost_kept ⟨rfl, rfl⟩ hk

theorem execIdeFail_kept {s : State} (hk : Kept Q s) {z : State} (hz : execIdeFail s = .next z) : Kept Q z := by
  revert hz
  unfold execIdeFail
  try dsimp only
  try with_reducible refine next_kept ?_
  try dsimp only
  repeat' first
    | with_reducible assumption
    | with_reducible apply State.failIde_kept
    | with_reducible refine kept_fst ?_ (by with_reducible assumption)
    | split
    | dsimp only
    | fail_if_no_progress with_reducible apply kept_same
    | with_reducible refine answered_kept _ _ _ _ ?_
    | with_reducible refine next_kept ?_
    | intro _

theorem execQuiesce_kept {s : State} (hk : Kept Q s) {z : State} (hz : execQuiesce s = .next z) : Kept Q z := by
  revert hz
  unfold execQuiesce
  try dsimp only
  try with_reducible refine next_kept ?_
  try dsimp only
  repeat' first
    | with_reducible assumption
    | with_reducible apply State.withHost_kept
    | with_reducible apply State.stopPart_kept
    | with_reducible refine kept_fst ?_ (by with_reducible assumption)
    | with_reducible refine kept_foldl (fun _ _ _ => ?_) _ ?_
    | with_reducible refine kept_foldl_run (fun _ _ _ => ?_) _ ?_
    | with_reducible refine kept_foldl_work (fun _ _ _ => ?_) _ ?_
    | with_reducible refine kept_foldl_cast (fun _ _ _ => ?_) _ ?_
    | with_reducible refine kept_foldl_pass (fun _ _ _ => ?_) _ ?_
    | with_reducible refine kept_foldl_workp (fun _ _ _ => ?_) _ ?_
    | with_reducible refine kept_foldl_fst (fun _ _ _ => ?_) _ ?_
    | exact ⟨rfl, rfl⟩
    | split
    | dsimp only
    | fail_if_no_progress with_reducible apply kept_same
    | with_reducible refine answered_kept _ _ _ _ ?_
    | with_reducible refine next_kept ?_
    | intro _

theorem execQuiesceDone_kept {s : State} (hk : Kept Q s) {z : State} (hz : execQuiesceDone s = .next z) : Kept Q z := by
  revert hz
  unfold execQuiesceDone
  with_reducible refine next_kept ?_
  have h1 := State.emptyFilter_kept hk
  split
  · exact State.withHost_kept ⟨rfl, rfl⟩ (State.msix_kept _ (State.withHost_bound h1 (Nat.zero_le _) h1.snoop))
  · exact hk

theorem execBarAccessBad_kept (write badSize : Bool) {s : State} (hk : Kept Q s) {z : State} (hz : execBarAccessBad write badSize s = .next z) : Kept Q z := by
  revert hz
  unfold execBarAccessBad
  try dsimp only
  try with_reducible refine next_kept ?_
  try dsimp only
  repeat' first
    | with_reducible assumption
    | with_reducible apply State.emit_kept
    | with_reducible apply State.odInc_kept
    | with_reducible refine kept_fst ?_ (by with_reducible assumption)
    | split
    | dsimp only
    | fail_if_no_progress with_reducible apply kept_same
    | with_reducible refine answered_kept _ _ _ _ ?_
    | with_reducible refine next_kept ?_
    | intro _

theorem execHostWindowRead_kept (dpa : Nat) {s : State} (hk : Kept Q s) {z : State} (hz : execHostWindowRead dpa s = .next z) : Kept Q z := by
  revert hz
  unfold execHostWindowRead
  try dsimp only
  try with_reducible refine next_kept ?_
  try dsimp only
  repeat' first
    | with_reducible assumption
    | with_reducible apply State.readWindow_kept
    | with_reducible refine kept_fst ?_ (by with_reducible assumption)
    | split
    | dsimp only
    | fail_if_no_progress with_reducible apply kept_same
    | with_reducible refine answered_kept _ _ _ _ ?_
    | with_reducible refine next_kept ?_
    | intro _

theorem execHostWindowWrite_kept (dpa : Nat) (bytes : List (Option Byte)) {s : State} (hk : Kept Q s) {z : State} (hz : execHostWindowWrite dpa bytes s = .next z) : Kept Q z := by
  revert hz
  unfold execHostWindowWrite
  try dsimp only
  try with_reducible refine next_kept ?_
  try dsimp only
  repeat' first
    | with_reducible assumption
    | with_reducible apply State.writeWindow_kept
    | with_reducible refine kept_fst ?_ (by with_reducible assumption)
    | split
    | dsimp only
    | fail_if_no_progress with_reducible apply kept_same
    | with_reducible refine answered_kept _ _ _ _ ?_
    | with_reducible refine next_kept ?_
    | intro _

theorem execBiTimeout_kept (line : Nat) (by_ : Consumer) (closed : Nat) {s : State} (hk : Kept Q s) {z : State} (hz : execBiTimeout line by_ closed s = .next z) : Kept Q z := by
  revert hz
  unfold execBiTimeout
  dsimp only
  with_reducible refine next_kept ?_
  split
  · refine getD_kept (fun _ ht => ?_) hk
    have h1 : ∀ r, Kept Q (s.record r) := fun _ => State.record_kept _ hk
    rcases Option.or_eq_some_iff.1 (Option.orElse_eq_or ▸ ht) with h | ⟨_, h⟩
    · exact State.failOwn_kept _ _ (h1 _) h
    · exact State.failBy_kept _ _ _ _ (h1 _) h
  · exact hk

theorem execHostCompletionTimeout_kept (cc : Nat) (by_ : Option Consumer) (closed addr : Nat) {s : State} (hk : Kept Q s) {z : State} (hz : execHostCompletionTimeout cc by_ closed addr s = .next z) : Kept Q z := by
  revert hz
  unfold execHostCompletionTimeout
  with_reducible refine next_kept ?_
  split
  · exact hk
  · split
    · split
      · exact hk
      · split
        · exact State.withHost_kept ⟨rfl, rfl⟩ hk
        · exact State.queueFault_kept _ _ _ hk
    · exact getD_kept (fun _ ht => State.failBy_kept _ _ _ _ hk ht) hk

theorem execHostSnoop_kept (line : Nat) (inv : Bool) (bytes : List Byte) {s : State} (hk : Kept Q s) {z : State} (hz : execHostSnoop line inv bytes s = .next z) : Kept Q z := by
  revert hz
  unfold execHostSnoop
  dsimp only
  with_reducible refine next_kept ?_
  have h1 := State.snoopCache_kept line inv hk
  split
  · split
    · exact kept_mem h1 (memWf_putBytes _ _ h1.mem)
    · exact h1
  · exact hk

end Sys2Proof.Machine
end

