-- ==== Sys2Proof/Laws/KeepExec.lean ====
section
/-! SUPPORT. What is kept by the timers that a step of fabric time passes, and the commands that step it. -/
set_option linter.unusedTactic false
set_option linter.unreachableTactic false
set_option linter.unusedVariables false

namespace Sys2Proof.Machine

variable {Q : List Instr}

theorem State.fire_kept {s : State} {f : State → Host.Outcome State Fault Refusal} (hf : ∀ z, f s = .next z → Kept Q z) (h : Kept Q s) : Kept Q (s.fire f) := by
  unfold State.fire
  split
  · exact hf _ ‹_›
  · exact h
  · exact h

/-- A row fired for each of some things. -/
theorem kept_fires {α : Type} {f : α → State → Host.Outcome State Fault Refusal} (hf : ∀ a s z, Kept Q s → f a s = .next z → Kept Q z) (l : List α) {s : State} (h : Kept Q s) :
    Kept Q (l.foldl (fun t a => t.fire (f a)) s) :=
  kept_foldl (fun _ _ h => State.fire_kept (fun _ hz => hf _ _ _ h hz) h) l h

theorem State.fireLimits_kept {s : State} (h : Kept Q s) : Kept Q s.fireLimits := by
  unfold State.fireLimits
  dsimp only
  refine kept_fires (f := fun cc => execCmdTime (.reduction cc) 0) (fun _ _ _ h hz => execCmdTime_kept _ _ h hz) _ ?_
  refine kept_fires (f := fun k => execCmdTime (.update k) 0) (fun _ _ _ h hz => execCmdTime_kept _ _ h hz) _ ?_
  refine kept_fires (f := fun (e : Exec) => execCmdTime (.hub e.cmd.ctx) 0) (fun _ _ _ h hz => execCmdTime_kept _ _ h hz) _ ?_
  exact kept_fires (f := fun n => execCmdTime (.core n) 0) (fun _ _ _ h hz => execCmdTime_kept _ _ h hz) _ h

theorem State.fireDeadlines_kept {s : State} (h : Kept Q s) : Kept Q s.fireDeadlines := by
  unfold State.fireDeadlines
  dsimp only
  refine kept_fires (f := fun (x : Nat × Nat) => execLivePictureDeadline x.1 x.2) (fun _ _ _ h hz => execLivePictureDeadline_kept _ _ h hz) _ ?_
  exact kept_fires (f := fun (x : Nat × Nat) => execSlotDeadline x.1 x.2) (fun _ _ _ h hz => execSlotDeadline_kept _ _ h hz) _ h

theorem State.fireFabric_kept {s : State} (h : Kept Q s) : Kept Q s.fireFabric := by
  unfold State.fireFabric
  dsimp only
  refine kept_foldl (fun _ _ h => State.sendDone_kept _ h) _ ?_
  refine kept_fires (f := fun i => execFabStall (i / 4) (i % 4)) (fun _ _ _ h hz => execFabStall_kept _ _ h hz) _ ?_
  refine kept_fires (f := execReplayTimeout) (fun _ _ _ h hz => execReplayTimeout_kept _ h hz) _ ?_
  exact kept_fires (f := fun _ => execRoutingTableCopy) (fun _ _ _ h hz => execRoutingTableCopy_kept h hz) _ h

theorem State.fireRest_kept {s : State} (h : Kept Q s) : Kept Q s.fireRest := by
  unfold State.fireRest
  dsimp only
  have h1 := kept_fires (f := execInterruptHoldoffEnd) (fun _ _ _ h hz => execInterruptHoldoffEnd_kept _ h hz) ((List.range 256).filter fun cc => decide ((s.ctx cc).lastMsg.getD 0 + s.odN (0x2200 + cc) 16 ≤ s.now)) h
  generalize List.foldl _ s _ = s1 at h1 ⊢
  have h2 := kept_fires (f := execImbalanceWindowEnd) (fun _ _ _ h hz => execImbalanceWindowEnd_kept _ h hz) ((List.range 8).filter fun d => decide (nth s1.hbm.began d 0 + 1000 * (s1.imbMonitor d).1 ≤ s1.now)) h1
  generalize List.foldl _ s1 _ = s2 at h2 ⊢
  have h3 := kept_fires (f := execQuarterRetentionEntry) (fun _ _ _ h hz => execQuarterRetentionEntry_kept _ h hz) ((List.range 32).filter fun q => decide (s2.lastExecOf q + 1000 * s2.odN 0xA000 6 ≤ s2.now)) h2
  generalize List.foldl _ s2 _ = s3 at h3 ⊢
  have h4 : Kept Q (if s3.time.lastExchange + 1000 * s3.odN 0x4300 6 ≤ s3.now then s3.fire execTimeExchangeStart else s3) := by
    split
    · exact State.fire_kept (fun _ hz => execTimeExchangeStart_kept h3 hz) h3
    · exact h3
  generalize (if s3.time.lastExchange + 1000 * s3.odN 0x4300 6 ≤ s3.now then s3.fire execTimeExchangeStart else s3) = s4 at h4 ⊢
  split
  · exact State.fire_kept (fun _ hz => execHeartbeat_kept h4 hz) h4
  · exact h4

theorem State.stepForward_kept {s : State} (t : Nat) (hk : Kept Q s) : Kept Q (State.stepForward s t) := by
  unfold State.stepForward
  try dsimp only
  repeat' first
    | with_reducible assumption
    | with_reducible apply State.stepTime_kept
    | with_reducible apply State.fireLimits_kept
    | with_reducible apply State.fireDeadlines_kept
    | with_reducible apply State.fireFabric_kept
    | with_reducible apply State.fireRest_kept
    | with_reducible refine kept_fst ?_ (by with_reducible assumption)
    | split
    | dsimp only
    | fail_if_no_progress with_reducible apply kept_same

theorem State.takeOffset_kept {s : State} (o : Int) (hk : Kept Q s) : Kept Q (State.takeOffset s o) := by
  unfold State.takeOffset
  try dsimp only
  repeat' first
    | with_reducible assumption
    | with_reducible apply State.withTime_kept
    | with_reducible apply State.record_kept
    | with_reducible apply State.setTimeSt_kept
    | with_reducible apply State.stepForward_kept
    | with_reducible refine kept_fst ?_ (by with_reducible assumption)
    | split
    | dsimp only
    | fail_if_no_progress with_reducible apply kept_same

theorem State.takeTime_kept {s : State} (l : Nat) (p : Packet) (arrival : Nat) (hk : Kept Q s) : Kept Q (State.takeTime s l p arrival) := by
  unfold State.takeTime
  try dsimp only
  repeat' first
    | with_reducible assumption
    | with_reducible apply State.updLink_kept
    | with_reducible apply State.follow_kept
    | with_reducible apply State.sendTime_kept
    | with_reducible apply State.request_kept
    | with_reducible apply State.takeOffset_kept
    | with_reducible refine kept_fst ?_ (by with_reducible assumption)
    | split
    | dsimp only
    | fail_if_no_progress with_reducible apply kept_same

theorem execTimeReceive_kept (l src : Nat) {s : State} (hk : Kept Q s) {z : State} (hz : execTimeReceive l src s = .next z) : Kept Q z := by
  revert hz
  unfold execTimeReceive
  try dsimp only
  try with_reducible refine next_kept ?_
  try dsimp only
  repeat' first
    | with_reducible assumption
    | with_reducible apply State.updLink_kept
    | with_reducible apply State.takeTime_kept
    | with_reducible refine kept_fst ?_ (by with_reducible assumption)
    | split
    | dsimp only
    | fail_if_no_progress with_reducible apply kept_same
    | with_reducible refine answered_kept _ _ _ _ ?_
    | with_reducible refine next_kept ?_
    | intro _

theorem execTpulseEdge_kept {s : State} (hk : Kept Q s) {z : State} (hz : execTpulseEdge s = .next z) : Kept Q z := by
  revert hz
  unfold execTpulseEdge
  try dsimp only
  try with_reducible refine next_kept ?_
  try dsimp only
  repeat' first
    | with_reducible assumption
    | with_reducible apply State.withTime_kept
    | with_reducible apply State.stepForward_kept
    | with_reducible refine kept_fst ?_ (by with_reducible assumption)
    | split
    | dsimp only
    | fail_if_no_progress with_reducible apply kept_same
    | with_reducible refine answered_kept _ _ _ _ ?_
    | with_reducible refine next_kept ?_
    | intro _

end Sys2Proof.Machine
end

