-- ==== Sys2Proof/WellFormed.lean ====
section
/-! DEFINITION. Which commands are well formed: every number an operand gives lies in the range the manual numbers that object in. -/
namespace Sys2Proof

open Machine

/-- A consumer that exists (R158): cores 0 to 383 (R33), contexts 0 to 255, cellar dies 0 to 3. -/
def Machine.Consumer.wf : Consumer → Bool
  | .core n => decide (n < 384)
  | .hub cc | .reduction cc | .media cc => decide (cc < 256)
  | .update c => decide (c < 4)

/-- A consumer that executes TIER_MOVE (R158): a core or the hub die. -/
def Machine.Consumer.mover : Consumer → Bool
  | .core n => decide (n < 384)
  | .hub cc => decide (cc < 256)
  | .update _ | .reduction _ | .media _ => false

/-- A message whose header fields fit their places (R784). -/
def Machine.MgmtMsg.wf (m : MgmtMsg) : Bool :=
  decide (m.ver < 16) && decide (m.resv < 16) && decide (m.src < 256) && decide (m.dst < 256) && decide (m.seq < 2 ^ 16) && decide (m.len < 2 ^ 16) && decide (m.payload.length ≤ 1456)

/-- An integer that fits `n` bits of two's complement. -/
def inBits (n : Nat) (x : Int) : Bool := decide (-(2 ^ (n - 1) : Int) ≤ x) && decide (x < 2 ^ (n - 1))

/-- A 64-byte line of host memory: regions 0x10 to 0x1F (R17). -/
def inHostLine (line : Nat) : Bool := decide (0x10 * 2 ^ 38 ≤ line) && decide (line < 0x20 * 2 ^ 38)

/-- A well-formed command. -/
def Instr.wf (i : Instr) : Bool :=
  match i with
  | .nop n => decide (n < 384)
  | .matmul n => decide (n < 384)
  | .tileDrain n => decide (n < 384)
  | .conv n => decide (n < 384)
  | .convWgrad n => decide (n < 384)
  | .dwconv n => decide (n < 384)
  | .pool n => decide (n < 384)
  | .vop n => decide (n < 384)
  | .vreduce n => decide (n < 384)
  | .copy n => decide (n < 384)
  | .gather n => decide (n < 384)
  | .scatter n => decide (n < 384)
  | .tierMoveMove c => c.mover
  | .tierMoveSeal c => c.mover
  | .tierMoveStage c => c.mover
  | .tierMoveDiscard c => c.mover
  | .tierMoveDrop c => c.mover
  | .fenceWait n => decide (n < 384)
  | .fenceAdd n => decide (n < 384)
  | .fenceMax n => decide (n < 384)
  | .fenceSet n => decide (n < 384)
  | .fenceSend n => decide (n < 384)
  | .fenceWaitComplete n => decide (n < 384)
  | .creditTake n => decide (n < 384)
  | .creditGive n => decide (n < 384)
  | .creditSet n => decide (n < 384)
  | .creditTakeComplete p k => decide (p < 16) && decide (k < 256)
  | .rowFenceWait n => decide (n < 384)
  | .rowFenceClear n => decide (n < 384)
  | .rowFenceWaitComplete n => decide (n < 384)
  | .barrierLocal cc => decide (cc < 256)
  | .barrierStep cc => decide (cc < 256)
  | .barrierArrive cc => decide (cc < 256)
  | .normPart c => decide (c < 4)
  | .normReduce c => decide (c < 4)
  | .apply c => decide (c < 4)
  | .normRead c => decide (c < 4)
  | .normLoad c => decide (c < 4)
  | .reduce cc _ => decide (cc < 256)
  | .reduceLocallyReady cc _ => decide (cc < 256)
  | .reduceUnitSend cc _ _ => decide (cc < 256)
  | .reduceUnitConsume cc _ _ => decide (cc < 256)
  | .broadcast cc _ => decide (cc < 256)
  | .broadcastSendStart cc _ => decide (cc < 256)
  | .mediaOpen cc => decide (cc < 256)
  | .mediaAdd cc => decide (cc < 256)
  | .mediaClose cc => decide (cc < 256)
  | .sampleDecodeStart engine inst => decide (engine < 3) && decide (inst < 32)
  | .sampleValid b sl => decide (b < 256) && decide (sl < 1024)
  | .sampleInvalid b sl reason => decide (b < 256) && decide (sl < 1024) && decide (1 ≤ reason) && decide (reason ≤ 4)
  | .slotDeadline b sl => decide (b < 256) && decide (sl < 1024)
  | .batchComplete b => decide (b < 256)
  | .sopen cc => decide (cc < 256)
  | .streamData cc => decide (cc < 256)
  | .route cc => decide (cc < 256)
  | .sclose cc => decide (cc < 256)
  | .pictureEntropyStart engine => decide (engine < 32)
  | .pictureReconstruct sc _ => decide (sc < 256)
  | .routedPictureShape sc _ => decide (sc < 256)
  | .livePictureDeadline sc _ => decide (sc < 256)
  | .eopen cc => decide (cc < 256)
  | .encodePicture cc => decide (cc < 256)
  | .eclose cc => decide (cc < 256)
  | .cmdTime c _ => c.wf
  | .doorbellSqTail cc v => decide (cc < 256) && decide (v < 2 ^ 32)
  | .doorbellCqHead cc v => decide (cc < 256) && decide (v < 2 ^ 32)
  | .commandFetch cc => decide (cc < 256)
  | .commandDispatch cc => decide (cc < 256)
  | .coreSchedule n => decide (n < 384)
  | .contextSwap p => decide (p < 16)
  | .interruptHoldoffEnd cc => decide (cc < 256)
  | .partitionCreate p => decide (p < 16)
  | .partitionCreateDone p => decide (p < 16)
  | .partitionStop p => decide (p < 16)
  | .partitionStopDone p => decide (p < 16)
  | .partitionStart p => decide (p < 16)
  | .partitionRemove p => decide (p < 16)
  | .contextAdd cc => decide (cc < 256)
  | .contextResume cc => decide (cc < 256)
  | .contextAbort cc => decide (cc < 256)
  | .contextAbortDone cc => decide (cc < 256)
  | .contextRemove cc => decide (cc < 256)
  | .linkDisable l => decide (l < 36)
  | .linkEnable l => decide (l < 36)
  | .linkIsolate l => decide (l < 36)
  | .linkHeldRelease l => decide (l < 36)
  | .linkTrained l tr => decide (l < 36) && tr.errs.length == 5 && tr.lock.length == 5 && decide (tr.addr < 2 ^ 16)
  | .linkTrainRetry l => decide (l < 36)
  | .routingCommit t => decide (t < 2 ^ 64)
  | .routingTableCopy => true
  | .arbiterCommit mask => decide (mask < 2 ^ 6)
  | .keepLineClear p => decide (p < 16)
  | .landingBoardClear p => decide (p < 16)
  | .firmwareCommit t => decide (1 ≤ t) && decide (t ≤ 5)
  | .firmwareAdvance t => decide (1 ≤ t) && decide (t ≤ 5)
  | .debugTokenSubmit => true
  | .moduleReset => true
  | .resetIn => true
  | .alertClear mask => decide (mask < 2 ^ 8)
  | .performanceStateWrite isl mv => decide (isl < 43) && decide (mv < 2 ^ 16)
  | .islandVoltageStep isl => decide (isl < 43)
  | .quiesce => true
  | .quiesceDone => true
  | .odWrite ix sub v => decide (ix < 2 ^ 16) && decide (sub < 2 ^ 8) && decide (v < 2 ^ 64)
  | .barAccessBad _ _ => true
  | .mailboxGo v bytes => decide (v < 4) && decide (bytes.length ≤ 1472)
  | .hostWindowRead dpa => decide (dpa < 2 ^ 52)
  | .hostWindowWrite dpa bytes => decide (dpa < 2 ^ 52) && decide (bytes.length ≤ 64)
  | .biTimeout line by_ _ => decide (line < 2 ^ 46) && by_.wf
  | .cxlLinkTrain _ _ => true
  | .perst _ => true
  | .hostLinkLoss => true
  | .ideFail => true
  | .spdmMessage _ _ _ => true
  | .larderRead addr hint part => decide (addr < 2 ^ 52) && decide (hint < 4) && part.all (fun p => decide (p < 16))
  | .larderWrite addr hint part bytes => decide (addr < 2 ^ 52) && decide (hint < 4) && part.all (fun p => decide (p < 16)) && decide (bytes.length ≤ 32)
  | .imbalanceWindowEnd d => decide (d < 8)
  | .arbiterDecision k inst reqs => decide (k < 6) && decide (inst < 512) && reqs.all (fun r => decide (r.who < 22))
  | .arbiterWindowBoundary k => decide (k < 6)
  | .arbiterBackoffEnd k inst who => decide (k < 6) && decide (inst < 512) && decide (who < 22)
  | .regulatorBoundary => true
  | .flitReceive l f => decide (l < 36) && f.words.length == 16 && f.errs.length == 5
  | .nakReceive l ack => decide (l < 36) && decide (ack < 2 ^ 16)
  | .replayTimeout l => decide (l < 36)
  | .linkSignalLoss l => decide (l < 36)
  | .laneSubstitute l lane _ => decide (l < 36) && decide (lane < 5)
  | .laneLockLoss l lane => decide (l < 36) && decide (lane < 5)
  | .packetRoute l cls vc => decide (l < 36) && decide (cls < 4) && decide (vc < 2)
  | .writeReceive => true
  | .doneSend src xfer => decide (src < 2 ^ 16) && decide (xfer < 2 ^ 16)
  | .doneReceive => true
  | .normMessageReceive => true
  | .barrierMessageReceive => true
  | .reduceCreditReceive => true
  | .fenceMessageReceive => true
  | .creditMessageReceive => true
  | .tc0TokenGain l => decide (l < 36)
  | .fabStall l cls => decide (l < 36) && decide (cls < 4)
  | .timeExchangeStart => true
  | .timeReceive l src => decide (l < 36) && decide (src < 2 ^ 16)
  | .tpulseEdge => true
  | .frefLoss => true
  | .atticRelocate block => decide (block < 2 ^ 32)
  | .wearLevelRelocate => true
  | .sliceStart u => decide (u.kind < 18)
  | .sliceEnd u _ => decide (u.kind < 18)
  | .sliceAbandon n => decide (n < 384)
  | .hbmWindowMove pc _ => decide (pc < 512)
  | .laneLoopback l => decide (l < 36)
  | .repairEntryCommit => true
  | .quarterRetentionEntry q => decide (q < 32)
  | .junctionSample isl t twin => decide (isl < 51 || (69 ≤ isl && isl < 77)) && inBits 16 t && inBits 16 twin
  | .stackSample st t twin => decide (st < 16) && inBits 16 t && inBits 16 twin
  | .thermalTrip sensor => decide (sensor < 77)
  | .hubThermalTrip => true
  | .coolantSample tin tout => inBits 16 tin && inBits 16 tout
  | .powerControllerTick _ _ => true
  | .p50vOn _ => true
  | .p50vOutOfRange _ => true
  | .p50vInputLoss _ => true
  | .p50vOff => true
  | .stageFault stage => decide (stage < 129)
  | .startupStageEnd _ => true
  | .watchdogExpiry => true
  | .addrInChange _ => true
  | .assign m => m.wf
  | .confirm m => m.wf
  | .release m => m.wf
  | .read m => m.wf
  | .write m => m.wf
  | .blob m => m.wf
  | .dumpReq m => m.wf
  | .eventAck m => m.wf
  | .eventResend => true
  | .heartbeat => true
  | .arpRequest _ ip mac src => decide (ip < 2 ^ 32) && decide (mac < 2 ^ 48) && decide (src < 2 ^ 32)
  | .hostCompletionTimeout cc by_ _ addr => decide (cc < 256) && by_.all Consumer.wf && decide (addr < 2 ^ 52)
  | .hostSnoop line _ bytes => inHostLine line && decide (bytes.length ≤ 64)
  | .msixTableWrite v _ => decide (v < 2048)
  | .frefRestore => true
  | .resetInRelease => true
  | .p50vReturnToRange _ => true

end Sys2Proof
end

