-- ==== Sys2Proof/Tests/Slice0.lean ====
section
/-! SUPPORT. The model's own tests: an ill-formed command for each check, one step on small states with results from the manual, and for each statement a state and operands that meet its hypotheses. -/
namespace Sys2Proof.Tests

set_option Elab.async false

open Machine

/-- A word with the values `v` at the bit positions `p`. -/
def mk (l : List (Nat × Nat)) : Word := BitVec.ofNat 64 (l.foldl (fun a x => a + x.2 * 2 ^ x.1) 0)

/-- An island that runs at 750 mV and 40 °C. -/
def warm : Island := { mv := 750, temp := 640, power := 2, sampled := true }

/-- A module that runs: start-up complete, the host link up, every island powered; partition 0 ACTIVE with quarter-die 0, context 0 of it resident, with 64 slots at 4096, a target list at 8192, 64 completion entries at 12288 (host memory), 16 descriptors in the Cellar. -/
def up : State :=
  let s : State := { State.reset with
    pwr := { State.reset.pwr with stage := 10, islands := List.replicate 43 warm }
    host := { up := true, link := 4, winCellar := 2 ^ 34, winHbm := 2 ^ 34 }
    time := { now := 1000000 }
    parts := modAt State.reset.parts 0 fun x => { x with st := .active }
    ctxs := modAt State.reset.ctxs 0 fun x => { x with cond := .running, resident := true } }
  let h := 0x10 * 2 ^ 44
  ([(0x2000, 1, 1), (0x2000, 5, 2), (0x2200, 1, 0), (0x2200, 3, 2 ^ 44 + 2 ^ 20), (0x2200, 4, 16), (0x2200, 9, h + 4096), (0x2200, 10, 64), (0x2200, 11, h + 8192), (0x2200, 12, h + 12288), (0x2200, 13, 64)] : List (Nat × Nat × Nat)).foldl
    (fun t x => t.odSetN x.1 x.2.1 x.2.2) s

/-- Byte `o` of core 0's scratchpad. -/
def sp (o : Nat) : Nat := 8 * 2 ^ 44 + o

/-- Words 0 and 1 of a command with TAG 7 and a work range of the whole scratchpad. -/
def w0 (op sub : Nat) : Word := mk [(0, op), (8, sub), (48, 7)]
def w1 : Word := mk [(15, 24576)]

/-- A command of context 0 for a target, with the words from 2 on. -/
def cmdFor (target op sub : Nat) (ws : List Word) : CmdInst := { ctx := 0, slot := 0, target := target, words := w0 op sub :: w1 :: (ws ++ List.replicate (6 - ws.length) 0#64) }

/-- A command that core 0 executes, with the descriptors it read. -/
def ex (op sub : Nat) (ws : List Word) (recs : List RecRead) : Exec := { cmd := cmdFor 0 op sub ws, start := 1000000, limit := 1000, recs := recs }

/-- Core 0 of a state executes `e`. -/
def on (s : State) (e : Exec) : State := s.updCore 0 fun c => { c with exec := some e, st := .running, cur := 0 }

/-- A descriptor of `a` by `b` elements of a format at byte `o` of the scratchpad (R164). -/
def mat (o fmt a b w : Nat) : RecRead := .words [mk [(0, sp o), (52, fmt)], mk [(0, a - 1), (16, b - 1)], mk [(0, w * a)], 0#64]

/-- Core 0 starts `e` in `s`, as a check. -/
def startsB (s : State) (e : Exec) (k : Checks) : Bool :=
  decide ((s.core 0).exec = some e) && decide (e.waiting = false) && decide (e.phase = 0) && (e.rejection k).isNone

theorem starts_of {s : State} {e : Exec} {k : Checks} (h : startsB s e k = true) : s.starts 0 e k := by
  simp only [startsB, Bool.and_eq_true, decide_eq_true_eq, Option.isNone_iff_eq_none] at h
  exact ⟨h.1.1.1, h.1.1.2, h.1.2, h.2⟩

/-- A state is sound, as a check. -/
def soundB (s : State) : Bool :=
  memWf s.mem && decide (s.parts.length = 16 ∧ s.ctxs.length = 256 ∧ s.cores.length = 384 ∧ s.upd.length = 4 ∧ s.groups.length = 256 ∧ s.links.length = 36)
    && decide (s.diag.ring.length ≤ 4096 ∧ s.diag.recorder.length ≤ 524288 ∧ s.mgmt.events.length ≤ 64 ∧ s.mgmt.replies.length ≤ 16 ∧ s.host.cache.length ≤ 16384 ∧ s.host.snoop.length ≤ 2097152)
    && mapWf odDefault s.od && mapWf odDefault s.nv

theorem sound_of {s : State} (h : soundB s = true) : s.Sound := by
  simp only [soundB, Bool.and_eq_true, decide_eq_true_eq] at h
  exact ⟨h.1.1.1.1, h.1.1.1.2, h.1.1.2, h.1.2, h.2⟩


/-! Commands of a core. -/

/-- Bytes put into core 0's scratchpad. -/
def lay (s : State) (o : Nat) (bs : List Byte) : State := { s with mem := memPutBytes s.mem (sp o) bs }

/-- BF16 elements as bytes. -/
def bf (l : List Nat) : List Byte := l.flatMap (leBytes 2)

/-- BF16 1, 2, 3, 4 at byte 0 and 1, 1, 2, 0 at byte 256 of the scratchpad. -/
def dat : State := lay (lay up 0 (bf [0x3F80, 0x4000, 0x4040, 0x4080])) 256 (bf [0x3F80, 0x3F80, 0x4000, 0])

/-- A MATMUL of two 2 by 2 matrices: loop order 0, ALPHA 1, no D. -/
def eMat : Exec := ex 0x01 0 [mk [(48, 0xFFFF), (16, 1), (32, 2)], 0#64, mk [(0, 1), (6, 1), (12, 1), (18, 1), (24, 1), (30, 1)], mk [(0, 0x3F800000)]] [mat 0 5 2 2 2, mat 256 5 2 2 2, mat 512 5 2 2 2]
def sMat : State := on dat eMat

/-- A feature map of `w` by `h` with one channel and one sample (R214). -/
def fmap (o w h : Nat) : RecRead := .words [mk [(0, sp o), (52, 5), (58, 1)], mk [(0, w - 1), (16, h - 1)], mk [(0, 2 * w)], 0#64]

/-- A 1 by 1 weight. -/
def wgt (o : Nat) : RecRead := .words [mk [(0, sp o), (52, 5)], 0#64, 0#64, 0#64]

/-- A 1 by 1 convolution of the 2 by 2 map at 0 with the weight at 262, which is 0, or 256, which is 1. -/
def eConv (op extra : Nat) : Exec := ex op 0 [mk [(48, 0xFFFF), (16, 1), (32, 2)], 0#64, mk [(48, 1), (0, extra)], mk [(0, 0x3F800000)]] [fmap 0 2 2, wgt 260, fmap 512 2 2]
def ePool : Exec := ex 0x04 0 [mk [(32, 1)], mk [(0, 1), (5, 1)], 0#64] [fmap 0 2 2, fmap 512 1 1]

def eVop : Exec := ex 0x10 1 [mk [(16, 1), (32, 0xFFFF), (48, 2)], 0#64] [mat 0 5 2 2 2, mat 256 5 2 2 2, mat 512 5 2 2 2]
/-- The weight gradient of the map at 0 with itself as Y. -/
def eWgrad : Exec := ex 0x02 0 [mk [(48, 0xFFFF), (16, 1), (32, 2)], 0#64, mk [(48, 1), (5, 1)], mk [(0, 0x3F800000)]] [fmap 0 2 2, wgt 768, fmap 0 2 2]
def eVred : Exec := ex 0x11 0 [mk [(16, 0xFFFF), (32, 0xFFFF), (48, 1)], 0#64] [mat 0 5 2 2 2, mat 512 5 1 2 2]
def eCopy : Exec := ex 0x20 0 [mk [(16, 1)]] [mat 0 5 2 2 2, mat 512 5 2 2 2]
def eNop : Exec := ex 0x00 0 [] []

/-- A list of sectors 0 and 1 of HBM for GATHER and SCATTER, at byte 1024 of the scratchpad; its other side is at byte 2048. -/
def eList (sub : Nat) : Exec := ex 0x21 sub [mk [(0, sp 1024)], 0#64, mk [(0, 2), (16, 2048)]] []
def datList : State := lay dat 1024 (leBytes 4 0 ++ leBytes 4 1)


/-- The MATMUL gives the products of its rows: 1·1 + 2·1, 1·2 + 2·0, 3·1 + 4·1, 3·2 + 4·0 (R171). -/
theorem test_matmul_products : (matRun none sMat 0 eMat).st.bytes (sp 512) 8 = bf [0x4040, 0x4000, 0x40E0, 0x40C0] := by decide +kernel

/-- A 1 by 1 convolution by 2 doubles the map (R225), and so does a DWCONV (R238); the weight gradient of the map with itself is 1 + 4 + 9 + 16 (R228). -/
theorem test_conv_doubles : ((convRun none (on dat (eConv 2 0)) 0 (eConv 2 0)).st.bytes (sp 512) 8 = bf [0x4000, 0x4080, 0x40C0, 0x4100])
    ∧ ((dwRun none (on dat (eConv 3 0)) 0 (eConv 3 0)).st.bytes (sp 512) 8 = bf [0x4000, 0x4080, 0x40C0, 0x4100])
    ∧ (wgradRun none (on dat eWgrad) 0 eWgrad).st.bytes (sp 768) 2 = bf [0x41F0] := by decide +kernel

/-- The maximum of the map (R243), a sum of two tensors (R197), sums along dimension 0 (R199), a copy (R200). -/
theorem test_pool_vop_vreduce_copy : ((poolRun none (on dat ePool) 0 ePool).st.bytes (sp 512) 2 = bf [0x4080])
    ∧ ((vopRun none (on dat eVop) 0 eVop).st.bytes (sp 512) 8 = bf [0x4000, 0x4040, 0x40A0, 0x4080])
    ∧ ((vreduceRun none (on dat eVred) 0 eVred).st.bytes (sp 512) 4 = bf [0x4040, 0x40E0])
    ∧ (copyRun none (on dat eCopy) 0 eCopy).st.bytes (sp 512) 8 = bf [0x3F80, 0x4000, 0x4040, 0x4080] := by decide +kernel

/-- A command of core 0 starts in `s`, belongs to the row and meets no fault. -/
def rowRuns (mine : CmdInst → Prop) (checks : CmdInst → Exec → Checks) (body : State → Nat → Exec → Run) : Prop :=
  ∃ (s : State) (e : Exec), s.starts 0 e (checks e.cmd e) ∧ mine e.cmd ∧ (body s 0 e).stop = none

theorem test_witness_MatrixCommandsComplete :
    (∃ (s : State) (e : Exec), s.starts 0 e (nopChecks e.cmd e) ∧ e.cmd.op = 0x00)
      ∧ rowRuns (fun c => c.op = 0x01) matChecks (matRun none) ∧ rowRuns (fun c => c.op = 0x02 ∧ isWgrad c = false) convChecks (convRun none)
      ∧ rowRuns (fun c => isWgrad c = true) wgradChecks (wgradRun none) ∧ rowRuns (fun c => c.op = 0x03) dwChecks (dwRun none) ∧ rowRuns (fun c => c.op = 0x04) poolChecks (poolRun none) :=
  ⟨⟨on dat eNop, eNop, starts_of (by decide +kernel), by decide +kernel⟩, ⟨sMat, eMat, starts_of (by decide +kernel), by decide +kernel, by decide +kernel⟩,
    ⟨on dat (eConv 2 0), eConv 2 0, starts_of (by decide +kernel), by decide +kernel, by decide +kernel⟩, ⟨on dat eWgrad, eWgrad, starts_of (by decide +kernel), by decide +kernel, by decide +kernel⟩,
    ⟨on dat (eConv 3 0), eConv 3 0, starts_of (by decide +kernel), by decide +kernel, by decide +kernel⟩, ⟨on dat ePool, ePool, starts_of (by decide +kernel), by decide +kernel, by decide +kernel⟩⟩

theorem test_witness_VectorAndListCommandsComplete :
    rowRuns (fun c => c.op = 0x10) vopChecks (vopRun none) ∧ rowRuns (fun c => c.op = 0x11) vreduceChecks (vreduceRun none) ∧ rowRuns (fun c => c.op = 0x20) copyChecks (copyRun none)
      ∧ rowRuns (fun c => c.op = 0x21 ∧ c.sub ≠ 1) gatherChecks (listRun gatherOne none) ∧ rowRuns (fun c => c.op = 0x21 ∧ c.sub = 1) gatherChecks (listRun scatterOne none) :=
  ⟨⟨on dat eVop, eVop, starts_of (by decide +kernel), by decide +kernel, by decide +kernel⟩, ⟨on dat eVred, eVred, starts_of (by decide +kernel), by decide +kernel, by decide +kernel⟩,
    ⟨on dat eCopy, eCopy, starts_of (by decide +kernel), by decide +kernel, by decide +kernel⟩, ⟨on datList (eList 0), eList 0, starts_of (by decide +kernel), by decide +kernel, by decide +kernel⟩,
    ⟨on datList (eList 1), eList 1, starts_of (by decide +kernel), by decide +kernel, by decide +kernel⟩⟩

/-- The same command with its work range empty, so that it faults on its first operand; and with reserved word 7 set, so that it is rejected. -/
def noWork (e : Exec) : Exec := { e with cmd := { e.cmd with words := e.cmd.words.take 1 ++ [0#64] ++ e.cmd.words.drop 2 } }
def badWord (e : Exec) : Exec := { e with cmd := { e.cmd with words := e.cmd.words.take 7 ++ [0x8000000000000000#64] } }

def rowStops (mine : CmdInst → Prop) (checks : CmdInst → Exec → Checks) (body : State → Nat → Exec → Run) : Prop :=
  ∃ (s : State) (e : Exec) (d : Fin), s.starts 0 e (checks e.cmd e) ∧ mine e.cmd ∧ (body s 0 e).stop = some d

def rowBars (mine : CmdInst → Prop) (checks : CmdInst → Exec → Checks) : Prop :=
  ∃ (s : State) (e : Exec) (d : Fin), (s.core 0).exec = some e ∧ e.waiting = false ∧ e.phase = 0 ∧ mine e.cmd ∧ e.rejection (checks e.cmd e) = some d

theorem stops_of {mine : CmdInst → Prop} {checks : CmdInst → Exec → Checks} {body : State → Nat → Exec → Run} (s : State) (e : Exec) (h : startsB s e (checks e.cmd e) = true) (m : mine e.cmd)
    (k : (body s 0 e).stop.isSome = true) : rowStops mine checks body :=
  have ⟨d, hd⟩ := Option.isSome_iff_exists.1 k
  ⟨s, e, d, starts_of h, m, hd⟩

theorem bars_of {mine : CmdInst → Prop} {checks : CmdInst → Exec → Checks} (s : State) (e : Exec) (h : (s.core 0).exec = some e ∧ e.waiting = false ∧ e.phase = 0) (m : mine e.cmd)
    (k : (e.rejection (checks e.cmd e)).isSome = true) : rowBars mine checks :=
  have ⟨d, hd⟩ := Option.isSome_iff_exists.1 k
  ⟨s, e, d, h.1, h.2.1, h.2.2, m, hd⟩

/-- FENCE ADD, CREDIT GIVE and ROW_FENCE CLEAR of object 3, or the rows 5 to 6 of board 1. -/
def eFence (sub v : Nat) : Exec := ex 0x30 sub [BitVec.ofNat 64 v, mk [(0, 3)]] []
def eCredit (sub v : Nat) : Exec := ex 0x31 sub [BitVec.ofNat 64 v, mk [(0, 3)]] []
def eRow (sub : Nat) : Exec := ex 0x32 sub [mk [(0, 5), (16, 6), (32, 1)]] []

theorem test_witness_FaultedAndRejectedCoreCommandsEnd :
    rowStops (fun c => c.op = 0x01) matChecks (matRun none) ∧ rowStops (fun c => c.op = 0x10) vopChecks (vopRun none) ∧ rowStops (fun c => c.op = 0x20) copyChecks (copyRun none)
      ∧ rowStops (fun c => c.op = 0x21 ∧ c.sub ≠ 1) gatherChecks (listRun gatherOne none) ∧ rowStops (fun c => c.op = 0x21 ∧ c.sub = 1) gatherChecks (listRun scatterOne none)
      ∧ rowBars (fun c => c.op = 0x00) nopChecks ∧ rowBars (fun c => c.op = 0x01) matChecks ∧ rowBars (fun c => c.op = 0x02 ∧ isWgrad c = false) convChecks ∧ rowBars (fun c => isWgrad c = true) wgradChecks
      ∧ rowBars (fun c => c.op = 0x03) dwChecks ∧ rowBars (fun c => c.op = 0x04) poolChecks ∧ rowBars (fun c => c.op = 0x10) vopChecks ∧ rowBars (fun c => c.op = 0x11) vreduceChecks
      ∧ rowBars (fun c => c.op = 0x20) copyChecks ∧ rowBars (fun c => c.op = 0x21 ∧ c.sub ≠ 1) gatherChecks ∧ rowBars (fun c => c.op = 0x30 ∧ c.sub = 1) fenceChecks
      ∧ rowBars (fun c => c.op = 0x31 ∧ c.sub = 1) creditChecks ∧ rowBars (fun c => c.op = 0x32 ∧ c.sub = 1) rowFenceChecks :=
  ⟨stops_of (on dat (noWork eMat)) (noWork eMat) (by decide +kernel) (by decide +kernel) (by decide +kernel), stops_of (on dat (noWork eVop)) (noWork eVop) (by decide +kernel) (by decide +kernel) (by decide +kernel),
    stops_of (on dat (noWork eCopy)) (noWork eCopy) (by decide +kernel) (by decide +kernel) (by decide +kernel),
    stops_of (on datList (noWork (eList 0))) (noWork (eList 0)) (by decide +kernel) (by decide +kernel) (by decide +kernel),
    stops_of (on datList (noWork (eList 1))) (noWork (eList 1)) (by decide +kernel) (by decide +kernel) (by decide +kernel),
    bars_of (on up (badWord eNop)) (badWord eNop) (by decide +kernel) (by decide +kernel) (by decide +kernel), bars_of (on up (badWord eMat)) (badWord eMat) (by decide +kernel) (by decide +kernel) (by decide +kernel),
    bars_of (on up (badWord (eConv 2 0))) (badWord (eConv 2 0)) (by decide +kernel) (by decide +kernel) (by decide +kernel), bars_of (on up (badWord eWgrad)) (badWord eWgrad) (by decide +kernel) (by decide +kernel) (by decide +kernel),
    bars_of (on up (badWord (eConv 3 0))) (badWord (eConv 3 0)) (by decide +kernel) (by decide +kernel) (by decide +kernel), bars_of (on up (badWord ePool)) (badWord ePool) (by decide +kernel) (by decide +kernel) (by decide +kernel),
    bars_of (on up (badWord eVop)) (badWord eVop) (by decide +kernel) (by decide +kernel) (by decide +kernel), bars_of (on up (badWord eVred)) (badWord eVred) (by decide +kernel) (by decide +kernel) (by decide +kernel),
    bars_of (on up (badWord eCopy)) (badWord eCopy) (by decide +kernel) (by decide +kernel) (by decide +kernel), bars_of (on up (badWord (eList 0))) (badWord (eList 0)) (by decide +kernel) (by decide +kernel) (by decide +kernel),
    bars_of (on up (badWord (eFence 1 9))) (badWord (eFence 1 9)) (by decide +kernel) (by decide +kernel) (by decide +kernel),
    bars_of (on up (badWord (eCredit 1 9))) (badWord (eCredit 1 9)) (by decide +kernel) (by decide +kernel) (by decide +kernel), bars_of (on up (badWord (eRow 1))) (badWord (eRow 1)) (by decide +kernel) (by decide +kernel) (by decide +kernel)⟩

theorem test_witness_TileDrainWritesTheNextTile :
    ∃ (n : Nat) (s : State) (e : Exec) (g : Gemm), (s.core n).exec = some e ∧ e.gemmOf = some g ∧ (g.go s (s.whoExec n e) e (some (e.drained + 1))).run.tiles = e.drained + 1 :=
  ⟨0, sMat, eMat, matGemm eMat.cmd eMat, by decide +kernel, rfl, by decide +kernel⟩


/-! Tier moves. -/

/-- A sealed crate of one BF16 element, 1 (R316, R317). -/
def crate : List Byte := sealCrate (bytesOfWords [mk [(0, 5), (8, 1)], mk [(20, 1)], 0#64, 0#64, 0#64, 0#64, 0#64, 0#64] ++ bf [0x3F80])

/-- The Cellar byte the tests use. -/
def cl (o : Nat) : Nat := 2 ^ 44 + 2 ^ 21 + o

/-- A TIER_MOVE of one crate. -/
def eTier (target sub src dst : Nat) : Exec := { cmd := cmdFor target 0x23 sub [BitVec.ofNat 64 src, BitVec.ofNat 64 dst, mk [(0, 128)], 0#64, if sub = 2 then mk [(2, 2)] else 0#64], start := 1000000, limit := 1000 }

/-- The Attic's index 5. -/
def attic5 : Nat := 2 * 2 ^ 44 + 5

/-- The crate at Cellar byte 0 of the tests, and partition 0's crate of index 5 in the Attic. -/
def tierState : State :=
  { up with mem := memPutBytes up.mem (cl 0) crate, tier := { up.tier with crates := [{ index := 5, bytes := withIndex crate 5, part := 0, ctx := some 0, gen := 0, block := 0 }] } }

def tierMoveOf (sub : Nat) (target : Nat) : Exec := if sub ≤ 1 then eTier target sub (cl 0) (cl 256) else eTier target sub attic5 0
def onHub (s : State) (e : Exec) : State := { s with hub := [e] }

def tierRuns (sub : Nat) : Prop :=
  (∃ (s : State) (e : Exec), s.starts 0 e (tierChecks false e.cmd) ∧ e.cmd.op = 0x23 ∧ e.cmd.sub = sub ∧ e.cmd.tmCount ≤ s.unpaused e.cmd ∧ (tierRun none s (s.whoExec 0 e) e).stop = none)
    ∧ ∃ (s : State) (e : Exec), s.hub.find? (fun x => x.cmd.ctx == 0) = some e ∧ e.cmd.op = 0x23 ∧ e.cmd.sub = sub ∧ e.cmd.tmCount ≤ s.unpaused e.cmd ∧ s.ready = true ∧ s.rejection e.cmd [] (tierChecks true e.cmd) = none
      ∧ (tierRun none s { s.whoCtx 0 none with die := dieAttic } { e with start := s.now, limit := s.limitOf e.cmd }).stop = none

theorem tierRuns_of (sub : Nat)
    (h : let e := tierMoveOf sub 0; let s := on tierState e; startsB s e (tierChecks false e.cmd) = true ∧ e.cmd.op = 0x23 ∧ e.cmd.sub = sub ∧ e.cmd.tmCount ≤ s.unpaused e.cmd ∧ (tierRun none s (s.whoExec 0 e) e).stop.isNone = true)
    (k : let e := tierMoveOf sub 390; let s := onHub tierState e; s.hub.find? (fun x => x.cmd.ctx == 0) = some e ∧ e.cmd.op = 0x23 ∧ e.cmd.sub = sub ∧ e.cmd.tmCount ≤ s.unpaused e.cmd ∧ s.ready = true ∧ (s.rejection e.cmd [] (tierChecks true e.cmd)).isNone = true
      ∧ (tierRun none s { s.whoCtx 0 none with die := dieAttic } { e with start := s.now, limit := s.limitOf e.cmd }).stop.isNone = true) : tierRuns sub :=
  ⟨⟨_, _, starts_of h.1, h.2.1, h.2.2.1, h.2.2.2.1, Option.isNone_iff_eq_none.1 h.2.2.2.2⟩,
    ⟨_, _, k.1, k.2.1, k.2.2.1, k.2.2.2.1, k.2.2.2.2.1, Option.isNone_iff_eq_none.1 k.2.2.2.2.2.1, Option.isNone_iff_eq_none.1 k.2.2.2.2.2.2⟩⟩

theorem test_witness_TierMovesComplete : tierRuns 0 ∧ tierRuns 1 ∧ tierRuns 2 ∧ tierRuns 3 ∧ tierRuns 4 :=
  ⟨tierRuns_of 0 (by decide +kernel) (by decide +kernel), tierRuns_of 1 (by decide +kernel) (by decide +kernel), tierRuns_of 2 (by decide +kernel) (by decide +kernel),
    tierRuns_of 3 (by decide +kernel) (by decide +kernel), tierRuns_of 4 (by decide +kernel) (by decide +kernel)⟩

/-- A MOVE copies the crate's bytes unchanged (R327), and a DISCARD leaves none at the index (R351). -/
theorem test_tier_move_and_discard :
    (tierRun none tierState (tierState.whoCtx 0 none) (eTier 0 0 (cl 0) (cl 256))).st.bytes (cl 256) 66 = crate
      ∧ (tierRun none tierState (tierState.whoCtx 0 none) (eTier 0 3 attic5 0)).st.atticAt 0 5 = none := by decide +kernel


/-! Fences, credits, row fences. -/

def waits (e : Exec) : Exec := { e with waiting := true }

/-- Fence object 3 of partition 0 at 7, its credit counter 3 at 7. -/
def syncState : State := (up.odSetN 0x2D00 3 7).odSetN 0x2D10 3 7

theorem test_witness_FenceWaitCompletesWhenItsConditionHolds :
    (∃ (s : State) (e : Exec), s.starts 0 e (fenceChecks e.cmd e) ∧ e.cmd.op = 0x30 ∧ e.cmd.sub = 0 ∧ fld e.cmd.words 2 63 0 ≤ s.fence (s.ctxPart e.cmd.ctx) e.cmd.object)
      ∧ (∃ (s : State) (e : Exec), s.starts 0 e (fenceChecks e.cmd e) ∧ e.cmd.op = 0x30 ∧ e.cmd.sub = 0 ∧ s.fence (s.ctxPart e.cmd.ctx) e.cmd.object < fld e.cmd.words 2 63 0)
      ∧ ∃ (s : State) (e : Exec), (s.core 0).exec = some e ∧ e.waiting = true ∧ e.cmd.op = 0x30 ∧ e.cmd.sub = 0 ∧ fld e.cmd.words 2 63 0 ≤ s.fence (s.ctxPart e.cmd.ctx) e.cmd.object :=
  ⟨⟨on syncState (eFence 0 7), eFence 0 7, starts_of (by decide +kernel), by decide +kernel⟩, ⟨on syncState (eFence 0 8), eFence 0 8, starts_of (by decide +kernel), by decide +kernel⟩,
    ⟨on syncState (waits (eFence 0 7)), waits (eFence 0 7), by decide +kernel⟩⟩

theorem test_witness_FenceUpdatesApplyAndComplete :
    (∃ (s : State) (e : Exec), s.starts 0 e (fenceChecks e.cmd e) ∧ e.cmd.op = 0x30 ∧ e.cmd.sub = 1 ∧ e.cmd.remote = false)
      ∧ (∃ (s : State) (e : Exec), s.starts 0 e (fenceChecks e.cmd e) ∧ e.cmd.op = 0x30 ∧ e.cmd.sub = 2 ∧ e.cmd.remote = false)
      ∧ ∃ (s : State) (e : Exec), s.starts 0 e (fenceChecks e.cmd e) ∧ e.cmd.op = 0x30 ∧ e.cmd.sub = 3 ∧ e.cmd.remote = false :=
  ⟨⟨on syncState (eFence 1 (2 ^ 64 - 1)), eFence 1 (2 ^ 64 - 1), by unfold State.starts; decide +kernel⟩, ⟨on syncState (eFence 2 9), eFence 2 9, by unfold State.starts; decide +kernel⟩,
    ⟨on syncState (eFence 3 9), eFence 3 9, by unfold State.starts; decide +kernel⟩⟩

/-- ADD stops at 2^64 - 1 and GIVE at 0xFFFF_FFFF (R579, R591). -/
theorem test_sums_stop : (syncState.fenceAdd 0 3 (2 ^ 64 - 1)).fence 0 3 = 2 ^ 64 - 1 ∧ (syncState.creditAdd 0 3 0xFFFFFFFF).credits 0 3 = 0xFFFFFFFF := by decide +kernel

theorem test_witness_FenceObjectsHoldWhatTheirUpdatesGive : ∃ (s : State) (p k v : Nat), s.EntriesWf ∧ p < 16 ∧ k < 256 ∧ v < 2 ^ 64 ∧ p = 15 ∧ k = 255 ∧ v = 2 ^ 64 - 1 :=
  ⟨syncState, 15, 255, 2 ^ 64 - 1, (sound_of (s := syncState) (by decide +kernel)).2.2.2, by decide, by decide, by decide, rfl, rfl, rfl⟩

/-- The remote form of a command, in a module whose address is 5, for that address. -/
def far (e : Exec) : Exec := { e with cmd := { e.cmd with words := e.cmd.words.take 3 ++ [nth e.cmd.words 3 0#64 ||| mk [(39, 1), (40, 5)]] ++ e.cmd.words.drop 4 } }
def five : State := syncState.odSetN 0x4000 1 5

theorem test_witness_RemoteUpdatesCompleteWhenInjected :
    (∃ (s : State) (e : Exec), e.cmd.remote = true ∧ s.starts 0 e (fenceChecks e.cmd e) ∧ e.cmd.op = 0x30 ∧ e.cmd.sub = 1
        ∧ ∃ t, s.message (s.whoExec 0 e) e.cmd.module (0 / 2) (fenceObj (s.ctxPart e.cmd.ctx) e.cmd.object) (syncData 1 (fld e.cmd.words 2 63 0)) = .ok t)
      ∧ (∃ (s : State) (e : Exec), e.cmd.remote = true ∧ s.starts 0 e (fenceChecks e.cmd e) ∧ e.cmd.op = 0x30 ∧ e.cmd.sub = 2
        ∧ ∃ t, s.message (s.whoExec 0 e) e.cmd.module (0 / 2) (fenceObj (s.ctxPart e.cmd.ctx) e.cmd.object) (syncData 2 (fld e.cmd.words 2 63 0)) = .ok t)
      ∧ ∃ (s : State) (e : Exec), e.cmd.remote = true ∧ s.starts 0 e (creditChecks e.cmd e) ∧ e.cmd.op = 0x31 ∧ e.cmd.sub = 1
        ∧ ∃ t, s.message (s.whoExec 0 e) e.cmd.module (0 / 2) (creditObj (s.ctxPart e.cmd.ctx) e.cmd.object) (syncData 1 e.cmd.amount) = .ok t :=
  ⟨⟨on five (far (eFence 1 9)), far (eFence 1 9), by decide +kernel, by unfold State.starts; decide +kernel, by decide +kernel, by decide +kernel, _, rfl⟩,
    ⟨on five (far (eFence 2 9)), far (eFence 2 9), by decide +kernel, by unfold State.starts; decide +kernel, by decide +kernel, by decide +kernel, _, rfl⟩,
    ⟨on five (far (eCredit 1 9)), far (eCredit 1 9), by decide +kernel, by unfold State.starts; decide +kernel, by decide +kernel, by decide +kernel, _, rfl⟩⟩

/-- A SEND of the 2 by 2 tensor to the Cellar, which adds 9 to fence object 3; and one to an address that does not exist. -/
def eSend (dst : Nat) : Exec := ex 0x30 4 [9#64, mk [(0, 3), (37, 3)], BitVec.ofNat 64 dst, 0#64] [mat 0 5 2 2 2]

theorem test_witness_SendCopiesThenAdds :
    (∃ (s : State) (e : Exec), s.starts 0 e (fenceChecks e.cmd e) ∧ e.cmd.op = 0x30 ∧ e.cmd.sub = 4 ∧ e.cmd.remote = false ∧ (sendRun none s 0 e).stop = none)
      ∧ ∃ (s : State) (e : Exec), s.starts 0 e (fenceChecks e.cmd e) ∧ e.cmd.op = 0x30 ∧ e.cmd.sub = 4 ∧ e.cmd.remote = false ∧ (sendRun none s 0 e).stop.isSome = true :=
  ⟨⟨on dat (eSend (cl 0)), eSend (cl 0), by unfold State.starts; decide +kernel⟩, ⟨on dat (eSend (2 ^ 44 + cellarBytes)), eSend (2 ^ 44 + cellarBytes), by unfold State.starts; decide +kernel⟩⟩

/-- A SEND leaves the elements dense at DST (R584). -/
theorem test_send_copies : (sendRun none (on dat (eSend (cl 0))) 0 (eSend (cl 0))).st.bytes (cl 0) 8 = bf [0x3F80, 0x4000, 0x4040, 0x4080] := by decide +kernel

/-- Core 0 waits first for counter 3 of partition 0. -/
def queued : State := { syncState with takers := [(takerKey 0 3, .core 0, 0)] }

theorem test_witness_CreditCommandsComplete :
    (∃ (s : State) (e : Exec), s.starts 0 e (creditChecks e.cmd e) ∧ e.cmd.op = 0x31 ∧ e.cmd.sub = 0 ∧ s.headTaker (s.ctxPart e.cmd.ctx) e.cmd.object = none ∧ e.cmd.amount ≤ s.credits (s.ctxPart e.cmd.ctx) e.cmd.object)
      ∧ (∃ (s : State) (e : Exec), s.headTaker 0 3 = some (Consumer.core 0, 0) ∧ (s.core 0).exec = some e ∧ e.waiting = true ∧ e.cmd.amount ≤ s.credits 0 3)
      ∧ (∃ (s : State) (e : Exec), s.starts 0 e (creditChecks e.cmd e) ∧ e.cmd.op = 0x31 ∧ e.cmd.sub = 1 ∧ e.cmd.remote = false)
      ∧ ∃ (s : State) (e : Exec), s.starts 0 e (creditChecks e.cmd e) ∧ e.cmd.op = 0x31 ∧ e.cmd.sub = 2 :=
  ⟨⟨on syncState (eCredit 0 7), eCredit 0 7, by unfold State.starts; decide +kernel⟩, ⟨on queued (waits (eCredit 0 7)), waits (eCredit 0 7), by decide +kernel⟩,
    ⟨on syncState (eCredit 1 0xFFFFFFFF), eCredit 1 0xFFFFFFFF, by unfold State.starts; decide +kernel⟩, ⟨on syncState (eCredit 2 0), eCredit 2 0, by unfold State.starts; decide +kernel⟩⟩

theorem test_witness_TakersAreServedInOrder :
    ∃ (s : State) (e : Exec), s.starts 0 e (creditChecks e.cmd e) ∧ e.cmd.op = 0x31 ∧ e.cmd.sub = 0 ∧ (s.headTaker (s.ctxPart e.cmd.ctx) e.cmd.object).isSome = true ∧ e.cmd.amount = 0 :=
  ⟨on { queued with takers := [(takerKey 0 3, .core 1, 0)] } (eCredit 0 0), eCredit 0 0, by unfold State.starts; decide +kernel⟩

/-- Rows 5 and 6 of board 1 set. -/
def rowsSet : State := up.updPart 0 fun x => { x with rows := [16389, 16390] }

theorem test_witness_RowFencesComplete :
    (∃ (s : State) (e : Exec), s.starts 0 e (rowFenceChecks e.cmd e) ∧ e.cmd.op = 0x32 ∧ e.cmd.sub = 0 ∧ s.rowHolds e.cmd = true)
      ∧ (∃ (s : State) (e : Exec), s.starts 0 e (rowFenceChecks e.cmd e) ∧ e.cmd.op = 0x32 ∧ e.cmd.sub = 0 ∧ s.rowHolds e.cmd = false)
      ∧ (∃ (s : State) (e : Exec), s.starts 0 e (rowFenceChecks e.cmd e) ∧ e.cmd.op = 0x32 ∧ e.cmd.sub = 1)
      ∧ ∃ (s : State) (e : Exec), (s.core 0).exec = some e ∧ e.waiting = true ∧ e.cmd.op = 0x32 ∧ e.cmd.sub = 0 ∧ s.rowHolds e.cmd = true :=
  ⟨⟨on rowsSet (eRow 0), eRow 0, by unfold State.starts; decide +kernel⟩, ⟨on up (eRow 0), eRow 0, by unfold State.starts; decide +kernel⟩, ⟨on rowsSet (eRow 1), eRow 1, by unfold State.starts; decide +kernel⟩,
    ⟨on rowsSet (waits (eRow 0)), waits (eRow 0), by decide +kernel⟩⟩

/-! Barriers. -/

/-- A BARRIER of context 0 on the hub die: LOCAL, or STEP 4 of group 2 with the tree record at the Cellar byte of the tests. -/
def eBar (sub : Nat) : Exec := { cmd := { ctx := 0, slot := 2, target := 390, words := [w0 0x38 sub, w1, if sub = 1 then BitVec.ofNat 64 (cl 0) else 0#64, if sub = 1 then 4#64 else 0#64, if sub = 1 then mk [(8, 2), (0, 15)] else mk [(0, 15)], 0#64, 0#64, 0#64] }, start := 1000000, limit := 1000 }

/-- A tree record of a module alone: root, one local contribution, no child (R466). -/
def tree : List Word := [mk [(12, 1), (21, 1)], 0#64, 0#64, 0#64, 0#64, 0#64, 0#64, 0#64]
def barState (e : Exec) : State := { up with hub := [e], mem := memPutBytes up.mem (cl 0) (bytesOfWords tree) }

/-- A command before the BARRIER that has been read and not dispatched. -/
def behind (s : State) : State := s.updCtx 0 fun x => { x with fetched := [cmdFor 1 0 0 []] }
def phased (e : Exec) (k : Nat) : Exec := { e with phase := k }

theorem test_witness_BarriersCompleteOnArrival :
    (∃ (s : State) (e : Exec), s.startable1 0 (fun x => x.sub != 1) = some e ∧ s.rejection e.cmd [] (barrierChecks e.cmd []) = none ∧ s.mayArrive e.cmd = true)
      ∧ (∃ (s : State) (e : Exec), s.startable1 0 (fun x => x.sub != 1) = some e ∧ s.rejection e.cmd [] (barrierChecks e.cmd []) = none ∧ s.mayArrive e.cmd = false)
      ∧ (∃ (s : State) (e : Exec) (ws : List Word), s.startable1 0 (fun x => x.sub == 1) = some e ∧ s.readRec (s.whoCtx 0 none) e.cmd.bTree 8 = .words ws ∧ s.rejection e.cmd [] (barrierChecks e.cmd ws) = none
        ∧ treeReserved ws = false ∧ treeAlone ws = true)
      ∧ (∃ (s : State) (e : Exec), s.hubExec 0 CmdInst.isBarrier = some e ∧ e.phase = 1 ∧ s.mayArrive e.cmd = true ∧ e.cmd.sub ≠ 1)
      ∧ ∃ (s : State) (e : Exec), s.hubExec 0 CmdInst.isBarrier = some e ∧ e.phase = 1 ∧ s.mayArrive e.cmd = true ∧ e.cmd.sub = 1 :=
  ⟨⟨barState (eBar 0), eBar 0, by decide +kernel⟩, ⟨behind (barState (eBar 0)), eBar 0, by decide +kernel⟩, ⟨barState (eBar 1), eBar 1, tree, by decide +kernel⟩,
    ⟨barState (phased (eBar 0) 1), phased (eBar 0) 1, by decide +kernel⟩, ⟨barState (phased (eBar 1) 1), phased (eBar 1) 1, by decide +kernel⟩⟩


/-! Update engines. -/

/-- An UPDATE of context 0 on cellar die 0: P is descriptor 1, G descriptor 0, step 4, slot 0, group 2, header, program or record, scalars at Cellar bytes 3072, 3200 and 3328. -/
def uCmd (sub : Nat) (streams plen a b : Nat) : CmdInst :=
  { ctx := 0, slot := 0, target := 384, words := [w0 0x40 sub, w1, BitVec.ofNat 64 streams, mk [(0, if sub = 0 ∨ sub = 2 then 0xFFFF else 0), (16, plen), (23, if sub = 2 then 1 else 0), (24, if sub = 1 ∨ sub = 3 then 2 else 0)], if sub = 3 then 0#64 else 4#64,
      if sub = 0 ∨ sub = 2 then BitVec.ofNat 64 (cl 3072) else 0#64, BitVec.ofNat 64 a, BitVec.ofNat 64 b] }

def uPart : CmdInst := uCmd 0 0 0 0 0
def uReduce : CmdInst := uCmd 1 0 0 (cl 3200) 0
def uApply : CmdInst := uCmd 2 (1 + 0xFFFF * 2 ^ 32 + 0xFFFF * 2 ^ 48) 0 (cl 3200) (cl 3328)
def uRead : CmdInst := uCmd 3 0 0 (cl 3456) 0
def uLoad : CmdInst := uCmd 4 0 0 (cl 3200) 0

/-- Descriptor 0: two B16 elements 1.0, exponent 142 (R64), at Cellar byte 1024; descriptor 1: two BF16 elements 3.0 at byte 2048; the header at step 4; at byte 3200 a program P := P - G, a verdict GO, or a tree of a module alone. -/
def updMem (at3200 : List Byte) : List Host.Cell :=
  memPutBytes (memPutBytes (memPutBytes (memPutBytes (memPutBytes (memPutBytes up.mem
    (2 ^ 44 + 2 ^ 20) (bytesOfWords [mk [(0, cl 1024), (52, 7), (55, 1)], mk [(0, 1)], 0#64, mk [(32, 64)], mk [(0, cl 2048), (52, 5)], mk [(0, 1)], 0#64, 0#64]))
    (cl 1024) (bf [1, 1])) (cl 1088) [142#8]) (cl 2048) (bf [0x4040, 0x4040])) (cl 3072) (bytesOfWords (shardWords 4 3 0 0 0))) (cl 3200) at3200

def updState (c : CmdInst) (at3200 : List Byte) (sl : NormSlot) : State :=
  let s : State := { up with mem := memPutBytes (updMem at3200) (cl 3328) (leBytes 8 4) }
  (s.updEngine 0 fun y => { y with queue := [c], slots := modAt y.slots 0 fun _ => sl }).odSetN 0x4000 1 5

def uProg : List Byte := leBytes 4 (2 * 2 ^ 26 + 0x10 * 2 ^ 20 + 0x10 * 2 ^ 14 + 0x11 * 2 ^ 8)
def uVerdict : List Byte := bytesOfWords (normWords { step := 4, elems := 2, sumsq := 0#32, lscale := 0x3F800000#32, cause := 0, kind := 2, contrib := 1 })
def slotGo : NormSlot := { st := .go, step := 4, lscale := 0x3F800000#32 }

theorem test_witness_NormCommandsTakeEffect :
    (∃ (s : State) (c : CmdInst) (g : Desc), s.updStarts 0 c ∧ c.sub = 0 ∧ streamAt (s.updReads (s.whoCtx c.ctx none) c).streams 0x11 = some g ∧ ((s.updBegun 0 c).slot 0 ((s.updBegun 0 c).ctxPart c.ctx) c.uSlot).st = .empty
        ∧ c.uA = 0 ∧ ((s.updBegun 0 c).normPasses 0 (s.updExec c) (s.updReads (s.whoCtx c.ctx none) c) g none).run.stop = none)
      ∧ (∃ (s : State) (c : CmdInst), s.updStarts 0 c ∧ c.sub = 1 ∧ ((s.updBegun 0 c).slot 0 ((s.updBegun 0 c).ctxPart c.ctx) c.uSlot).st = .gathering ∧ (s.updBegun 0 c).fabric ≠ 0xFFFF)
      ∧ (∃ (s : State) (c : CmdInst), s.updStarts 0 c ∧ c.sub = 3 ∧ (s.updBegun 0 c).storeFault ((s.updBegun 0 c).whoUpd 0 c.ctx) c.uA 64 = none)
      ∧ ∃ (s : State) (c : CmdInst) (ws : List Word), s.updStarts 0 c ∧ c.sub = 4 ∧ (s.updExec c).recs = [.words ws] ∧ ((s.updBegun 0 c).slot 0 ((s.updBegun 0 c).ctxPart c.ctx) c.uSlot).st ≠ .waiting :=
  ⟨⟨updState uPart uProg {}, uPart, descOf [mk [(0, cl 1024), (52, 7), (55, 1)], mk [(0, 1)], 0#64, mk [(32, 64)]], by unfold State.updStarts; decide +kernel⟩,
    ⟨updState uReduce (bytesOfWords tree) { st := .gathering, step := 4 }, uReduce, by unfold State.updStarts; decide +kernel⟩,
    ⟨updState uRead uProg {}, uRead, by unfold State.updStarts; decide +kernel⟩, ⟨updState uLoad uVerdict {}, uLoad, wordsOf 8 uVerdict, by unfold State.updStarts; decide +kernel⟩⟩

theorem test_witness_ApplyUpdatesOrSkips :
    (∃ (s : State) (c : CmdInst), s.updStarts 0 c ∧ c.sub = 2 ∧ ((s.updBegun 0 c).slot 0 0 c.uSlot).step = c.uStep ∧ fld (((s.updReads (s.whoCtx c.ctx none) c).hdr.map RecRead.ws).getD []) 0 63 0 = c.uStep
        ∧ ((s.updBegun 0 c).slot 0 ((s.updBegun 0 c).ctxPart c.ctx) c.uSlot).st = .skip)
      ∧ ∃ (s : State) (c : CmdInst), s.updStarts 0 c ∧ c.sub = 2 ∧ ((s.updBegun 0 c).slot 0 0 c.uSlot).step = c.uStep ∧ fld (((s.updReads (s.whoCtx c.ctx none) c).hdr.map RecRead.ws).getD []) 0 63 0 = c.uStep
        ∧ ((s.updBegun 0 c).slot 0 ((s.updBegun 0 c).ctxPart c.ctx) c.uSlot).st = .go
        ∧ (applyRun none (s.updBegun 0 c) 0 (s.updExec c) (s.updReads (s.whoCtx c.ctx none) c) ((s.updBegun 0 c).slot 0 ((s.updBegun 0 c).ctxPart c.ctx) c.uSlot)).stop = none :=
  ⟨⟨updState uApply uProg { st := .skip, step := 4 }, uApply, by unfold State.updStarts; decide +kernel⟩, ⟨updState uApply uProg slotGo, uApply, by unfold State.updStarts; decide +kernel⟩⟩

/-- The program P := P - G leaves 3 - 1 at both elements (R479, R480), whatever the draws, and the FINAL APPLY counts the step as applied (R459). -/
theorem test_apply_subtracts : ∃ t : State, exec (.apply 0) (updState uApply uProg slotGo) = .next t ∧ t.bytes (cl 2048) 4 = bf [0x4000, 0x4000] ∧ fld (t.words (cl 3072) 2) 0 63 0 = 5 ∧ fld (t.words (cl 3072) 2) 1 63 0 = 4 :=
  ⟨_, rfl, by decide +kernel⟩


/-! Reductions and broadcasts. -/

/-- A plan of one chunk of one block, sent to module 9 (R499, R500): local, or with input 0. -/
def rPlanOf (mask : Nat) : List Word := [mk [(8, if mask = 0 then 0 else 1)], mk [(0, 9)]] ++ List.replicate 14 0#64 ++ [0#64, mk [(9, if mask = 0 then 1 else 0), (0, mask)]]

/-- A dense REDUCE of descriptor 0, with READY credits of counter 3. -/
def rCmd (ready : Nat) : CmdInst :=
  { ctx := 0, slot := 1, target := 388, words := [w0 0x48 0, w1, 4#64, mk [(8, 3), (16, ready), (32, 6)], mk [(16, 0xFFFF), (32, 0xFFFF), (48, 0xFFFF)], BitVec.ofNat 64 (cl 3200), BitVec.ofNat 64 (cl 3400), 0#64] }

def redState (c : CmdInst) : State :=
  let s : State := { up with mem := updMem (bytesOfWords (rPlanOf 0)), coll := { up.coll with queue := [c] } }
  (s.odSetN 0x4000 1 5).odSetN 0x2D10 3 7

/-- The REDUCE under way, and with what it knows: locally ready or not, its plan. -/
def rRun (ready : Nat) (isReady : Bool) (mask : Nat) : RedRun :=
  { exec := { cmd := rCmd ready, start := 1000000, limit := 1000, recs := [.words [mk [(0, cl 1024), (52, 7), (55, 1)], mk [(0, 1)], 0#64, mk [(32, 64)]], .beyond, .beyond, .beyond], waiting := !isReady }, plan := rPlanOf mask, ready := isReady }
def running (r : RedRun) : State := { redState (rCmd 7) with coll := { up.coll with runs := [r] }, takers := if r.ready then [] else [(takerKey 0 3, .reduction 0, 1)] }

theorem test_witness_ReductionsStartAndBecomeReady :
    (∃ (s : State) (c : CmdInst), s.collNext 0 1 0x48 = some c ∧ s.redRejection c (s.redDescs (s.whoRed 0 c.port) c) (s.readPlan (s.whoRed 0 c.port) c.rPlan) = none ∧ s.fabric ≠ 0xFFFF ∧ c.rReady = 0)
      ∧ (∃ (s : State) (c : CmdInst), s.collNext 0 1 0x48 = some c ∧ s.redRejection c (s.redDescs (s.whoRed 0 c.port) c) (s.readPlan (s.whoRed 0 c.port) c.rPlan) = none ∧ s.fabric ≠ 0xFFFF ∧ c.rReady ≠ 0
        ∧ s.headTaker (s.ctxPart 0) c.rCtr = none ∧ c.rReady ≤ s.credits (s.ctxPart 0) c.rCtr)
      ∧ (∃ (s : State) (c : CmdInst), s.collNext 0 1 0x48 = some c ∧ s.redRejection c (s.redDescs (s.whoRed 0 c.port) c) (s.readPlan (s.whoRed 0 c.port) c.rPlan) = none ∧ s.fabric ≠ 0xFFFF ∧ c.rReady ≠ 0
        ∧ s.credits (s.ctxPart 0) c.rCtr < c.rReady)
      ∧ ∃ (s : State) (r : RedRun), s.findRun 0 1 = some r ∧ r.ready = false ∧ s.headTaker (s.ctxPart 0) r.exec.cmd.rCtr = some (Consumer.reduction 0, 1) ∧ r.exec.cmd.rReady ≤ s.credits (s.ctxPart 0) r.exec.cmd.rCtr :=
  ⟨⟨redState (rCmd 0), rCmd 0, by decide +kernel⟩, ⟨redState (rCmd 7), rCmd 7, by decide +kernel⟩, ⟨redState (rCmd 8), rCmd 8, by decide +kernel⟩, ⟨running (rRun 7 false 0), rRun 7 false 0, by decide +kernel⟩⟩

theorem test_witness_ReductionUnitsMoveOn :
    (∃ (s : State) (r : RedRun), s.runAt 0 1 0 = some r ∧ (s.work r).chunk.own = false ∧ r.mayStart = true ∧ (s.work r).chunk.mask = 0 ∧ (s.work r).add.run.stop = none ∧ (s.work r).add.unitReady = true)
      ∧ ∃ (s : State) (r : RedRun), s.runAt 0 1 0 = some r ∧ (planChunk r.plan 0).mask ≠ 0 :=
  ⟨⟨running (rRun 0 true 0), rRun 0 true 0, by decide +kernel⟩, ⟨running (rRun 0 true 1), rRun 0 true 1, by decide +kernel⟩⟩

/-- A BROADCAST of 64 bytes of the Cellar to module 5, with its list at Cellar byte 3200. -/
def bCmd : CmdInst := { ctx := 0, slot := 1, target := 388, words := [w0 0x49 0, w1, BitVec.ofNat 64 (cl 0), BitVec.ofNat 64 (cl 4096), 63#64, BitVec.ofNat 64 (cl 3200), 0#64, 0#64] }
def bExec : Exec := { cmd := bCmd, start := 1000000, limit := 0, recs := [.words [5#64]], phase := 1 }
def castState (c : List CmdInst) : State := { five with mem := memPutBytes five.mem (cl 3200) (leBytes 2 5), coll := { five.coll with queue := [bCmd] }, upd := modAt five.upd 0 fun y => { y with queue := c } }

theorem test_witness_BroadcastsSendWhenNothingIsBefore :
    (∃ (s : State) (c : CmdInst) (ws : List Word), s.collNext 0 1 0x49 = some c ∧ s.readList (s.whoRed 0 c.port) c = .words ws ∧ s.fabric ≠ 0xFFFF
        ∧ (let e : Exec := { cmd := c, start := s.now, limit := s.limitOf c, recs := [.words ws], phase := 1 }
           let t := ((s.collTake c).touch (s.whoRed 0 c.port) 0 c.bcList (2 * c.bcCount)).withColl fun x => { x with broadcasts := x.broadcasts ++ [e] }
           s.rejection c [] (bcChecks c (castList e)) = none ∧ (castList e).all (fun x => decide (x < 4096)) = true ∧ t.castHeld c = false))
      ∧ (∃ (s : State) (c : CmdInst) (ws : List Word), s.collNext 0 1 0x49 = some c ∧ s.readList (s.whoRed 0 c.port) c = .words ws ∧ s.fabric ≠ 0xFFFF
        ∧ (let e : Exec := { cmd := c, start := s.now, limit := s.limitOf c, recs := [.words ws], phase := 1 }
           let t := ((s.collTake c).touch (s.whoRed 0 c.port) 0 c.bcList (2 * c.bcCount)).withColl fun x => { x with broadcasts := x.broadcasts ++ [e] }
           s.rejection c [] (bcChecks c (castList e)) = none ∧ (castList e).all (fun x => decide (x < 4096)) = true ∧ t.castHeld c = true))
      ∧ ∃ (s : State) (e : Exec), s.coll.broadcasts.find? (fun x => x.cmd.isAt 0 1 && x.phase == 1) = some e ∧ s.castHeld e.cmd = false :=
  ⟨⟨castState [], bCmd, [5#64], by decide +kernel⟩, ⟨castState [uPart], bCmd, [5#64], by decide +kernel⟩, ⟨{ five with coll := { five.coll with broadcasts := [bExec] } }, bExec, by decide +kernel⟩⟩


/-! The media die. -/

/-- A command of context 0 on the media die. -/
def eMedia (op sub : Nat) (ws : List Word) : Exec := { cmd := cmdFor 389 op sub ws, start := 1000000 }

/-- A batch tensor: E4M3, 2 by 2, 3 channels, one slot, at HBM byte 4096 (R656); its mask at byte 8192. -/
def bTensor : List Word := [mk [(0, 4096), (52, 3), (58, 1)], mk [(0, 1), (16, 1), (32, 2)], mk [(0, 2), (32, 4)], mk [(0, 12)]]

/-- The words 2 to 5 of an OPEN of handle 7 with fence object 3 and VALUE 9 (R657). -/
def openWords (kind : Nat) : List Word := [mk [(32, 7), (40, 3), (48, 1), (49, kind)], mk [(0, 8192)], 0#64, 9#64]

/-- A still image of one byte at Cellar byte 0, for slot 0, WAIT or not (R665). -/
def smp (wait : Nat) : List Word := [mk [(0, cl 0)], mk [(0, 1), (48, wait)], 0#64, 0#64, 0#64, 0#64, 0#64, 0#64]

/-- A route of output 0 to slot 0 of handle 7 (R707). -/
def rte : List Word := [0#64, mk [(0, 7)], 0#64, 0#64, 0#64, 0#64, 0#64, 0#64]

/-- An open batch of one slot. -/
def batchOf (kind : Nat) (sl : BatchSlot) : Batch := { handle := 7, part := 0, ctx := 0, words := cmdFor 389 0x50 0 (openWords kind) |>.words, tensor := bTensor, opened := 1000000, slots := [sl] }
def admittedSlot (phase wait : Nat) : BatchSlot := { res := .admitted, deadline := 2000000, wait := wait == 1, words := smp wait, phase := phase }

/-- The media die with a command waiting, batches and streams; descriptor 0 is the tensor, the list at Cellar byte 3200 the record. -/
def mediaState (q : List Exec) (bs : List Batch) (xs : List Stream) (list : List Word) : State :=
  { (up.odSetN 0x2000 8 1) with mem := memPutBytes (memPutBytes up.mem (2 ^ 44 + 2 ^ 20) (bytesOfWords bTensor)) (cl 3200) (bytesOfWords list), media := { queue := q, batches := bs, streams := xs } }

def eOpen : Exec := eMedia 0x50 0 (openWords 0)
def eAdd (op : Nat) : Exec := eMedia op (if op = 0x50 then 1 else 2) [BitVec.ofNat 64 (cl 3200), mk [(16, 7)]]
def eClose (op sub n : Nat) : Exec := eMedia op sub [BitVec.ofNat 64 n]

theorem test_witness_BatchCommandsComplete :
    (∃ (s : State) (e : Exec) (tensor : List Word), s.mediaStarts 0 0x50 0 e [.words tensor] none (openChecks e.cmd [.words tensor]) ∧ s.readDesc (s.whoMedia 0) 0 (fld e.cmd.words 2 15 0) = .words tensor
        ∧ (let t := s.touchDescs (s.whoMedia 0) 0 [fld e.cmd.words 2 15 0]
           t.batchUnmapped (t.whoMedia 0) (descOf tensor) (batchMask e.cmd.words) = none ∧ t.batch (fld e.cmd.words 2 39 32) = none))
      ∧ (∃ (s : State) (e : Exec) (list : List Word), s.mediaStarts 0 0x50 1 e [] (some (.words list)) (addChecks e.cmd []) ∧ s.readList64 (s.whoMedia 0) e.cmd = .words list
        ∧ s.tableRoom (s.ctxPart 0) (fld e.cmd.words 3 9 0 + 1) = true
        ∧ firstBad (s.sampleCheck (s.ctxPart 0) (s.batch (fld e.cmd.words 3 23 16))) smpSlot 0 [] ((List.range (fld e.cmd.words 3 9 0 + 1)).map (recordAt list)) = none)
      ∧ (∃ (s : State) (e : Exec), s.mediaStarts 0 0x50 2 e [] none { reserved := fld e.cmd.words 2 63 8 != 0 || [3, 4, 5, 6, 7].any fun i => fld e.cmd.words i 63 0 != 0 } ∧ s.batch (fld e.cmd.words 2 7 0) = none)
      ∧ ∃ (s : State) (e : Exec) (x : Batch), s.mediaStarts 0 0x50 2 e [] none { reserved := fld e.cmd.words 2 63 8 != 0 || [3, 4, 5, 6, 7].any fun i => fld e.cmd.words i 63 0 != 0 }
        ∧ s.batch (fld e.cmd.words 2 7 0) = some x ∧ ((x.part = s.ctxPart 0 ∧ s.ctxPart 0 = 0) ∨ x.part ≠ s.ctxPart 0) :=
  ⟨⟨mediaState [eOpen] [] [] [], eOpen, bTensor, ⟨⟨eOpen, by decide +kernel⟩, by decide +kernel⟩, by decide +kernel⟩,
    ⟨mediaState [eAdd 0x50] [batchOf 0 {}] [] (smp 0), eAdd 0x50, smp 0, ⟨⟨eAdd 0x50, by decide +kernel⟩, by decide +kernel⟩, by decide +kernel⟩,
    ⟨mediaState [eClose 0x50 2 7] [] [] [], eClose 0x50 2 7, ⟨⟨eClose 0x50 2 7, by decide +kernel⟩, by decide +kernel⟩, by decide +kernel⟩,
    ⟨mediaState [eClose 0x50 2 7] [batchOf 0 {}] [] [], eClose 0x50 2 7, batchOf 0 {}, ⟨⟨eClose 0x50 2 7, by decide +kernel⟩, by decide +kernel⟩, by decide +kernel⟩⟩

/-- A slot routed from output 0 of stream context 5, and a WAIT slot past its deadline. -/
def routedSlot : BatchSlot := { res := .admitted, deadline := 2000000, words := rte, stream := some 5 }
def lateSlot (wait : Nat) : BatchSlot := { admittedSlot 1 wait with deadline := 999999 }

/-- A sample whose source does not exist. -/
def lostSlot : BatchSlot := { admittedSlot 0 0 with words := mk [(0, 15 * 2 ^ 44)] :: (smp 0).drop 1 }

/-- A stream context with its pictures. -/
def strm (num : Nat) (st : StreamSt) (words : List Word) (pics : List Pic) : Stream := { num := num, part := 0, ctx := 0, st := st, words := words, pics := pics }
def dec (pics : List Pic) (live : Nat) : Stream := strm 5 .decoding [0#64, 0#64, mk [(14, live)], 0#64, 0#64, 0#64, 0#64, 0#64] pics

/-- The first picture in a phase, with what the stream says of it: output index 0, referenced or not, broken of itself or not. -/
def pic (phase ref bad : Nat) (out : Bool) : Pic := { n := 0, info := [1, 1, ref, 0, 0, bad, 0, 0, 0, 64, 64, 0, 0, 0, 0, 8, 0, 0, 0], arrival := 1000000, phase := phase, out := out }

theorem test_witness_SampleDecodeStart :
    (∃ (s : State) (b i : Nat) (y : BatchSlot) (x : Batch), s.engineBusy 2 0 = false ∧ s.unitOut (mediaUnit 2 0) = false ∧ s.ready = true ∧ firstSample (s.waitingFor 2) = some (b, i, y) ∧ s.batch b = some x ∧ y.stream.isSome = true)
      ∧ (∃ (s : State) (b i : Nat) (y : BatchSlot) (x : Batch), s.engineBusy 2 0 = false ∧ s.unitOut (mediaUnit 2 0) = false ∧ s.ready = true ∧ firstSample (s.waitingFor 2) = some (b, i, y) ∧ s.batch b = some x ∧ y.stream = none)
      ∧ (∃ (s : State) (b i : Nat) (y : BatchSlot) (x : Batch), s.engineBusy 0 31 = false ∧ s.unitOut (mediaUnit 0 31) = false ∧ s.ready = true ∧ firstSample (s.waitingFor 0) = some (b, i, y) ∧ s.batch b = some x ∧ y.stream = none
        ∧ s.loadFault x.who (smpSrc y.words) (smpLen y.words) = none)
      ∧ ∃ (s : State) (b i : Nat) (y : BatchSlot) (x : Batch), s.engineBusy 0 31 = false ∧ s.unitOut (mediaUnit 0 31) = false ∧ s.ready = true ∧ firstSample (s.waitingFor 0) = some (b, i, y) ∧ s.batch b = some x ∧ y.stream = none
        ∧ (s.loadFault x.who (smpSrc y.words) (smpLen y.words)).isSome = true :=
  ⟨⟨mediaState [] [batchOf 0 routedSlot] [dec [pic 2 0 0 true] 0] [], 7, 0, routedSlot, batchOf 0 routedSlot, by decide +kernel⟩,
    ⟨mediaState [] [batchOf 0 (admittedSlot 1 0)] [] [], 7, 0, admittedSlot 1 0, batchOf 0 (admittedSlot 1 0), by decide +kernel⟩,
    ⟨mediaState [] [batchOf 0 (admittedSlot 0 0)] [] [], 7, 0, admittedSlot 0 0, batchOf 0 (admittedSlot 0 0), by decide +kernel⟩,
    ⟨mediaState [] [batchOf 0 lostSlot] [] [], 7, 0, lostSlot, batchOf 0 lostSlot, by decide +kernel⟩⟩

/-- The clause of SAMPLE_VALID depends on the codec, which is free (log entry 9): it has a witness where the codec calls the byte 0 a picture. -/
theorem test_witness_SamplesAreDecodedAndResolved :
    (Config.sampleInfo 0 [0#8] 0 = 1 → ∃ (s : State) (x : Batch), (s.bringSlot 7 0).batch 7 = some x ∧ (x.slot 0).res = .admitted ∧ (x.slot 0).stream = none ∧ (x.slot 0).phase = 2 ∧ (s.bringSlot 7 0).sampleFits x (x.slot 0).words = true)
      ∧ (∃ (s : State) (x : Batch), (s.bringSlot 7 0).batch 7 = some x ∧ (x.slot 0).res = .admitted ∧ (x.slot 0).stream = none ∧ 1 ≤ (x.slot 0).phase)
      ∧ (∃ (s : State) (x : Batch), (s.bringSlot 7 0).batch 7 = some x ∧ (x.slot 0).res = .admitted ∧ (x.slot 0).stream = none ∧ 1 ≤ (x.slot 0).phase ∧ batchKind x.words = 1 ∧ audMix (x.slot 0).words = 0)
      ∧ (∃ (s : State) (x : Batch), s.batch 7 = some x ∧ s.now ≤ (x.slot 0).deadline) ∧ (∃ (s : State) (x : Batch), s.batch 7 = some x ∧ (x.slot 0).deadline < s.now)
      ∧ (∃ (s : State) (x : Batch), s.batch 7 = some x ∧ 0 < x.slots.length ∧ (x.slot 0).resolved = false ∧ (x.slot 0).passed = false ∧ (x.slot 0).wait = false)
      ∧ (∃ (s : State) (x : Batch), s.batch 7 = some x ∧ 0 < x.slots.length ∧ (x.slot 0).resolved = false ∧ (x.slot 0).passed = false ∧ (x.slot 0).wait = true)
      ∧ ∃ (s : State) (x : Batch), s.batch 7 = some x ∧ x.slots.all BatchSlot.resolved = true :=
  ⟨fun h => ⟨mediaState [] [batchOf 0 (admittedSlot 2 0)] [] [], batchOf 0 (admittedSlot 2 0), by decide +kernel, by decide +kernel, by decide +kernel, by decide +kernel, by
      have e : ((mediaState [] [batchOf 0 (admittedSlot 2 0)] [] []).bringSlot 7 0).bytes (smpSrc (admittedSlot 2 0).words) (smpLen (admittedSlot 2 0).words) = [0#8] := by decide +kernel
      have c : smpCodec (admittedSlot 2 0).words = 0 := by decide +kernel
      show ((mediaState [] [batchOf 0 (admittedSlot 2 0)] [] []).bringSlot 7 0).sampleFits (batchOf 0 (admittedSlot 2 0)) (admittedSlot 2 0).words = true
      simp [State.sampleFits, e, c, h, codecSound]⟩,
    ⟨mediaState [] [batchOf 0 (admittedSlot 1 0)] [] [], batchOf 0 (admittedSlot 1 0), by decide +kernel⟩, ⟨mediaState [] [batchOf 1 (admittedSlot 1 0)] [] [], batchOf 1 (admittedSlot 1 0), by decide +kernel⟩,
    ⟨mediaState [] [batchOf 0 (admittedSlot 1 0)] [] [], batchOf 0 (admittedSlot 1 0), by decide +kernel⟩, ⟨mediaState [] [batchOf 0 (lateSlot 1)] [] [], batchOf 0 (lateSlot 1), by decide +kernel⟩,
    ⟨mediaState [] [batchOf 0 {}] [] [], batchOf 0 {}, by decide +kernel⟩, ⟨mediaState [] [batchOf 0 (lateSlot 1)] [] [], batchOf 0 (lateSlot 1), by decide +kernel⟩,
    ⟨mediaState [] [batchOf 0 { res := .late }] [] [], batchOf 0 { res := .late }, by decide +kernel⟩⟩

/-- A batch of one INVALID slot completes with its fence raised by VALUE, its handle free and its status byte 0x31 for REASON 3 (R686, R690). -/
theorem test_batch_completes : ∃ t : State, exec (.batchComplete 7) (mediaState [] [batchOf 0 { res := .invalid, reason := 3 }] [] []) = .next t ∧ t.fence 0 3 = 9 ∧ t.media.batches = [] ∧ t.byte (8192 + 128) = 0x31#8 :=
  ⟨_, rfl, by decide +kernel⟩


/-! Streams and encoding. -/

/-- SOPEN of context 5, 64 by 64 pictures, its reference area at HBM byte 65536 (R698); EOPEN of context 6 (R728). -/
def eSopen : Exec := eMedia 0x51 0 [mk [(0, 5), (32, 63), (48, 63)], 65536#64, 6#64, 0#64]
def eEopen : Exec := eMedia 0x52 0 [mk [(0, 6), (32, 63), (48, 63)], 65536#64, 4#64, 0#64]
def eData : Exec := eMedia 0x51 1 [BitVec.ofNat 64 (cl 0), mk [(0, 2), (32, 5)]]
def ePict : Exec := eMedia 0x52 1 [BitVec.ofNat 64 (cl 0), BitVec.ofNat 64 (cl 64), 0#64, BitVec.ofNat 64 (cl 8192), mk [(32, 6)], BitVec.ofNat 64 (cl 12288)]

/-- An encode context. -/
def enc : Stream := strm 6 .encoding eEopen.cmd.words []

/-! The first MiB of HBM can be reached where its die's slice is larger. -/

theorem low_region (a : Nat) (h : a < 2^20) : region a = 0 ∧ offset a = a := by
  unfold region offset
  have : (2:Nat)^20 ≤ 2^44 := by decide
  rw [Nat.div_eq_of_lt (by omega), Nat.mod_eq_of_lt (b := 2 ^ 44) (by omega)]
  exact ⟨rfl, rfl⟩

theorem find_first (f : Nat → Nat) (o : Nat) (h : o < f 1) : ((List.range 8).find? fun d => decide (o < f (d + 1))).getD 7 = 0 := by
  rw [List.range_succ_eq_map, List.find?_cons]
  simp [h]

theorem low_home (s : State) (o : Nat) (h : o < s.sliceBase 1) : s.homeDie o = 0 := by
  unfold State.homeDie
  exact find_first s.sliceBase o h

theorem low_map (s : State) (w : Who) (a : Nat) (h : a < 2 ^ 20) (h0 : 2 ^ 20 + s.tier.cacheH * 16640 ≤ s.sliceBase 1) (h1 : 2 ^ 20 ≤ s.hbmSize) : s.mapFault w true a = none := by
  have c : s.inHbmCache a = false := by
    have := low_home s a (by omega)
    simp only [State.inHbmCache, this]
    simp; omega
  unfold State.mapFault
  rw [(low_region a h).1, (low_region a h).2]
  have d : a < s.hbmSize := by omega
  simp [c, d]

theorem low_hbm (s : State) (w : Who) (a n : Nat) (h : a + n ≤ 2 ^ 20) (h0 : 2 ^ 20 + s.tier.cacheH * 16640 ≤ s.sliceBase 1) (h1 : 2 ^ 20 ≤ s.hbmSize) : s.firstUnmapped w a n = none := by
  have k : (List.range n).find? (fun i => (s.mapFault w true (a + i)).isSome) = none := by
    rw [List.find?_eq_none]
    intro i hi
    rw [low_map s w (a + i) (by have := List.mem_range.1 hi; omega) h0 h1]
    decide
  unfold State.firstUnmapped
  rw [k]
  rfl

theorem area_good (s : State) (w : Who) (base pages need : Nat) (h : base + pages * 4096 ≤ 2 ^ 20) (h0 : 2 ^ 20 + s.tier.cacheH * 16640 ≤ s.sliceBase 1) (h1 : 2 ^ 20 ≤ s.hbmSize)
    (k : (decide (pages * 4096 < need) || base % 4096 != 0 || region base != 0) = false) : s.refAreaBad w base pages need = false := by
  unfold State.refAreaBad
  rw [low_hbm s w base (pages * 4096) h h0 h1, k]
  rfl

theorem test_witness_StreamCommandsComplete_open :
    ∃ (s : State) (e : Exec), s.mediaStarts 0 0x51 0 e [] none (sopenChecks e.cmd []) ∧ s.stream (fld e.cmd.words 2 7 0) = none
      ∧ s.refAreaBad (s.whoMedia 0) (fld e.cmd.words 3 51 0) (fld e.cmd.words 4 31 0) ((fld e.cmd.words 5 3 0 + 3) * pictureSize (fld e.cmd.words 2 47 32 + 1) (fld e.cmd.words 2 63 48 + 1) (fld e.cmd.words 5 4 4 == 1)) = false :=
  ⟨mediaState [eSopen] [] [] [], eSopen, ⟨⟨eSopen, by decide +kernel⟩, by decide +kernel⟩, by decide +kernel, area_good _ _ _ _ _ (by decide +kernel) (by decide +kernel) (by decide +kernel) (by decide +kernel)⟩

theorem test_witness_StreamCommandsComplete :
    (∃ (s : State) (e : Exec) (x : Stream), s.mediaStarts 0 0x51 1 e [] none (dataChecks e.cmd []) ∧ s.decodeCtx (s.ctxPart 0) (fld e.cmd.words 3 39 32) = some x ∧ s.paused x = false ∧ x.st = .decoding
        ∧ ((List.range (fld e.cmd.words 3 31 0)).find? fun i => region (fld e.cmd.words 2 51 0 + i) == 8 || region (fld e.cmd.words 2 51 0 + i) == 15
          || (s.mapFault (s.whoMedia 0) false (fld e.cmd.words 2 51 0 + i)).map Prod.fst == some .memUnmapped) = none)
      ∧ (∃ (s : State) (e : Exec) (list : List Word) (x : Stream), s.mediaStarts 0 0x51 2 e [] (some (.words list)) (addChecks e.cmd []) ∧ s.readList64 (s.whoMedia 0) e.cmd = .words list
        ∧ s.tableRoom (s.ctxPart 0) (fld e.cmd.words 3 9 0 + 1) = true ∧ s.decodeCtx (s.ctxPart 0) (fld e.cmd.words 3 23 16) = some x
        ∧ firstBad (s.routeCheck (s.ctxPart 0) x.live) (fun r => fld r 1 7 0 * 1024 + smpSlot r) 0 [] ((List.range (fld e.cmd.words 3 9 0 + 1)).map (recordAt list)) = none)
      ∧ (∃ (s : State) (e : Exec) (x : Stream), s.mediaStarts 0 0x51 1 e [] none (dataChecks e.cmd []) ∧ s.decodeCtx (s.ctxPart 0) (fld e.cmd.words 3 39 32) = some x ∧ s.paused x = false ∧ x.st = .failed)
      ∧ ∃ (s : State) (e : Exec) (x : Stream), s.mediaStarts 0 0x51 3 e [] none (closeChecks e.cmd []) ∧ s.decodeCtx (s.ctxPart 0) (fld e.cmd.words 2 7 0) = some x :=
  ⟨⟨mediaState [eData] [] [dec [] 0] [], eData, dec [] 0, ⟨⟨eData, by decide +kernel⟩, by decide +kernel⟩, by decide +kernel⟩,
    ⟨mediaState [eAdd 0x51] [batchOf 0 {}] [{ dec [] 0 with num := 7 }] rte, eAdd 0x51, rte, { dec [] 0 with num := 7 }, ⟨⟨eAdd 0x51, by decide +kernel⟩, by decide +kernel⟩, by decide +kernel⟩,
    ⟨mediaState [eData] [] [{ dec [] 0 with st := .failed }] [], eData, { dec [] 0 with st := .failed }, ⟨⟨eData, by decide +kernel⟩, by decide +kernel⟩, by decide +kernel⟩,
    ⟨mediaState [eClose 0x51 3 5] [] [dec [] 0] [], eClose 0x51 3 5, dec [] 0, ⟨⟨eClose 0x51 3 5, by decide +kernel⟩, by decide +kernel⟩, by decide +kernel⟩⟩

theorem no_bad (s : State) (a : Nat) (h2 : s.hbm.bad = []) (h3 : s.larder.bad = []) : s.badSector a = false := by
  unfold State.badSector
  rw [h2, h3]
  dsimp only
  split
  · split <;> rfl
  · rfl

theorem low_store (s : State) (w : Who) (a n : Nat) (h : a + n ≤ 2 ^ 20) (h0 : 2 ^ 20 + s.tier.cacheH * 16640 ≤ s.sliceBase 1) (h1 : 2 ^ 20 ≤ s.hbmSize) (h2 : s.hbm.bad = []) (h3 : s.larder.bad = []) :
    s.storeFault w a n = none := by
  unfold State.storeFault
  rw [List.findSome?_eq_none_iff]
  intro i hi
  rw [low_map s w (a + i) (by have := List.mem_range.1 hi; omega) h0 h1]
  dsimp only
  rw [no_bad s _ h2 h3]
  rfl

/-- A picture of up to 32 KiB in a reference area at HBM byte 0 can be kept. -/
theorem kept_low (s : State) (x : Stream) (p : Pic) (hb : x.areaBase = 0) (hs : x.picSize ≤ 2 ^ 15) (hk : fld x.words 5 3 0 ≤ 15) (h0 : 2 ^ 20 + s.tier.cacheH * 16640 ≤ s.sliceBase 1) (h1 : 2 ^ 20 ≤ s.hbmSize)
    (h2 : s.hbm.bad = []) (h3 : s.larder.bad = []) : s.storeFault x.who (x.keptAt p) (x.kept p).length = none := by
  have hl : (x.kept p).length ≤ x.picSize := by unfold Stream.kept; rw [List.length_take]; exact Nat.min_le_left _ _
  have hp : x.keptAt p ≤ 17 * 2 ^ 15 := by
    unfold Stream.keptAt
    rw [hb]
    have : Config.keptPlace x.codec x.fed x.ends p.n % (fld x.words 5 3 0 + 3) < fld x.words 5 3 0 + 3 := Nat.mod_lt _ (by omega)
    have := Nat.mul_le_mul (show Config.keptPlace x.codec x.fed x.ends p.n % (fld x.words 5 3 0 + 3) ≤ 17 by omega) hs
    omega
  exact low_store s _ _ _ (by omega) h0 h1 h2 h3

/-- What PICTURE_RECONSTRUCT meets of a picture that keeps no reference of its own. -/
def lostOf (s : State) (x : Stream) (p : Pic) : Option (Code × Nat) := (s.areaFault x.who (x.refRuns p)).orElse fun _ => s.storeFault x.who (x.keptAt p) (x.kept p).length

/-- The second picture, whose reference lies nowhere. -/
def orphan : Pic := { pic 1 0 0 false with n := 1, info := [1, 1, 0, 0, 0, 0, 0, 0, 0, 64, 64, 0, 0, 0, 0, 8, 0, 0, 1, 0] }
def nowhere : Pic := { pic 2 1 0 false with area := (15 * 2 ^ 44, 64) }

theorem test_witness_PicturesAreReconstructed :
    (∃ (s : State) (x : Stream) (p : Pic), s.stream 5 = some x ∧ x.pics.find? (fun q => q.n == 0) = some p ∧ p.phase = 1 ∧ x.st ≠ .failed ∧ (∀ q ∈ x.pics, q.n < 0 → 2 ≤ q.phase) ∧ x.brokenOf p = 0 ∧ lostOf s x p = none)
      ∧ (∃ (s : State) (x : Stream) (p : Pic), s.stream 5 = some x ∧ x.pics.find? (fun q => q.n == 0) = some p ∧ p.phase = 1 ∧ x.st ≠ .failed ∧ (∀ q ∈ x.pics, q.n < 0 → 2 ≤ q.phase) ∧ x.brokenOf p = 1 ∧ lostOf s x p = none)
      ∧ ∃ (s : State) (x : Stream) (p : Pic) (f : Code × Nat), s.stream 5 = some x ∧ x.pics.find? (fun q => q.n == 1) = some p ∧ p.phase = 1 ∧ x.st ≠ .failed ∧ (∀ q ∈ x.pics, q.n < 1 → 2 ≤ q.phase) ∧ lostOf s x p = some f :=
  ⟨⟨mediaState [] [] [dec [pic 1 0 0 false] 0] [], dec [pic 1 0 0 false] 0, pic 1 0 0 false, by decide +kernel, by decide +kernel, by decide +kernel, by decide +kernel, by decide +kernel, by decide +kernel,
      by unfold lostOf
         rw [show State.areaFault _ _ (Stream.refRuns (dec [pic 1 0 0 false] 0) (pic 1 0 0 false)) = none by decide +kernel]
         exact kept_low _ _ _ (by decide +kernel) (by decide +kernel) (by decide +kernel) (by decide +kernel) (by decide +kernel) rfl rfl⟩,
    ⟨mediaState [] [] [dec [pic 1 0 1 false] 0] [], dec [pic 1 0 1 false] 0, pic 1 0 1 false, by decide +kernel, by decide +kernel, by decide +kernel, by decide +kernel, by decide +kernel, by decide +kernel,
      by unfold lostOf
         rw [show State.areaFault _ _ (Stream.refRuns (dec [pic 1 0 1 false] 0) (pic 1 0 1 false)) = none by decide +kernel]
         exact kept_low _ _ _ (by decide +kernel) (by decide +kernel) (by decide +kernel) (by decide +kernel) (by decide +kernel) rfl rfl⟩,
    ⟨mediaState [] [] [dec [nowhere, orphan] 0] [], dec [nowhere, orphan] 0, orphan, (.memUnmapped, 15 * 2 ^ 44), by decide +kernel, by decide +kernel, by decide +kernel, by decide +kernel, by decide +kernel,
      by unfold lostOf
         rw [show State.areaFault (mediaState [] [] [dec [nowhere, orphan] 0] []) _ (Stream.refRuns (dec [nowhere, orphan] 0) orphan) = some (.memUnmapped, 15 * 2 ^ 44) by decide +kernel]
         rfl⟩⟩

theorem test_witness_PicturesAreDecodedShapedAndDropped :
    (∃ (s : State) (x : Stream) (p : Pic), s.unitOut (mediaUnit 3 15) = false ∧ s.ready = true ∧ s.entropyReady = [(x, p)])
      ∧ (∃ (s : State) (x : Stream) (p : Pic) (y : Nat × Nat × BatchSlot), s.stream 5 = some x ∧ x.pics.find? (fun q => q.n == 0) = some p ∧ p.toShape = true ∧ s.engineBusy 2 0 = false ∧ firstSample (s.waitingFor 2) = some y ∧ y ∈ s.routesTo 5 p
        ∧ s.areaFault x.who [p.area] = none)
      ∧ (∃ (s : State) (x : Stream) (p : Pic) (y : Nat × Nat × BatchSlot), s.stream 5 = some x ∧ x.pics.find? (fun q => q.n == 0) = some p ∧ p.toShape = true ∧ s.engineBusy 2 0 = false ∧ firstSample (s.waitingFor 2) = some y ∧ y ∈ s.routesTo 5 p
        ∧ (s.areaFault x.who [p.area]).isSome = true)
      ∧ (∃ (s : State) (x : Stream) (p : Pic), s.stream 5 = some x ∧ x.pics.find? (fun q => q.n == 0) = some p ∧ x.live = true ∧ p.shaped = false ∧ p.phase ≠ 3 ∧ x.st = .decoding ∧ p.f 2 = 0 ∧ p.phase = 0)
      ∧ ∃ (s : State) (x : Stream) (p : Pic), s.stream 5 = some x ∧ x.pics.find? (fun q => q.n == 0) = some p ∧ x.live = true ∧ p.shaped = false ∧ p.phase ≠ 3 ∧ x.st = .decoding ∧ ¬(p.f 2 = 0 ∧ p.phase = 0) :=
  ⟨⟨mediaState [] [] [dec [pic 0 0 0 false] 0] [], dec [pic 0 0 0 false] 0, pic 0 0 0 false, by decide +kernel⟩,
    ⟨mediaState [] [batchOf 0 routedSlot] [dec [pic 2 0 0 true] 0] [], dec [pic 2 0 0 true] 0, pic 2 0 0 true, (7, 0, routedSlot), by decide +kernel⟩,
    ⟨mediaState [] [batchOf 0 routedSlot] [dec [{ nowhere with out := true }] 0] [], dec [{ nowhere with out := true }] 0, { nowhere with out := true }, (7, 0, routedSlot), by decide +kernel⟩,
    ⟨mediaState [] [] [dec [pic 0 0 0 false] 1] [], dec [pic 0 0 0 false] 1, pic 0 0 0 false, by decide +kernel⟩,
    ⟨mediaState [] [] [dec [pic 0 1 0 false] 1] [], dec [pic 0 1 0 false] 1, pic 0 1 0 false, by decide +kernel⟩⟩

theorem test_witness_EncodeCommandsComplete_open :
    ∃ (s : State) (e : Exec), s.mediaStarts 0 0x52 0 e [] none (eopenChecks e.cmd []) ∧ s.stream (fld e.cmd.words 2 7 0) = none
      ∧ s.refAreaBad (s.whoMedia 0) (fld e.cmd.words 3 51 0) (fld e.cmd.words 4 31 0) (2 * pictureSize (fld e.cmd.words 2 47 32 + 1) (fld e.cmd.words 2 63 48 + 1) (fld e.cmd.words 2 8 8 == 1)) = false :=
  ⟨mediaState [eEopen] [] [] [], eEopen, ⟨⟨eEopen, by decide +kernel⟩, by decide +kernel⟩, by decide +kernel, area_good _ _ _ _ _ (by decide +kernel) (by decide +kernel) (by decide +kernel) (by decide +kernel)⟩

/-- OUT_LEN is 0, so that nothing is written at OUT whatever the free encoder codes (log entry 9). -/
theorem test_witness_EncodeCommandsComplete :
    (∃ (s : State) (e : Exec) (x : Stream), s.mediaStarts 0 0x52 1 e [] none (pictureChecks e.cmd []) ∧ s.encodeCtx (s.ctxPart 0) (fld e.cmd.words 6 39 32) = some x
        ∧ (let w := s.whoMedia 0
           let refs := if (s.codedPicture x e.cmd.words).dist = 0 then [] else x.windowRuns
           let t := (s.readArea w (inputRuns x e.cmd.words)).readArea w refs
           (inputRuns x e.cmd.words).findSome? (s.pictureFault w false) = none ∧ s.areaFault w refs = none ∧ t.pictureFault w true (fld e.cmd.words 5 51 0, (s.codedPicture x e.cmd.words).written.length) = none ∧ t.pictureFault w true (fld e.cmd.words 7 51 0, 64) = none))
      ∧ ∃ (s : State) (e : Exec) (x : Stream), s.mediaStarts 0 0x52 2 e [] none (closeChecks e.cmd []) ∧ s.encodeCtx (s.ctxPart 0) (fld e.cmd.words 2 7 0) = some x :=
  ⟨⟨mediaState [ePict] [] [enc] [], ePict, enc, ⟨⟨ePict, by decide +kernel⟩, by decide +kernel⟩, by decide +kernel, by decide +kernel, by decide +kernel, by
      have h : ((mediaState [ePict] [] [enc] []).codedPicture enc ePict.cmd.words).written.length = 0 := by
        have z : fld ePict.cmd.words 6 31 0 = 0 := by decide +kernel
        unfold State.codedPicture
        simp only [z]
        split <;> simp_all
      show State.pictureFault _ _ true (_, ((mediaState [ePict] [] [enc] []).codedPicture enc ePict.cmd.words).written.length) = none ∧ _
      rw [h]; decide +kernel⟩,
    ⟨mediaState [eClose 0x52 2 6] [] [enc] [], eClose 0x52 2 6, enc, ⟨⟨eClose 0x52 2 6, by decide +kernel⟩, by decide +kernel⟩, by decide +kernel⟩⟩


/-! Queues, contexts, partitions. -/

/-- A state with context 0 changed. -/
def ctx0 (s : State) (f : Context → Context) : State := s.updCtx 0 f

/-- Counts at the 2^32 boundary: SQ_TAIL and SQ_HEAD at 2^32 - 1, two records to consume. -/
def wrapped : State := ctx0 up fun x => { x with sqTail := 2 ^ 32 - 1, sqHead := 2 ^ 32 - 1, cqTail := 2 ^ 32 + 1, cqHead := 2 ^ 32 - 1, next := 2 ^ 32 - 1 }

theorem test_witness_DoorbellWritesAreAppliedOrDropped :
    (wrapped.Whole ∧ wrapped.hostReach = true ∧ (wrapped.ctx 0).cond ≠ .absent
        ∧ (BitVec.ofNat 32 63 - BitVec.ofNat 32 (wrapped.ctx 0).sqHead).toNat = wrapped.odN 0x2200 10 ∧ (BitVec.ofNat 32 63 - BitVec.ofNat 32 (wrapped.ctx 0).sqTail).toNat = 64
        ∧ (BitVec.ofNat 32 1 - BitVec.ofNat 32 (wrapped.ctx 0).cqHead).toNat = (BitVec.ofNat 32 (wrapped.ctx 0).cqTail - BitVec.ofNat 32 (wrapped.ctx 0).cqHead).toNat)
      ∧ ¬((BitVec.ofNat 32 64 - BitVec.ofNat 32 (wrapped.ctx 0).sqHead).toNat ≤ wrapped.odN 0x2200 10) := by unfold State.Whole; decide +kernel

/-- 63 is the 64th count past 2^32 - 1, which the 64 slots take; 64 is dropped (R753). -/
theorem test_doorbell_wraps : (∃ t : State, exec (.doorbellSqTail 0 63) wrapped = .next t ∧ (t.ctx 0).sqTail = 2 ^ 32 + 63) ∧ ∃ t : State, exec (.doorbellSqTail 0 64) wrapped = .next t ∧ (t.ctx 0).sqTail = 2 ^ 32 - 1 :=
  ⟨⟨_, rfl, by decide +kernel⟩, ⟨_, rfl, by decide +kernel⟩⟩

/-- Slot 0 holds a NOP for the target given; one slot is available. -/
def ring (target : Nat) : State :=
  { (ctx0 up fun x => { x with sqTail := 1 }) with mem := memPutBytes (memPutBytes up.mem (0x10 * 2 ^ 44 + 4096) (bytesOfWords (cmdFor 0 0 0 []).words)) (0x10 * 2 ^ 44 + 8192) (leBytes 2 target) }
def nopAt (target : Nat) : CmdInst := cmdFor target 0 0 []
def seen (s : State) : State :=
  ((s.touchRecord (s.whoCtx 0 none) (s.slotAddr 0 0) 64).touchRecord (s.whoCtx 0 none) (s.targetAddr 0 0) 2).updCtx 0 fun x => takeSlot x 0

theorem test_witness_CommandsAreFetchedWhileARecordHasRoom :
    (∃ s : State, nextSlot (s.ctx 0) = some 0 ∧ s.entries 0 ≤ (s.ctx 0).cqTail - (s.ctx 0).cqHead + s.held 0)
      ∧ (∃ s : State, nextSlot (s.ctx 0) = some 0 ∧ s.mayFetch 0 = true ∧ s.loadFault (s.whoCtx 0 none) (s.slotAddr 0 0) 64 = none ∧ s.loadFault (s.whoCtx 0 none) (s.targetAddr 0 0) 2 = none
        ∧ (seen s).frontReject { ctx := 0, slot := 0, target := leNat (s.bytes (s.targetAddr 0 0) 2) % 512, words := s.words (s.slotAddr 0 0) 8 } (leNat (s.bytes (s.targetAddr 0 0) 2)) = none)
      ∧ (∃ (s : State) (f : Code), nextSlot (s.ctx 0) = some 0 ∧ s.mayFetch 0 = true ∧ s.loadFault (s.whoCtx 0 none) (s.slotAddr 0 0) 64 = none ∧ s.loadFault (s.whoCtx 0 none) (s.targetAddr 0 0) 2 = none
        ∧ (seen s).frontReject { ctx := 0, slot := 0, target := leNat (s.bytes (s.targetAddr 0 0) 2) % 512, words := s.words (s.slotAddr 0 0) 8 } (leNat (s.bytes (s.targetAddr 0 0) 2)) = some f)
      ∧ ∃ (s : State) (f : Code × Nat), nextSlot (s.ctx 0) = some 0 ∧ s.mayFetch 0 = true ∧ s.loadFault (s.whoCtx 0 none) (s.slotAddr 0 0) 64 = some f :=
  ⟨⟨ctx0 (ring 0) fun x => { x with cqTail := 64 }, by decide +kernel⟩, ⟨ring 0, by decide +kernel⟩, ⟨ring 390, .cmdOpcode, by decide +kernel⟩,
    ⟨{ ring 0 with host := { up.host with up := false } }, (.hostAccess, 0x10 * 2 ^ 44 + 4096), by decide +kernel⟩⟩

/-- Context 0 has read a NOP for core 0. -/
def fetchedOne : State := ctx0 up fun x => { x with fetched := [nopAt 0], sqTail := 1, next := 1 }

/-- Core 0 holds eight commands. -/
def fullCore : State := fetchedOne.updCore 0 fun k => { k with window := List.replicate 8 { nopAt 0 with slot := 9 } }
def orderly (s : State) : List CmdInst := (s.ctx 0).fetched.filter fun c => s.inOrder c && (decide (c.target < 384) || s.acceptNext c.target == some 0)

theorem test_witness_CommandsAreDispatchedInOrder :
    (∃ (s : State) (c : CmdInst), s.ready = true ∧ (s.ctx 0).resident = true ∧ condLive (s.ctx 0).cond = true ∧ (s.part (s.ctxPart 0)).st = .active ∧ s.toReject (orderly s) = none ∧ (orderly s).find? s.canAccept = some c)
      ∧ (∃ (s : State) (c : CmdInst) (f : Code), s.ready = true ∧ (s.ctx 0).resident = true ∧ condLive (s.ctx 0).cond = true ∧ (s.part (s.ctxPart 0)).st = .active ∧ s.toReject (orderly s) = some (c, f))
      ∧ ∃ (s : State) (c : CmdInst), s.ready = true ∧ (s.ctx 0).resident = true ∧ condLive (s.ctx 0).cond = true ∧ (s.part (s.ctxPart 0)).st = .active ∧ s.toReject (orderly s) = none ∧ (orderly s).find? s.canAccept = none
        ∧ (orderly s).find? (fun c => !c.held && s.poolFull c) = some c :=
  ⟨⟨fetchedOne, nopAt 0, by decide +kernel⟩, ⟨ctx0 fetchedOne fun x => { x with fetched := [nopAt 12] }, nopAt 12, .cmdField, by decide +kernel⟩, ⟨fullCore, nopAt 0, by decide +kernel⟩⟩

/-- Context 1 of partition 0, swapped and READY with the larger priority; context 0 resident; the partition allows `n` resident contexts. -/
def swapping (n : Nat) : State :=
  (((up.odSetN 0x2201 1 0).odSetN 0x2201 2 1).odSetN 0x2000 5 n).updCtx 1 fun x => { x with cond := .ready }

/-- Core 0 holds a decoded NOP of context 0, which is current, or context 3 is. -/
def decoded (cur : Nat) : State := up.updCore 0 fun k => { k with window := [nopAt 0], cur := cur, st := .idle, sliceStart := 1000000 }

theorem test_witness_CoresChooseAndSwitchContexts :
    (∃ (s : State) (c : CmdInst), s.coreFree 0 = true ∧ s.choose 0 = some 0 ∧ (s.makeCurrent 0 0).startable 0 0 = some c ∧ (s.core 0).cur ≠ 0)
      ∧ (∃ (s : State) (c : CmdInst), s.coreFree 0 = true ∧ s.choose 0 = some 0 ∧ (s.makeCurrent 0 0).startable 0 0 = some c ∧ (s.core 0).cur = 0 ∧ s.now < (s.core 0).sliceStart + s.sliceLen 0)
      ∧ (∃ s : State, s.ready = true ∧ (s.part 0).st = .active ∧ s.swapIncoming 0 = some 1 ∧ (s.residents 0).length < s.odN 0x2000 5)
      ∧ ∃ s : State, s.ready = true ∧ (s.part 0).st = .active ∧ s.swapIncoming 0 = some 1 ∧ s.odN 0x2000 5 ≤ (s.residents 0).length ∧ s.swapVictim 0 1 = some 0 :=
  ⟨⟨(ctx0 (decoded 3) fun x => { x with fetched := [nopAt 0] }).updCore 0 fun k => { k with window := [] }, nopAt 0, by decide +kernel⟩, ⟨decoded 0, nopAt 0, by decide +kernel⟩, ⟨swapping 2, by decide +kernel⟩, ⟨swapping 1, by decide +kernel⟩⟩

theorem test_witness_CompletionRecordsGoToTheEntryOfCqTail :
    (∃ (s : State) (c : CmdInst), s.Sound ∧ c.ctx < 256 ∧ 0 < s.odN (0x2200 + c.ctx) 13
        ∧ s.recordFault (s.whoCtx c.ctx none) (s.odN (0x2200 + c.ctx) 12 + 128 * ((s.ctx c.ctx).cqTail % s.odN (0x2200 + c.ctx) 13)) 128 = none ∧ s.odN (0x2200 + c.ctx) 14 = 0 ∧ (s.ctx c.ctx).cqTail = 63)
      ∧ ∃ s : State, (s.ctx 0).trigger = true :=
  ⟨⟨ctx0 up fun x => { x with cqTail := 63 }, nopAt 0, sound_of (by decide +kernel), by decide +kernel⟩, ⟨ctx0 up fun x => { x with trigger := true }, by decide +kernel⟩⟩

/-- The record of a NOP of TAG 7 on core 0 (R209): TAG, CONTEXT and STATUS COMPLETE, START and END, no failure position. -/
theorem test_record_words : (recordWords (nopAt 0) 0 5 9 {}).take 4 = [mk [(48, 7)], 5#64, 9#64, 0xFFFFFFFFFFFFFFFF#64] := by decide +kernel

/-- Core 0's matrix command, with the run its limit stops after `closed` tiles. -/
def matLate (s : State) (e : Exec) (closed : Nat) : Run := matRun (some (max closed e.drained)) (s.advance (e.start + 1000 * e.limit)) 0 e

theorem test_witness_LateCommandsEndOnTheirTimeLimit :
    (∃ (s : State) (e : Exec), (s.core 0).exec = some e ∧ e.waiting = false ∧ e.phase = 0 ∧ (timedRow e.cmd).isSome = true ∧ e.rejection (matChecks e.cmd e) = none ∧ (matLate s e 0).stop.map Fin.status = some 0)
      ∧ (∃ (s : State) (e : Exec), (s.core 0).exec = some e ∧ e.waiting = false ∧ e.phase = 0 ∧ (timedRow e.cmd).isSome = true ∧ e.rejection (matChecks e.cmd e) = none ∧ (matLate s e 1).stop.isNone = true ∧ 1 ≤ (matLate s e 1).tiles)
      ∧ (∃ (s : State) (e : Exec), (s.core 0).exec = some e ∧ e.waiting = false ∧ e.phase = 0 ∧ (timedRow e.cmd).isSome = true ∧ e.rejection (matChecks e.cmd e) = none ∧ (matLate s e 1).stop.map Fin.status = some 2)
      ∧ (∃ (s : State) (e : Exec), (s.core 0).exec = some e ∧ e.waiting = true) ∧ (∃ (s : State) (e : Exec), (s.core 0).exec = some e ∧ e.waiting = false ∧ e.phase ≠ 0)
      ∧ (∃ (s : State) (e : Exec), s.hubExec 0 (fun _ => true) = some e ∧ e.cmd.isBarrier = true ∧ e.phase ≠ 0)
      ∧ (∃ (s : State) (e : Exec), (s.engine 0).exec = some e)
      ∧ ∃ (s : State) (e : Exec) (entry : Nat), firstDue (s.collExecs 0) = some (e, entry) :=
  ⟨⟨sMat, eMat, by decide +kernel⟩, ⟨sMat, eMat, by decide +kernel⟩, ⟨on dat (noWork eMat), noWork eMat, by decide +kernel⟩,
    ⟨on syncState (waits (eFence 0 8)), waits (eFence 0 8), by decide +kernel⟩, ⟨on dat (phased (eSend (cl 0)) 1), phased (eSend (cl 0)) 1, by decide +kernel⟩, ⟨barState (phased (eBar 0) 1), phased (eBar 0) 1, by decide +kernel⟩,
    ⟨up.updEngine 0 fun y => { y with exec := some { cmd := uReduce, start := 0 } }, { cmd := uReduce, start := 0 }, by decide +kernel⟩, ⟨running (rRun 7 false 0), (rRun 7 false 0).exec, 0, by decide +kernel⟩⟩

theorem test_witness_StoresWriteTheirBytesAndNoOther : ∃ (s : State) (a : Nat) (bs : List Byte), memWf s.mem = true ∧ bs ≠ [] ∧ a = cl 0 := ⟨dat, cl 0, [1#8], by decide +kernel⟩

/-- Partition 0 in a STATE, partition 1 ABSENT with quarter-die 1. -/
def partIn (st : PartSt) : State := (up.odSetN 0x2001 1 2).updPart 0 fun x => { x with st := st }

/-- No context names partition 0. -/
def lonely (st : PartSt) : State := ((partIn st).odSetN 0x2200 1 255).updCtx 0 fun _ => {}

theorem test_witness_PartitionsAreCreatedCleared :
    (∃ s : State, s.Sound ∧ s.quarters 1 ≠ 0 ∧ s.diag.moduleFault = false ∧ s.ready = true ∧ (s.part 1).st = .absent) ∧ (∃ s : State, (s.part 0).st ≠ .absent)
      ∧ (∃ s : State, s.Sound ∧ (s.part 0).st = .creating ∧ (s.part 0).toStopped = false) ∧ ∃ s : State, s.Sound ∧ (s.part 0).st = .creating ∧ (s.part 0).toStopped = true :=
  ⟨⟨partIn .active, sound_of (by decide +kernel), by decide +kernel⟩, ⟨partIn .stopped, by decide +kernel⟩, ⟨partIn .creating, sound_of (by decide +kernel), by decide +kernel⟩,
    ⟨(partIn .creating).updPart 0 fun x => { x with toStopped := true }, sound_of (by decide +kernel), by decide +kernel⟩⟩

theorem test_witness_PartitionsStopStartAndAreRemoved :
    (∃ s : State, s.Sound ∧ (s.part 0).st = .active) ∧ (∃ s : State, s.Sound ∧ (s.part 0).st = .stopping ∧ s.partQuiet 0 = true) ∧ (∃ s : State, s.Sound ∧ (s.part 0).st = .stopped ∧ s.diag.moduleFault = false)
      ∧ ∃ s : State, s.Sound ∧ (s.part 0).st = .stopped ∧ ∀ cc : Nat, cc < 256 → s.partOfCtx cc = some 0 → (s.ctx cc).cond = .absent :=
  ⟨⟨partIn .active, sound_of (by decide +kernel), by decide +kernel⟩, ⟨lonely .stopping, sound_of (by decide +kernel), by decide +kernel⟩, ⟨partIn .stopped, sound_of (by decide +kernel), by decide +kernel⟩,
    ⟨lonely .stopped, sound_of (by decide +kernel), by decide +kernel, by decide +kernel⟩⟩

/-- Context 0 in a condition. -/
def condIn (c : Cond) : State := ctx0 up fun x => { x with cond := c }

theorem test_witness_ContextsAreAddedResumedAndAborted :
    (∃ s : State, s.Whole ∧ s.partOfCtx 0 = some 0 ∧ (s.ctx 0).cond = .absent ∧ (s.part 0).st = .active ∧ s.ringsOk 0 = true) ∧ (∃ s : State, s.partOfCtx 0 = some 0 ∧ (s.ctx 0).cond = .halted ∧ (s.part 0).st = .active)
      ∧ (∃ s : State, s.Whole ∧ (s.ctx 0).cond = .aborting ∧ s.flyingOf 0 = []) ∧ ∃ s : State, (s.ctx 0).cond ≠ .halted :=
  ⟨⟨condIn .absent, by unfold State.Whole; decide +kernel⟩, ⟨condIn .halted, by decide +kernel⟩, ⟨condIn .aborting, by unfold State.Whole; decide +kernel⟩, ⟨up, by decide +kernel⟩⟩

theorem test_witness_ContextsAreRemovedWhenQuiet :
    (∃ s : State, s.Whole ∧ (s.ctx 255).cond = .idle ∧ s.flyingOf 255 = []) ∧ ∃ s : State, s.Whole ∧ ¬(((s.ctx 0).cond = .idle ∨ (s.ctx 0).cond = .halted) ∧ s.flyingOf 0 = []) :=
  ⟨⟨up.updCtx 255 fun x => { x with cond := .idle }, by unfold State.Whole; decide +kernel⟩, ⟨up, by unfold State.Whole; decide +kernel⟩⟩


/-! Links, packets, messages, fabric time, arbitration. -/

/-- Link 3 changed, with CONTROL `ctl`. -/
def link3 (ctl : Nat) (f : Link → Link) : State := (up.odSetN 0x4103 1 ctl).updLink 3 f

/-- What training found: lanes 0 to 3 best, or two lanes alone. -/
def fiveLanes : Training := { serial := 77, link := 4, addr := 9 }
def twoLanes : Training := { lock := [false, true, false, true, false], serial := 77, link := 4 }

theorem test_witness_LinksTrainAndFollowTheirControl :
    (∃ s : State, s.odN 0x4103 1 = 1 ∧ s.time.frefOk = true ∧ (s.link 3).st = .training)
      ∧ ∃ (s : State) (tr : Training), s.odN 0x4103 1 = 1 ∧ s.time.frefOk = true ∧ ((s.link 3).st = .training ∨ (s.link 3).st = .down) ∧ 2 ≤ (laneOrder tr).length :=
  ⟨⟨link3 1 fun x => { x with st := .training }, by decide +kernel⟩, ⟨link3 1 fun x => { x with st := .down }, twoLanes, by decide +kernel⟩⟩

/-- The lanes with the fewest errors are the active ones, the fifth the spare; equal counts go to the lower lane (R371). -/
theorem test_lane_order : laneOrder { errs := [9, 2, 2, 0, 5] } = [3, 1, 2, 4, 0] := by decide +kernel

/-- Two lanes that lock leave the link NARROW (R373); a neighbour other than the last leaves it HELD (R374). -/
theorem test_training_states : (∃ t : State, exec (.linkTrained 3 twoLanes) (link3 1 fun x => { x with st := .training }) = .next t ∧ (t.link 3).st = .narrow ∧ (t.link 3).active = 10)
    ∧ ∃ t : State, exec (.linkTrained 3 fiveLanes) (link3 1 fun x => { x with st := .down, trained := true, nbSerial := 5, nbLink := 4 }) = .next t ∧ (t.link 3).st = .held ∧ (t.link 3).spareLane = some 4 :=
  ⟨⟨_, rfl, by decide +kernel⟩, ⟨_, rfl, by decide +kernel⟩⟩

/-- A TC1 packet of 8 bytes for module `dst`, as the flit of SEQ `seq`. -/
def pktTo (dst : Nat) : Packet := { cls := 1, dst := dst, src := 2, flow := 3, tag := 4, xfer := 5, addr := 64, stamp := 6, data := leBytes 8 0x1122334455667788 }
def flitTo (dst seq : Nat) : Flit := sealFlit (flitWords seq 0 1 1 0 1 (0, 0, 0) (0, 0, 0) (packetBody (pktTo dst) 0))

/-- Link 3 UP with ordinary lanes. -/
def upLink : State := link3 1 fun x => { x with st := .up, active := 15, good := 31, spareLane := some 4 }

/-- CRC-32C of the nine digits is its published check value, E3069283 (R378). -/
theorem test_crc32c : crc32c ([0x31, 0x32, 0x33, 0x34, 0x35, 0x36, 0x37, 0x38, 0x39].map fun x => BitVec.ofNat 8 x) = 0xE3069283 := by decide +kernel

theorem test_witness_FlitsAreAcceptedInOrderOrRefused :
    (∃ (s : State) (f : Flit), s.hears 3 = true ∧ s.leadOf 3 < s.links.length ∧ flitOk f = true ∧ fld f.words 0 39 36 = 1 ∧ fld f.words 0 63 52 = (s.link (s.leadOf 3)).rxNext)
      ∧ (∃ (s : State) (f : Flit), s.hears 3 = true ∧ flitOk f = true ∧ fld f.words 0 39 36 = 1 ∧ fld f.words 0 63 52 ≠ (s.link (s.leadOf 3)).rxNext)
      ∧ ∃ (s : State) (f : Flit), s.hears 3 = true ∧ flitOk f = false :=
  ⟨⟨upLink.updLink 3 fun x => { x with rxNext := 4095 }, flitTo 9 4095, by decide +kernel⟩, ⟨upLink, { flitTo 9 1 with errs := [15, 0, 0, 0, 0] }, by decide +kernel⟩, ⟨upLink, { flitTo 9 0 with errs := [15, 0, 0, 0, 1] }, by decide +kernel⟩⟩

theorem test_witness_LinksReplayAndLoseLanes :
    (∃ s : State, s.hears 3 = true ∧ s.leadOf 3 = 3 ∧ (s.link 3).replay ≠ [] ∧ linkUp (s.link 3) = true)
      ∧ (∃ s : State, (s.link 3).st = .held)
      ∧ (∃ s : State, bit (s.link 3).active 0 = true ∧ (s.link 3).spareLane = some 4 ∧ s.odN 0x4000 7 < s.odN 0x4000 7 + 1 + nth (s.link 3).second 0 0)
      ∧ (∃ s : State, (s.link 3).spareLane = none ∧ bit (s.link 3).active 4 = false ∧ bit (s.link 3).active 3 = true)
      ∧ (∃ s : State, bit (s.link 3).good 0 = true ∧ bit (s.link 3).active 0 = true ∧ (s.link 3).spareLane = some 4)
      ∧ (∃ s : State, bit (s.link 3).good 3 = true ∧ bit (s.link 3).active 3 = true ∧ (s.link 3).spareLane = none ∧ ((List.range 5).filter fun i => bit (setBit (s.link 3).good 3 false) i).length < 2)
      ∧ ∃ s : State, bit (s.link 3).good 3 = true ∧ bit (s.link 3).active 3 = true ∧ (s.link 3).spareLane = none ∧ 2 ≤ ((List.range 5).filter fun i => bit (setBit (s.link 3).good 3 false) i).length :=
  ⟨⟨upLink.updLink 3 fun x => { x with replay := [flitTo 9 0] }, by decide +kernel⟩, ⟨upLink.updLink 3 fun x => { x with st := .held }, by decide +kernel⟩, ⟨upLink, by decide +kernel⟩,
    ⟨upLink.updLink 3 fun x => { x with good := 15, spareLane := none }, by decide +kernel⟩, ⟨upLink, by decide +kernel⟩,
    ⟨upLink.updLink 3 fun x => { x with active := 10, good := 10, spareLane := none }, by decide +kernel⟩, ⟨upLink.updLink 3 fun x => { x with good := 15, spareLane := none }, by decide +kernel⟩⟩

/-- The flits that wait at link 3's input; module 5; link 7 UP and the one live slot of module 9's entry, adaptive. -/
def arrived : State := ((upLink.odSetN 0x4000 1 5).updLink 3 fun x => { x with rx := [{ key := 2, time := 0, flit := flitTo 9 0 }] }).updLink 7 fun x => { x with st := .up, active := 15 }
def routed : State := arrived.odSetN 0x4220 9 (7 + 2 ^ 24 + 2 ^ 31)
def pkt3 : Packet := { pktTo 9 with cls := 3 }

/-- A TIME packet of module 9 to module 5. -/
def timePkt (m : TimeMsg) (stamp : Nat) : Packet := { kind := 3, cls := 0, dst := 5, src := 9, stamp := stamp, data := timeData m }

theorem test_witness_PacketsAreRoutedByTheActiveTable :
    (∃ (s : State) (f : RxFlit) (fs : List RxFlit), ((s.link 3).rx.filter fun x => x.key == 1 * 2 + 0) = f :: fs ∧ packetFlits f.flit ≤ fs.length + 1)
      ∧ (∃ (s : State) (p : Packet), s.fabric = 0xFFFF ∧ p.kind ≠ 3) ∧ (∃ (s : State) (p : Packet), s.fabric ≠ 0xFFFF ∧ s.badPacket p = true) ∧ (∃ (s : State) (p : Packet), s.badPacket p = false ∧ p.kind = 3)
      ∧ (∃ (s : State) (p : Packet), s.fabric ≠ 0xFFFF ∧ s.badPacket p = false ∧ p.kind ≠ 3 ∧ (s.link 3).st = .held)
      ∧ (∃ (s : State) (p : Packet), s.fabric ≠ 0xFFFF ∧ s.badPacket p = false ∧ p.kind ≠ 3 ∧ (s.link 3).st ≠ .held ∧ p.dst = s.fabric)
      ∧ (∃ (s : State) (p : Packet), s.fabric ≠ 0xFFFF ∧ s.badPacket p = false ∧ p.kind ≠ 3 ∧ (s.link 3).st ≠ .held ∧ p.dst ≠ s.fabric ∧ s.linkLive 7 = true)
      ∧ (∃ (s : State) (p : Packet), s.fabric ≠ 0xFFFF ∧ s.badPacket p = false ∧ p.kind ≠ 3 ∧ (s.link 3).st ≠ .held ∧ p.dst ≠ s.fabric ∧ s.linkLive 8 = false
        ∧ ((s.chooseSlot p).map fun x => (x.2, bit (s.routeEntry p.dst) (27 + x.1))) = some (7, false))
      ∧ (∃ (s : State) (p : Packet), s.fabric ≠ 0xFFFF ∧ s.badPacket p = false ∧ p.kind ≠ 3 ∧ (s.link 3).st ≠ .held ∧ p.dst ≠ s.fabric ∧ s.linkLive 8 = false ∧ s.liveSlots (s.routeEntry p.dst) = [])
      ∧ (∃ (s : State) (t : Nat) (ts : List Nat), s.time.commits = t :: ts)
      ∧ (∃ s : State, s.EntriesWf)
      ∧ (∃ s : State, s.Whole)
      ∧ ∃ (s : State) (at_ : Nat), headerAt (s.link 3) 1 = some at_ ∧ (s.link 3).stalled.contains 1 = false :=
  ⟨⟨arrived, { key := 2, time := 0, flit := flitTo 9 0 }, [], by decide +kernel⟩, ⟨up, pktTo 5, by decide +kernel⟩, ⟨arrived, { pktTo 5 with resv := 1 }, by decide +kernel⟩,
    ⟨arrived, timePkt (.request 3) 0, by decide +kernel⟩, ⟨arrived.updLink 3 fun x => { x with st := .held }, pktTo 5, by decide +kernel⟩, ⟨arrived, pktTo 5, by decide +kernel⟩, ⟨arrived, pktTo 9, by decide +kernel⟩,
    ⟨routed, pkt3, by decide +kernel⟩, ⟨arrived, pktTo 9, by decide +kernel⟩,
    ⟨up.withTime fun x => { x with commits := [4, 8] }, 4, [8], by decide +kernel⟩, ⟨up, by unfold State.EntriesWf; decide +kernel⟩, ⟨up, by unfold State.Whole; decide +kernel⟩, ⟨arrived, 0, by decide +kernel⟩⟩

/-- A packet as it is carried is read back with every field (R397). -/
theorem test_packet_read_back : parsePacket (packetBytes (pktTo 9)) = pktTo 9 := by decide +kernel

/-- Module 5; partition 0 has fabric tag 8; core 0's scratchpad open in its first 64 KB. -/
def tagged : State := ((up.odSetN 0x4000 1 5).odSetN 0x4500 1 8)
def writeTo (tag : Nat) : Packet := { kind := 0, cls := 1, dst := 5, src := 2, xfer := 3, tag := tag, addr := cl 64, data := [1#8, 2#8, 3#8] }
def inbox (p : Packet) : State := { tagged with inbox := [p] }

/-- A SEND on core 0 awaits the DONE of two packets of transfer 3 to module 2. -/
def waitingSend : Exec := { ex 0x30 0 [] [] with xfers := [{ dst := 2, xfer := 3, left := 2, fault := none }] }
def doneOf (src : Nat) : Packet := { kind := 2, cls := 0, dst := 5, src := src, xfer := 3, pktsM1 := 0, data := leBytes 16 0 }

/-- A REDUCE of context 0 whose unit 0 awaits the same DONE. -/
def redAwaits : RedRun := { exec := ex 0x08 0 [] [], plan := [], units := [{ xfer := { dst := 2, xfer := 3, left := 2, fault := none } }] }

/-- A DONE owed to a source is module 5's own: delivered within the module. -/
def owed : State := { tagged with dones := [{ src := 5, xfer := 3, flow := 0, count := 2, since := 0, fault := none }] }

theorem test_witness_WritesAndDonesAreTaken :
    (∃ (s : State) (q : Packet) (rest : List Packet) (p : Nat), takePacket (fun x => x.kind == 0) s.inbox = some (q, rest) ∧ ({ s with inbox := rest } : State).writeCheck q = .ok p)
      ∧ (∃ (s : State) (q : Packet) (rest : List Packet) (c : Code), takePacket (fun x => x.kind == 0) s.inbox = some (q, rest) ∧ ({ s with inbox := rest } : State).writeCheck q = .error c ∧ c ≠ .memUncorrectable)
      ∧ (∃ (s t : State) (d : PendingDone), s.dones.find? (fun x => x.src == 5 && x.xfer == 3) = some d ∧ ({ s with dones := s.dones.erase d } : State).send {} (donePacket d) = .ok t)
      ∧ (∃ (s : State) (d : PendingDone) (x : Code), s.dones.find? (fun x => x.src == 6 && x.xfer == 3) = some d ∧ ({ s with dones := s.dones.erase d } : State).send {} (donePacket d) = .error x)
      ∧ (∃ (s : State) (q : Packet) (rest : List Packet) (n : Nat) (e : Exec), takePacket (fun x => x.kind == 2) s.inbox = some (q, rest)
        ∧ ((List.range 384).findSome? fun i => ((({ s with inbox := rest } : State).core i).exec.filter fun x => x.xfers.any (ofDone q)).map fun x => (i, x)) = some (n, e))
      ∧ (∃ (s : State) (q : Packet) (r : RedRun), takePacket (fun x => x.kind == 2) s.inbox = some (q, []) ∧ ((List.range 384).findSome? fun i => ((s.core i).exec.filter fun x => x.xfers.any (ofDone q)).map fun x => (i, x)) = none
        ∧ s.coll.runs.find? (fun r => r.units.any fun y => ofDone q y.xfer) = some r)
      ∧ (∃ (s : State) (q : Packet) (e : Exec), takePacket (fun x => x.kind == 2) s.inbox = some (q, []) ∧ ((List.range 384).findSome? fun i => ((s.core i).exec.filter fun x => x.xfers.any (ofDone q)).map fun x => (i, x)) = none
        ∧ s.coll.runs.find? (fun r => r.units.any fun y => ofDone q y.xfer) = none ∧ s.coll.broadcasts.find? (fun e => e.xfers.any (ofDone q)) = some e)
      ∧ ∃ (s : State) (q : Packet), takePacket (fun x => x.kind == 2) s.inbox = some (q, []) ∧ ((List.range 384).findSome? fun i => ((s.core i).exec.filter fun x => x.xfers.any (ofDone q)).map fun x => (i, x)) = none
        ∧ s.coll.runs.find? (fun r => r.units.any fun y => ofDone q y.xfer) = none ∧ s.coll.broadcasts.find? (fun e => e.xfers.any (ofDone q)) = none :=
  ⟨⟨inbox (writeTo 8), writeTo 8, [], 0, by decide +kernel, by rfl⟩, ⟨inbox (writeTo 9), writeTo 9, [], .fabTagReject, by decide +kernel, by rfl, by decide⟩,
    ⟨owed, _, { src := 5, xfer := 3, flow := 0, count := 2, since := 0, fault := none }, by decide +kernel, by rfl⟩,
    ⟨{ owed with dones := [{ src := 6, xfer := 3, flow := 0, count := 2, since := 0, fault := none }] }, _, .fabUnreachable, by rfl, by rfl⟩,
    ⟨on (inbox (doneOf 2)) waitingSend, doneOf 2, [], 0, waitingSend, by decide +kernel⟩,
    ⟨(inbox (doneOf 2)).withColl fun x => { x with runs := [redAwaits] }, doneOf 2, redAwaits, by decide +kernel⟩,
    ⟨(inbox (doneOf 2)).withColl fun x => { x with broadcasts := [waitingSend] }, doneOf 2, waitingSend, by decide +kernel⟩,
    ⟨on (inbox (doneOf 4)) waitingSend, doneOf 4, by decide +kernel⟩⟩

/-- A MESSAGE to an object, with the data of two words. -/
def msgTo (tag addr a b : Nat) : Packet := { kind := 1, cls := 0, dst := 5, src := 2, tag := tag, addr := addr, data := leBytes 8 a ++ leBytes 8 b }
def fenceAt (p n : Nat) : Nat := 0xF0000C040000 + 0x1000 * p + 16 * n
def creditAt (p n : Nat) : Nat := 0xF0000C050000 + 0x1000 * p + 16 * n

theorem test_witness_MessagesReachTheirObjects :
    (∃ (s : State) (q : Packet), takePacket (messageFor MsgObject.isFence) s.inbox = some (q, []) ∧ messageObject q.addr = some (.fence 0 255) ∧ ({ s with inbox := [] } : State).syncGood q 0 = true ∧ fld (wordsOf 2 q.data) 1 7 0 = 1)
      ∧ (∃ (s : State) (q : Packet), takePacket (messageFor MsgObject.isFence) s.inbox = some (q, []) ∧ messageObject q.addr = some (.fence 0 0) ∧ ({ s with inbox := [] } : State).syncGood q 0 = true ∧ fld (wordsOf 2 q.data) 1 7 0 = 2)
      ∧ (∃ (s : State) (q : Packet), takePacket (messageFor MsgObject.isFence) s.inbox = some (q, []) ∧ messageObject q.addr = some (.fence 15 0) ∧ ({ s with inbox := [] } : State).syncGood q 15 = false)
      ∧ (∃ (s : State) (q : Packet), takePacket (messageFor MsgObject.isCredit) s.inbox = some (q, []) ∧ messageObject q.addr = some (.credit 0 255) ∧ ({ s with inbox := [] } : State).syncGood q 0 = true ∧ fld (wordsOf 2 q.data) 1 7 0 = 1
        ∧ fld (wordsOf 2 q.data) 0 63 32 = 0)
      ∧ (∃ (s : State) (q : Packet), takePacket (messageFor MsgObject.isCredit) s.inbox = some (q, []) ∧ messageObject q.addr = some (.credit 0 0) ∧ fld (wordsOf 2 q.data) 1 7 0 ≠ 1)
      ∧ (∃ (s : State) (q : Packet), takePacket (messageFor MsgObject.isNorm) s.inbox = some (q, []) ∧ messageObject q.addr = some (.norm 1 15))
      ∧ (∃ (s : State) (q : Packet), takePacket (messageFor MsgObject.isBarrier) s.inbox = some (q, []) ∧ messageObject q.addr = some (.barrier 1 15))
      ∧ ∃ (s : State) (q : Packet), takePacket (messageFor MsgObject.isReduce) s.inbox = some (q, []) ∧ messageObject q.addr = some (.reduce 2) :=
  ⟨⟨inbox (msgTo 8 (fenceAt 0 255) 7 1), _, by rfl, by decide +kernel⟩, ⟨inbox (msgTo 8 (fenceAt 0 0) 7 2), _, by rfl, by decide +kernel⟩, ⟨inbox (msgTo 8 (fenceAt 15 0) 7 2), _, by rfl, by decide +kernel⟩,
    ⟨inbox (msgTo 8 (creditAt 0 255) 7 1), _, by rfl, by decide +kernel⟩, ⟨inbox (msgTo 8 (creditAt 0 0) 7 2), _, by rfl, by decide +kernel⟩, ⟨inbox (msgTo 8 (0xF0000C000000 + 0x400 + 0x40 * 15) 0 0), _, by rfl, by decide +kernel⟩,
    ⟨inbox (msgTo 8 (0xF0000C010000 + 0x400 + 0x40 * 15) 0 0), _, by rfl, by decide +kernel⟩, ⟨inbox (msgTo 8 (0xF0000C020000 + 0x80) 0 0), _, by rfl, by decide +kernel⟩⟩

/-- The fabric-time root, before or after its first pulse; FREF lost or not. -/
def timed (root : Nat) (pulsed fref : Bool) : State := (up.odSetN 0x4300 1 root).withTime fun x => { x with pulsed := pulsed, frefOk := fref }

/-- A TIME packet of the upstream neighbour that came in on link 3 at 310 ns. -/
def timeIn (out : Bool) (m : TimeMsg) : State := upLink.updLink 3 fun x => { x with timeOut := out, timeIn := [(timePkt m 410, 310)] }

theorem test_witness_FabricTimeIsExchangedAndSteppedForward :
    (∃ (s : State) (p : Packet), s.hears 3 = true ∧ ((s.link 3).timeIn.find? fun x => x.1.src == 9) = some (p, 310) ∧ timeOfData p.data = some (.request 255))
      ∧ (∃ (s : State) (p : Packet), s.hears 3 = true ∧ ((s.link 3).timeIn.find? fun x => x.1.src == 9) = some (p, 310) ∧ timeOfData p.data = some (.answer 100 400 0) ∧ ((s.updLink 3 fun x => { x with timeIn := x.timeIn.erase (p, 310) }).link 3).timeOut = true)
      ∧ (∃ (s : State) (p : Packet), s.hears 3 = true ∧ ((s.link 3).timeIn.find? fun x => x.1.src == 9) = some (p, 310) ∧ timeOfData p.data = some (.answer 100 400 0) ∧ ((s.updLink 3 fun x => { x with timeIn := x.timeIn.erase (p, 310) }).link 3).timeOut = false)
      ∧ (∃ (s : State) (p : Packet), s.hears 3 = true ∧ ((s.link 3).timeIn.find? fun x => x.1.src == 9) = some (p, 310) ∧ timeOfData p.data = none)
      ∧ (∃ s : State, s.isRoot = false ∧ s.time.frefOk = true) ∧ (∃ s : State, s.isRoot = true ∧ s.time.pulsed = false) ∧ (∃ s : State, s.isRoot = true ∧ s.time.pulsed = true)
      ∧ ∃ s : State, s.time.frefOk = false :=
  ⟨⟨timeIn false (.request 255), timePkt (.request 255) 410, by decide +kernel⟩, ⟨timeIn true (.answer 100 400 0), timePkt (.answer 100 400 0) 410, by decide +kernel⟩,
    ⟨timeIn false (.answer 100 400 0), timePkt (.answer 100 400 0) 410, by decide +kernel⟩,
    ⟨upLink.updLink 3 fun x => { x with timeIn := [({ pktTo 5 with src := 9 }, 310)] }, { pktTo 5 with src := 9 }, by decide +kernel⟩,
    ⟨timed 0 false true, by decide +kernel⟩, ⟨timed 1 false true, by decide +kernel⟩, ⟨timed 1 true true, by decide +kernel⟩, ⟨timed 0 false false, by decide +kernel⟩⟩

/-- From upstream with t1 = 100, t2 = 400, t3 = 410, t4 = 310: a delay of 100 ns, and the 200 ns that remain are slewed to (R436, R438). -/
theorem test_time_answer : ∃ t : State, exec (.timeReceive 3 9) (timeIn true (.answer 100 400 0)) = .next t ∧ (t.link 3).delay = 100 ∧ t.time.upstream = some 3 ∧ t.time.slew = 200 :=
  ⟨_, rfl, by decide +kernel⟩

/-- Requester 0 of the first arbiter of class 0 has 5 units of credit, requester 1 has 9. -/
def asked : State := { up with arbReqs := [{ cls := 0, inst := 0, who := 0, credit := 5 }, { cls := 0, inst := 0, who := 1, credit := 9, quietUntil := 7 }] }
def asks : List Request := [{ who := 0, units := 1 }, { who := 1, units := 1 }]

theorem test_witness_ArbitersRefillAndChargeCredit :
    (∃ s : State, 0 < (s.arb 5).window) ∧ (∃ (s : State) (r : Request), 0 < arbCount 0 ∧ s.winner 0 0 ((asks.filterMap s.pastRegulator).filter (s.presents 0 0)) = some r)
      ∧ (∃ s : State, 35 < arbCount 3 ∧ s.leadOf 35 = 35) ∧ ∃ (s : State) (r : ReqState), s.findReq 0 0 1 = some r ∧ r.quietUntil ≠ 0 :=
  ⟨⟨up, by decide +kernel⟩, ⟨asked, { who := 1, units := 1 }, by decide +kernel⟩, ⟨up, by decide +kernel⟩, ⟨asked, { cls := 0, inst := 0, who := 1, credit := 9, quietUntil := 7 }, by decide +kernel⟩⟩

/-- The requester with more credit wins, and the other stays away for 8 ns (R647, R648, R649). -/
theorem test_decision : ∃ t : State, exec (.arbiterDecision 0 0 asks) asked = .next t ∧ t.arbReqs.map (fun r => (r.credit, r.losses, r.quietUntil)) = [(5, 1, 1000008), (8, 0, 0)] :=
  ⟨_, rfl, by decide +kernel⟩

/-! Memory, self-test, power, start-up, host, entries, management. -/

/-- Sector 0 of HBM cannot be corrected; partition 1 owns a Larder line with KEEP. -/
def hbmBad : State := { up with hbm := { up.hbm with bad := [0] } }

theorem test_witness_MemoryRowsReadAndWrite :
    (∃ s : State, s.Sound ∧ s.larderTakes 63 3 = true ∧ s.badSector 32 = false)
      ∧ ∃ (s : State) (bytes : List (Option Byte)), s.Sound ∧ s.larderTakes 31 0 = true ∧ s.badSector 0 = true ∧ (∃ i, i < 32 ∧ nth bytes i none = none) ∧ (∃ i, i < 32 ∧ (nth bytes i none).isSome) :=
  ⟨⟨up, sound_of (by decide +kernel), by decide +kernel⟩, ⟨hbmBad, [some 1#8], sound_of (by decide +kernel), by decide +kernel, by decide +kernel, ⟨1, by decide +kernel⟩, ⟨0, by decide +kernel⟩⟩⟩

/-- Die 0 has served 8,192 sectors, half of them at pseudo-channel 5. -/
def busyDie : State := up.withHbm fun h => { h with served := (List.range 64).map fun j => (j, if j = 5 then 4096 else if j < 60 then 70 else 0) }

theorem test_witness_MonitorsAndMaintenanceTakeTheirTurn :
    (∃ (s : State) (r : Nat), s.Sound ∧ (s.advance (nth s.hbm.began 0 0 + 1000 * (s.imbMonitor 0).1)).imbalance 0 = some r)
      ∧ (∃ s : State, s.Sound ∧ (s.advance (nth s.hbm.began 7 0 + 1000 * (s.imbMonitor 7).1)).servedSum 7 < 4096)
      ∧ (∃ s : State, s.tier.queue.head? = some 9 ∧ s.tier.offline = false)
      ∧ (∃ s : State, s.wearVictim = some 8 ∧ s.tier.offline = false)
      ∧ ∃ s : State, (∀ c ∈ (s.emptyBlock 9).tier.crates, c.block ≠ 9) ∧ (s.block 9).leaving = false ∧ ((s.emptyBlock 9).block 9).failing = false :=
  ⟨⟨busyDie, 32 * 4096 * 256 * 2 / 8226, sound_of (by decide +kernel), by decide +kernel⟩, ⟨up, sound_of (by decide +kernel), by decide +kernel⟩, ⟨{ up with tier := { up.tier with queue := [9] } }, by decide +kernel⟩,
    ⟨{ up with tier := { up.tier with crates := [{ index := 3, bytes := [], part := 0, ctx := none, gen := 1, block := 8 }], blocks := [{ block := 0, erases := 2 }, { block := 8 }, { block := 16, erases := 257 }, { block := 24, erases := 3 }] } }, by decide +kernel⟩, ⟨up, by decide +kernel⟩⟩

/-- Core 2 under test since now. -/
def testing : State := (up.withDiag fun d => { d with slices := [({ kind := 1, inst := 2 }, 1000000)] }).updCore 2 fun k => { k with st := .selfTest, cur := 3 }

/-- A command of context 0 waits for core 2. -/
def callsCore2 : State := (ctx0 testing fun x => { x with fetched := [nopAt 2] }).odSetN 0x2200 2 3

/-- Link 3 has a spare lane whose turn has come. -/
def spareLane : State := upLink

theorem test_witness_SelfTestSlicesLeaveNoTrace :
    (∃ s : State, s.Whole ∧ s.sliceMay { kind := 1, inst := 383 } = true) ∧ (∃ s : State, (s.diag.slices.any fun x => x.1 == { kind := 1, inst := 2 }) = true)
      ∧ (∃ s : State, s.Whole ∧ (s.diag.slices.any fun x => x.1 == { kind := 1, inst := 2 }) = true ∧ s.calledFor 2 = true ∧ (s.core 2).st = .selfTest)
      ∧ (∃ s : State, s.ready = true ∧ s.classOn 1 = true ∧ s.channelOn 511 = true)
      ∧ (∃ s : State, s.Whole ∧ s.ready = true ∧ s.classOn 2 = true ∧ (s.link 3).spareLane = some 4 ∧ s.unitOut { kind := 10, inst := 5 * 3 + 4 } = false ∧ s.laneDue { kind := 10, inst := 5 * 3 + 4 } = true)
      ∧ ∃ (s : State) (w : Word) (l : List Word), s.diag.repairNew = w :: l :=
  ⟨⟨up, by unfold State.Whole; decide +kernel⟩, ⟨testing, by decide +kernel⟩, ⟨callsCore2, by unfold State.Whole; decide +kernel⟩, ⟨up, by decide +kernel⟩, ⟨spareLane, by unfold State.Whole; decide +kernel⟩,
    ⟨up.withDiag fun d => { d with repairNew := [1#64] }, 1#64, [], by decide +kernel⟩⟩

/-- Island 3 at a voltage, its performance state 700 mV. -/
def island3 (mv : Nat) : State := (up.odSetN 0xA023 1 700).updIsland 3 fun x => { x with mv := mv }

theorem test_witness_VoltagesStepTowardTheirTarget :
    (∃ s : State, s.pwr.islands.length = 43 ∧ (s.island 3).power = 2 ∧ (s.island 3).mv < s.targetMv 3) ∧ (∃ s : State, s.pwr.islands.length = 43 ∧ (s.island 3).power = 2 ∧ s.targetMv 3 < (s.island 3).mv)
      ∧ (∃ s : State, s.EntriesWf) ∧ ∃ s : State, s.pwr.islands.length = 43 ∧ (s.island 31).power = 2 ∧ s.quarterQuiet 31 = true :=
  ⟨⟨island3 690, by decide +kernel⟩, ⟨island3 750, by decide +kernel⟩, ⟨up, by unfold State.EntriesWf; decide +kernel⟩, ⟨up, by decide +kernel⟩⟩

/-- A voltage change goes in steps of 25 mV (R872), the last one shorter. -/
theorem test_voltage_steps : (∃ t : State, exec (.islandVoltageStep 3) (island3 750) = .next t ∧ (t.island 3).mv = 725) ∧ ∃ t : State, exec (.islandVoltageStep 3) (island3 690) = .next t ∧ (t.island 3).mv = 700 :=
  ⟨⟨_, rfl, by decide +kernel⟩, ⟨_, rfl, by decide +kernel⟩⟩

def tripped : State := { up with pwr := { up.pwr with tripped := true } }

theorem test_witness_TemperaturesLowerCeilingsAndTrip :
    (∃ s : State, s.pwr.on = true ∧ (s.island 42).power ≠ 0 ∧ (s.island 41).power ≠ 0 ∧ (s.island (2 * 15)).power ≠ 0)
      ∧ (∃ s : State, s.Whole ∧ s.Sound ∧ s.pwr.on = true ∧ s.pwr.tripped = false) ∧ (∃ s : State, s.pwr.tripped = true)
      ∧ (∃ (s : State) (avg : Nat), s.pwr.on = true ∧ (let u := s.advance (s.tickOf 1000000); min (1000 * u.odN 0xA000 4) (100 * u.pwr.mv) < avg))
      ∧ ∃ (s : State) (avg : Nat), s.pwr.on = true ∧ (let u := s.advance (s.tickOf 1000000); avg ≤ min (1000 * u.odN 0xA000 4) (100 * u.pwr.mv) ∧ min (1000 * u.odN 0xA000 4) (100 * u.pwr.mv) * 95 < avg * 100) :=
  ⟨⟨up, by decide +kernel⟩, ⟨up, by unfold State.Whole; decide +kernel, sound_of (by decide +kernel), by decide +kernel⟩, ⟨tripped, by decide +kernel⟩, ⟨up, 5000001, by decide +kernel⟩, ⟨up, 4750001, by decide +kernel⟩⟩

/-- A sample at 105 °C imposes a ceiling 25 mV below the performance state (R879); one just below does not. -/
theorem test_junction_ceiling : (∃ t : State, exec (.junctionSample 3 1680 1680) (island3 700) = .next t ∧ (t.island 3).ceiling = 675) ∧ ∃ t : State, exec (.junctionSample 3 1679 1679) (island3 700) = .next t ∧ (t.island 3).ceiling = 0 :=
  ⟨⟨_, rfl, by decide +kernel⟩, ⟨_, rfl, by decide +kernel⟩⟩

def off_ : State := { up with pwr := { up.pwr with on := false } }
def atStage (n : Nat) (held : Bool) : State := { up with pwr := { up.pwr with stage := n, resetHeld := held } }
def atMv (mv : Nat) : State := { up with pwr := { up.pwr with mv := mv } }

theorem test_witness_StartUpRunsStageByStage :
    (∃ s : State, s.pwr.on = false ∧ s.pwr.hubTrip = false) ∧ (∃ mv : Nat, 38000 < mv ∧ mv < 62000 ∧ inputGood mv = false) ∧ (∃ s : State, s.Sound ∧ s.pwr.on = true ∧ s.pwr.inputLost = false ∧ 50 ∉ s.pwr.stagesOff ∧ 0 ∉ s.pwr.stagesOff ∧ 127 ∉ s.pwr.stagesOff ∧ 128 ∉ s.pwr.stagesOff)
      ∧ (∃ (s : State) (mv : Nat), s.pwr.on = true ∧ inputGood mv = true ∧ inputGood s.pwr.mv = false)
      ∧ (∃ (s : State) (r : StageResult), s.pwr.on = true ∧ s.pwr.stage ≠ 0 ∧ s.pwr.stage < 10 ∧ (s.pwr.stage ≠ 3 ∨ s.pwr.resetHeld = false) ∧ r.ok = true)
      ∧ (∃ (s : State) (r : StageResult), s.pwr.on = true ∧ s.pwr.stage ≠ 0 ∧ s.pwr.stage < 10 ∧ (s.pwr.stage ≠ 3 ∨ s.pwr.resetHeld = false) ∧ r.ok = false)
      ∧ (∃ s : State, s.pwr.stage = 9) ∧ (∃ s : State, s.pwr.stage = 3 ∧ s.pwr.resetHeld = true) ∧ ∃ s : State, s.mgmtUp = true ∧ s.pwr.on = true ∧ 3 ≤ s.pwr.stage :=
  ⟨⟨off_, by decide +kernel⟩, ⟨38001, by decide +kernel⟩, ⟨up, sound_of (by decide +kernel), by decide +kernel⟩, ⟨atMv 39000, 50000, by decide +kernel⟩, ⟨atStage 3 false, {}, by decide +kernel⟩, ⟨atStage 9 true, { ok := false }, by decide +kernel⟩,
    ⟨atStage 9 false, by decide +kernel⟩, ⟨atStage 3 true, by decide +kernel⟩, ⟨up, by decide +kernel⟩⟩

/-- The host port changed. -/
def hosted (f : HostPort → HostPort) : State := up.withHost f

/-- The header of a READ without payload (R784). -/
def readHead : Nat := 1 + 0x05 * 2 ^ 8

theorem test_witness_HostLinkComesAndGoes :
    (∃ s : State, s.pwr.on = true ∧ 8 ≤ s.pwr.stage ∧ s.pwr.stage ≤ 10 ∧ s.host.perst = false ∧ s.host.up = false)
      ∧ (∃ s : State, s.Whole ∧ s.host.up = true ∧ s.host.quiesced = false ∧ s.hostRings 0 = true ∧ (s.ctx 0).cond ≠ .absent ∧ (s.ctx 0).cond ≠ .aborting)
      ∧ (∃ s : State, s.Whole ∧ s.barOpen = true ∧ s.host.quiesce = false)
      ∧ (∃ s : State, s.host.quiesce = true ∧ s.host.quiesced = false ∧ ∀ p ∈ s.parts, p.st ≠ .active ∧ p.st ≠ .stopping)
      ∧ (∃ s : State, s.host.up = true ∧ s.host.ide = 2)
      ∧ (∃ s : State, s.mgmt.go = false ∧ s.mgmtUp = true ∧ s.barOpen = true ∧ bit 3 0 = true ∧ bit 2 0 = false ∧ (headerFault ((s.fillRequest (leBytes 8 0)).clearDone 3).bufferMessage.2).isSome)
      ∧ (∃ s : State, s.mgmt.go = true ∧ s.mgmtUp = true ∧ s.barOpen = true)
      ∧ (∃ s : State, s.mgmt.go = false ∧ s.mgmtUp = true ∧ s.barOpen = true ∧ headerFault ((s.fillRequest (leBytes 8 readHead)).clearDone 1).bufferMessage.2 = none)
      ∧ ∃ s : State, s.mgmtUp = true ∧ s.mgmt.node ≠ 0 ∧ s.host.up = true :=
  ⟨⟨{ atStage 8 false with host := { up.host with up := false } }, by decide +kernel⟩, ⟨up, by unfold State.Whole; decide +kernel⟩, ⟨up, by unfold State.Whole; decide +kernel⟩,
    ⟨{ partIn .stopped with host := { up.host with quiesce := true } }, by decide +kernel⟩, ⟨hosted fun h => { h with ide := 2 }, by decide +kernel⟩, ⟨up, by decide +kernel⟩, ⟨{ up with mgmt := { up.mgmt with go := true } }, by decide +kernel⟩, ⟨up, by decide +kernel⟩,
    ⟨{ up with mgmt := { up.mgmt with node := 31 } }, by decide +kernel⟩⟩

/-- The last byte of the Cellar window and the first of the HBM window. -/
theorem test_windows : up.windowAddr (2 ^ 34 - 1) = some (2 ^ 44 + 2 ^ 34 - 1) ∧ up.windowAddr (2 ^ 34) = some 0 ∧ up.windowAddr (2 ^ 35) = none := by decide +kernel

/-- What BI_TIMEOUT has recorded before the access fails. -/
def biState (s : State) (line : Nat) (c : Consumer) : State :=
  s.record { code := .hostBiTimeout, part := s.partOfCtx (s.ctxOf c), ctx := some (s.ctxOf c), unit := { kind := 15, inst := s.ctxOf c }, addr := s.globalAddr (64 * line) }

/-- Context 0 has a command to fetch, and the host holds the line of its first slot. -/
def nearRing : State := ((ctx0 up fun x => { x with sqTail := 1 }).odSetN 0x2200 9 (2 ^ 44 + 2 ^ 20)).withHost fun h => { h with snoop := [(2 ^ 44 + 2 ^ 20) / 64] }

theorem test_witness_HostAccessesReachTheWindows :
    (∃ (s : State) (dpa a : Nat), s.Sound ∧ s.hostReach = true ∧ s.windowAddr (dpa / 64 * 64) = some a ∧ a + 64 ≤ 2 ^ 45 ∧ s.badSector a = false ∧ s.badSector (a + 32) = false)
      ∧ (∃ line : Nat, inHost (64 * line) = true)
      ∧ (∃ (s : State) (addr : Nat), inHost addr = true ∧ s.hostReach = true ∧ (s.ctx 0).cond ≠ .absent ∧ s.hostRings 0 = true ∧ s.writesAt 0 addr = true)
      ∧ (∃ (s : State) (addr : Nat), inHost addr = true ∧ s.hostReach = true ∧ (s.ctx 0).cond ≠ .absent ∧ s.hostRings 0 = true ∧ s.writesAt 0 addr = false)
      ∧ (∃ (s t : State) (addr : Nat), inHost addr = true ∧ s.hostReach = true ∧ s.failBy (.core 0) 0 .hostAccess addr = some t)
      ∧ (∃ (s u : State) (c : Consumer), s.host.snoop.contains 5 = true ∧ (biState s 5 c).failOwn c (64 * 5) = none ∧ (biState s 5 c).failBy c 0 .memUncorrectable (64 * 5) = some u)
      ∧ (∃ (s : State) (line : Nat), s.host.snoop.contains line = true ∧ (biState s line (.hub 0)).fetchesAt 0 (64 * line) = true)
      ∧ ∃ s : State, s.barOpen = true ∧ 2047 ∈ s.host.pendingBits :=
  ⟨⟨up, 2 ^ 35 - 1, 2 ^ 34 - 64, sound_of (by decide +kernel), by decide +kernel⟩, ⟨0x10 * 2 ^ 38, by decide +kernel⟩, ⟨up, 0x10 * 2 ^ 44 + 12288 + 8191, by decide +kernel⟩, ⟨up, 0x10 * 2 ^ 44 + 4096, by decide +kernel⟩,
    ⟨on dat eVop, _, 0x10 * 2 ^ 44, by decide +kernel, by decide +kernel, by rfl⟩, ⟨(on dat eVop).withHost fun h => { h with snoop := [5] }, _, .core 0, by decide +kernel, by decide +kernel, by rfl⟩,
    ⟨nearRing, (2 ^ 44 + 2 ^ 20) / 64, by decide +kernel⟩, ⟨hosted fun h => { h with pendingBits := [2047] }, by decide +kernel⟩⟩

/-- The row of an entry that exists. -/
def row (ix sub : Nat) : OdRow := (odFind ix sub).getD { ix := 0, n := 0, lo := 0, hi := 0, step := 0, bits := 0, signed := false, acc := .ro, dflt := 0, mn := 0, mx := 0, pers := false }

/-- A write that R901 lets pass ACCESS. -/
def writable (s : State) (ix sub : Nat) : Prop := odFind ix sub = some (row ix sub) ∧ s.mgmtUp = true ∧ (row ix sub).acc ≠ .ro ∧ (row ix sub).acc ≠ .rc ∧ refusesAll ix sub = false

theorem test_witness_EntriesAndFirmwareAreWritten :
    odFind 0x0FFF 1 = none ∧ (odFind 0xA000 1 = some (row 0xA000 1) ∧ (row 0xA000 1).acc = .ro)
      ∧ (∃ s : State, writable s 0xA000 4 ∧ s.rangeOk (row 0xA000 4) 0xA000 4 999 = false)
      ∧ (∃ s : State, writable s 0xA000 4 ∧ s.rangeOk (row 0xA000 4) 0xA000 4 1000 = true ∧ s.controlWrite 0xA000 4 1000 = none ∧ s.EntriesWf ∧ s.stateOk 0xA000 4 = true ∧ s.sumOk (row 0xA000 4) 0xA000 4 1000 = true ∧ s.storeFails = 0)
      ∧ (∃ s : State, writable s 0xA000 4 ∧ (row 0xA000 4).pers = true ∧ s.storeFails ≠ 0 ∧ s.EntriesWf ∧ s.rangeOk (row 0xA000 4) 0xA000 4 1000 = true ∧ s.controlWrite 0xA000 4 1000 = none ∧ s.stateOk 0xA000 4 = true ∧ s.sumOk (row 0xA000 4) 0xA000 4 1000 = true)
      ∧ (∃ s : State, writable s 0x2200 9 ∧ s.rangeOk (row 0x2200 9) 0x2200 9 4096 = true ∧ s.controlWrite 0x2200 9 4096 = none ∧ s.stateOk 0x2200 9 = false)
      ∧ (∃ s : State, writable s 0x4500 2 ∧ s.rangeOk (row 0x4500 2) 0x4500 2 8 = true ∧ s.controlWrite 0x4500 2 8 = none ∧ s.stateOk 0x4500 2 = true ∧ s.sumOk (row 0x4500 2) 0x4500 2 8 = false)
      ∧ (∃ s : State, s.sec.fw.length = 5 ∧ (s.fw 5).staging ≠ .receiving ∧ (s.fw 5).fuse < (s.fw 5).svn) ∧ (∃ s : State, s.sec.fw.length = 5 ∧ (s.fw 1).svn ≤ (s.fw 1).fuse)
      ∧ ∃ s : State, s.tokenGood = false := by
  refine ⟨by decide +kernel, by decide +kernel, ⟨up, ?_⟩, ⟨up, ?_⟩, ⟨{ up with storeFails := 1 }, ?_⟩, ⟨up, ?_⟩, ⟨tagged, ?_⟩, ⟨up.updFw 5 fun x => { x with svn := 2, fuse := 1 }, by decide +kernel⟩, ⟨up, by decide +kernel⟩, ⟨up, by decide +kernel⟩⟩
  all_goals unfold writable; try unfold State.EntriesWf
  all_goals decide +kernel

/-- A message with a payload; node `n` with the serial number 77. -/
def msg (p : List Byte) : MgmtMsg := { seq := 6, len := p.length, payload := p }
def node (n : Nat) : State := { (up.odSetN 0x1000 4 77) with mgmt := { up.mgmt with node := n, addrIn := true } }

/-- Bytes as the cells of a slot or of the token buffer. -/
def cellsOf (ws : List Word) : List (Nat × BitVec 8) := (((bytesOfWords ws).zipIdx.map fun x => (x.2, x.1)).filter fun x => x.2 != 0#8)

/-- Slot B of type 5 holds the header of an image of one byte with SVN 2 (R812); the token buffer a token for this module, nonce and no level (R821). -/
def imaged : State := up.updFw 5 fun x => { x with staging := .receiving, slotB := cellsOf [mk [(32, 0x51494D47), (16, 1), (8, 5), (0, 2)], 1#64] }
def tokened : State := ((node 1).withSec fun x => { x with token := cellsOf [mk [(32, 0x4442544B)], 77#64, 5#64] })

/-- Where the free functions of R812 find the key, the signature and the digest right, the image verifies. -/
theorem test_witness_image (h : signedBy Config.firmwareKey (imaged.fw 5).slotB = true) (h2 : Config.sha3 (cellBytes (imaged.fw 5).slotB 3796 1) = cellBytes (imaged.fw 5).slotB 16 32) :
    ∃ s : State, s.sec.fw.length = 5 ∧ (s.fw 5).staging = .receiving ∧ slotGood (s.fw 5) 5 (!(s.fw 5).runningB) = true := by
  refine ⟨imaged, by decide +kernel, by decide +kernel, ?_⟩
  have e : (!(imaged.fw 5).runningB) = true := by decide +kernel
  have f1 : fld (headWords (imaged.fw 5).slotB) 1 31 0 = 1 := by decide +kernel
  rw [e]; unfold slotGood imageGood; simp only [f1, if_true, h, h2, Bool.and_true, beq_self_eq_true]
  decide +kernel

theorem test_witness_AssignGivesAnUnassignedModuleItsNodeId :
    (∃ (s : State) (m : MgmtMsg), s.mgmtUp = true ∧ m.mailbox = false ∧ ofManager m = true ∧ s.toMe m = true ∧ headerFault m = none ∧ m.payload.length = 8 ∧ leNat (m.payload.drop 1) = 0 ∧ leNat (m.payload.take 1) = 31 ∧ s.mgmt.node = 0 ∧ s.mgmt.addrIn = true)
      ∧ (∃ (s : State) (m : MgmtMsg), s.mgmtUp = true ∧ m.mailbox = false ∧ ofManager m = true ∧ s.toMe m = true ∧ headerFault m = none ∧ m.payload.length = 8 ∧ leNat (m.payload.drop 1) = 0 ∧ leNat (m.payload.take 1) = 1 ∧ s.mgmt.node = 1 ∧ s.mgmt.confirmed = false)
      ∧ ∃ (s : State) (m : MgmtMsg), s.mgmtUp = true ∧ m.mailbox = false ∧ ofManager m = true ∧ s.toMe m = true ∧ headerFault m = none ∧ m.payload.length = 8 ∧ leNat (m.payload.drop 1) = 0 ∧ leNat (m.payload.take 1) = 2 ∧ s.mgmt.node = 1 :=
  ⟨⟨node 0, msg (leBytes 8 31), by decide +kernel⟩, ⟨node 1, msg (leBytes 8 1), by decide +kernel⟩, ⟨node 1, msg (leBytes 8 2), by decide +kernel⟩⟩

/-- Where the free functions of R821 find the key and the signature right and the nonce is 5, the token is good. -/
theorem test_witness_token (h : signedBy Config.debugKey tokened.sec.token = true) (hn : Config.nonce 0 = 5#64) : ∃ s : State, s.tokenGood = true := by
  refine ⟨tokened, ?_⟩
  have e : tokened.sec.nonces = 0 := by decide +kernel
  unfold State.tokenGood; simp only [h, e, hn, Bool.and_true]
  decide +kernel

def confirming (n : Nat) : MgmtMsg := msg (leBytes 8 n ++ leBytes 8 77)

theorem test_witness_ManagementMessagesAreServed :
    (∃ (s : State) (m : MgmtMsg), s.mgmtUp = true ∧ m.mailbox = false ∧ ofManager m = true ∧ s.toMe m = true ∧ headerFault m = none ∧ s.levelOut 0x05 m = false ∧ (s.mgmt.replies.find? fun x => x.typ == 0x05 && x.seq == m.seq) = none)
      ∧ (∃ (s : State) (m : MgmtMsg) (x : StoredReply), s.mgmtUp = true ∧ m.mailbox = false ∧ ofManager m = true ∧ s.toMe m = true ∧ headerFault m = none ∧ s.levelOut 0x0B m = false ∧ (s.mgmt.replies.find? fun x => x.typ == 0x0B && x.seq == m.seq) = some x ∧ s.mgmt.node ≠ 0)
      ∧ (∃ (s : State) (m : MgmtMsg), s.mgmtUp = true ∧ m.mailbox = false ∧ ofManager m = false) ∧ (∃ (s : State) (m : MgmtMsg), s.mgmtUp = true ∧ m.mailbox = false ∧ ofManager m = true ∧ (headerFault m).isSome)
      ∧ (∃ (s : State) (m : MgmtMsg), s.mgmtUp = true ∧ m.mailbox = false ∧ ofManager m = true ∧ headerFault m = none ∧ s.toMe m = false) ∧ (∃ (s : State) (m : MgmtMsg), s.mgmtUp = true ∧ m.mailbox = true ∧ s.barOpen = true)
      ∧ (∃ (s : State) (m : MgmtMsg), s.mgmtUp = true ∧ m.mailbox = false ∧ ofManager m = true ∧ s.toMe m = true ∧ headerFault m = none ∧ s.levelOut 0x03 m = false ∧ m.payload.length = 16 ∧ leNat ((m.payload.drop 1).take 7) = 0 ∧ s.mgmt.node ≠ 0 ∧ s.mgmt.node ≤ 31
        ∧ leNat (m.payload.take 1) = s.mgmt.node ∧ leNat (m.payload.drop 8) = s.serial)
      ∧ (∃ (s : State) (m : MgmtMsg), s.mgmtUp = true ∧ m.mailbox = false ∧ ofManager m = true ∧ s.toMe m = true ∧ headerFault m = none ∧ s.levelOut 0x04 m = false ∧ m.payload.length = 8 ∧ leNat (m.payload.drop 2) = 0
        ∧ 1 ≤ leNat (m.payload.take 1) ∧ leNat (m.payload.take 1) ≤ s.mgmt.node ∧ s.mgmt.node ≤ leNat ((m.payload.drop 1).take 1) ∧ leNat ((m.payload.drop 1).take 1) ≤ 31)
      ∧ (∃ s : State, s.mgmt.addrIn ≠ false)
      ∧ (∃ (s : State) (m : MgmtMsg), s.mgmtUp = true ∧ m.mailbox = false ∧ ofManager m = true ∧ s.toMe m = true ∧ headerFault m = none ∧ s.levelOut 0x0F m = false ∧ m.payload.length = 4)
      ∧ (∃ s : State, s.mgmtUp = true ∧ s.odN 0x1100 6 ≠ 0) ∧ (∃ (s : State) (ip : Nat), s.mgmtUp = true ∧ s.mgmt.node ≠ 0 ∧ ip = s.mgmt.base + s.mgmt.node)
      ∧ (∃ (s : State) (ip mac : Nat), s.mgmtUp = true ∧ s.mgmt.node ≠ 0 ∧ ip = s.mgmt.base + s.mgmt.node ∧ mac = s.macAddress)
      ∧ ∃ (s : State) (ip mac : Nat), s.mgmtUp = true ∧ s.mgmt.node ≠ 0 ∧ ip ≠ s.mgmt.base + s.mgmt.node ∧ mac ≠ s.macAddress :=
  ⟨⟨node 1, msg [], by decide +kernel⟩, ⟨{ node 1 with mgmt := { (node 1).mgmt with replies := [{ typ := 0x0B, seq := 6, time := 3, bytes := [] }] } }, msg [], { typ := 0x0B, seq := 6, time := 3, bytes := [] }, by decide +kernel⟩,
    ⟨node 1, { msg [] with src := 3 }, by decide +kernel⟩, ⟨node 1, { msg [] with ver := 2 }, by decide +kernel⟩, ⟨node 1, { msg [] with dst := 2 }, by decide +kernel⟩, ⟨node 1, { msg [] with mailbox := true }, by decide +kernel⟩, ⟨node 31, confirming 31, by decide +kernel⟩, ⟨node 31, msg (leBytes 8 (31 + 31 * 256)), by decide +kernel⟩,
    ⟨node 1, by decide +kernel⟩, ⟨node 1, msg (leBytes 4 9), by decide +kernel⟩, ⟨(node 1).odSetN 0x1100 6 1000, by decide +kernel⟩, ⟨node 31, 0xA9FE4D00 + 31, by decide +kernel⟩, ⟨node 31, 0xA9FE4D00 + 31, (node 31).macAddress, by decide +kernel⟩, ⟨node 31, 7, 3, by decide +kernel⟩⟩

/-! The machine as a whole. -/

theorem test_witness_StepRunsFrontCommand : ∃ (s : State) (c : Instr) (rest : List Instr), s.pending = c :: rest := ⟨{ up with pending := [.moduleReset, .resetIn] }, .moduleReset, [.resetIn], by decide +kernel⟩

theorem test_witness_TimePassesAndChargesEachCore :
    (∃ s : State, s.pending = []) ∧ ∃ (s : State) (e : Exec) (cause v : Nat), 0 < s.cores.length ∧ (s.partOfCore 0).isSome = true ∧ (s.core 0).idle.length = 9 ∧ (s.core 0).exec = some e ∧ execWait e = some (cause, v) ∧ cause < 9 :=
  ⟨⟨up, by decide +kernel⟩, ⟨on syncState (waits (eFence 0 8)), waits (eFence 0 8), 0, 0, by decide +kernel⟩⟩

theorem test_witness_EveryStepKeepsTheMachineSound : ∃ s t : State, s.Sound ∧ step s = .next t := ⟨{ up with pending := [.quiesce] }, _, sound_of (by decide +kernel), rfl⟩
theorem test_witness_CommandsAreTakenFirstInFirstOut : ∃ s t : State, s.Sound ∧ s.pending = [.quiesce, .quiesceDone] ∧ step s = .next t := ⟨{ up with pending := [.quiesce, .quiesceDone] }, _, sound_of (by decide +kernel), rfl, rfl⟩

/-! Well-formedness: a term that each check of each command refuses, and one of each command that passes. -/

def ill0 : List Instr :=
  [.nop 384, .matmul 384, .tileDrain 384, .conv 384, .convWgrad 384, .dwconv 384,
   .pool 384, .vop 384, .vreduce 384, .copy 384, .gather 384, .scatter 384,
   .tierMoveMove (.core 384), .tierMoveMove (.hub 256), .tierMoveMove (.update 0), .tierMoveMove (.reduction 0), .tierMoveMove (.media 0), .tierMoveSeal (.core 384),
   .tierMoveSeal (.hub 256), .tierMoveSeal (.update 0), .tierMoveSeal (.reduction 0), .tierMoveSeal (.media 0), .tierMoveStage (.core 384), .tierMoveStage (.hub 256),
   .tierMoveStage (.update 0), .tierMoveStage (.reduction 0), .tierMoveStage (.media 0), .tierMoveDiscard (.core 384), .tierMoveDiscard (.hub 256), .tierMoveDiscard (.update 0)]
def ill1 : List Instr :=
  [.tierMoveDiscard (.reduction 0), .tierMoveDiscard (.media 0), .tierMoveDrop (.core 384), .tierMoveDrop (.hub 256), .tierMoveDrop (.update 0), .tierMoveDrop (.reduction 0),
   .tierMoveDrop (.media 0), .fenceWait 384, .fenceAdd 384, .fenceMax 384, .fenceSet 384, .fenceSend 384,
   .fenceWaitComplete 384, .creditTake 384, .creditGive 384, .creditSet 384, .creditTakeComplete 16 1, .creditTakeComplete 1 256,
   .rowFenceWait 384, .rowFenceClear 384, .rowFenceWaitComplete 384, .barrierLocal 256, .barrierStep 256, .barrierArrive 256,
   .normPart 4, .normReduce 4, .apply 4, .normRead 4, .normLoad 4, .reduce 256 1]
def ill2 : List Instr :=
  [.reduceLocallyReady 256 1, .reduceUnitSend 256 1 1, .reduceUnitConsume 256 1 1, .broadcast 256 1, .broadcastSendStart 256 1, .mediaOpen 256,
   .mediaAdd 256, .mediaClose 256, .sampleDecodeStart 3 1, .sampleDecodeStart 1 32, .sampleValid 256 1, .sampleValid 1 1024,
   .sampleInvalid 256 1 1, .sampleInvalid 1 1024 1, .sampleInvalid 1 1 0, .sampleInvalid 1 1 5, .slotDeadline 256 1, .slotDeadline 1 1024,
   .batchComplete 256, .sopen 256, .streamData 256, .route 256, .sclose 256, .pictureEntropyStart 32,
   .pictureReconstruct 256 1, .routedPictureShape 256 1, .livePictureDeadline 256 1, .eopen 256, .encodePicture 256, .eclose 256]
def ill3 : List Instr :=
  [.cmdTime (.core 384) 1, .cmdTime (.hub 256) 1, .cmdTime (.update 4) 1, .cmdTime (.reduction 256) 1, .cmdTime (.media 256) 1, .doorbellSqTail 256 1,
   .doorbellSqTail 1 (2 ^ 32), .doorbellCqHead 256 1, .doorbellCqHead 1 (2 ^ 32), .commandFetch 256, .commandDispatch 256, .coreSchedule 384,
   .contextSwap 16, .interruptHoldoffEnd 256, .partitionCreate 16, .partitionCreateDone 16, .partitionStop 16, .partitionStopDone 16,
   .partitionStart 16, .partitionRemove 16, .contextAdd 256, .contextResume 256, .contextAbort 256, .contextAbortDone 256,
   .contextRemove 256, .linkDisable 36, .linkEnable 36, .linkIsolate 36, .linkHeldRelease 36, .linkTrained 36 {}]
def ill4 : List Instr :=
  [.linkTrained 1 { errs := [] }, .linkTrained 1 { lock := [] }, .linkTrained 1 { addr := 65536 }, .linkTrainRetry 36, .routingCommit (2 ^ 64), .arbiterCommit (2 ^ 6),
   .keepLineClear 16, .landingBoardClear 16, .firmwareCommit 0, .firmwareCommit 6, .firmwareAdvance 0, .firmwareAdvance 6,
   .alertClear (2 ^ 8), .performanceStateWrite 43 1, .performanceStateWrite 1 (2 ^ 16), .islandVoltageStep 43, .odWrite (2 ^ 16) 1 1, .odWrite 1 (2 ^ 8) 1,
   .odWrite 1 1 (2 ^ 64), .mailboxGo 4 [], .mailboxGo 0 (List.replicate 1473 0#8), .hostWindowRead (2 ^ 52), .hostWindowWrite (2 ^ 52) [], .hostWindowWrite 1 (List.replicate 65 none), .biTimeout (2 ^ 46) (.core 0) 1,
   .biTimeout 1 (.core 384) 1, .biTimeout 1 (.hub 256) 1, .biTimeout 1 (.update 4) 1, .biTimeout 1 (.reduction 256) 1, .biTimeout 1 (.media 256) 1, .larderRead (2 ^ 52) 1 none]
def ill5 : List Instr :=
  [.larderRead 1 4 none, .larderRead 1 1 (some 16), .larderWrite (2 ^ 52) 1 none [], .larderWrite 1 4 none [], .larderWrite 1 1 (some 16) [], .larderWrite 1 1 none (List.replicate 33 none),
   .imbalanceWindowEnd 8, .arbiterDecision 6 1 [], .arbiterDecision 1 512 [], .arbiterDecision 1 1 [{ who := 22, units := 1 }], .arbiterWindowBoundary 6, .arbiterBackoffEnd 6 1 1,
   .arbiterBackoffEnd 1 512 1, .arbiterBackoffEnd 1 1 22, .flitReceive 36 (flitTo 9 0), .flitReceive 1 {}, .flitReceive 1 { flitTo 9 0 with errs := [0] }, .nakReceive 36 1, .nakReceive 1 (2 ^ 16),
   .replayTimeout 36, .linkSignalLoss 36, .laneSubstitute 36 1 1, .laneSubstitute 1 5 1, .laneLockLoss 36 1, .laneLockLoss 1 5,
   .packetRoute 36 1 1, .packetRoute 1 4 1, .packetRoute 1 1 2, .doneSend (2 ^ 16) 1, .doneSend 1 (2 ^ 16), .tc0TokenGain 36]
def ill6 : List Instr :=
  [.fabStall 36 1, .fabStall 1 4, .timeReceive 36 1, .timeReceive 1 (2 ^ 16), .atticRelocate (2 ^ 32), .sliceStart { kind := 18, inst := 0 }, .sliceEnd { kind := 18, inst := 0 } (.pass 0),
   .sliceAbandon 384, .hbmWindowMove 512 (.pass 0), .laneLoopback 36, .quarterRetentionEntry 32, .junctionSample 51 0 0, .junctionSample 68 0 0, .junctionSample 77 0 0, .junctionSample 1 32768 0,
   .junctionSample 1 (-32769) 0, .junctionSample 1 0 32768, .junctionSample 1 0 (-32769), .stackSample 16 0 0, .stackSample 1 32768 0, .stackSample 1 (-32769) 0,
   .stackSample 1 0 32768, .stackSample 1 0 (-32769), .thermalTrip 77, .coolantSample 32768 0, .coolantSample (-32769) 0, .coolantSample 0 32768,
   .coolantSample 0 (-32769), .stageFault 129, .assign { ver := 16 }, .assign { resv := 16 }, .assign { src := 256 }, .assign { dst := 256 }]
def ill7 : List Instr :=
  [.assign { seq := 65536 }, .assign { len := 65536 }, .assign { payload := List.replicate 1457 0#8 }, .confirm { ver := 16 }, .confirm { resv := 16 }, .confirm { src := 256 },
   .confirm { dst := 256 }, .confirm { seq := 65536 }, .confirm { len := 65536 }, .confirm { payload := List.replicate 1457 0#8 }, .release { ver := 16 }, .release { resv := 16 },
   .release { src := 256 }, .release { dst := 256 }, .release { seq := 65536 }, .release { len := 65536 }, .release { payload := List.replicate 1457 0#8 }, .read { ver := 16 },
   .read { resv := 16 }, .read { src := 256 }, .read { dst := 256 }, .read { seq := 65536 }, .read { len := 65536 }, .read { payload := List.replicate 1457 0#8 },
   .write { ver := 16 }, .write { resv := 16 }, .write { src := 256 }, .write { dst := 256 }, .write { seq := 65536 }, .write { len := 65536 }]
def ill8 : List Instr :=
  [.write { payload := List.replicate 1457 0#8 }, .blob { ver := 16 }, .blob { resv := 16 }, .blob { src := 256 }, .blob { dst := 256 }, .blob { seq := 65536 },
   .blob { len := 65536 }, .blob { payload := List.replicate 1457 0#8 }, .dumpReq { ver := 16 }, .dumpReq { resv := 16 }, .dumpReq { src := 256 }, .dumpReq { dst := 256 },
   .dumpReq { seq := 65536 }, .dumpReq { len := 65536 }, .dumpReq { payload := List.replicate 1457 0#8 }, .eventAck { ver := 16 }, .eventAck { resv := 16 }, .eventAck { src := 256 },
   .eventAck { dst := 256 }, .eventAck { seq := 65536 }, .eventAck { len := 65536 }, .eventAck { payload := List.replicate 1457 0#8 }, .arpRequest false (2 ^ 32) 1 1, .arpRequest false 1 (2 ^ 48) 1, .arpRequest false 1 1 (2 ^ 32), .hostCompletionTimeout 256 none 1 1,
   .hostCompletionTimeout 1 (some (.core 384)) 1 1, .hostCompletionTimeout 1 none 1 (2 ^ 52), .hostSnoop (0x10 * 2 ^ 38 - 1) false [], .hostSnoop (0x20 * 2 ^ 38) false [], .hostSnoop (0x10 * 2 ^ 38) false (List.replicate 65 0#8), .msixTableWrite 2048 false]

def well0 : List Instr :=
  [.nop 1, .matmul 1, .tileDrain 1, .conv 1, .convWgrad 1, .dwconv 1,
   .pool 1, .vop 1, .vreduce 1, .copy 1, .gather 1, .scatter 1,
   .tierMoveMove (.core 0), .tierMoveSeal (.core 0), .tierMoveStage (.core 0), .tierMoveDiscard (.core 0), .tierMoveDrop (.core 0), .fenceWait 1,
   .fenceAdd 1, .fenceMax 1, .fenceSet 1, .fenceSend 1, .fenceWaitComplete 1, .creditTake 1,
   .creditGive 1, .creditSet 1, .creditTakeComplete 1 1, .rowFenceWait 1, .rowFenceClear 1, .rowFenceWaitComplete 1]
def well1 : List Instr :=
  [.barrierLocal 1, .barrierStep 1, .barrierArrive 1, .normPart 1, .normReduce 1, .apply 1,
   .normRead 1, .normLoad 1, .reduce 1 1, .reduceLocallyReady 1 1, .reduceUnitSend 1 1 1, .reduceUnitConsume 1 1 1,
   .broadcast 1 1, .broadcastSendStart 1 1, .mediaOpen 1, .mediaAdd 1, .mediaClose 1, .sampleDecodeStart 1 1,
   .sampleValid 1 1, .sampleInvalid 1 1 1, .slotDeadline 1 1, .batchComplete 1, .sopen 1, .streamData 1,
   .route 1, .sclose 1, .pictureEntropyStart 1, .pictureReconstruct 1 1, .routedPictureShape 1 1, .livePictureDeadline 1 1]
def well2 : List Instr :=
  [.eopen 1, .encodePicture 1, .eclose 1, .cmdTime (.core 0) 1, .doorbellSqTail 1 1, .doorbellCqHead 1 1,
   .commandFetch 1, .commandDispatch 1, .coreSchedule 1, .contextSwap 1, .interruptHoldoffEnd 1, .partitionCreate 1,
   .partitionCreateDone 1, .partitionStop 1, .partitionStopDone 1, .partitionStart 1, .partitionRemove 1, .contextAdd 1,
   .contextResume 1, .contextAbort 1, .contextAbortDone 1, .contextRemove 1, .linkDisable 1, .linkEnable 1,
   .linkIsolate 1, .linkHeldRelease 1, .linkTrained 1 {}, .linkTrainRetry 1, .routingCommit 1, .routingTableCopy]
def well3 : List Instr :=
  [.arbiterCommit 1, .keepLineClear 1, .landingBoardClear 1, .firmwareCommit 1, .firmwareAdvance 1, .debugTokenSubmit,
   .moduleReset, .resetIn, .alertClear 1, .performanceStateWrite 1 1, .islandVoltageStep 1, .quiesce,
   .quiesceDone, .odWrite 1 1 1, .barAccessBad false false, .mailboxGo 3 [], .hostWindowRead 1, .hostWindowWrite 1 [],
   .biTimeout 1 (.core 0) 1, .cxlLinkTrain 1 1, .perst false, .hostLinkLoss, .ideFail, .spdmMessage false false [],
   .larderRead 1 1 none, .larderWrite 1 1 none [], .imbalanceWindowEnd 1, .arbiterDecision 1 1 [], .arbiterWindowBoundary 1, .arbiterBackoffEnd 1 1 1]
def well4 : List Instr :=
  [.regulatorBoundary, .flitReceive 1 (flitTo 9 0), .nakReceive 1 1, .replayTimeout 1, .linkSignalLoss 1, .laneSubstitute 1 1 1,
   .laneLockLoss 1 1, .packetRoute 1 1 1, .writeReceive, .doneSend 1 1, .doneReceive, .normMessageReceive,
   .barrierMessageReceive, .reduceCreditReceive, .fenceMessageReceive, .creditMessageReceive, .tc0TokenGain 1, .fabStall 1 1,
   .timeExchangeStart, .timeReceive 1 1, .tpulseEdge, .frefLoss, .atticRelocate 1, .wearLevelRelocate,
   .sliceStart { kind := 1, inst := 0 }, .sliceEnd { kind := 1, inst := 0 } (.pass 0), .sliceAbandon 1, .hbmWindowMove 1 (.pass 0), .laneLoopback 1, .repairEntryCommit]
def well5 : List Instr :=
  [.quarterRetentionEntry 1, .junctionSample 50 0 0, .junctionSample 69 0 0, .junctionSample 76 0 0, .stackSample 1 0 0, .thermalTrip 76, .hubThermalTrip, .coolantSample 0 0,
   .powerControllerTick 1 1, .p50vOn 1, .p50vOutOfRange 1, .p50vInputLoss 1, .p50vOff, .stageFault 128,
   .startupStageEnd {}, .watchdogExpiry, .addrInChange false, .assign {}, .confirm {}, .release {},
   .read {}, .write {}, .blob {}, .dumpReq {}, .eventAck {}, .eventResend,
   .heartbeat, .arpRequest false 1 1 1, .hostCompletionTimeout 1 none 1 1, .hostSnoop (0x10 * 2 ^ 38) false [], .msixTableWrite 1 false, .frefRestore]
def well6 : List Instr :=
  [.resetInRelease, .p50vReturnToRange 1]

theorem test_wf_refuses : (ill0 ++ ill1 ++ ill2 ++ ill3 ++ ill4 ++ ill5 ++ ill6 ++ ill7 ++ ill8).all (fun i => !i.wf) = true := by decide +kernel

theorem test_wf_accepts : (well0 ++ well1 ++ well2 ++ well3 ++ well4 ++ well5 ++ well6).all Instr.wf = true := by decide +kernel

end Sys2Proof.Tests
end

section
/-! PROOFS of the family 00_scope: what a store writes (O37), and what the host link's rows do (O56). Three layers serve them: what recording a fault can change (`Reported`), the contexts that the loss of the host halts, and that the end of a command changes no partition (`PartsAre`). -/
namespace Sys2Proof.Machine

/-- Settles O37: the bytes of memory after a store are those of the run put over the memory before it. -/
theorem storesWriteTheirBytesAndNoOther : Obligations.StoresWriteTheirBytesAndNoOther := by
  intro s w hint a bs hm
  rw [State.store_mem]
  refine ⟨memWf_putBytes a bs hm, fun i hi => ?_, fun j hj => ?_⟩
  · rw [memGet_putBytes bs hm, if_pos (by omega), Nat.add_sub_cancel_left, nth]
  · rw [memGet_putBytes bs hm, if_neg hj]

/-! What a fault's record and an MSI-X message can change. -/

/-- An MSI-X message changes the pending bits and what the module sends. -/
theorem State.msix_eq (s : State) (v : Nat) : ∃ bits out, s.msix v = { s with host := { s.host with pendingBits := bits }, out := s.out ++ out } := by
  unfold State.msix
  split
  · exact ⟨s.host.pendingBits, [.msix v], rfl⟩
  · split
    · exact ⟨s.host.pendingBits, [], by rw [List.append_nil]⟩
    · exact ⟨_, [], by rw [List.append_nil]⟩

/-- `t` is `s` with faults recorded and reported: entries, the diagnosis unit, the management controller, MSI-X pending bits and what is sent may differ. -/
def Reported (s t : State) : Prop :=
  ∃ od diag mgmt bits out, t = { s with od := od, diag := diag, mgmt := mgmt, host := { s.host with pendingBits := bits }, out := s.out ++ out }

theorem Reported.refl (s : State) : Reported s s := ⟨s.od, s.diag, s.mgmt, s.host.pendingBits, [], by rw [List.append_nil]⟩

theorem Reported.trans {s t u : State} : Reported s t → Reported t u → Reported s u := by
  rintro ⟨_, _, _, _, out, rfl⟩ ⟨od, diag, mgmt, bits, out', rfl⟩
  exact ⟨od, diag, mgmt, bits, out ++ out', by rw [List.append_assoc]⟩

theorem Reported.mem {s t : State} : Reported s t → t.mem = s.mem := by rintro ⟨_, _, _, _, _, rfl⟩; rfl
theorem Reported.ctxs {s t : State} : Reported s t → t.ctxs = s.ctxs := by rintro ⟨_, _, _, _, _, rfl⟩; rfl
theorem Reported.parts {s t : State} : Reported s t → t.parts = s.parts := by rintro ⟨_, _, _, _, _, rfl⟩; rfl
theorem Reported.host {s t : State} : Reported s t → ∃ bits, t.host = { s.host with pendingBits := bits } := by
  rintro ⟨_, _, _, bits, _, rfl⟩; exact ⟨bits, rfl⟩

theorem State.withDiag_reported (s : State) (f : Diag → Diag) : Reported s (s.withDiag f) :=
  ⟨s.od, _, s.mgmt, s.host.pendingBits, [], by rw [List.append_nil]; rfl⟩

theorem State.withMgmt_reported (s : State) (f : Mgmt → Mgmt) : Reported s (s.withMgmt f) :=
  ⟨s.od, s.diag, _, s.host.pendingBits, [], by rw [List.append_nil]; rfl⟩

theorem State.emit_reported (s : State) (o : Out) : Reported s (s.emit o) := ⟨s.od, s.diag, s.mgmt, s.host.pendingBits, [o], rfl⟩

theorem State.msix_reported (s : State) (v : Nat) : Reported s (s.msix v) := by
  obtain ⟨bits, out, h⟩ := s.msix_eq v
  exact ⟨s.od, s.diag, s.mgmt, bits, out, h⟩

theorem State.odInc_reported (s : State) (ix sub : Nat) : Reported s (s.odInc ix sub) := by
  obtain ⟨od, h⟩ := s.odAdd_eq ix sub 1
  exact ⟨od, s.diag, s.mgmt, s.host.pendingBits, [], by rw [List.append_nil]; exact h⟩

theorem State.flight_reported (s : State) (kind object old new : Nat) (body : Option FaultRec) : Reported s (s.flight kind object old new body) := by
  unfold State.flight
  split
  · exact s.odInc_reported _ _
  · exact s.withDiag_reported fun d => { d with recorder := _, recSeq := _ }

theorem State.sendMgmt_reported (s : State) (typ seq : Nat) (payload : List Byte) : Reported s (s.sendMgmt typ seq payload) := by
  unfold State.sendMgmt
  split
  · exact .refl s
  · exact s.emit_reported _

theorem State.recordRaw_reported (s : State) (r : FaultRec) : Reported s (s.recordRaw r) := by
  have h : ∀ body, Reported s (State.flight { s with diag := { s.diag with ring := ({ r with time := s.now, seq := s.diag.raised + 1 } :: s.diag.ring).take 4096, raised := s.diag.raised + 1 } } 1 0 0 0 body) :=
    fun _ => (s.withDiag_reported fun d => { d with ring := _, raised := _ }).trans (State.flight_reported _ _ _ _ _ _)
  unfold State.recordRaw
  dsimp only
  split
  case h_1 | h_2 | h_3 => exact (h _).trans (State.msix_reported _ _)
  case h_4 | h_5 => exact h _

theorem State.queueEvent_reported (s : State) (r : FaultRec) : Reported s (s.queueEvent r).1 := by
  have h : ∀ (f : Mgmt → Mgmt) (bs : List Byte), Reported s ((s.withMgmt f).sendMgmt 0x0E 0 bs) :=
    fun f _ => (s.withMgmt_reported f).trans (State.sendMgmt_reported _ _ _ _)
  unfold State.queueEvent
  dsimp only
  split
  · exact .refl s
  · split
    · exact h (fun m => { m with events := _, nextEvent := _ }) _
    · split
      · exact h (fun m => { m with events := _, nextEvent := _ }) _
      · exact .refl s

theorem State.recordLimited_reported (s : State) (r : FaultRec) (key : Nat) : Reported s (s.recordLimited r key) := by
  have h : ∀ (x : FaultRec) (f : Diag → Diag) (y : FaultRec), Reported s (((s.recordRaw x).withDiag f).queueEvent y).1 :=
    fun x f y => (s.recordRaw_reported x).trans ((State.withDiag_reported _ f).trans (State.queueEvent_reported _ y))
  unfold State.recordLimited
  split
  · split
    · exact s.withDiag_reported fun d => { d with limits := _ }
    · exact h _ (fun d => { d with limits := _ }) _
  · exact h _ (fun d => { d with limits := _ }) _

/-- A fault recorded stops nothing and changes no byte of memory (R848, R825). -/
theorem State.record_reported (s : State) (r : FaultRec) : Reported s (s.record r) := by
  have h := (s.recordRaw_reported r).trans (State.queueEvent_reported _ ((s.recordRaw r).diag.ring.headD r))
  unfold State.record
  dsimp only
  split
  · exact h.trans (State.recordLimited_reported _ _ _)
  · exact h

/-- A fault of scope DEGRADED is recorded and stops nothing (R852). -/
theorem State.raise_reported (s : State) {r : FaultRec} (h : codeScope r.code = .degraded) : Reported s (s.raise r) := by
  unfold State.raise
  rw [h]
  exact s.record_reported r

/-! The host link. -/

theorem State.pendingBits_reported (s : State) (f : HostPort → List Nat) : Reported s (s.withHost fun h => { h with pendingBits := f h }) :=
  ⟨s.od, s.diag, s.mgmt, _, [], by rw [List.append_nil]; rfl⟩

theorem State.sendPending_reported (s : State) : Reported s s.sendPending := by
  have h : ∀ (l : List Nat) (t : State), Reported s t → Reported s (l.foldl (fun (t : State) v => t.emit (.msix v)) t) := by
    intro l
    induction l with
    | nil => exact fun _ h => h
    | cons v l ih => exact fun t h => ih _ (h.trans (t.emit_reported _))
  unfold State.sendPending
  split
  · exact (h _ s (.refl s)).trans (State.pendingBits_reported _ fun x => x.pendingBits.filter fun v => !(x.unmasked.contains v))
  · exact .refl s

/-- Training of the host link sets `up`, LINK and whether it is PCIe only; what it does besides is reported (R742, R762). -/
theorem State.trainCxl_reported (s : State) (k : Nat) : Reported (s.withHost fun h => { h with up := true, link := k, pcieOnly := k == 0 }) (s.trainCxl k) := by
  unfold State.trainCxl
  dsimp only
  generalize s.withHost (fun h => { h with up := true, link := k, pcieOnly := k == 0 }) = s1
  have h2 : Reported s1 (if s.host.link = k then s1 else s1.msix 0) := by
    split
    · exact .refl s1
    · exact s1.msix_reported 0
  refine Reported.trans ?_ (State.sendPending_reported _)
  split
  · exact h2.trans (State.raise_reported _ rfl)
  · exact h2

theorem cxlLinkTrain_recordsTheLink {lanes rate : Nat} {s : State} (hon : s.pwr.on = true) (h8 : 8 ≤ s.pwr.stage) (h10 : s.pwr.stage ≤ 10) (hp : s.host.perst = false) (hu : s.host.up = false) :
    ∃ t : State, exec (.cxlLinkTrain lanes rate) s = .next t ∧ t.host.up = true ∧ t.host.link = linkCode lanes rate ∧ t.host.pcieOnly = (linkCode lanes rate == 0) ∧ t.mem = s.mem := by
  have he : exec (.cxlLinkTrain lanes rate) s = .next (s.trainCxl (linkCode lanes rate)) := by
    change execCxlLinkTrain lanes rate s = _
    simp [execCxlLinkTrain, hon, h8, h10, hp, hu]
  have hr := s.trainCxl_reported (linkCode lanes rate)
  obtain ⟨bits, hb⟩ := hr.host
  exact ⟨_, he, by rw [hb]; rfl, by rw [hb]; rfl, by rw [hb]; rfl, hr.mem⟩

/-! Contexts halted by the loss of the host (R776). -/

/-- A read beside a write of a value that is listed; the map need not be in canonical form. -/
theorem mapGet_put_other {β : Type} [DecidableEq β] {d : Nat → β} {k j : Nat} {v : β} (hv : v ≠ d k) (hj : j ≠ k) (m : List (Nat × β)) :
    mapGet d (mapPut d m k v) j = mapGet d m j := by
  induction m with
  | nil => simp [mapPut, mapGet, hv, hj]
  | cons x m ih =>
    obtain ⟨a, w⟩ := x
    simp only [mapPut, if_neg hv]
    split
    · next h => subst h; simp only [mapGet, if_neg hj]
    · split
      · simp only [mapGet, if_neg hj]
        split
        · rw [if_neg (by omega), if_pos (by omega)]
        · rfl
      · simp only [mapGet, ih]

/-- The row of the flight recorder's counter of refused entries (R859, R865). -/
theorem odFind_recorderRefused : odFind 0x8200 3 = some { ix := 0x8200, n := 1, lo := 3, hi := 3, step := 1, bits := 32, signed := false, acc := .rc, dflt := 0, mn := 0, mx := 0, pers := false } := by
  decide +kernel

/-- An entry of the flight recorder changes no other entry of the object dictionary than its own counter; this holds of a map in any form, because the counter stops at its largest value and so never returns to its default. -/
theorem State.flight_odN (s : State) (kind object old new : Nat) (body : Option FaultRec) {ix sub : Nat} (h : odKey ix sub ≠ odKey 0x8200 3) :
    (s.flight kind object old new body).odN ix sub = s.odN ix sub := by
  unfold State.flight
  split
  · unfold State.odInc State.odAdd
    rw [odFind_recorderRefused]
    unfold State.odN State.odW
    rw [State.odSetN_od, mapGet_put_other _ h]
    have hd : odDefault (odKey 0x8200 3) = 0#64 := by
      unfold odDefault
      rw [show odKey 0x8200 3 / 256 = 0x8200 from rfl, show odKey 0x8200 3 % 256 = 3 from rfl, odFind_recorderRefused]
    rw [hd]
    intro h0
    have := congrArg BitVec.toNat h0
    simp only [BitVec.toNat_ofNat] at this
    omega
  · rfl

theorem State.flight_host (s : State) (kind object old new : Nat) (body : Option FaultRec) : (s.flight kind object old new body).host = s.host := by
  unfold State.flight
  split
  · obtain ⟨od, h⟩ := s.odAdd_eq 0x8200 3 1
    unfold State.odInc
    rw [h]
  · rfl

theorem State.setCond_host (s : State) (cc : Nat) (c : Cond) : (s.setCond cc c).host = s.host := by
  unfold State.setCond
  dsimp only
  split
  · rfl
  · rw [State.flight_host]; rfl

theorem State.setCond_parts (s : State) (cc : Nat) (c : Cond) : (s.setCond cc c).parts = s.parts := by
  unfold State.setCond
  dsimp only
  split
  · rfl
  · rw [State.flight_parts]; rfl

theorem State.setCond_ctxs_length (s : State) (cc : Nat) (c : Cond) : (s.setCond cc c).ctxs.length = s.ctxs.length := by
  unfold State.setCond
  dsimp only
  split
  · rfl
  · rw [State.flight_ctxs, State.updCtx_ctxs, modAt_length]

theorem State.setCond_ctx_other (s : State) {cc cc' : Nat} (c : Cond) (h : cc' ≠ cc) : (s.setCond cc c).ctx cc' = s.ctx cc' := by
  unfold State.setCond
  dsimp only
  split
  · rfl
  · rw [State.flight_ctx]
    exact nth_modAt_other _ _ _ _ _ h

theorem State.setCond_hostRings (s : State) (c : Cond) (cc : Nat) {cc' : Nat} (h : cc' < 256) : (s.setCond cc c).hostRings cc' = s.hostRings cc' := by
  have hod : ∀ sub, sub < 16 → (s.setCond cc c).odN (0x2200 + cc') sub = s.odN (0x2200 + cc') sub := by
    intro sub hsub
    unfold State.setCond
    dsimp only
    split
    · rfl
    · rw [State.flight_odN]
      · rfl
      · unfold odKey; omega
  simp only [State.hostRings, List.any_cons, List.any_nil, hod 9 (by decide), hod 11 (by decide), hod 12 (by decide), hod 14 (by decide)]

/-- What the loss of the host does to one context (R776): the step of `State.haltHostRings`. -/
def State.haltHostRing (s : State) (cc : Nat) : State :=
  if s.hostRings cc && (s.ctx cc).cond != .absent && (s.ctx cc).cond != .aborting then s.setCond cc .halted else s

theorem State.haltHostRings_eq_foldl (s : State) : s.haltHostRings = (List.range 256).foldl State.haltHostRing s := rfl

/-- A context that the loss of the host halts (R776): a ring or its status word is in host memory, and it is neither ABSENT nor ABORTING. -/
def State.hostBound (s : State) (cc : Nat) : Prop :=
  s.hostRings cc = true ∧ (s.ctx cc).cond ≠ .absent ∧ (s.ctx cc).cond ≠ .aborting

theorem State.haltHostRing_cases (s : State) (cc : Nat) : s.haltHostRing cc = s.setCond cc .halted ∨ s.haltHostRing cc = s := by
  unfold State.haltHostRing
  split
  · exact .inl rfl
  · exact .inr rfl

theorem State.haltHostRing_ctxs_length (s : State) (c : Nat) : (s.haltHostRing c).ctxs.length = s.ctxs.length := by
  rcases s.haltHostRing_cases c with h | h <;> rw [h]
  exact s.setCond_ctxs_length c .halted

theorem State.haltHostRing_hostRings (s : State) (c : Nat) {cc : Nat} (hcc : cc < 256) : (s.haltHostRing c).hostRings cc = s.hostRings cc := by
  rcases s.haltHostRing_cases c with h | h <;> rw [h]
  exact s.setCond_hostRings .halted c hcc

theorem State.haltHostRing_cond (s : State) (c : Nat) {cc : Nat} (hl : cc < s.ctxs.length) :
    ((s.haltHostRing c).ctx cc).cond = .halted ∨ ((s.haltHostRing c).ctx cc).cond = (s.ctx cc).cond := by
  rcases s.haltHostRing_cases c with h | h <;> rw [h]
  · by_cases hc : cc = c
    · subst hc
      obtain ⟨_, _, hx⟩ := State.setCond_ctx (s := s) (c := .halted) hl
      exact .inl (by rw [hx])
    · exact .inr (by rw [s.setCond_ctx_other .halted hc])
  · exact .inr rfl

theorem State.haltHostRing_hostBound {s : State} (c : Nat) {cc : Nat} (hcc : cc < 256) (hl : cc < s.ctxs.length) (h : s.hostBound cc) : (s.haltHostRing c).hostBound cc := by
  obtain ⟨hr, ha, hb⟩ := h
  refine ⟨(s.haltHostRing_hostRings c hcc).trans hr, ?_⟩
  rcases s.haltHostRing_cond c hl with hc | hc <;> rw [hc]
  · exact ⟨nofun, nofun⟩
  · exact ⟨ha, hb⟩

theorem State.haltHostRing_self {s : State} {cc : Nat} (hl : cc < s.ctxs.length) (h : s.hostBound cc) : ((s.haltHostRing cc).ctx cc).cond = .halted := by
  obtain ⟨hr, ha, hb⟩ := h
  obtain ⟨_, _, hc⟩ := State.setCond_ctx (s := s) (c := .halted) hl
  simp [State.haltHostRing, hr, ha, hb, hc]

/-- Halting a list of contexts halts each of them that is bound to the host, and leaves a HALTED one HALTED. -/
theorem State.foldl_haltHostRing_halted {cc : Nat} (hcc : cc < 256) (l : List Nat) {s : State} (hl : cc < s.ctxs.length) (hb : s.hostBound cc)
    (h : cc ∈ l ∨ (s.ctx cc).cond = .halted) : ((l.foldl State.haltHostRing s).ctx cc).cond = .halted := by
  induction l generalizing s with
  | nil => exact h.resolve_left (List.not_mem_nil)
  | cons c l ih =>
    refine ih (s.haltHostRing_ctxs_length c ▸ hl) (State.haltHostRing_hostBound c hcc hl hb) ?_
    rcases h with h | h
    · rcases List.mem_cons.1 h with rfl | h
      · exact .inr (State.haltHostRing_self hl hb)
      · exact .inl h
    · rcases s.haltHostRing_cond c hl with hc | hc
      · exact .inr hc
      · exact .inr (hc.trans h)

theorem State.foldl_haltHostRing_mem_host (l : List Nat) (s : State) : (l.foldl State.haltHostRing s).mem = s.mem ∧ (l.foldl State.haltHostRing s).host = s.host := by
  induction l generalizing s with
  | nil => exact ⟨rfl, rfl⟩
  | cons c l ih =>
    obtain ⟨hm, hh⟩ := ih (s.haltHostRing c)
    rw [List.foldl_cons, hm, hh]
    rcases s.haltHostRing_cases c with h | h <;> rw [h]
    · exact ⟨State.setCond_mem, s.setCond_host c .halted⟩
    · exact ⟨rfl, rfl⟩

/-- The effect of R776 on the host port: the device cache and the snoop filter are empty, and only pending MSI-X bits change besides; no byte of memory changes. -/
theorem State.loseHost_host_mem (s : State) : (∃ bits, s.loseHost.host = { s.host with cache := [], snoop := [], pendingBits := bits }) ∧ s.loseHost.mem = s.mem := by
  obtain ⟨hm, hh⟩ := State.foldl_haltHostRing_mem_host (List.range 256) (s.withHost fun h => { h with cache := [], snoop := [] })
  have hr : Reported ((s.withHost fun h => { h with cache := [], snoop := [] }).haltHostRings) s.loseHost := State.raise_reported _ rfl
  rw [State.haltHostRings_eq_foldl] at hr
  obtain ⟨bits, hb⟩ := hr.host
  exact ⟨⟨bits, by rw [hb, hh]; rfl⟩, by rw [hr.mem, hm]; rfl⟩

theorem State.loseHost_halts {s : State} {cc : Nat} (hcc : cc < 256) (hl : cc < s.ctxs.length) (hb : s.hostBound cc) : (s.loseHost.ctx cc).cond = .halted := by
  have hr : Reported ((s.withHost fun h => { h with cache := [], snoop := [] }).haltHostRings) s.loseHost := State.raise_reported _ rfl
  unfold State.ctx
  rw [hr.ctxs, State.haltHostRings_eq_foldl]
  exact State.foldl_haltHostRing_halted hcc (List.range 256) hl hb (.inl (List.mem_range.2 hcc))

theorem State.hostDown_mem (s : State) : s.hostDown.mem = s.mem := by
  unfold State.hostDown
  dsimp only
  split
  · exact (State.loseHost_host_mem _).2
  · rfl

theorem hostLinkLoss_haltsHostBound {s : State} (hw : s.Whole) (hu : s.host.up = true) (hq : s.host.quiesced = false) :
    ∃ t : State, exec .hostLinkLoss s = .next t ∧ t.host.up = false ∧ t.host.cache = [] ∧ t.host.snoop = [] ∧ t.mem = s.mem
      ∧ ∀ cc, cc < 256 → s.hostRings cc = true → (s.ctx cc).cond ≠ .absent → (s.ctx cc).cond ≠ .aborting → (t.ctx cc).cond = .halted := by
  have he : exec .hostLinkLoss s = .next (s.withHost fun h => { h with up := false }).loseHost := by
    change execHostLinkLoss s = _
    simp [execHostLinkLoss, State.hostDown, hu, hq]
  obtain ⟨⟨bits, hh⟩, hm⟩ := (s.withHost fun h => { h with up := false }).loseHost_host_mem
  obtain ⟨-, hctxs, -⟩ := hw
  exact ⟨_, he, by rw [hh]; rfl, by rw [hh], by rw [hh], hm, fun cc hcc hr ha hb => State.loseHost_halts hcc (hctxs.symm ▸ hcc) ⟨hr, ha, hb⟩⟩

theorem perst_resetsTheEndpoint (s : State) : ∃ t : State, exec (.perst true) s = .next t ∧ t.host.up = false ∧ t.host.perst = true ∧ t.mem = s.mem :=
  ⟨_, rfl, rfl, rfl, s.hostDown_mem⟩

theorem ideFail_makesStreamsInsecure {s : State} (hu : s.host.up = true) (hi : s.host.ide = 2) : ∃ t : State, exec .ideFail s = .next t ∧ t.host.ide = 3 ∧ t.mem = s.mem := by
  have he : exec .ideFail s = .next s.failIde := by
    change execIdeFail s = _
    simp [execIdeFail, hu, hi]
  refine ⟨_, he, ?_⟩
  have hr : Reported (s.withHost fun h => { h with ide := 3 }) (((s.withHost fun h => { h with ide := 3 }).msix 0).raise { code := .hostIdeFail, unit := { kind := 12, inst := 0 } }) :=
    (State.msix_reported _ 0).trans (State.raise_reported _ rfl)
  unfold State.failIde
  dsimp only
  generalize ((s.withHost fun h => { h with ide := 3 }).msix 0).raise { code := .hostIdeFail, unit := { kind := 12, inst := 0 } } = u at hr
  obtain ⟨bits, hb⟩ := hr.host
  split
  · obtain ⟨⟨bits', hh⟩, hm⟩ := u.loseHost_host_mem
    exact ⟨by rw [hh, hb]; rfl, hm.trans hr.mem⟩
  · exact ⟨by rw [hb]; rfl, hr.mem⟩

/-! Managed removal (R777). -/

theorem State.emptyFilter_eq (s : State) : ∃ out, s.emptyFilter = { s with host := { s.host with snoop := [] }, out := out } := by
  have h : ∀ (l : List Nat) (t : State), ∃ out, l.foldl (fun (t : State) x => t.emit (.snoop x true)) t = { t with out := out } := by
    intro l
    induction l with
    | nil => exact fun t => ⟨t.out, rfl⟩
    | cons x l ih => exact fun t => ih (t.emit (.snoop x true))
  obtain ⟨out, h⟩ := h s.host.snoop s
  exact ⟨out, by unfold State.emptyFilter; rw [h]; rfl⟩

theorem quiesceDone_dropsCacheAndFilter {s : State} (hq : s.host.quiesce = true) (hd : s.host.quiesced = false) (hp : ∀ p ∈ s.parts, p.st ≠ .active ∧ p.st ≠ .stopping) :
    ∃ t : State, exec .quiesceDone s = .next t ∧ t.host.quiesced = true ∧ t.host.cache = [] ∧ t.host.snoop = [] ∧ t.mem = s.mem ∧ t.parts = s.parts := by
  have hall : s.parts.all (fun p => p.st != .active && p.st != .stopping) = true := List.all_eq_true.2 fun p h => by simp [hp p h]
  obtain ⟨out, hf⟩ := s.emptyFilter_eq
  obtain ⟨bits, out', hm⟩ := (s.emptyFilter.withHost fun h => { h with cache := [] }).msix_eq 0
  have he : exec .quiesceDone s = .next (((s.emptyFilter.withHost fun h => { h with cache := [] }).msix 0).withHost fun h => { h with quiesced := true }) := by
    change execQuiesceDone s = _
    simp only [execQuiesceDone, hq, hd, hall, Bool.not_false, Bool.and_self, if_true]
  rw [hm, hf] at he
  exact ⟨_, he, rfl, rfl, rfl, rfl, rfl⟩

/-! The mailbox (R802, R803). -/

theorem State.mailboxReply_done (s : State) (seq : Nat) (r : Nat × List Byte) : (s.mailboxReply seq r).mgmt.done = true ∧ (s.mailboxReply seq r).mgmt.go = false := by
  obtain ⟨bits, out, h⟩ := (s.withMgmt fun x => { x with reply := messageBytes r.1 seq s.mgmt.node s.now r.2, done := true, go := false }).msix_eq 1
  unfold State.mailboxReply
  rw [h]
  exact ⟨rfl, rfl⟩

theorem State.mailboxRequest_of_headerFault {s : State} {m : MgmtMsg} {r : Nat} (typ : Nat) (hu : s.mgmtUp = true) (hb : s.barOpen = true) (h : headerFault m = some r) :
    s.mailboxRequest typ m = s.mailboxReply m.seq (reject r) := by
  simp [State.mailboxRequest, hu, hb, h]

theorem State.mailboxRequest_of_headerGood {s : State} {m : MgmtMsg} (typ : Nat) (hu : s.mgmtUp = true) (hb : s.barOpen = true) (h : headerFault m = none) :
    s.mailboxRequest typ m = (s.serveType typ m.payload).1.mailboxReply m.seq (s.serveType typ m.payload).2 := by
  simp [State.mailboxRequest, hu, hb, h]

theorem State.mailboxRequest_done {s : State} (typ : Nat) (m : MgmtMsg) (hu : s.mgmtUp = true) (hb : s.barOpen = true) :
    (s.mailboxRequest typ m).mgmt.done = true ∧ (s.mailboxRequest typ m).mgmt.go = false := by
  cases h : headerFault m with
  | some r => rw [State.mailboxRequest_of_headerFault typ hu hb h]; exact State.mailboxReply_done _ _ _
  | none => rw [State.mailboxRequest_of_headerGood typ hu hb h]; exact State.mailboxReply_done _ _ _

theorem mailboxGo_servesTheRequest {v : Nat} {bytes : List Byte} {s t : State} (hu : s.mgmtUp = true) (hb : s.barOpen = true) (ht : t = (s.fillRequest bytes).clearDone v) :
    (s.mgmt.go = false → bit v 0 = true →
      (∀ r, headerFault t.bufferMessage.2 = some r → exec (.mailboxGo v bytes) s = .next (t.mailboxReply t.bufferMessage.2.seq (reject r)))
      ∧ (headerFault t.bufferMessage.2 = none → exec (.mailboxGo v bytes) s = .next
        ((t.serveType t.bufferMessage.1 t.bufferMessage.2.payload).1.mailboxReply t.bufferMessage.2.seq (t.serveType t.bufferMessage.1 t.bufferMessage.2.payload).2))
      ∧ ∃ u : State, exec (.mailboxGo v bytes) s = .next u ∧ u.mgmt.done = true ∧ u.mgmt.go = false)
    ∧ (s.mgmt.go = false → bit v 0 = false → exec (.mailboxGo v bytes) s = .next t)
    ∧ (s.mgmt.go = true → bytes ≠ [] → exec (.mailboxGo v bytes) s = .next ((s.odInc 0x6030 1).clearDone v)) := by
  have htu : t.mgmtUp = true := by rw [ht]; exact hu
  have htb : t.barOpen = true := by rw [ht]; exact hb
  have idle : s.mgmt.go = false → exec (.mailboxGo v bytes) s = .next (if bit v 0 then t.mailboxRequest t.bufferMessage.1 t.bufferMessage.2 else t) := by
    intro hg
    change execMailboxGo v bytes s = _
    simp [execMailboxGo, hu, hb, hg, ← ht]
  refine ⟨fun hg hv => ?_, fun hg hv => ?_, fun hg hne => ?_⟩
  · have he := idle hg
    rw [if_pos hv] at he
    exact ⟨fun r h => by rw [he, State.mailboxRequest_of_headerFault _ htu htb h], fun h => by rw [he, State.mailboxRequest_of_headerGood _ htu htb h],
      _, he, State.mailboxRequest_done _ _ htu htb⟩
  · rw [idle hg, if_neg (by rw [hv]; decide)]
  · change execMailboxGo v bytes s = _
    simp [execMailboxGo, hu, hb, hg, hne]

theorem barAccessBad_isCounted (write badSize : Bool) {s : State} (hb : s.barOpen = true) :
    exec (.barAccessBad write badSize) s = .next (if write then s.odInc 0x6030 1 else (s.odInc 0x6030 1).emit (.barBad badSize)) := by
  change execBarAccessBad write badSize s = _
  simp [execBarAccessBad, hb]

/-! SPDM (R816). -/

/-- An answered SPDM message: the reply is sent first, and no byte of memory changes. -/
theorem State.answerSpdm_mem_out (s : State) (tchioz secured : Bool) (msg : List Byte) :
    (s.answerSpdm tchioz secured msg).mem = s.mem
      ∧ ∃ out, (s.answerSpdm tchioz secured msg).out = s.out ++ [.spdm tchioz (Config.spdmReply (s.spdmPast tchioz secured) s.measurements msg)] ++ out := by
  unfold State.answerSpdm
  dsimp only
  split
  · exact ⟨rfl, [], by rw [List.append_nil]; rfl⟩
  · split
    · exact ⟨rfl, [], by rw [List.append_nil]; rfl⟩
    · obtain ⟨bits, out, h⟩ := State.msix_eq _ 0
      rw [h]
      exact ⟨rfl, out, rfl⟩

theorem spdmMessage_isAnswered {tchioz secured : Bool} {msg : List Byte} {s : State} (hu : s.mgmtUp = true) (hn : tchioz = true → s.mgmt.node ≠ 0) (hh : tchioz = false → s.host.up = true)
    (hi : secured = true → Config.spdmIntact (s.spdmPast tchioz secured) msg = true) :
    ∃ t : State, exec (.spdmMessage tchioz secured msg) s = .next t ∧ t.mem = s.mem
      ∧ Out.spdm tchioz (Config.spdmReply (s.spdmPast tchioz secured) s.measurements msg) ∈ t.out := by
  have hpath : (if tchioz then s.mgmt.node == 0 else !s.host.up) = false := by
    cases tchioz with
    | true => simpa using hn rfl
    | false => simpa using hh rfl
  have hgood : (secured && !(Config.spdmIntact (s.spdmPast tchioz secured) msg)) = false := by
    cases secured with
    | true => simpa using hi rfl
    | false => rfl
  have he : exec (.spdmMessage tchioz secured msg) s = .next (s.answerSpdm tchioz secured msg) := by
    change execSpdmMessage tchioz secured msg s = _
    unfold execSpdmMessage
    rw [hpath, hgood, hu]
    rfl
  obtain ⟨hm, out, ho⟩ := s.answerSpdm_mem_out tchioz secured msg
  exact ⟨_, he, hm, by rw [ho]; simp⟩

/-! What the end of a command leaves as it is: the partitions, and QUIESCE of the host port. -/

/-- The partitions are `P`, and QUIESCE is `q`. -/
structure PartsAre (P : List Partition) (q : Bool) (s : State) : Prop where
  parts : s.parts = P
  quiesce : s.host.quiesce = q

section Frame
variable {P : List Partition} {q : Bool} {s : State}

/-- A state that differs from another in other fields only. -/
theorem PartsAre.of_eq {t : State} (h : PartsAre P q s) (hp : t.parts = s.parts) (hq : t.host.quiesce = s.host.quiesce) : PartsAre P q t :=
  ⟨hp.trans h.parts, hq.trans h.quiesce⟩

theorem Reported.partsAre {t : State} (hr : Reported s t) (h : PartsAre P q s) : PartsAre P q t := by
  obtain ⟨_, _, _, _, _, rfl⟩ := hr
  exact h.of_eq rfl rfl

theorem foldl_partsAre {α : Type} {f : State → α → State} (hf : ∀ t a, PartsAre P q t → PartsAre P q (f t a)) (l : List α) (h : PartsAre P q s) : PartsAre P q (l.foldl f s) := by
  induction l generalizing s with
  | nil => exact h
  | cons a l ih => exact ih (hf s a h)

theorem ite_partsAre {c : Prop} [Decidable c] {t u : State} (ht : PartsAre P q t) (hu : PartsAre P q u) : PartsAre P q (if c then t else u) := by
  split
  · exact ht
  · exact hu

theorem State.odAdd_partsAre (ix sub n : Nat) (h : PartsAre P q s) : PartsAre P q (s.odAdd ix sub n) := by
  obtain ⟨od, he⟩ := s.odAdd_eq ix sub n
  rw [he]
  exact h.of_eq rfl rfl

theorem State.odInc_partsAre (ix sub : Nat) (h : PartsAre P q s) : PartsAre P q (s.odInc ix sub) := State.odAdd_partsAre ix sub 1 h

/-! The Larder, the mesh and the charges. -/

theorem State.passArb_partsAre (dom k inst : Nat) (part : Option Nat) (units : Nat) (h : PartsAre P q s) : PartsAre P q (s.passArb dom k inst part units) := h.of_eq rfl rfl

theorem State.crossMesh_partsAre (a b : Nat) (part : Option Nat) (n : Nat) (h : PartsAre P q s) : PartsAre P q (s.crossMesh a b part n) := by
  unfold State.crossMesh
  exact foldl_partsAre (fun _ _ h => State.passArb_partsAre _ _ _ _ _ h) _ h

theorem State.cross_partsAre (w : Who) (write : Bool) (a n : Nat) (h : PartsAre P q s) : PartsAre P q (s.cross w write a n) := by
  unfold State.cross
  dsimp only
  have h1 := ite_partsAre (c := write = true) (State.crossMesh_partsAre w.die (s.dieOf a) w.part n h)
    (State.crossMesh_partsAre (s.dieOf a) w.die w.part n (State.crossMesh_partsAre w.die (s.dieOf a) w.part 0 h))
  generalize (if write = true then s.crossMesh w.die (s.dieOf a) w.part n else (s.crossMesh w.die (s.dieOf a) w.part 0).crossMesh (s.dieOf a) w.die w.part n) = t at h1 ⊢
  have h2 : PartsAre P q (match region a with
      | 0x00 => t.passArb (s.dieOf a) 0 (s.dieOf a) w.part (ceilDiv n 32)
      | 0x01 => t.passArb (s.dieOf a) 4 (cellarPackage (offset a)) w.part (ceilDiv n 32)
      | _ => t) := by
    split
    · exact State.passArb_partsAre _ _ _ _ _ h1
    · exact State.passArb_partsAre _ _ _ _ _ h1
    · exact h1
  exact ite_partsAre (State.passArb_partsAre _ _ _ _ _ h2) h2

theorem State.serve_partsAre (o : Nat) (part : Option Nat) (h : PartsAre P q s) : PartsAre P q (s.serve o part) := h.of_eq rfl rfl

theorem State.freshSector_partsAre (o : Nat) (h : PartsAre P q s) : PartsAre P q (s.freshSector o) := h.of_eq rfl rfl

theorem State.cleanCopy_partsAre (o : Nat) (h : PartsAre P q s) : PartsAre P q (s.cleanCopy o) := h.of_eq rfl rfl

theorem State.dropStale_partsAre (o : Nat) (h : PartsAre P q s) : PartsAre P q (s.dropStale o) := h.of_eq rfl rfl

theorem State.updLine_partsAre (d line : Nat) (f : LarderLine → LarderLine) (h : PartsAre P q s) : PartsAre P q (s.updLine d line f) := h.of_eq rfl rfl

theorem State.keepStale_partsAre (o : Nat) (h : PartsAre P q s) : PartsAre P q (s.keepStale o) := by
  unfold State.keepStale
  exact ite_partsAre h (h.of_eq rfl rfl)

theorem State.writeBack_partsAre (x : LarderLine) (h : PartsAre P q s) : PartsAre P q (s.writeBack x) := by
  unfold State.writeBack
  exact foldl_partsAre (fun _ _ h => ite_partsAre (State.serve_partsAre _ _ (State.freshSector_partsAre _ (State.dropStale_partsAre _ h))) h) _ h

theorem State.evict_partsAre (x : LarderLine) (h : PartsAre P q s) : PartsAre P q (s.evict x) := by
  unfold State.evict
  exact (foldl_partsAre (fun _ o h => State.cleanCopy_partsAre o h) (s.lineSectors x) (State.writeBack_partsAre x h)).of_eq rfl rfl

theorem State.allocate_partsAre {o : Nat} {part : Option Nat} {keep : Bool} {secs : List SectorSt} {t : State} (ht : s.allocate o part keep secs = some t) (h : PartsAre P q s) : PartsAre P q t := by
  unfold State.allocate at ht
  dsimp only at ht
  split at ht
  · cases ht
  · rename_i old _
    cases ht
    cases old with
    | none => exact h.of_eq rfl rfl
    | some x => exact (State.evict_partsAre x h).of_eq rfl rfl

theorem State.touchLine_partsAre (d line hint : Nat) (h : PartsAre P q s) : PartsAre P q (s.touchLine d line hint) := by
  unfold State.touchLine
  exact ite_partsAre h (h.of_eq rfl rfl)

theorem State.dropSector_partsAre (o : Nat) (h : PartsAre P q s) : PartsAre P q (s.dropSector o) := by
  unfold State.dropSector
  split
  · exact h
  · have h1 : PartsAre P q (match s.larder.stale.find? (fun e => e.1 == o / 32) with
        | some e => { s with mem := memPutBytes s.mem (32 * (o / 32)) e.2 }
        | none => s) := by
      split
      · exact h.of_eq rfl rfl
      · exact h
    have h2 := State.cleanCopy_partsAre o (State.dropStale_partsAre o h1)
    exact ite_partsAre (h2.of_eq rfl rfl) (State.updLine_partsAre _ _ _ h2)

theorem State.fetchHbm_partsAre (o : Nat) (part : Option Nat) (h : PartsAre P q s) : PartsAre P q (s.fetchHbm o part) := by
  unfold State.fetchHbm
  exact ite_partsAre (State.odInc_partsAre _ _ (h.of_eq rfl rfl)) (State.serve_partsAre o part h)

theorem State.checkCopy_partsAre (o : Nat) (st : SectorSt) (part : Option Nat) (h : PartsAre P q s) : PartsAre P q (s.checkCopy o st part) := by
  unfold State.checkCopy
  exact ite_partsAre (State.odInc_partsAre _ _ (State.cleanCopy_partsAre o h))
    (ite_partsAre (State.odInc_partsAre _ _ (State.cleanCopy_partsAre o (State.fetchHbm_partsAre o part h))) h)

theorem State.writeHbm_partsAre (o : Nat) (full : Bool) (part : Option Nat) (h : PartsAre P q s) : PartsAre P q (s.writeHbm o full part) := by
  unfold State.writeHbm
  exact ite_partsAre (State.serve_partsAre o part (State.freshSector_partsAre o h)) (State.serve_partsAre o part (State.fetchHbm_partsAre o part h))

theorem State.readSector_partsAre (o hint : Nat) (part : Option Nat) (h : PartsAre P q s) : PartsAre P q (s.readSector o hint part) := by
  have drop : ∀ t : State, PartsAre P q t → PartsAre P q (if hint = 3 then t.dropSector o else t) := fun t ht => ite_partsAre (State.dropSector_partsAre o ht) ht
  have inc : ∀ n, PartsAre P q (s.odInc (0x3010 + s.homeDie o) n) := fun n => State.odInc_partsAre _ n h
  have fetched := State.fetchHbm_partsAre o part (inc 8)
  unfold State.readSector
  dsimp only
  split
  · split
    · exact drop _ (State.touchLine_partsAre _ _ _ (State.checkCopy_partsAre _ _ _ (inc 7)))
    · exact drop _ (State.touchLine_partsAre _ _ _ (ite_partsAre fetched (State.updLine_partsAre _ _ _ fetched)))
  · split
    · exact fetched
    · split
      · next ht => exact foldl_partsAre (fun _ _ h => State.fetchHbm_partsAre _ part h) _ (State.allocate_partsAre ht (inc 8))
      · exact fetched

theorem State.writeSector_partsAre (o hint : Nat) (full : Bool) (part : Option Nat) (h : PartsAre P q s) : PartsAre P q (s.writeSector o hint full part) := by
  have dirty : ∀ (t : State) (d l i : Nat), PartsAre P q t → PartsAre P q (((t.keepStale o).updLine d l fun y => { y with sectors := modAt y.sectors i fun _ => .dirty }).touchLine d l hint) :=
    fun t d l i ht => State.touchLine_partsAre d l hint (State.updLine_partsAre d l _ (State.keepStale_partsAre o ht))
  have fetched : ∀ t : State, PartsAre P q t → PartsAre P q (if full then t else t.fetchHbm o part) := fun t ht => ite_partsAre ht (State.fetchHbm_partsAre o part ht)
  have inc : ∀ n, PartsAre P q (s.odInc (0x3010 + s.homeDie o) n) := fun n => State.odInc_partsAre _ n h
  have passed := State.writeHbm_partsAre o full part (inc 8)
  unfold State.writeSector
  dsimp only
  split
  · split
    · exact dirty _ _ _ _ (ite_partsAre (State.cleanCopy_partsAre o (inc 7)) (State.checkCopy_partsAre _ _ _ (inc 7)))
    · exact ite_partsAre passed (dirty _ _ _ _ (fetched _ (inc 8)))
  · split
    · exact passed
    · split
      · next ht => exact State.keepStale_partsAre o (fetched _ (State.allocate_partsAre ht (inc 8)))
      · exact passed

theorem State.charge_partsAre (w : Who) (dom r inst n : Nat) (h : PartsAre P q s) : PartsAre P q (s.charge w dom r inst n) := by
  have h1 : PartsAre P q (match w.part with
      | some p => s.odAdd (0x6000 + p) (r + 1) n
      | none => s.odAdd 0x6010 (r + 1) n) := by
    split <;> exact State.odAdd_partsAre _ _ _ h
  have h2 : ∀ t : State, PartsAre P q t → PartsAre P q (match w.ctx with
      | some cc => t.odAdd (0x6300 + cc) 4 n
      | none => t) := by
    intro t ht
    split
    · exact State.odAdd_partsAre _ _ _ ht
    · exact ht
  unfold State.charge
  exact (h2 _ h1).of_eq rfl rfl

theorem State.readCellar_partsAre (a : Nat) (h : PartsAre P q s) : PartsAre P q (s.readCellar a) := by
  unfold State.readCellar
  exact ite_partsAre (State.odInc_partsAre _ _ (h.of_eq rfl rfl)) h

theorem State.readSram_partsAre (a n : Nat) (h : PartsAre P q s) : PartsAre P q (s.readSram a n) := by
  unfold State.readSram
  exact ite_partsAre h (State.odAdd_partsAre _ _ _ h)

theorem State.backInvalidate_partsAre (write : Bool) (a n : Nat) (h : PartsAre P q s) : PartsAre P q (s.backInvalidate write a n) := by
  have hf : ∀ l : List Nat, PartsAre P q (l.foldl (fun (x : State) l => x.emit (.snoop l write)) s) :=
    fun l => foldl_partsAre (f := fun (x : State) l => x.emit (.snoop l write)) (fun _ _ h => h.of_eq rfl rfl) l h
  unfold State.backInvalidate
  exact ite_partsAre h (ite_partsAre ((hf _).of_eq rfl rfl) (hf _))

theorem State.touchSector_partsAre (w : Who) (hint dom r inst a : Nat) (h : PartsAre P q s) : PartsAre P q (s.touchSector w hint dom r inst a) := by
  have hc := State.cross_partsAre w false a 32 h
  unfold State.touchSector
  exact ite_partsAre (State.charge_partsAre w dom r inst 32 (State.readSector_partsAre _ _ _ hc)) (State.readCellar_partsAre a hc)

theorem State.passSector_partsAre (w : Who) (hint dom r inst : Nat) (full : Bool) (a : Nat) (h : PartsAre P q s) : PartsAre P q (s.passSector w hint dom r inst full a) := by
  have hc := State.cross_partsAre w true a 32 h
  unfold State.passSector
  exact ite_partsAre (State.charge_partsAre w dom r inst 32 (State.writeSector_partsAre _ _ _ _ hc)) (ite_partsAre hc (State.readCellar_partsAre a hc))

/-- A read changes no partition, whatever it does on its way. -/
theorem State.touch_partsAre (w : Who) (hint a n : Nat) (h : PartsAre P q s) : PartsAre P q (s.touch w hint a n) := by
  have hb := State.backInvalidate_partsAre false a n h
  have hc := State.cross_partsAre w false a n hb
  unfold State.touch
  dsimp only
  split
  · exact State.readSram_partsAre a n hc
  · next dom r inst _ =>
    have hs := foldl_partsAre (fun _ x h => State.touchSector_partsAre w hint dom r inst x h) (sectorsOf a n) hb
    exact ite_partsAre hs (ite_partsAre (State.charge_partsAre _ _ _ _ _ hs) (State.charge_partsAre _ _ _ _ _ hc))

theorem State.passWrite_partsAre (w : Who) (hint a n : Nat) (sectors : List Nat) (full : Nat → Bool) (h : PartsAre P q s) : PartsAre P q (s.passWrite w hint a n sectors full) := by
  have hc := State.cross_partsAre w true a n h
  unfold State.passWrite
  split
  · exact hc
  · next dom r inst _ =>
    have hs := foldl_partsAre (fun _ x h => State.passSector_partsAre w hint dom r inst (full x) x h) sectors h
    exact ite_partsAre hs (ite_partsAre (State.charge_partsAre _ _ _ _ _ hs) (State.charge_partsAre _ _ _ _ _ hc))

theorem State.healed_partsAre (a n : Nat) (h : PartsAre P q s) : PartsAre P q (s.healed a n) := by
  unfold State.healed
  exact ite_partsAre h (ite_partsAre (h.of_eq rfl rfl) (h.of_eq rfl rfl))

/-- A store changes no partition, whatever it does on its way. -/
theorem State.store_partsAre (w : Who) (hint a : Nat) (bs : List Byte) (h : PartsAre P q s) : PartsAre P q (s.store w hint a bs) := by
  unfold State.store
  exact (State.healed_partsAre a bs.length (State.passWrite_partsAre w hint a bs.length (sectorsOf a bs.length) (covers a bs.length) (State.backInvalidate_partsAre true a bs.length h))).of_eq rfl rfl

/-! Faults, records and interrupts at the end of a command. -/

theorem State.flight_partsAre (kind object old new : Nat) (body : Option FaultRec) (h : PartsAre P q s) : PartsAre P q (s.flight kind object old new body) :=
  (s.flight_reported kind object old new body).partsAre h

theorem State.record_partsAre (r : FaultRec) (h : PartsAre P q s) : PartsAre P q (s.record r) := (s.record_reported r).partsAre h

theorem State.setCond_partsAre (cc : Nat) (c : Cond) (h : PartsAre P q s) : PartsAre P q (s.setCond cc c) :=
  h.of_eq (s.setCond_parts cc c) (congrArg HostPort.quiesce (s.setCond_host cc c))

theorem State.countFault_partsAre (c : Code) (a : Nat) (h : PartsAre P q s) : PartsAre P q (s.countFault c a) := by
  have lost : ∀ o, PartsAre P q (s.dirtyLost o) := fun o => (State.record_partsAre _ (State.dropSector_partsAre o h)).of_eq rfl rfl
  unfold State.countFault
  refine ite_partsAre ?_ h
  unfold State.countUncorrectable
  split
  · exact ite_partsAre (ite_partsAre (lost _) h) (ite_partsAre (State.odInc_partsAre _ _ h) h)
  · exact State.odInc_partsAre _ _ h
  · exact h

theorem State.monitor_partsAre (c : CmdInst) (d : Fin) (h : PartsAre P q s) : PartsAre P q (s.monitor c d) := by
  have hf : ∀ o : Option (Code × Nat), PartsAre P q (o.elim s fun f => s.countFault f.1 f.2) := by
    rintro (_ | f)
    · exact h
    · exact State.countFault_partsAre f.1 f.2 h
  unfold State.monitor
  dsimp only
  refine ite_partsAre h (ite_partsAre (State.record_partsAre _ (hf _)) ?_)
  exact foldl_partsAre (fun _ _ h => State.record_partsAre _ h) _ (State.store_partsAre _ _ _ _ (State.touch_partsAre _ _ _ _ h))

theorem State.updCtx_partsAre (cc : Nat) (f : Context → Context) (h : PartsAre P q s) : PartsAre P q (s.updCtx cc f) := h.of_eq rfl rfl

theorem State.cacheLine_partsAre (a : Nat) (dirty : Bool) (h : PartsAre P q s) : PartsAre P q (s.cacheLine a dirty) := by
  unfold State.cacheLine
  exact ite_partsAre (h.of_eq rfl rfl) h

theorem State.noticed_partsAre (a n : Nat) (h : PartsAre P q s) : PartsAre P q (s.noticed a n) := h.of_eq rfl rfl

theorem State.freeSlot_partsAre (cc slot : Nat) (h : PartsAre P q s) : PartsAre P q (s.freeSlot cc slot) := h.of_eq rfl rfl

theorem State.queueFault_partsAre (cc : Nat) (code : Code) (addr : Nat) (h : PartsAre P q s) : PartsAre P q (s.queueFault cc code addr) := by
  unfold State.queueFault
  exact State.record_partsAre _ (State.setCond_partsAre _ _ (State.countFault_partsAre _ _ h))

theorem State.trigger_partsAre (cc : Nat) (h : PartsAre P q s) : PartsAre P q (s.trigger cc) := by
  unfold State.trigger
  exact ite_partsAre h (ite_partsAre (((s.msix_reported _).partsAre h).of_eq rfl rfl) (h.of_eq rfl rfl))

theorem State.statusWord_partsAre (cc : Nat) (h : PartsAre P q s) : PartsAre P q (s.statusWord cc) := by
  unfold State.statusWord
  refine ite_partsAre h ?_
  dsimp only
  split
  · exact State.queueFault_partsAre _ _ _ (State.noticed_partsAre _ _ h)
  · exact State.store_partsAre _ _ _ _ (State.cacheLine_partsAre _ _ h)

theorem State.complete_partsAre (c : CmdInst) (core start : Nat) (d : Fin) (h : PartsAre P q s) : PartsAre P q (s.complete c core start d) := by
  have told : ∀ t : State, PartsAre P q t → PartsAre P q (if c.irq || d.status != 0 then (t.statusWord c.ctx).trigger c.ctx else t.statusWord c.ctx) := fun t ht =>
    ite_partsAre (State.trigger_partsAre _ (State.statusWord_partsAre _ ht)) (State.statusWord_partsAre _ ht)
  have counted : ∀ t : State, PartsAre P q t → PartsAre P q (if d.status = 1 || d.status = 2 then t.odInc (0x6300 + c.ctx) 3 else t) := fun t ht =>
    ite_partsAre (State.odInc_partsAre _ _ ht) ht
  unfold State.complete
  dsimp only
  split
  · exact State.queueFault_partsAre _ _ _ (State.freeSlot_partsAre _ _ (State.noticed_partsAre _ _ h))
  · refine told _ (counted _ (State.odInc_partsAre _ _ (State.freeSlot_partsAre _ _ (State.updCtx_partsAre _ _ ?_))))
    exact State.store_partsAre _ _ _ _ (State.cacheLine_partsAre _ _ (State.monitor_partsAre c d h))

/-- The end of a command changes no partition. -/
theorem State.finish0_partsAre (c : CmdInst) (core start : Nat) (d : Fin) (h : PartsAre P q s) : PartsAre P q (s.finish0 c core start d) := by
  have faulted : PartsAre P q (match d.fault with
      | some f => (if c.op = 0x23 then s else s.countFault f d.failAddr).record (s.cmdFault c core f d.failAddr)
      | none => s) := by
    split
    · exact State.record_partsAre _ (ite_partsAre h (State.countFault_partsAre _ _ h))
    · exact h
  have hc := State.complete_partsAre c core start d faulted
  unfold State.finish0 State.refresh
  exact State.setCond_partsAre _ _ (ite_partsAre (State.setCond_partsAre _ _ hc) hc)

/-! A partition's stop (R615). -/

theorem State.discardWindow_partsAre (n : Nat) (h : PartsAre P q s) : PartsAre P q (s.discardWindow n) := by
  unfold State.discardWindow State.putBack
  exact (foldl_partsAre (f := fun (t : State) (c : CmdInst) => t.updCtx c.ctx fun x => { x with again := insertSlot x.again c.slot }) (fun _ _ h => h.of_eq rfl rfl) _ h).of_eq rfl rfl

theorem State.endCore0_partsAre (n : Nat) (e : Exec) (d : Fin) (h : PartsAre P q s) : PartsAre P q (s.endCore0 n e d) := by
  unfold State.endCore0
  exact State.finish0_partsAre _ _ _ _ (ite_partsAre (State.discardWindow_partsAre n (h.of_eq rfl rfl)) (h.of_eq rfl rfl))

theorem State.abortQueued_partsAre (cs : List CmdInst) (h : PartsAre P q s) : PartsAre P q (s.abortQueued cs) := by
  unfold State.abortQueued
  exact foldl_partsAre (fun _ _ h => State.finish0_partsAre _ _ _ _ h) cs h

theorem State.abortExecs_partsAre (es : List Exec) (h : PartsAre P q s) : PartsAre P q (s.abortExecs es) := by
  unfold State.abortExecs
  exact foldl_partsAre (fun _ _ h => State.finish0_partsAre _ _ _ _ h) es h

theorem State.abortRuns_partsAre (rs : List RedRun) (h : PartsAre P q s) : PartsAre P q (s.abortRuns rs) := by
  unfold State.abortRuns
  exact foldl_partsAre (fun _ _ h => State.finish0_partsAre _ _ _ _ h) rs h

theorem State.abortCore_partsAre (pred : CmdInst → Bool) (discard : Bool) (n : Nat) (h : PartsAre P q s) : PartsAre P q (s.abortCore pred discard n) := by
  unfold State.abortCore
  dsimp only
  have h1 : PartsAre P q (match (s.core n).exec with
      | some e => if pred e.cmd then s.endCore0 n e (abortOf e) else s
      | none => s) := by
    split
    · exact ite_partsAre (State.endCore0_partsAre _ _ _ h) h
    · exact h
  exact ite_partsAre (ite_partsAre (State.discardWindow_partsAre _ h1) (foldl_partsAre (fun _ _ h => State.finish0_partsAre _ _ _ _ h) _ (h1.of_eq rfl rfl))) h1

theorem State.withMedia_partsAre (f : Media → Media) (h : PartsAre P q s) : PartsAre P q (s.withMedia f) := h.of_eq rfl rfl

theorem State.withColl_partsAre (f : Coll → Coll) (h : PartsAre P q s) : PartsAre P q (s.withColl f) := h.of_eq rfl rfl

theorem State.updEngine_partsAre (k : Nat) (f : UpdEngine → UpdEngine) (h : PartsAre P q s) : PartsAre P q (s.updEngine k f) := h.of_eq rfl rfl

theorem State.dropTakers_partsAre (pred : Nat → Bool) (h : PartsAre P q s) : PartsAre P q (s.dropTakers pred) := h.of_eq rfl rfl

theorem State.withHub_partsAre (l : List Exec) (h : PartsAre P q s) : PartsAre P q { s with hub := l } := h.of_eq rfl rfl

/-- Commands stopped and ended ABORTED change no partition. -/
theorem State.abortCtxs_partsAre (pred : Nat → Bool) (discard : Bool) (h : PartsAre P q s) : PartsAre P q (s.abortCtxs pred discard) := by
  have cores := foldl_partsAre (fun _ n h => State.abortCore_partsAre (fun c => pred c.ctx) discard n h) (List.range 384) (State.dropTakers_partsAre pred h)
  unfold State.abortCtxs
  refine State.abortExecs_partsAre _ (State.withMedia_partsAre _ (State.abortExecs_partsAre _ (State.abortRuns_partsAre _ (State.abortQueued_partsAre _ (State.withColl_partsAre _ ?engines)))))
  exact foldl_partsAre (fun _ _ h => State.abortQueued_partsAre _ (State.abortExecs_partsAre _ (State.updEngine_partsAre _ _ h))) _ (State.abortExecs_partsAre _ (State.withHub_partsAre _ cores))

theorem State.dropMedia_partsAre (p : Nat) (h : PartsAre P q s) : PartsAre P q (s.dropMedia p) := State.withMedia_partsAre _ h

theorem State.haltPart_partsAre (p : Nat) (h : PartsAre P q s) : PartsAre P q (s.haltPart p) := by
  unfold State.haltPart
  exact foldl_partsAre (fun _ _ h => ite_partsAre (State.setCond_partsAre _ _ h) h) _ h

theorem State.setPart_partsAre {p : Nat} {st : PartSt} (h : (s.part p).st ≠ st) : PartsAre (modAt s.parts p fun x => { x with st := st }) s.host.quiesce (s.setPart p st) := by
  unfold State.setPart
  dsimp only
  rw [if_neg h]
  exact State.flight_partsAre _ _ _ _ _ ⟨rfl, rfl⟩

/-- The stop of an ACTIVE partition makes it STOPPING and changes no other partition (R615). -/
theorem State.stopPart_partsAre {p : Nat} (h : (s.part p).st = .active) : PartsAre (modAt s.parts p fun x => { x with st := .stopping }) s.host.quiesce (s.stopPart p) := by
  unfold State.stopPart
  rw [if_pos h]
  exact State.haltPart_partsAre p (State.dropMedia_partsAre p (State.abortCtxs_partsAre _ true (State.setPart_partsAre (by rw [h]; decide))))

theorem State.stopPart_of_notActive {p : Nat} (h : (s.part p).st ≠ .active) : s.stopPart p = s := if_neg h

theorem State.stopPart_quiesce (s : State) (p : Nat) : (s.stopPart p).host.quiesce = s.host.quiesce := by
  by_cases h : (s.part p).st = .active
  · exact (State.stopPart_partsAre h).quiesce
  · rw [State.stopPart_of_notActive h]

/-- An ACTIVE partition is one of the partitions there are. -/
theorem State.lt_of_active {p : Nat} (h : (s.part p).st = .active) : p < s.parts.length := by
  by_contra hlen
  rw [State.part, nth, List.getD_eq_default _ _ (by omega)] at h
  cases h

/-- A stop leaves the partition stopped not ACTIVE, and makes no other ACTIVE (R615). -/
theorem State.stopPart_notActive {p r : Nat} (h : r = p ∨ (s.part r).st ≠ .active) : ((s.stopPart p).part r).st ≠ .active := by
  by_cases hp : (s.part p).st = .active
  · unfold State.part
    rw [(State.stopPart_partsAre hp).parts]
    by_cases hr : r = p
    · subst hr
      rw [nth_modAt_same _ _ _ _ (State.lt_of_active hp)]
      nofun
    · rw [nth_modAt_other _ _ _ _ _ hr]
      exact h.resolve_left hr
  · rw [State.stopPart_of_notActive hp]
    rcases h with rfl | h
    · exact hp
    · exact h

theorem State.foldl_stopPart_notActive {r : Nat} (l : List Nat) {s : State} (h : r ∈ l ∨ (s.part r).st ≠ .active) : ((l.foldl State.stopPart s).part r).st ≠ .active := by
  induction l generalizing s with
  | nil => exact h.resolve_left List.not_mem_nil
  | cons p l ih =>
    refine ih ?_
    rcases h with h | h
    · rcases List.mem_cons.1 h with rfl | h
      · exact .inr (State.stopPart_notActive (.inl rfl))
      · exact .inl h
    · exact .inr (State.stopPart_notActive (.inr h))

theorem State.foldl_stopPart_quiesce (l : List Nat) (s : State) : (l.foldl State.stopPart s).host.quiesce = s.host.quiesce := by
  induction l generalizing s with
  | nil => rfl
  | cons p l ih => exact (ih (s.stopPart p)).trans (s.stopPart_quiesce p)

end Frame

theorem quiesce_stopsEveryPartition {s : State} (hb : s.barOpen = true) (hq : s.host.quiesce = false) :
    ∃ t : State, exec .quiesce s = .next t ∧ t.host.quiesce = true ∧ ∀ p, p < 16 → (t.part p).st ≠ .active := by
  have he : exec .quiesce s = .next ((List.range 16).foldl State.stopPart (s.withHost fun h => { h with quiesce := true })) := by
    change execQuiesce s = _
    simp [execQuiesce, hb, hq]
  exact ⟨_, he, State.foldl_stopPart_quiesce _ _, fun p hp => State.foldl_stopPart_notActive _ (.inl (List.mem_range.2 hp))⟩

/-- Settles O56: each row of the host link by its own lemma. -/
theorem hostLinkComesAndGoes : Obligations.HostLinkComesAndGoes :=
  ⟨fun _ _ _ hon h8 h10 hp hu => cxlLinkTrain_recordsTheLink hon h8 h10 hp hu,
    fun _ hw hu hq => hostLinkLoss_haltsHostBound hw hu hq,
    fun _ _ hb hq => quiesce_stopsEveryPartition hb hq,
    fun _ hq hd hp => quiesceDone_dropsCacheAndFilter hq hd hp,
    perst_resetsTheEndpoint,
    fun _ => rfl,
    fun _ hu hi => ideFail_makesStreamsInsecure hu hi,
    fun write badSize _ hb => barAccessBad_isCounted write badSize hb,
    fun _ _ _ _ hu hb ht => mailboxGo_servesTheRequest hu hb ht,
    fun _ _ _ _ hu hn hh hi => spdmMessage_isAnswered hu hn hh hi⟩

end Sys2Proof.Machine
end

section
/-! PROOFS of the family 01_architecture: the state after reset is sound (O4), and every step keeps a sound state sound (O5). -/
namespace Sys2Proof.Machine

/-! The state after reset. -/

theorem State.reset_whole : State.reset.Whole :=
  ⟨List.length_replicate, List.length_replicate, (List.length_map _).trans List.length_range, List.length_replicate, List.length_replicate, List.length_replicate⟩

/-- Every buffer is empty after reset. -/
theorem State.reset_bounded : State.reset.Bounded :=
  ⟨Nat.zero_le _, Nat.zero_le _, Nat.zero_le _, Nat.zero_le _, Nat.zero_le _, Nat.zero_le _⟩

/-- No entry is written after reset, so each reads as its default. -/
theorem State.reset_entriesWf : State.reset.EntriesWf := ⟨rfl, rfl⟩

theorem State.reset_sound : State.reset.Sound := ⟨rfl, State.reset_whole, State.reset_bounded, State.reset_entriesWf⟩

theorem State.reset_partsAbsent {x : Partition} (h : x ∈ State.reset.parts) : x.st = .absent :=
  congrArg Partition.st (List.eq_of_mem_replicate h)

theorem State.reset_ctxsAbsent {x : Context} (h : x ∈ State.reset.ctxs) : x.cond = .absent :=
  congrArg Context.cond (List.eq_of_mem_replicate h)

theorem State.reset_linksDisabled {x : Link} (h : x ∈ State.reset.links) : x.st = .disabled :=
  congrArg Link.st (List.eq_of_mem_replicate h)

/-- Settles O4: the lists of parts are copies of one fresh part, and every buffer, map and queue is empty. -/
theorem resetIsSound : Obligations.ResetIsSound :=
  ⟨State.reset_sound, rfl, rfl, rfl, rfl, rfl, rfl,
    fun _ h => State.reset_partsAbsent h, fun _ h => State.reset_ctxsAbsent h, fun _ h => State.reset_linksDisabled h⟩

/-! What every step keeps. -/

variable {Q : List Instr}

/-- What is kept, in terms of soundness. -/
theorem kept_iff_sound {s : State} : Kept Q s ↔ s.pending = Q ∧ s.Sound := by
  unfold Kept
  exact Iff.rfl

/-- Every command keeps the queue behind it and the soundness of the state: each row by its own lemma. -/
theorem exec_kept (i : Instr) {s z : State} (hk : Kept Q s) (hz : exec i s = .next z) : Kept Q z := by
  cases i with
  | nop n => exact execNop_kept n hk hz
  | matmul n => exact execMatmul_kept n hk hz
  | tileDrain n => exact execTileDrain_kept n hk hz
  | conv n => exact execConv_kept n hk hz
  | convWgrad n => exact execConvWgrad_kept n hk hz
  | dwconv n => exact execDwconv_kept n hk hz
  | pool n => exact execPool_kept n hk hz
  | vop n => exact execVop_kept n hk hz
  | vreduce n => exact execVreduce_kept n hk hz
  | copy n => exact execCopy_kept n hk hz
  | gather n => exact execGather_kept n hk hz
  | scatter n => exact execScatter_kept n hk hz
  | tierMoveMove c => exact execTierMoveMove_kept c hk hz
  | tierMoveSeal c => exact execTierMoveSeal_kept c hk hz
  | tierMoveStage c => exact execTierMoveStage_kept c hk hz
  | tierMoveDiscard c => exact execTierMoveDiscard_kept c hk hz
  | tierMoveDrop c => exact execTierMoveDrop_kept c hk hz
  | fenceWait n => exact execFenceWait_kept n hk hz
  | fenceAdd n => exact execFenceAdd_kept n hk hz
  | fenceMax n => exact execFenceMax_kept n hk hz
  | fenceSet n => exact execFenceSet_kept n hk hz
  | fenceSend n => exact execFenceSend_kept n hk hz
  | fenceWaitComplete n => exact execFenceWaitComplete_kept n hk hz
  | creditTake n => exact execCreditTake_kept n hk hz
  | creditGive n => exact execCreditGive_kept n hk hz
  | creditSet n => exact execCreditSet_kept n hk hz
  | creditTakeComplete p k => exact execCreditTakeComplete_kept p k hk hz
  | rowFenceWait n => exact execRowFenceWait_kept n hk hz
  | rowFenceClear n => exact execRowFenceClear_kept n hk hz
  | rowFenceWaitComplete n => exact execRowFenceWaitComplete_kept n hk hz
  | barrierLocal cc => exact execBarrierLocal_kept cc hk hz
  | barrierStep cc => exact execBarrierStep_kept cc hk hz
  | barrierArrive cc => exact execBarrierArrive_kept cc hk hz
  | normPart c => exact execNormPart_kept c hk hz
  | normReduce c => exact execNormReduce_kept c hk hz
  | apply c => exact execApply_kept c hk hz
  | normRead c => exact execNormRead_kept c hk hz
  | normLoad c => exact execNormLoad_kept c hk hz
  | reduce cc slot => exact execReduce_kept cc slot hk hz
  | reduceLocallyReady cc slot => exact execReduceLocallyReady_kept cc slot hk hz
  | reduceUnitSend cc slot entry => exact execReduceUnitSend_kept cc slot entry hk hz
  | reduceUnitConsume cc slot entry => exact execReduceUnitConsume_kept cc slot entry hk hz
  | broadcast cc slot => exact execBroadcast_kept cc slot hk hz
  | broadcastSendStart cc slot => exact execBroadcastSendStart_kept cc slot hk hz
  | mediaOpen cc => exact execMediaOpen_kept cc hk hz
  | mediaAdd cc => exact execMediaAdd_kept cc hk hz
  | mediaClose cc => exact execMediaClose_kept cc hk hz
  | sampleDecodeStart engine inst => exact execSampleDecodeStart_kept engine inst hk hz
  | sampleValid b sl => exact execSampleValid_kept b sl hk hz
  | sampleInvalid b sl reason => exact execSampleInvalid_kept b sl reason hk hz
  | slotDeadline b sl => exact execSlotDeadline_kept b sl hk hz
  | batchComplete b => exact execBatchComplete_kept b hk hz
  | sopen cc => exact execSopen_kept cc hk hz
  | streamData cc => exact execStreamData_kept cc hk hz
  | route cc => exact execRoute_kept cc hk hz
  | sclose cc => exact execSclose_kept cc hk hz
  | pictureEntropyStart engine => exact execPictureEntropyStart_kept engine hk hz
  | pictureReconstruct sc pic => exact execPictureReconstruct_kept sc pic hk hz
  | routedPictureShape sc pic => exact execRoutedPictureShape_kept sc pic hk hz
  | livePictureDeadline sc pic => exact execLivePictureDeadline_kept sc pic hk hz
  | eopen cc => exact execEopen_kept cc hk hz
  | encodePicture cc => exact execEncodePicture_kept cc hk hz
  | eclose cc => exact execEclose_kept cc hk hz
  | cmdTime c closed => exact execCmdTime_kept c closed hk hz
  | doorbellSqTail cc v => exact execDoorbellSqTail_kept cc v hk hz
  | doorbellCqHead cc v => exact execDoorbellCqHead_kept cc v hk hz
  | commandFetch cc => exact execCommandFetch_kept cc hk hz
  | commandDispatch cc => exact execCommandDispatch_kept cc hk hz
  | coreSchedule n => exact execCoreSchedule_kept n hk hz
  | contextSwap p => exact execContextSwap_kept p hk hz
  | interruptHoldoffEnd cc => exact execInterruptHoldoffEnd_kept cc hk hz
  | partitionCreate p => exact execPartitionCreate_kept p hk hz
  | partitionCreateDone p => exact execPartitionCreateDone_kept p hk hz
  | partitionStop p => exact execPartitionStop_kept p hk hz
  | partitionStopDone p => exact execPartitionStopDone_kept p hk hz
  | partitionStart p => exact execPartitionStart_kept p hk hz
  | partitionRemove p => exact execPartitionRemove_kept p hk hz
  | contextAdd cc => exact execContextAdd_kept cc hk hz
  | contextResume cc => exact execContextResume_kept cc hk hz
  | contextAbort cc => exact execContextAbort_kept cc hk hz
  | contextAbortDone cc => exact execContextAbortDone_kept cc hk hz
  | contextRemove cc => exact execContextRemove_kept cc hk hz
  | linkDisable l => exact execLinkDisable_kept l hk hz
  | linkEnable l => exact execLinkEnable_kept l hk hz
  | linkIsolate l => exact execLinkIsolate_kept l hk hz
  | linkHeldRelease l => exact execLinkHeldRelease_kept l hk hz
  | linkTrained l tr => exact execLinkTrained_kept l tr hk hz
  | linkTrainRetry l => exact execLinkTrainRetry_kept l hk hz
  | routingCommit t => exact execRoutingCommit_kept t hk hz
  | routingTableCopy => exact execRoutingTableCopy_kept hk hz
  | arbiterCommit mask => exact execArbiterCommit_kept mask hk hz
  | keepLineClear p => exact execKeepLineClear_kept p hk hz
  | landingBoardClear p => exact execLandingBoardClear_kept p hk hz
  | firmwareCommit t => exact execFirmwareCommit_kept t hk hz
  | firmwareAdvance t => exact execFirmwareAdvance_kept t hk hz
  | debugTokenSubmit => exact execDebugTokenSubmit_kept hk hz
  | moduleReset => exact execModuleReset_kept hk hz
  | resetIn => exact execResetIn_kept hk hz
  | alertClear mask => exact execAlertClear_kept mask hk hz
  | performanceStateWrite isl mv => exact execPerformanceStateWrite_kept isl mv hk hz
  | islandVoltageStep isl => exact execIslandVoltageStep_kept isl hk hz
  | quiesce => exact execQuiesce_kept hk hz
  | quiesceDone => exact execQuiesceDone_kept hk hz
  | odWrite ix sub v => exact execOdWrite_kept ix sub v hk hz
  | barAccessBad write badSize => exact execBarAccessBad_kept write badSize hk hz
  | mailboxGo v bytes => exact execMailboxGo_kept v bytes hk hz
  | hostWindowRead dpa => exact execHostWindowRead_kept dpa hk hz
  | hostWindowWrite dpa bytes => exact execHostWindowWrite_kept dpa bytes hk hz
  | biTimeout line by_ closed => exact execBiTimeout_kept line by_ closed hk hz
  | cxlLinkTrain lanes rate => exact execCxlLinkTrain_kept lanes rate hk hz
  | perst asserted => exact execPerst_kept asserted hk hz
  | hostLinkLoss => exact execHostLinkLoss_kept hk hz
  | ideFail => exact execIdeFail_kept hk hz
  | spdmMessage tchioz secured msg => exact execSpdmMessage_kept tchioz secured msg hk hz
  | larderRead addr hint part => exact execLarderRead_kept addr hint part hk hz
  | larderWrite addr hint part bytes => exact execLarderWrite_kept addr hint part bytes hk hz
  | imbalanceWindowEnd d => exact execImbalanceWindowEnd_kept d hk hz
  | arbiterDecision k inst reqs => exact execArbiterDecision_kept k inst reqs hk hz
  | arbiterWindowBoundary k => exact execArbiterWindowBoundary_kept k hk hz
  | arbiterBackoffEnd k inst who => exact execArbiterBackoffEnd_kept k inst who hk hz
  | regulatorBoundary => exact execRegulatorBoundary_kept hk hz
  | flitReceive l f => exact execFlitReceive_kept l f hk hz
  | nakReceive l ack => exact execNakReceive_kept l ack hk hz
  | replayTimeout l => exact execReplayTimeout_kept l hk hz
  | linkSignalLoss l => exact execLinkSignalLoss_kept l hk hz
  | laneSubstitute l lane symbols => exact execLaneSubstitute_kept l lane symbols hk hz
  | laneLockLoss l lane => exact execLaneLockLoss_kept l lane hk hz
  | packetRoute l cls vc => exact execPacketRoute_kept l cls vc hk hz
  | writeReceive => exact execWriteReceive_kept hk hz
  | doneSend src xfer => exact execDoneSend_kept src xfer hk hz
  | doneReceive => exact execDoneReceive_kept hk hz
  | normMessageReceive => exact execNormMessageReceive_kept hk hz
  | barrierMessageReceive => exact execBarrierMessageReceive_kept hk hz
  | reduceCreditReceive => exact execReduceCreditReceive_kept hk hz
  | fenceMessageReceive => exact execFenceMessageReceive_kept hk hz
  | creditMessageReceive => exact execCreditMessageReceive_kept hk hz
  | tc0TokenGain l => exact execTc0TokenGain_kept l hk hz
  | fabStall l cls => exact execFabStall_kept l cls hk hz
  | timeExchangeStart => exact execTimeExchangeStart_kept hk hz
  | timeReceive l src => exact execTimeReceive_kept l src hk hz
  | tpulseEdge => exact execTpulseEdge_kept hk hz
  | frefLoss => exact execFrefLoss_kept hk hz
  | atticRelocate block => exact execAtticRelocate_kept block hk hz
  | wearLevelRelocate => exact execWearLevelRelocate_kept hk hz
  | sliceStart u => exact execSliceStart_kept u hk hz
  | sliceEnd u r => exact execSliceEnd_kept u r hk hz
  | sliceAbandon n => exact execSliceAbandon_kept n hk hz
  | hbmWindowMove pc r => exact execHbmWindowMove_kept pc r hk hz
  | laneLoopback l => exact execLaneLoopback_kept l hk hz
  | repairEntryCommit => exact execRepairEntryCommit_kept hk hz
  | quarterRetentionEntry q => exact execQuarterRetentionEntry_kept q hk hz
  | junctionSample isl t twin => exact execJunctionSample_kept isl t twin hk hz
  | stackSample st t twin => exact execStackSample_kept st t twin hk hz
  | thermalTrip sensor => exact execThermalTrip_kept sensor hk hz
  | hubThermalTrip => exact execHubThermalTrip_kept hk hz
  | coolantSample tin tout => exact execCoolantSample_kept tin tout hk hz
  | powerControllerTick avgMw ma => exact execPowerControllerTick_kept avgMw ma hk hz
  | p50vOn mv => exact execP50vOn_kept mv hk hz
  | p50vOutOfRange mv => exact execP50vOutOfRange_kept mv hk hz
  | p50vInputLoss mv => exact execP50vInputLoss_kept mv hk hz
  | p50vOff => exact execP50vOff_kept hk hz
  | stageFault stage => exact execStageFault_kept stage hk hz
  | startupStageEnd r => exact execStartupStageEnd_kept r hk hz
  | watchdogExpiry => exact execWatchdogExpiry_kept hk hz
  | addrInChange level => exact execAddrInChange_kept level hk hz
  | assign m => exact execAssign_kept m hk hz
  | confirm m => exact execConfirm_kept m hk hz
  | release m => exact execRelease_kept m hk hz
  | read m => exact execRead_kept m hk hz
  | write m => exact execWrite_kept m hk hz
  | blob m => exact execBlob_kept m hk hz
  | dumpReq m => exact execDumpReq_kept m hk hz
  | eventAck m => exact execEventAck_kept m hk hz
  | eventResend => exact execEventResend_kept hk hz
  | heartbeat => exact execHeartbeat_kept hk hz
  | arpRequest arp ip mac src => exact execArpRequest_kept arp ip mac src hk hz
  | hostCompletionTimeout cc by_ closed addr => exact execHostCompletionTimeout_kept cc by_ closed addr hk hz
  | hostSnoop line inv bytes => exact execHostSnoop_kept line inv bytes hk hz
  | msixTableWrite v masked => exact execMsixTableWrite_kept v masked hk hz
  | frefRestore => exact execFrefRestore_kept hk hz
  | resetInRelease => exact execResetInRelease_kept hk hz
  | p50vReturnToRange mv => exact execP50vReturnToRange_kept mv hk hz

theorem step_of_empty {s : State} (h : s.pending = []) : step s = .next s.tick := by
  unfold step
  rw [h]

theorem step_of_front {s : State} {c : Instr} {rest : List Instr} (h : s.pending = c :: rest) : step s = exec c { s with pending := rest } := by
  unfold step
  rw [h]

/-- A step from a sound state leaves the queue without its front, and a sound state: time that passes keeps both, and a command keeps them on the state with the rest of the queue. -/
theorem step_kept {s t : State} (hs : s.Sound) (hz : step s = .next t) : Kept s.pending.tail t := by
  cases hp : s.pending with
  | nil =>
    rw [step_of_empty hp] at hz
    obtain rfl := Host.Outcome.next.inj hz
    exact State.tick_kept (kept_iff_sound.2 ⟨hp, hs⟩)
  | cons c rest =>
    rw [step_of_front hp] at hz
    have hk : Kept rest { s with pending := rest } := kept_iff_sound.2 ⟨rfl, hs⟩
    exact exec_kept c hk hz

/-- Settles O5, by what every step keeps (`step_kept`). -/
theorem everyStepKeepsTheMachineSound : Obligations.EveryStepKeepsTheMachineSound :=
  fun _ _ hs hz => (kept_iff_sound.1 (step_kept hs hz)).2

end Sys2Proof.Machine
end

section
/-! PROOFS of the family 03_engines: the front end reads (O32) and dispatches (O33) a context's commands, and a partition is created and cleared (O38). The front end's two operations get one equation for each of their outcomes; the partition's proof rests on what the clearing of a sorted map leaves to be read. -/
namespace Sys2Proof.Machine

/-! Reading a command. -/

theorem exec_commandFetch (cc : Nat) (s : State) : exec (.commandFetch cc) s = execCommandFetch cc s := rfl

/-- The entry of the target ring that belongs to a slot. -/
def State.targetEntry (s : State) (cc i : Nat) : Nat := leNat (s.bytes (s.targetAddr cc i) 2)

/-- The command that stands in a slot, with the target of its entry. -/
def State.slotCmd (s : State) (cc i : Nat) : CmdInst := { ctx := cc, slot := i, target := s.targetEntry cc i % 512, words := s.words (s.slotAddr cc i) 8 }

/-- The state once a slot and its target entry have been read and the context stands past the slot. -/
def State.pastSlot (s : State) (cc i : Nat) : State :=
  ((s.touchRecord (s.whoCtx cc none) (s.slotAddr cc i) 64).touchRecord (s.whoCtx cc none) (s.targetAddr cc i) 2).updCtx cc fun x => takeSlot x i

theorem execCommandFetch_of_noRoom {s : State} {cc : Nat} (h : s.mayFetch cc = false) : execCommandFetch cc s = .next s := by
  unfold execCommandFetch
  rw [h, Bool.and_false]
  split <;> rfl

theorem execCommandFetch_of_room {s : State} {cc i : Nat} (hcc : cc < 256) (hi : nextSlot (s.ctx cc) = some i) (h : s.mayFetch cc = true) : execCommandFetch cc s = .next (s.fetchOne cc i) := by
  unfold execCommandFetch
  simp [hi, hcc, h]

theorem State.mayFetch_of_noRoom {s : State} {cc : Nat} (h : s.entries cc ≤ (s.ctx cc).cqTail - (s.ctx cc).cqHead + s.held cc) : s.mayFetch cc = false := by
  unfold State.mayFetch
  dsimp only
  rw [decide_eq_false (Nat.not_lt.2 h), Bool.and_false]

section
variable {s : State} {cc i : Nat}

theorem State.fetchOne_of_readFault {f : Code × Nat} (h : s.loadFault (s.whoCtx cc none) (s.slotAddr cc i) 64 = some f ∨ (s.loadFault (s.whoCtx cc none) (s.slotAddr cc i) 64 = none ∧ s.loadFault (s.whoCtx cc none) (s.targetAddr cc i) 2 = some f)) :
    s.fetchOne cc i = (s.queueFault cc (if inHost f.2 then .hostQueue else f.1) f.2).stopOwed := by
  unfold State.fetchOne
  rcases h with ha | ⟨ha, hb⟩
  · simp only [ha, Option.orElse_some]
  · simp only [ha, hb, Option.orElse_none]

variable (ha : s.loadFault (s.whoCtx cc none) (s.slotAddr cc i) 64 = none) (hb : s.loadFault (s.whoCtx cc none) (s.targetAddr cc i) 2 = none)
include ha hb

theorem State.fetchOne_of_rejected {f : Code} (h : (s.pastSlot cc i).frontReject (s.slotCmd cc i) (s.targetEntry cc i) = some f) :
    s.fetchOne cc i = (s.pastSlot cc i).finish { s.slotCmd cc i with target := 390 } 0x1FF s.now (rejectFin f) := by
  unfold State.pastSlot State.slotCmd State.targetEntry at h
  unfold State.fetchOne
  simp only [ha, hb, h, Option.orElse_none]
  rfl

theorem State.fetchOne_of_good (h : (s.pastSlot cc i).frontReject (s.slotCmd cc i) (s.targetEntry cc i) = none) :
    s.fetchOne cc i = (((s.pastSlot cc i).updCtx cc fun x => { x with fetched := x.fetched ++ [s.slotCmd cc i] }).refresh cc).preempt cc := by
  unfold State.pastSlot State.slotCmd State.targetEntry at h
  unfold State.fetchOne
  simp only [ha, hb, h, Option.orElse_none]
  rfl

end

/-- Settles O32: without room `mayFetch` is false, and with it the slot's outcome follows from its two reads and the front end's checks. -/
theorem commandsAreFetchedWhileARecordHasRoom : Obligations.CommandsAreFetchedWhileARecordHasRoom := by
  intro cc i s hcc hi
  rw [exec_commandFetch]
  refine ⟨fun h => execCommandFetch_of_noRoom (State.mayFetch_of_noRoom h), fun h => ?_⟩
  rw [execCommandFetch_of_room hcc hi h]
  refine ⟨fun ha hb hr => ?good, fun f ha hb hr => ?rejected, fun f hf => ?unread⟩
  case good => exact congrArg _ (State.fetchOne_of_good ha hb hr)
  case rejected => exact congrArg _ (State.fetchOne_of_rejected ha hb hr)
  case unread => exact congrArg _ (State.fetchOne_of_readFault hf)

/-! Dispatching a command. -/

theorem exec_commandDispatch (cc : Nat) (s : State) : exec (.commandDispatch cc) s = execCommandDispatch cc s := rfl

/-- The commands of a context that are in order for their targets. -/
def State.dispatchable (s : State) (cc : Nat) : List CmdInst :=
  (s.ctx cc).fetched.filter fun c => s.inOrder c && (decide (c.target < 384) || s.acceptNext c.target == some cc)

theorem State.mem_dispatchable {s : State} {cc : Nat} {c : CmdInst} (h : c ∈ s.dispatchable cc) : c ∈ (s.ctx cc).fetched ∧ s.inOrder c = true := by
  obtain ⟨hc, hp⟩ := List.mem_filter.1 h
  exact ⟨hc, (Bool.and_eq_true_iff.1 hp).1⟩

/-- Whether a context's commands may be dispatched now: the module ready, the context resident and live, its partition ACTIVE. -/
def State.dispatches (s : State) (cc : Nat) : Prop :=
  s.ready = true ∧ (s.ctx cc).resident = true ∧ condLive (s.ctx cc).cond = true ∧ (s.part (s.ctxPart cc)).st = .active

section
variable {s : State} {cc : Nat} {c : CmdInst} (hd : s.dispatches cc)
include hd

theorem execCommandDispatch_of_rejected {f : Code} (h : s.toReject (s.dispatchable cc) = some (c, f)) : execCommandDispatch cc s = .next (s.rejectFetched c f) := by
  obtain ⟨h1, h2, h3, h4⟩ := hd
  unfold State.dispatchable at h
  unfold execCommandDispatch
  simp only [h1, h2, h3, h4, h]
  rfl

variable (hr : s.toReject (s.dispatchable cc) = none)
include hr

theorem execCommandDispatch_of_accepted (h : (s.dispatchable cc).find? s.canAccept = some c) : execCommandDispatch cc s = .next (s.accept c) := by
  obtain ⟨h1, h2, h3, h4⟩ := hd
  unfold State.dispatchable at h hr
  unfold execCommandDispatch
  simp only [h1, h2, h3, h4, hr, h]
  rfl

theorem execCommandDispatch_of_heldBack (ha : (s.dispatchable cc).find? s.canAccept = none) (h : (s.dispatchable cc).find? (fun c => !c.held && s.poolFull c) = some c) :
    execCommandDispatch cc s = .next (s.holdBack c) := by
  obtain ⟨h1, h2, h3, h4⟩ := hd
  unfold State.dispatchable at h hr ha
  unfold execCommandDispatch
  simp only [h1, h2, h3, h4, hr, ha, h]
  rfl

end

/-- Settles O33: the three outcomes of a dispatch, in the order in which they are tried. -/
theorem commandsAreDispatchedInOrder : Obligations.CommandsAreDispatchedInOrder := by
  intro cc s hready hres hlive hact
  have hd : s.dispatches cc := ⟨hready, hres, hlive, hact⟩
  rw [exec_commandDispatch]
  refine ⟨fun c f h => execCommandDispatch_of_rejected hd h, fun c hr h => ?accepted, fun c hr ha h => execCommandDispatch_of_heldBack hd hr ha h⟩
  case accepted =>
    obtain ⟨hc, ho⟩ := State.mem_dispatchable (List.mem_of_find?_eq_some h)
    exact ⟨execCommandDispatch_of_accepted hd hr h, List.find?_some h, ho, hc⟩

/-! What clearing leaves to be read. -/

/-- A read of a sorted map without the keys that fail `f`. -/
theorem mapGet_filter {β : Type} [DecidableEq β] {d : Nat → β} (f : Nat → Bool) {m : List (Nat × β)} {lo : Nat} (h : mapWfFrom d lo m = true) (k : Nat) :
    mapGet d (m.filter fun e => f e.1) k = if f k = true then mapGet d m k else d k := by
  induction m generalizing lo with
  | nil => simp [mapGet]
  | cons x m ih =>
    obtain ⟨a, v⟩ := x
    simp only [mapWfFrom, Bool.and_eq_true] at h
    obtain ⟨-, hm⟩ := h
    by_cases hf : f a = true
    · rw [List.filter_cons_of_pos (by exact hf)]
      simp only [mapGet, ih hm]
      by_cases hk : k = a
      · simp [hk, hf]
      · by_cases hlt : k < a <;> simp [hk, hlt]
    · rw [List.filter_cons_of_neg (by exact hf), ih hm]
      by_cases hk : k = a
      · simp [hk, hf]
      · by_cases hlt : k < a
        · simp [mapGet, hk, hlt, mapGet_below d m (a + 1) k (by omega) hm]
        · simp [mapGet, hk, hlt]

theorem memGet_filter (f : Nat → Bool) {m : List Host.Cell} (h : memWf m = true) (a : Nat) : memGet (m.filter fun c => f c.1) a = if f a = true then memGet m a else 0#8 :=
  mapGet_filter f h a

theorem odKey_div {ix sub : Nat} (h : sub < 256) : odKey ix sub / 256 = ix := by unfold odKey; omega

theorem odKey_mod {ix sub : Nat} (h : sub < 256) : odKey ix sub % 256 = sub := by unfold odKey; omega

theorem State.odClear_odW {s : State} (h : mapWf odDefault s.od = true) (ix : Nat) {ix' sub : Nat} (hsub : sub < 256) :
    (s.odClear ix).odW ix' sub = if ix' = ix then odDefault (odKey ix' sub) else s.odW ix' sub := by
  have hg := mapGet_filter (fun k => k / 256 != ix) h (odKey ix' sub)
  rw [odKey_div hsub] at hg
  unfold State.odClear State.odW
  rw [hg]
  by_cases hix : ix' = ix <;> simp [hix]

/-- Each index cleared reads as its default, and an entry at its default stays there. -/
theorem State.foldl_odClear_odW (p : Nat) {ix sub : Nat} (hsub : sub < 256) (l : List Nat) {s : State} (h : mapWf odDefault s.od = true)
    (hix : (∃ j ∈ l, ix = j + p) ∨ s.odW ix sub = odDefault (odKey ix sub)) : (l.foldl (fun t j => t.odClear (j + p)) s).odW ix sub = odDefault (odKey ix sub) := by
  induction l generalizing s with
  | nil => exact hix.resolve_left (by simp)
  | cons j l ih =>
    refine ih (mapWfFrom_filter _ _ _ _ h) ?_
    rw [State.odClear_odW h _ hsub]
    by_cases hj : ix = j + p
    · exact .inr (if_pos hj)
    · rw [if_neg hj]
      refine hix.imp_left fun ⟨k, hk, hkp⟩ => ?_
      rcases List.mem_cons.1 hk with rfl | hk
      · exact absurd hkp hj
      · exact ⟨k, hk, hkp⟩

/-- The rows of the object dictionary at the indices of fence objects and credit counters (R579, R606). -/
theorem odTable_syncRows : ∀ r ∈ odTable, r.ix < 0x2D20 → 0x2D00 < r.ix + r.n → r.dflt = 0 := by
  decide +kernel

theorem odDefault_sync {ix sub : Nat} (hlo : 0x2D00 ≤ ix) (hhi : ix < 0x2D20) (hsub : sub < 256) : odDefault (odKey ix sub) = 0#64 := by
  unfold odDefault
  rw [odKey_div hsub, odKey_mod hsub]
  split
  next r hr =>
    have hhas := List.find?_some hr
    simp only [odHas, Bool.and_eq_true, decide_eq_true_eq] at hhas
    obtain ⟨⟨⟨⟨hge, hlt⟩, -⟩, -⟩, -⟩ := hhas
    rw [odTable_syncRows r (List.mem_of_find?_eq_some hr) (by omega) (by omega)]
  next => rfl

/-! A partition's STATE. -/

theorem State.updPart_part {s : State} {p : Nat} (f : Partition → Partition) (h : p < s.parts.length) : (s.updPart p f).part p = f (s.part p) :=
  nth_modAt_same _ _ _ _ h

theorem State.flight_part (s : State) (kind object old new : Nat) (body : Option FaultRec) (p : Nat) : (s.flight kind object old new body).part p = s.part p := by
  unfold State.part
  rw [State.flight_parts]

theorem State.emit_part (s : State) (o : Out) (p : Nat) : (s.emit o).part p = s.part p := rfl

theorem State.emit_odN (s : State) (o : Out) (ix sub : Nat) : (s.emit o).odN ix sub = s.odN ix sub := rfl

theorem State.setPart_part {s : State} {p : Nat} (st : PartSt) (h : p < s.parts.length) : (s.setPart p st).part p = { s.part p with st := st } := by
  unfold State.setPart
  dsimp only
  split
  next hst => rw [← hst]
  next => rw [State.flight_part, State.updPart_part _ h]

theorem State.setPart_mem (s : State) (p : Nat) (st : PartSt) : (s.setPart p st).mem = s.mem := by
  unfold State.setPart
  dsimp only
  split
  · rfl
  · rw [State.flight_mem, State.updPart_mem]

theorem State.setPart_odN (s : State) (p : Nat) (st : PartSt) {ix sub : Nat} (h : odKey ix sub ≠ odKey 0x8200 3) : (s.setPart p st).odN ix sub = s.odN ix sub := by
  unfold State.setPart
  dsimp only
  split
  · rfl
  · rw [State.flight_odN _ _ _ _ _ _ h]
    rfl

/-! CREATE. -/

theorem exec_partitionCreate (p : Nat) (s : State) : exec (.partitionCreate p) s = answered (0x2000 + p) 3 0 1 (s.partControl p 1) := rfl

theorem State.partControl_create (s : State) {p : Nat} (hp : p < 16) : s.partControl p 1 = s.createPart p := by
  unfold State.partControl
  rw [if_neg (by omega), if_pos rfl]

/-- The objects of a partition at their starting values (R611), its STATE not yet written. -/
def State.freshPart (s : State) (p : Nat) : State :=
  let s1 := [0x2D00, 0x2D10, 0x6000, 0x6200].foldl (fun t ix => t.odClear (ix + p)) s
  let s2 := s1.updPart p fun _ => {}
  { s2 with buckets := s2.buckets ++ s2.newBuckets p, arbReqs := s2.arbReqs ++ s2.newReqs p }

theorem State.createPart_of_notAbsent {s : State} {p : Nat} (hst : (s.part p).st ≠ .absent) : s.createPart p = (s, stState) := by
  unfold State.createPart
  simp [hst]

theorem State.freshPart_parts (s : State) (p : Nat) : (s.freshPart p).parts = modAt s.parts p fun _ => {} := rfl

theorem State.freshPart_part {s : State} {p : Nat} (h : p < s.parts.length) : (s.freshPart p).part p = {} := nth_modAt_same _ _ _ _ h

/-- Every fence object and credit counter of a fresh partition is zero (R580, R611). -/
theorem State.freshPart_odN_sync {s : State} {p j k : Nat} (hod : mapWf odDefault s.od = true) (hj : j = 0x2D00 ∨ j = 0x2D10) (hp : p < 16) (hk : k < 256) : (s.freshPart p).odN (j + p) k = 0 := by
  have hd : (s.freshPart p).odW (j + p) k = odDefault (odKey (j + p) k) :=
    State.foldl_odClear_odW p hk _ hod (.inl ⟨j, by rcases hj with rfl | rfl <;> simp, rfl⟩)
  unfold State.odN
  rw [hd, odDefault_sync (by omega) (by omega) hk]
  rfl

/-- The flight recorder's counter is no fence object and no credit counter. -/
theorem syncKey_ne_recorder {p j k : Nat} (hj : j = 0x2D00 ∨ j = 0x2D10) (hp : p < 16) (hk : k < 256) : odKey (j + p) k ≠ odKey 0x8200 3 := by
  unfold odKey
  omega

/-- The state once CREATE has put a partition into CREATING. -/
def State.created (s : State) (p : Nat) : State := (s.freshPart p).setPart p .creating

theorem State.created_part {s : State} {p : Nat} (h : p < s.parts.length) : (s.created p).part p = { st := .creating } := by
  unfold State.created
  rw [State.setPart_part _ (by rwa [State.freshPart_parts, modAt_length]), State.freshPart_part h]

theorem State.created_odN_sync {s : State} {p j k : Nat} (hod : mapWf odDefault s.od = true) (hj : j = 0x2D00 ∨ j = 0x2D10) (hp : p < 16) (hk : k < 256) : (s.created p).odN (j + p) k = 0 := by
  unfold State.created
  rw [State.setPart_odN _ _ _ (syncKey_ne_recorder hj hp hk), State.freshPart_odN_sync hod hj hp hk]

theorem State.createPart_of_absent {s : State} {p : Nat} (hst : (s.part p).st = .absent) (hm : s.diag.moduleFault = false) (hr : s.ready = true) (hq : s.quarters p ≠ 0) :
    s.createPart p = (s.created p, stOk) := by
  unfold State.createPart State.created State.freshPart
  simp [hst, hm, hr, hq]

theorem partitionCreate_makesFresh {p : Nat} {s : State} (hs : s.Sound) (hp : p < 16) (hq : s.quarters p ≠ 0) (hm : s.diag.moduleFault = false) (hr : s.ready = true) (hst : (s.part p).st = .absent) :
    ∃ t : State, exec (.partitionCreate p) s = .next t ∧ t.part p = { st := .creating } ∧ ∀ k : Nat, k < 256 → t.odN (0x2D00 + p) k = 0 ∧ t.odN (0x2D10 + p) k = 0 := by
  obtain ⟨-, ⟨hparts, -⟩, -, hod, -⟩ := hs
  have he : exec (.partitionCreate p) s = .next (((s.created p).flight 7 ((0x2000 + p) * 256 + 3) 0 1 none).emit (.status (0x2000 + p) 3 stOk)) := by
    rw [exec_partitionCreate, State.partControl_create s hp, State.createPart_of_absent hst hm hr hq]
    rfl
  have hsync : ∀ j k : Nat, j = 0x2D00 ∨ j = 0x2D10 → k < 256 → (((s.created p).flight 7 ((0x2000 + p) * 256 + 3) 0 1 none).emit (.status (0x2000 + p) 3 stOk)).odN (j + p) k = 0 := fun j k hj hk => by
    rw [State.emit_odN, State.flight_odN _ _ _ _ _ _ (syncKey_ne_recorder hj hp hk), State.created_odN_sync hod hj hp hk]
  refine ⟨_, he, ?part, fun k hk => ⟨hsync _ k (.inl rfl) hk, hsync _ k (.inr rfl) hk⟩⟩
  case part => rw [State.emit_part, State.flight_part, State.created_part (by omega)]

theorem partitionCreate_isRefused {p : Nat} {s : State} (hp : p < 16) (hst : (s.part p).st ≠ .absent) : exec (.partitionCreate p) s = .next (s.emit (.status (0x2000 + p) 3 4)) := by
  rw [exec_partitionCreate, State.partControl_create s hp, State.createPart_of_notAbsent hst]
  rfl

/-! The end of the clearing. -/

theorem exec_partitionCreateDone (p : Nat) (s : State) : exec (.partitionCreateDone p) s = execPartitionCreateDone p s := rfl

/-- The clearing changes the bytes of the scratchpads of its quarter-dies only (R140). -/
theorem State.clearQuarters_memGet {s : State} (mask : Nat) (h : memWf s.mem = true) (a : Nat) : memGet (s.clearQuarters mask).mem a = if inScratch mask a = true then 0#8 else memGet s.mem a := by
  have hg := memGet_filter (fun a => !inScratch mask a) h a
  unfold State.clearQuarters
  rw [hg]
  cases inScratch mask a <;> rfl

theorem State.clearQuarters_parts (s : State) (mask : Nat) : (s.clearQuarters mask).parts = s.parts := rfl

theorem State.createDone_eq (s : State) (p : Nat) : s.createDone p = (s.clearQuarters (s.quarters p)).setPart p (if (s.part p).toStopped then .stopped else .active) := by
  unfold State.createDone
  rw [apply_ite (State.setPart _ p)]
  rfl

theorem partitionCreateDone_clears {p : Nat} {s : State} (hs : s.Sound) (hp : p < 16) (hst : (s.part p).st = .creating) :
    ∃ t : State, exec (.partitionCreateDone p) s = .next t ∧ (t.part p).st = (if (s.part p).toStopped then .stopped else .active) ∧ (∀ a : Nat, inScratch (s.quarters p) a = true → memGet t.mem a = 0#8)
      ∧ ∀ a : Nat, inScratch (s.quarters p) a = false → memGet t.mem a = memGet s.mem a := by
  obtain ⟨hmem, ⟨hparts, -⟩, -⟩ := hs
  have he : exec (.partitionCreateDone p) s = .next (s.createDone p) := by
    rw [exec_partitionCreateDone]
    unfold execPartitionCreateDone
    rw [if_pos (by simp [hp, hst])]
  have hget : ∀ a, memGet (s.createDone p).mem a = if inScratch (s.quarters p) a = true then 0#8 else memGet s.mem a := fun a => by
    rw [State.createDone_eq, State.setPart_mem, State.clearQuarters_memGet _ hmem]
  have hpart : ((s.createDone p).part p).st = if (s.part p).toStopped then .stopped else .active := by
    rw [State.createDone_eq, State.setPart_part _ (by rw [State.clearQuarters_parts]; omega)]
  exact ⟨_, he, hpart, fun a ha => by rw [hget, if_pos ha], fun a ha => by rw [hget, if_neg (by simp [ha])]⟩

/-- Settles O38: CREATE accepted, CREATE refused, and the end of the clearing. -/
theorem partitionsAreCreatedCleared : Obligations.PartitionsAreCreatedCleared :=
  ⟨fun _ _ hs hp hq hm hr hst => partitionCreate_makesFresh hs hp hq hm hr hst,
    fun _ _ hp hst => partitionCreate_isRefused hp hst,
    fun _ _ hs hp hst => partitionCreateDone_clears hs hp hst⟩

end Sys2Proof.Machine
end

section
/-! PROOFS of the family 04_commands_and_tiling: how the commands of a core end (O7, O8, O9) and drain a tile (O10), which context and command a core takes next (O34), and the time limit (O36). Each row of a core is one of two frames (`RowRuns`, `RowSyncs`), from which its outcomes follow. -/
namespace Sys2Proof.Machine

/-! A command of a core run to its end. -/

section
variable {s : State} {n : Nat} {e : Exec} {mine : CmdInst → Bool} {checks : CmdInst → Exec → Checks}

theorem State.execOf_of_mine (he : (s.core n).exec = some e) (hm : mine e.cmd = true) : s.execOf n mine = some e := by
  unfold State.execOf
  rw [he, Option.filter_some, if_pos hm]

theorem State.runCore_of_passed (body : State → Nat → Exec → Run) (he : s.execOf n mine = some e) (hr : e.rejection (checks e.cmd e) = none) :
    s.runCore n mine checks body = (body s n e).st.endCore n e (body s n e).fin := by
  unfold State.runCore
  simp only [he, hr]

theorem State.runCore_of_rejected (body : State → Nat → Exec → Run) {d : Fin} (he : s.execOf n mine = some e) (hr : e.rejection (checks e.cmd e) = some d) :
    s.runCore n mine checks body = s.endCore n e d := by
  unfold State.runCore
  simp only [he, hr]

theorem State.startSync_of_rejected (body : State → Exec → State) {d : Fin} (he : s.execOf n mine = some e) (hw : e.waiting = false) (hp : e.phase = 0)
    (hr : e.rejection (checks e.cmd e) = some d) : s.startSync n mine checks body = s.endCore n e d := by
  unfold State.startSync
  simp only [he, hr, hw, hp]
  rfl

end

/-- A run that met no fault ends COMPLETE with what it wrote and counted (R209). -/
theorem Run.fin_of_complete {r : Run} (h : r.stop = none) : r.fin = { tiles := r.tiles, ctrs := r.ctrs, written := r.written, maxAbs := r.maxAbs } := by
  unfold Run.fin
  rw [h]
  rfl

/-- A run that met a fault ends on the fault's fields, with what it wrote and counted before (R209). -/
theorem Run.fin_of_stopped {r : Run} {d : Fin} (h : r.stop = some d) : r.fin = { d with tiles := r.tiles, ctrs := r.ctrs, written := r.written, maxAbs := r.maxAbs } := by
  unfold Run.fin
  rw [h]
  rfl

/-- A rejection has STATUS REJECTED, no tile and no counter, whichever record or check it comes from (R163, R902). -/
theorem rejectionOf_fields {bad : Bool} {c : CmdInst} {recs : List RecRead} {k : Checks} {d : Fin} (h : rejectionOf bad c recs k = some d) : d.status = 1 ∧ d.ctrs = [] ∧ d.tiles = 0 := by
  unfold rejectionOf at h
  split at h
  case h_1 =>
    obtain rfl := Option.some.inj h
    exact ⟨rfl, rfl, rfl⟩
  case h_2 =>
    obtain ⟨f, -, rfl⟩ := Option.map_eq_some_iff.1 h
    exact ⟨rfl, rfl, rfl⟩

/-- The row `i` runs a core's command that is its own (`State.runCore`). -/
def RowRuns (i : Nat → Instr) (mine : CmdInst → Prop) (checks : CmdInst → Exec → Checks) (body : State → Nat → Exec → Run) : Prop :=
  ∃ m : CmdInst → Bool, (∀ c, mine c → m c = true) ∧ ∀ n s, exec (i n) s = .next (s.runCore n m checks body)

/-- The row `i` starts a synchronizing command that is its own (`State.startSync`). -/
def RowSyncs (i : Nat → Instr) (mine : CmdInst → Prop) (checks : CmdInst → Exec → Checks) : Prop :=
  ∃ m : CmdInst → Bool, ∃ body : Nat → State → Exec → State, (∀ c, mine c → m c = true) ∧ ∀ n s, exec (i n) s = .next (s.startSync n m checks (body n))

section
variable {i : Nat → Instr} {mine : CmdInst → Prop} {checks : CmdInst → Exec → Checks} {body : State → Nat → Exec → Run}

theorem RowRuns.exec_of_passed (h : RowRuns i mine checks body) {n : Nat} {s : State} {e : Exec} (hs : s.starts n e (checks e.cmd e)) (hm : mine e.cmd) :
    exec (i n) s = .next ((body s n e).st.endCore n e (body s n e).fin) := by
  obtain ⟨m, hmine, hexec⟩ := h
  obtain ⟨he, -, -, hr⟩ := hs
  rw [hexec, State.runCore_of_passed body (State.execOf_of_mine he (hmine _ hm)) hr]

theorem RowRuns.completes (h : RowRuns i mine checks body) : rowCompletes i mine checks body :=
  fun _ _ _ hs hm hstop => ⟨h.exec_of_passed hs hm, Run.fin_of_complete hstop⟩

theorem RowRuns.faults (h : RowRuns i mine checks body) : rowFaults i mine checks body := by
  intro n s e d hs hm hstop
  rw [h.exec_of_passed hs hm, Run.fin_of_stopped hstop]

theorem RowRuns.rejects (h : RowRuns i mine checks body) : rowRejects i mine checks := by
  intro n s e d he _ _ hm hr
  obtain ⟨m, hmine, hexec⟩ := h
  exact ⟨by rw [hexec, State.runCore_of_rejected body (State.execOf_of_mine he (hmine _ hm)) hr], rejectionOf_fields hr⟩

theorem RowSyncs.rejects (h : RowSyncs i mine checks) : rowRejects i mine checks := by
  intro n s e d he hw hp hm hr
  obtain ⟨m, body, hmine, hexec⟩ := h
  exact ⟨by rw [hexec, State.startSync_of_rejected (body n) (State.execOf_of_mine he (hmine _ hm)) hw hp hr], rejectionOf_fields hr⟩

end

theorem nop_rowRuns : RowRuns .nop (fun c => c.op = 0x00) nopChecks fun s _ e => Run.start s e := ⟨fun c => c.op == 0x00, by simp, fun _ _ => rfl⟩
theorem matmul_rowRuns : RowRuns .matmul (fun c => c.op = 0x01) matChecks (matRun none) := ⟨fun c => c.op == 0x01, by simp, fun _ _ => rfl⟩
theorem conv_rowRuns : RowRuns .conv (fun c => c.op = 0x02 ∧ isWgrad c = false) convChecks (convRun none) := ⟨fun c => c.op == 0x02 && !isWgrad c, by simp, fun _ _ => rfl⟩
theorem convWgrad_rowRuns : RowRuns .convWgrad (fun c => isWgrad c = true) wgradChecks (wgradRun none) := ⟨isWgrad, fun _ h => h, fun _ _ => rfl⟩
theorem dwconv_rowRuns : RowRuns .dwconv (fun c => c.op = 0x03) dwChecks (dwRun none) := ⟨fun c => c.op == 0x03, by simp, fun _ _ => rfl⟩
theorem pool_rowRuns : RowRuns .pool (fun c => c.op = 0x04) poolChecks (poolRun none) := ⟨fun c => c.op == 0x04, by simp, fun _ _ => rfl⟩
theorem vop_rowRuns : RowRuns .vop (fun c => c.op = 0x10) vopChecks (vopRun none) := ⟨fun c => c.op == 0x10, by simp, fun _ _ => rfl⟩
theorem vreduce_rowRuns : RowRuns .vreduce (fun c => c.op = 0x11) vreduceChecks (vreduceRun none) := ⟨fun c => c.op == 0x11, by simp, fun _ _ => rfl⟩
theorem copy_rowRuns : RowRuns .copy (fun c => c.op = 0x20) copyChecks (copyRun none) := ⟨fun c => c.op == 0x20, by simp, fun _ _ => rfl⟩
theorem gather_rowRuns : RowRuns .gather (fun c => c.op = 0x21 ∧ c.sub ≠ 1) gatherChecks (listRun gatherOne none) := ⟨fun c => c.op == 0x21 && c.sub != 1, by simp, fun _ _ => rfl⟩
theorem scatter_rowRuns : RowRuns .scatter (fun c => c.op = 0x21 ∧ c.sub = 1) gatherChecks (listRun scatterOne none) := ⟨fun c => c.op == 0x21 && c.sub == 1, by simp, fun _ _ => rfl⟩

theorem fenceAdd_rowSyncs : RowSyncs .fenceAdd (fun c => c.op = 0x30 ∧ c.sub = 1) fenceChecks := ⟨fun c => c.op == 0x30 && c.sub == 1, _, by simp, fun _ _ => rfl⟩
theorem creditGive_rowSyncs : RowSyncs .creditGive (fun c => c.op = 0x31 ∧ c.sub = 1) creditChecks := ⟨fun c => c.op == 0x31 && c.sub == 1, _, by simp, fun _ _ => rfl⟩
theorem rowFenceClear_rowSyncs : RowSyncs .rowFenceClear (fun c => c.op = 0x32 ∧ c.sub = 1) rowFenceChecks := ⟨fun c => c.op == 0x32 && c.sub == 1, _, by simp, fun _ _ => rfl⟩

/-- Settles O7: each row runs its own command (`RowRuns`), and the run of a NOP is its start. -/
theorem matrixCommandsComplete : Obligations.MatrixCommandsComplete :=
  ⟨fun _ _ _ hs hop => nop_rowRuns.exec_of_passed hs hop, matmul_rowRuns.completes, conv_rowRuns.completes, convWgrad_rowRuns.completes, dwconv_rowRuns.completes, pool_rowRuns.completes⟩

/-- Settles O8, as O7. -/
theorem vectorAndListCommandsComplete : Obligations.VectorAndListCommandsComplete :=
  ⟨vop_rowRuns.completes, vreduce_rowRuns.completes, copy_rowRuns.completes, gather_rowRuns.completes, scatter_rowRuns.completes⟩

/-- Settles O9: what a run's end makes of its fault (`Run.fin_of_stopped`), and the fields that every rejection has (`rejectionOf_fields`). -/
theorem faultedAndRejectedCoreCommandsEnd : Obligations.FaultedAndRejectedCoreCommandsEnd :=
  ⟨matmul_rowRuns.faults, vop_rowRuns.faults, copy_rowRuns.faults, gather_rowRuns.faults, scatter_rowRuns.faults,
    nop_rowRuns.rejects, matmul_rowRuns.rejects, conv_rowRuns.rejects, convWgrad_rowRuns.rejects, dwconv_rowRuns.rejects, pool_rowRuns.rejects,
    vop_rowRuns.rejects, vreduce_rowRuns.rejects, copy_rowRuns.rejects, gather_rowRuns.rejects,
    fenceAdd_rowSyncs.rejects, creditGive_rowSyncs.rejects, rowFenceClear_rowSyncs.rejects⟩

/-! A tile drained. -/

theorem exec_tileDrain_of_gemm {n : Nat} {s : State} {e : Exec} {g : Gemm} (he : (s.core n).exec = some e) (hg : e.gemmOf = some g) : exec (.tileDrain n) s = .next (s.drainNext n e g) := by
  change execTileDrain n s = _
  unfold execTileDrain
  simp only [he, hg]

/-- Settles O10: the row drains the tile, whose number is the count of tiles drained. -/
theorem tileDrainWritesTheNextTile : Obligations.TileDrainWritesTheNextTile := by
  intro n s e g he hg x hx
  rw [exec_tileDrain_of_gemm he hg]
  unfold State.drainNext
  dsimp only
  rw [if_pos hx, hx]

/-! The choice of a context and a command. -/

section
variable {s : State} {n cc : Nat}

theorem State.makeCurrent_of_switch (h : (s.core n).cur ≠ cc) :
    s.makeCurrent n cc = ((s.discardWindow n).updCtx (s.core n).cur fun x => { x with lastCurrent := s.now }).updCore n fun x => { x with cur := cc, sliceStart := s.now, switching := true } :=
  if_neg h

theorem State.makeCurrent_of_slice (h : (s.core n).cur = cc) (ht : s.now < (s.core n).sliceStart + s.sliceLen cc) : s.makeCurrent n cc = s :=
  (if_pos h).trans (if_neg (Nat.not_le.2 ht))

theorem State.schedule_of_startable {c : CmdInst} (hc : s.choose n = some cc) (h : (s.makeCurrent n cc).startable n cc = some c) :
    s.schedule n = ((if ((s.makeCurrent n cc).core n).window.contains c then s.makeCurrent n cc else (s.makeCurrent n cc).accept c).updCore n fun k => { k with window := k.window.erase c }).startOn n c := by
  unfold State.schedule
  simp only [hc, h]

theorem exec_coreSchedule_of_free (hn : n < 384) (hf : s.coreFree n = true) : exec (.coreSchedule n) s = .next ((s.schedule n).openRange n) := by
  change execCoreSchedule n s = _
  unfold execCoreSchedule
  rw [if_pos (by simp [hn, hf])]

end

section
variable {p i : Nat} {s : State} (hp : p < 16) (hr : s.ready = true) (ha : (s.part p).st = .active) (hi : s.swapIncoming p = some i)
include hp hr ha hi

theorem exec_contextSwap_of_room (h : (s.residents p).length < s.odN (0x2000 + p) 5) : exec (.contextSwap p) s = .next (s.swapIn i) := by
  change execContextSwap p s = _
  unfold execContextSwap
  simp [hp, hr, ha, hi, h]

theorem exec_contextSwap_of_victim {v : Nat} (h : s.odN (0x2000 + p) 5 ≤ (s.residents p).length) (hv : s.swapVictim p i = some v) : exec (.contextSwap p) s = .next ((s.swapOut v).swapIn i) := by
  change execContextSwap p s = _
  unfold execContextSwap
  simp [hp, hr, ha, hi, hv, Nat.not_lt.2 h]

end

/-- Settles O34: the schedule of a free core, and the swap with room and without. -/
theorem coresChooseAndSwitchContexts : Obligations.CoresChooseAndSwitchContexts := by
  constructor
  case left =>
    intro n cc s c hn hf hc s1 h s2
    refine ⟨?_, State.makeCurrent_of_switch, State.makeCurrent_of_slice⟩
    rw [exec_coreSchedule_of_free hn hf, State.schedule_of_startable hc h]
    rfl
  case right => exact fun p i s hp hr ha hi => ⟨exec_contextSwap_of_room hp hr ha hi, fun _ => exec_contextSwap_of_victim hp hr ha hi⟩

/-! The time limit. -/

theorem exec_cmdTime_core {n closed : Nat} {s : State} {e : Exec} (he : (s.core n).exec = some e) : exec (.cmdTime (.core n) closed) s = .next (s.timeCore n closed e) := by
  change execCmdTime (.core n) closed s = _
  unfold execCmdTime
  simp only [he]

section
variable {closed : Nat} {r : Run}

/-- A run that its limit stopped, or that had more to do: the command ends on its limit (R205). -/
theorem lateFin_of_limit (h : (∃ d : Fin, r.stop = some d ∧ d.status = 0) ∨ (r.stop = none ∧ closed ≤ r.tiles)) : lateFin closed r = some { r.fin with status := 2, fault := some .cmdTime } := by
  unfold lateFin
  rcases h with ⟨d, hs, hd⟩ | ⟨hs, ht⟩
  · simp only [hs, hd, if_true]
  · simp only [hs, ht, if_true]

/-- A run that met a fault before its limit: the command ends on that fault (R208). -/
theorem lateFin_of_fault {d : Fin} (hs : r.stop = some d) (hd : d.status ≠ 0) : lateFin closed r = some r.fin := by
  unfold lateFin
  simp only [hs, hd, if_false]

end

section
variable {n closed : Nat} {s : State} {e : Exec}

theorem State.timeCore_of_waiting (hw : e.waiting = true) : s.timeCore n closed e = ((s.advance e.due).leaveOrder (.core n) 0).endCore n e (timeOf e) :=
  if_pos hw

theorem State.timeCore_of_transfer (hw : e.waiting = false) (hp : e.phase ≠ 0) :
    s.timeCore n closed e = (s.advance e.due).endCore n e { e.ending.getD (timeOf e) with status := 2, fault := some .cmdTime } := by
  unfold State.timeCore
  simp [hw, hp]

theorem State.timeCore_of_late {checks : CmdInst → Exec → Checks} {run : Option Nat → State → Nat → Exec → Run} {d : Fin} (hw : e.waiting = false) (hp : e.phase = 0)
    (ht : timedRow e.cmd = some (checks, run)) (hr : e.rejection (checks e.cmd e) = none) (hl : lateFin closed (run (some (max closed e.drained)) (s.advance e.due) n e) = some d) :
    s.timeCore n closed e = (run (some (max closed e.drained)) (s.advance e.due) n e).st.endCore n e d := by
  unfold State.timeCore
  simp [hw, hp, ht, hr, hl]

end

theorem exec_cmdTime_hubBarrier {cc closed : Nat} {s : State} {e : Exec} (he : s.hubExec cc (fun _ => true) = some e) (hb : e.cmd.isBarrier = true) (hp : e.phase ≠ 0) :
    exec (.cmdTime (.hub cc) closed) s = .next ((s.advance e.due).endHub e (timeOf e)) := by
  change Host.Outcome.next (s.timeHub cc closed) = _
  unfold State.timeHub
  simp [he, hb, hp]

theorem exec_cmdTime_update {k closed : Nat} {s : State} {e : Exec} (he : (s.engine k).exec = some e) :
    exec (.cmdTime (.update k) closed) s = .next (
      if e.phase = 1 && (s.group (s.ctxPart e.cmd.ctx) e.cmd.uGroup).step == e.cmd.uStep then
        State.settleGroup (s.ctxPart e.cmd.ctx) e.cmd.uGroup 12 (((s.advance e.due).endUpdate k e (timeOf e)).abandon (s.ctxPart e.cmd.ctx) e.cmd.uGroup (failFin .updNormAbandoned))
      else (s.advance e.due).endUpdate k e (timeOf e)) := by
  change Host.Outcome.next (s.timeUpdate k closed) = _
  unfold State.timeUpdate
  simp only [he]

theorem exec_cmdTime_reduction {cc closed entry : Nat} {s : State} {e : Exec} (he : firstDue (s.collExecs cc) = some (e, entry)) :
    exec (.cmdTime (.reduction cc) closed) s = .next (((s.advance e.due).leaveOrder (.reduction cc) e.cmd.slot).endColl e { e.ending.getD (timeOf e) with status := 2, fault := some .cmdTime, tiles := e.drained, failInfo := entry }) := by
  change Host.Outcome.next (s.timeColl cc) = _
  unfold State.timeColl
  simp only [he]

/-- Settles O36: for a core's command the three branches of `State.timeCore`, with what `lateFin` makes of its run; for each other consumer its own lemma. -/
theorem lateCommandsEndOnTheirTimeLimit : Obligations.LateCommandsEndOnTheirTimeLimit := by
  refine ⟨fun n closed s e checks run he hw hp ht hr => ?timed, fun n closed s e he => ?untimed,
    fun _ _ _ _ he hb hp => exec_cmdTime_hubBarrier he hb hp, fun _ _ _ _ he => exec_cmdTime_update he, fun _ _ _ _ _ he => exec_cmdTime_reduction he⟩
  case timed =>
    rw [exec_cmdTime_core he]
    exact ⟨fun h => congrArg _ (State.timeCore_of_late hw hp ht hr (lateFin_of_limit h)), fun d hs hd => congrArg _ (State.timeCore_of_late hw hp ht hr (lateFin_of_fault hs hd))⟩
  case untimed =>
    rw [exec_cmdTime_core he]
    exact ⟨fun hw => congrArg _ (State.timeCore_of_waiting hw), fun hw hp => congrArg _ (State.timeCore_of_transfer hw hp)⟩

end Sys2Proof.Machine
end

section
/-! PROOFS of the family 04_commands_and_tiling: the completion record (O35). What the writes of a record do on their way changes no context and no setting (`Undisturbed`), so the end of a command finds the completion ring, and the status word's address, as they were. -/
namespace Sys2Proof.Machine

/-! What memory traffic and recorded faults leave as it is: contexts and settings. -/

/-- From `s` to `t` no context changes, and the entries below 0x3000, which are settings, read as before: the counters, which all lie above, may have gone up. -/
structure Undisturbed (s t : State) : Prop where
  ctxs : t.ctxs = s.ctxs
  wf : mapWf odDefault s.od = true → mapWf odDefault t.od = true
  setting : mapWf odDefault s.od = true → ∀ k, k < odKey 0x3000 0 → mapGet odDefault t.od k = mapGet odDefault s.od k

theorem Undisturbed.of_eq {s t : State} (hc : t.ctxs = s.ctxs) (ho : t.od = s.od) : Undisturbed s t := ⟨hc, fun h => by rw [ho]; exact h, fun _ _ _ => by rw [ho]⟩

theorem Undisturbed.refl (s : State) : Undisturbed s s := .of_eq rfl rfl

theorem Undisturbed.trans {s t u : State} (h : Undisturbed s t) (k : Undisturbed t u) : Undisturbed s u :=
  ⟨k.ctxs.trans h.ctxs, fun hw => k.wf (h.wf hw), fun hw key hk => (k.setting (h.wf hw) key hk).trans (h.setting hw key hk)⟩

theorem Undisturbed.odN {s t : State} (h : Undisturbed s t) (hw : mapWf odDefault s.od = true) {ix sub : Nat} (hix : ix < 0x3000) (hsub : sub < 256) : t.odN ix sub = s.odN ix sub :=
  congrArg BitVec.toNat (h.setting hw _ (by unfold odKey; omega))

theorem Undisturbed.ite {c : Prop} [Decidable c] {s t u : State} (ht : Undisturbed s t) (hu : Undisturbed s u) : Undisturbed s (if c then t else u) := by
  split
  · exact ht
  · exact hu

theorem undisturbed_foldl {α : Type} {f : State → α → State} (hf : ∀ s a, Undisturbed s (f s a)) (l : List α) (s : State) : Undisturbed s (l.foldl f s) := by
  induction l generalizing s with
  | nil => exact .refl s
  | cons a l ih => exact (hf s a).trans (ih _)

section
variable (s : State)

theorem State.odAdd_undisturbed {ix : Nat} (sub n : Nat) (h : 0x3000 ≤ ix) : Undisturbed s (s.odAdd ix sub n) := by
  unfold State.odAdd
  split
  · refine ⟨rfl, mapWf_put _ _, fun hw k hk => ?_⟩
    exact (mapGet_put _ _ 0 _ _ _ hw).trans (if_neg (by unfold odKey at hk ⊢; omega))
  · exact .refl s

theorem State.odInc_undisturbed {ix : Nat} (sub : Nat) (h : 0x3000 ≤ ix) : Undisturbed s (s.odInc ix sub) := s.odAdd_undisturbed sub 1 h

theorem State.withHbm_undisturbed (f : Hbm → Hbm) : Undisturbed s (s.withHbm f) := .of_eq rfl rfl

theorem State.withDiag_undisturbed (f : Diag → Diag) : Undisturbed s (s.withDiag f) := .of_eq rfl rfl

theorem State.withMgmt_undisturbed (f : Mgmt → Mgmt) : Undisturbed s (s.withMgmt f) := .of_eq rfl rfl

theorem State.passArb_undisturbed (dom k inst : Nat) (part : Option Nat) (units : Nat) : Undisturbed s (s.passArb dom k inst part units) := .of_eq rfl rfl

theorem State.crossMesh_undisturbed (a b : Nat) (part : Option Nat) (n : Nat) : Undisturbed s (s.crossMesh a b part n) :=
  undisturbed_foldl (fun t i => t.passArb_undisturbed _ _ i _ _) _ _

theorem State.cross_undisturbed (w : Who) (write : Bool) (a n : Nat) : Undisturbed s (s.cross w write a n) := by
  unfold State.cross
  dsimp only
  have h1 := Undisturbed.ite (c := write = true) (s.crossMesh_undisturbed w.die (s.dieOf a) w.part n)
    ((s.crossMesh_undisturbed w.die (s.dieOf a) w.part 0).trans (State.crossMesh_undisturbed _ (s.dieOf a) w.die w.part n))
  generalize (if write = true then s.crossMesh w.die (s.dieOf a) w.part n else (s.crossMesh w.die (s.dieOf a) w.part 0).crossMesh (s.dieOf a) w.die w.part n) = t at h1 ⊢
  have h2 : Undisturbed s (match region a with
      | 0x00 => t.passArb (s.dieOf a) 0 (s.dieOf a) w.part (ceilDiv n 32)
      | 0x01 => t.passArb (s.dieOf a) 4 (cellarPackage (offset a)) w.part (ceilDiv n 32)
      | _ => t) := by
    split
    · exact h1.trans (t.passArb_undisturbed _ _ _ _ _)
    · exact h1.trans (t.passArb_undisturbed _ _ _ _ _)
    · exact h1
  exact .ite (h2.trans (State.passArb_undisturbed _ _ _ _ _ _)) h2

theorem State.serve_undisturbed (o : Nat) (part : Option Nat) : Undisturbed s (s.serve o part) := .of_eq rfl rfl

theorem State.freshSector_undisturbed (o : Nat) : Undisturbed s (s.freshSector o) := .of_eq rfl rfl

theorem State.cleanCopy_undisturbed (o : Nat) : Undisturbed s (s.cleanCopy o) := .of_eq rfl rfl

theorem State.dropStale_undisturbed (o : Nat) : Undisturbed s (s.dropStale o) := .of_eq rfl rfl

theorem State.updLine_undisturbed (d line : Nat) (f : LarderLine → LarderLine) : Undisturbed s (s.updLine d line f) := .of_eq rfl rfl

theorem State.keepStale_undisturbed (o : Nat) : Undisturbed s (s.keepStale o) := .ite (.refl s) (.of_eq rfl rfl)

theorem State.touchLine_undisturbed (d line hint : Nat) : Undisturbed s (s.touchLine d line hint) := .ite (.refl s) (.of_eq rfl rfl)

theorem State.writeBack_undisturbed (x : LarderLine) : Undisturbed s (s.writeBack x) := by
  have written : ∀ (t : State) (o : Nat), Undisturbed t (((t.dropStale o).freshSector o).serve o x.owner) := fun t o =>
    ((t.dropStale_undisturbed o).trans ((t.dropStale o).freshSector_undisturbed o)).trans (State.serve_undisturbed _ o x.owner)
  unfold State.writeBack
  refine undisturbed_foldl (fun t e => ?_) _ _
  split
  · exact written t e.1
  · exact .refl t

theorem State.evict_undisturbed (x : LarderLine) : Undisturbed s (s.evict x) :=
  ((s.writeBack_undisturbed x).trans (undisturbed_foldl (fun t o => t.cleanCopy_undisturbed o) (s.lineSectors x) _)).trans (.of_eq rfl rfl)

variable {s} in
theorem State.allocate_undisturbed {t : State} {o : Nat} {part : Option Nat} {keep : Bool} {secs : List SectorSt} (h : s.allocate o part keep secs = some t) : Undisturbed s t := by
  unfold State.allocate at h
  dsimp only at h
  split at h
  · cases h
  · rename_i old _
    cases h
    cases old with
    | none => exact .of_eq rfl rfl
    | some x => exact (s.evict_undisturbed x).trans (.of_eq rfl rfl)

theorem State.dropSector_undisturbed (o : Nat) : Undisturbed s (s.dropSector o) := by
  unfold State.dropSector
  dsimp only
  split
  · exact .refl s
  · have restored : Undisturbed s (match s.larder.stale.find? (fun e => e.1 == o / 32) with
        | some e => { s with mem := memPutBytes s.mem (32 * (o / 32)) e.2 }
        | none => s) := by
      split
      · exact .of_eq rfl rfl
      · exact .refl s
    have cleaned := restored.trans ((State.dropStale_undisturbed _ o).trans (State.cleanCopy_undisturbed _ o))
    exact .ite (cleaned.trans (.of_eq rfl rfl)) (cleaned.trans (State.updLine_undisturbed _ _ _ _))

theorem State.corrected_undisturbed (o : Nat) : Undisturbed s (s.corrected o) := s.odInc_undisturbed 9 (by omega)

theorem State.fetchHbm_undisturbed (o : Nat) (part : Option Nat) : Undisturbed s (s.fetchHbm o part) :=
  (s.serve_undisturbed o part).trans (.ite ((State.withHbm_undisturbed _ _).trans (State.corrected_undisturbed _ o)) (.refl _))

theorem State.checkCopy_undisturbed (o : Nat) (st : SectorSt) (part : Option Nat) : Undisturbed s (s.checkCopy o st part) :=
  .ite ((s.cleanCopy_undisturbed o).trans (State.corrected_undisturbed _ _))
    (.ite ((s.fetchHbm_undisturbed o part).trans ((State.cleanCopy_undisturbed _ _).trans (State.corrected_undisturbed _ _))) (.refl s))

theorem State.writeHbm_undisturbed (o : Nat) (full : Bool) (part : Option Nat) : Undisturbed s (s.writeHbm o full part) :=
  .ite ((s.freshSector_undisturbed o).trans (State.serve_undisturbed _ _ _)) ((s.fetchHbm_undisturbed o part).trans (State.serve_undisturbed _ _ _))

theorem State.readSector_undisturbed (o hint : Nat) (part : Option Nat) : Undisturbed s (s.readSector o hint part) := by
  have inc : ∀ n, Undisturbed s (s.odInc (0x3010 + s.homeDie o) n) := fun n => s.odInc_undisturbed n (by omega)
  have fetched := (inc 8).trans (State.fetchHbm_undisturbed _ o part)
  have passed : ∀ (t : State) d l, Undisturbed s t → Undisturbed s (if hint = 3 then (t.touchLine d l hint).dropSector o else t.touchLine d l hint) := fun t d l ht =>
    (ht.trans (t.touchLine_undisturbed d l hint)).trans (.ite (State.dropSector_undisturbed _ o) (.refl _))
  unfold State.readSector
  dsimp only
  split
  · split
    · exact passed _ _ _ ((inc 7).trans (State.checkCopy_undisturbed _ _ _ _))
    · exact passed _ _ _ (.ite fetched (fetched.trans (State.updLine_undisturbed _ _ _ _)))
  · split
    · exact fetched
    · split
      next ht => exact ((inc 8).trans (State.allocate_undisturbed ht)).trans (undisturbed_foldl (fun t j => t.fetchHbm_undisturbed _ part) _ _)
      next => exact fetched

theorem State.writeSector_undisturbed (o hint : Nat) (full : Bool) (part : Option Nat) : Undisturbed s (s.writeSector o hint full part) := by
  have inc : ∀ n, Undisturbed s (s.odInc (0x3010 + s.homeDie o) n) := fun n => s.odInc_undisturbed n (by omega)
  have dirty : ∀ (t : State) (d l i : Nat), Undisturbed s t → Undisturbed s (((t.keepStale o).updLine d l fun y => { y with sectors := modAt y.sectors i fun _ => .dirty }).touchLine d l hint) :=
    fun t d l i ht => ht.trans ((t.keepStale_undisturbed o).trans ((State.updLine_undisturbed _ _ _ _).trans (State.touchLine_undisturbed _ _ _ _)))
  have fetched : ∀ t : State, Undisturbed t (if full then t else t.fetchHbm o part) := fun t => .ite (.refl t) (t.fetchHbm_undisturbed o part)
  have passed := (inc 8).trans (State.writeHbm_undisturbed _ o full part)
  unfold State.writeSector
  dsimp only
  split
  · split
    · exact dirty _ _ _ _ ((inc 7).trans (.ite (State.cleanCopy_undisturbed _ o) (State.checkCopy_undisturbed _ _ _ _)))
    · exact .ite passed (dirty _ _ _ _ ((inc 8).trans (fetched _)))
  · split
    · exact passed
    · split
      next ht => exact (((inc 8).trans (State.allocate_undisturbed ht)).trans (fetched _)).trans (State.keepStale_undisturbed _ o)
      next => exact passed

theorem State.charge_undisturbed (w : Who) (dom r inst n : Nat) : Undisturbed s (s.charge w dom r inst n) := by
  have h1 : Undisturbed s (match w.part with
      | some p => s.odAdd (0x6000 + p) (r + 1) n
      | none => s.odAdd 0x6010 (r + 1) n) := by
    split <;> exact s.odAdd_undisturbed _ _ (by omega)
  have h2 : ∀ t : State, Undisturbed t (match w.ctx with
      | some cc => t.odAdd (0x6300 + cc) 4 n
      | none => t) := by
    intro t
    split
    · exact t.odAdd_undisturbed _ _ (by omega)
    · exact .refl t
  exact (h1.trans (h2 _)).trans (.of_eq rfl rfl)

theorem State.readCellar_undisturbed (a : Nat) : Undisturbed s (s.readCellar a) :=
  .ite ((s.withHbm_undisturbed _).trans (State.odInc_undisturbed _ (ix := 0x3100) 2 (by omega))) (.refl s)

theorem State.readSram_undisturbed (a n : Nat) : Undisturbed s (s.readSram a n) := .ite (.refl s) (s.odAdd_undisturbed _ _ (by omega))

theorem State.backInvalidate_undisturbed (write : Bool) (a n : Nat) : Undisturbed s (s.backInvalidate write a n) := by
  have h : ∀ l : List Nat, Undisturbed s (l.foldl (fun (x : State) l => x.emit (.snoop l write)) s) :=
    fun l => undisturbed_foldl (f := fun (x : State) l => x.emit (.snoop l write)) (fun _ _ => .of_eq rfl rfl) l s
  exact .ite (.refl s) (.ite ((h _).trans (.of_eq rfl rfl)) (h _))

theorem State.touchSector_undisturbed (w : Who) (hint dom r inst a : Nat) : Undisturbed s (s.touchSector w hint dom r inst a) :=
  .ite ((s.cross_undisturbed w false a 32).trans ((State.readSector_undisturbed _ _ _ _).trans (State.charge_undisturbed _ _ _ _ _ _)))
    ((s.cross_undisturbed w false a 32).trans (State.readCellar_undisturbed _ _))

theorem State.passSector_undisturbed (w : Who) (hint dom r inst : Nat) (full : Bool) (a : Nat) : Undisturbed s (s.passSector w hint dom r inst full a) :=
  (s.cross_undisturbed w true a 32).trans (.ite ((State.writeSector_undisturbed _ _ _ _ _).trans (State.charge_undisturbed _ _ _ _ _ _)) (.ite (.refl _) (State.readCellar_undisturbed _ _)))

/-- A read changes no context and no setting, whatever it does on its way. -/
theorem State.touch_undisturbed (w : Who) (hint a n : Nat) : Undisturbed s (s.touch w hint a n) := by
  have crossed := (s.backInvalidate_undisturbed false a n).trans (State.cross_undisturbed _ w false a n)
  unfold State.touch
  dsimp only
  split
  · exact crossed.trans (State.readSram_undisturbed _ a n)
  · next dom r inst _ =>
    have sectors := (s.backInvalidate_undisturbed false a n).trans (undisturbed_foldl (fun t x => t.touchSector_undisturbed w hint dom r inst x) (sectorsOf a n) _)
    exact .ite sectors (.ite (sectors.trans (State.charge_undisturbed _ _ _ _ _ _)) (crossed.trans (State.charge_undisturbed _ _ _ _ _ _)))

theorem State.passWrite_undisturbed (w : Who) (hint a n : Nat) (sectors : List Nat) (full : Nat → Bool) : Undisturbed s (s.passWrite w hint a n sectors full) := by
  have crossed := s.cross_undisturbed w true a n
  unfold State.passWrite
  split
  · exact crossed
  · next dom r inst _ =>
    have passed := undisturbed_foldl (fun t x => t.passSector_undisturbed w hint dom r inst (full x) x) sectors s
    exact .ite passed (.ite (passed.trans (State.charge_undisturbed _ _ _ _ _ _)) (crossed.trans (State.charge_undisturbed _ _ _ _ _ _)))

theorem State.healed_undisturbed (a n : Nat) : Undisturbed s (s.healed a n) := .ite (.refl s) (.ite (.of_eq rfl rfl) (.of_eq rfl rfl))

/-- A store changes no context and no setting, whatever it does on its way. -/
theorem State.store_undisturbed (w : Who) (hint a : Nat) (bs : List Byte) : Undisturbed s (s.store w hint a bs) :=
  ((s.backInvalidate_undisturbed true a bs.length).trans ((State.passWrite_undisturbed _ _ _ _ _ _ _).trans (State.healed_undisturbed _ _ _))).trans (.of_eq rfl rfl)

theorem State.cacheLine_undisturbed (a : Nat) (dirty : Bool) : Undisturbed s (s.cacheLine a dirty) := .ite (.of_eq rfl rfl) (.refl s)

/-! Faults recorded. -/

theorem State.msix_od (v : Nat) : (s.msix v).od = s.od := by
  obtain ⟨bits, out, h⟩ := s.msix_eq v
  rw [h]

theorem State.msix_undisturbed (v : Nat) : Undisturbed s (s.msix v) := .of_eq (s.msix_reported v).ctxs (s.msix_od v)

theorem State.flight_undisturbed (kind object old new : Nat) (body : Option FaultRec) : Undisturbed s (s.flight kind object old new body) :=
  .ite (s.odInc_undisturbed 3 (by omega)) (.of_eq rfl rfl)

theorem State.recordRaw_undisturbed (r : FaultRec) : Undisturbed s (s.recordRaw r) := by
  have h : ∀ body, Undisturbed s (State.flight { s with diag := { s.diag with ring := ({ r with time := s.now, seq := s.diag.raised + 1 } :: s.diag.ring).take 4096, raised := s.diag.raised + 1 } } 1 0 0 0 body) :=
    fun _ => (s.withDiag_undisturbed fun d => { d with ring := _, raised := _ }).trans (State.flight_undisturbed _ _ _ _ _ _)
  unfold State.recordRaw
  dsimp only
  split
  case h_1 | h_2 | h_3 => exact (h _).trans (State.msix_undisturbed _ _)
  case h_4 | h_5 => exact h _

theorem State.sendMgmt_undisturbed (typ seq : Nat) (payload : List Byte) : Undisturbed s (s.sendMgmt typ seq payload) := .ite (.refl s) (.of_eq rfl rfl)

theorem State.queueEvent_undisturbed (r : FaultRec) : Undisturbed s (s.queueEvent r).1 := by
  have h : ∀ (f : Mgmt → Mgmt) (bs : List Byte), Undisturbed s ((s.withMgmt f).sendMgmt 0x0E 0 bs) := fun f _ => (s.withMgmt_undisturbed f).trans (State.sendMgmt_undisturbed _ _ _ _)
  unfold State.queueEvent
  dsimp only
  split
  · exact .refl s
  · split
    · exact h (fun m => { m with events := _, nextEvent := _ }) _
    · split
      · exact h (fun m => { m with events := _, nextEvent := _ }) _
      · exact .refl s

theorem State.recordLimited_undisturbed (r : FaultRec) (key : Nat) : Undisturbed s (s.recordLimited r key) := by
  have h : ∀ (x : FaultRec) (f : Diag → Diag) (y : FaultRec), Undisturbed s (((s.recordRaw x).withDiag f).queueEvent y).1 :=
    fun x f y => (s.recordRaw_undisturbed x).trans ((State.withDiag_undisturbed _ f).trans (State.queueEvent_undisturbed _ y))
  unfold State.recordLimited
  split
  · exact .ite (.of_eq rfl rfl) (h _ (fun d => { d with limits := _ }) _)
  · exact h _ (fun d => { d with limits := _ }) _

/-- A fault recorded changes no context and no setting. -/
theorem State.record_undisturbed (r : FaultRec) : Undisturbed s (s.record r) :=
  ((s.recordRaw_undisturbed r).trans (State.queueEvent_undisturbed _ _)).trans (.ite (State.recordLimited_undisturbed _ _ _) (.refl _))

theorem State.dirtyLost_undisturbed (o : Nat) : Undisturbed s (s.dirtyLost o) := by
  unfold State.dirtyLost
  exact ((s.dropSector_undisturbed o).trans (State.record_undisturbed _ _)).trans (State.withDiag_undisturbed _ _)

theorem State.countFault_undisturbed (c : Code) (a : Nat) : Undisturbed s (s.countFault c a) := by
  unfold State.countFault
  refine .ite ?_ (.refl s)
  unfold State.countUncorrectable
  split
  · exact .ite (.ite (s.dirtyLost_undisturbed _) (.refl s)) (.ite (s.odInc_undisturbed _ (by omega)) (.refl s))
  · exact s.odInc_undisturbed _ (by omega)
  · exact .refl s

/-- The tensor monitor changes no context and no setting (R557, R563). -/
theorem State.monitor_undisturbed (c : CmdInst) (d : Fin) : Undisturbed s (s.monitor c d) := by
  have counted : ∀ o : Option (Code × Nat), Undisturbed s (o.elim s fun f => s.countFault f.1 f.2) := by
    rintro (_ | f)
    · exact .refl s
    · exact s.countFault_undisturbed f.1 f.2
  unfold State.monitor
  dsimp only
  refine .ite (.refl s) (.ite ((counted _).trans (State.record_undisturbed _ _)) ?_)
  exact ((s.touch_undisturbed _ _ _ _).trans (State.store_undisturbed _ _ _ _ _)).trans (undisturbed_foldl (fun t _ => t.record_undisturbed _) _ _)

end

/-! The end of a command. -/

/-- The address of the completion entry that CQ_TAIL names (R749). -/
def State.recordAddr (s : State) (cc : Nat) : Nat := s.odN (0x2200 + cc) 12 + 128 * ((s.ctx cc).cqTail % max 1 (s.odN (0x2200 + cc) 13))

/-- The command accumulated and its completion record stored (R557, R759). -/
def State.recordStored (s : State) (c : CmdInst) (core start : Nat) (d : Fin) : State :=
  ((s.monitor c d).cacheLine (s.recordAddr c.ctx) true).store (s.whoCtx c.ctx none) 0 (s.recordAddr c.ctx) (bytesOfWords (recordWords c core start s.now d))

/-- CQ_TAIL raised and the slot freed (R755, R759). -/
def State.slotReturned (s : State) (c : CmdInst) : State := (s.updCtx c.ctx fun y => { y with cqTail := y.cqTail + 1 }).freeSlot c.ctx c.slot

/-- An ended command counted for its context, once more where it was REJECTED or FAULTED. -/
def State.endCounted (s : State) (c : CmdInst) (d : Fin) : State :=
  if d.status = 1 || d.status = 2 then (s.odInc (0x6300 + c.ctx) 2).odInc (0x6300 + c.ctx) 3 else s.odInc (0x6300 + c.ctx) 2

/-- The status word written, and the trigger where the command asks for one or did not end COMPLETE (R760, R761). -/
def State.announced (s : State) (c : CmdInst) (d : Fin) : State :=
  if c.irq || d.status != 0 then (s.statusWord c.ctx).trigger c.ctx else s.statusWord c.ctx

section
variable {s : State} {c : CmdInst} {core start : Nat} {d : Fin}

theorem State.complete_of_writable (h : s.recordFault (s.whoCtx c.ctx none) (s.recordAddr c.ctx) 128 = none) :
    s.complete c core start d = (((s.recordStored c core start d).slotReturned c).endCounted c d).announced c d := by
  unfold State.recordAddr at h
  unfold State.complete
  simp only [h]
  rfl

theorem State.monitor_of_unmonitored (h : c.mon = 0) : s.monitor c d = s := if_pos (by simp [h])

theorem State.cacheLine_mem (a : Nat) (dirty : Bool) : (s.cacheLine a dirty).mem = s.mem := by
  unfold State.cacheLine
  split <;> rfl

theorem State.recordStored_undisturbed : Undisturbed s (s.recordStored c core start d) :=
  ((s.monitor_undisturbed c d).trans (State.cacheLine_undisturbed _ _ _)).trans (State.store_undisturbed _ _ _ _ _)

theorem State.recordStored_mem : (s.recordStored c core start d).mem = memPutBytes (s.monitor c d).mem (s.recordAddr c.ctx) (bytesOfWords (recordWords c core start s.now d)) := by
  unfold State.recordStored
  rw [State.store_mem, State.cacheLine_mem]

theorem State.slotReturned_mem : (s.slotReturned c).mem = s.mem := rfl

theorem State.slotReturned_od : (s.slotReturned c).od = s.od := rfl

theorem State.slotReturned_ctxs_length : (s.slotReturned c).ctxs.length = s.ctxs.length := (modAt_length _ _ _).trans (modAt_length _ _ _)

theorem State.slotReturned_ctx (h : c.ctx < s.ctxs.length) :
    ((s.slotReturned c).ctx c.ctx).cqTail = (s.ctx c.ctx).cqTail + 1
      ∧ ((s.slotReturned c).ctx c.ctx).sqHead = (freeSlots ((s.ctx c.ctx).freed.length + 1) (s.ctx c.ctx).sqHead (c.slot :: (s.ctx c.ctx).freed)).1 := by
  unfold State.slotReturned State.freeSlot
  rw [State.updCtx_ctx (by rw [State.updCtx_ctxs, modAt_length]; exact h), State.updCtx_ctx h]
  exact ⟨rfl, rfl⟩

theorem State.endCounted_undisturbed : Undisturbed s (s.endCounted c d) :=
  have h := s.odInc_undisturbed (ix := 0x6300 + c.ctx) 2 (by omega)
  .ite (h.trans (State.odInc_undisturbed _ _ (by omega))) h

theorem State.endCounted_mem : (s.endCounted c d).mem = s.mem := by
  have h := (s.odInc_quiet (0x6300 + c.ctx) 2).mem
  unfold State.endCounted
  split
  · rw [(State.odInc_quiet _ _ _).mem, h]
  · exact h

theorem State.trigger_cases (s : State) (cc : Nat) :
    s.trigger cc = s ∨ s.trigger cc = ((s.msix (s.odN (0x2200 + cc) 15)).updCtx cc fun x => { x with lastMsg := some s.now }) ∨ s.trigger cc = s.updCtx cc fun x => { x with trigger := true } := by
  unfold State.trigger
  dsimp only
  split
  · exact .inl rfl
  · split
    · split
      · exact .inr (.inl rfl)
      · exact .inr (.inr rfl)
    · exact .inr (.inl rfl)

/-- A context's trigger changes no byte of memory, and of the context only whether one is held and when the last message left (R761). -/
theorem State.trigger_mem_ctx {cc : Nat} (h : cc < s.ctxs.length) :
    (s.trigger cc).mem = s.mem ∧ ∃ held sent, (s.trigger cc).ctx cc = { s.ctx cc with trigger := held, lastMsg := sent } := by
  rcases s.trigger_cases cc with ht | ht | ht <;> rw [ht]
  · exact ⟨rfl, _, _, rfl⟩
  · have hm := s.msix_reported (s.odN (0x2200 + cc) 15)
    refine ⟨hm.mem, (s.ctx cc).trigger, some s.now, ?_⟩
    rw [State.updCtx_ctx (by rw [hm.ctxs]; exact h)]
    unfold State.ctx
    rw [hm.ctxs]
  · exact ⟨rfl, true, (s.ctx cc).lastMsg, State.updCtx_ctx h⟩

/-- Where a context has no status word, what is told of an end changes no byte of memory and neither count of its rings. -/
theorem State.announced_of_noStatusWord (h : c.ctx < s.ctxs.length) (h0 : s.odN (0x2200 + c.ctx) 14 = 0) :
    ((s.announced c d).ctx c.ctx).cqTail = (s.ctx c.ctx).cqTail ∧ ((s.announced c d).ctx c.ctx).sqHead = (s.ctx c.ctx).sqHead ∧ (s.announced c d).mem = s.mem := by
  have hw : s.statusWord c.ctx = s := if_pos h0
  unfold State.announced
  rw [hw]
  split
  · obtain ⟨hm, _, _, hx⟩ := State.trigger_mem_ctx h
    rw [hx]
    exact ⟨rfl, rfl, hm⟩
  · exact ⟨rfl, rfl, rfl⟩

/-- The end of a command whose record can be written, in a context without a status word: memory and both counts of its rings (R755, R759). -/
theorem State.complete_of_noStatusWord (hs : s.Sound) (hc : c.ctx < 256) (h : s.recordFault (s.whoCtx c.ctx none) (s.recordAddr c.ctx) 128 = none) (h0 : s.odN (0x2200 + c.ctx) 14 = 0) :
    ((s.complete c core start d).ctx c.ctx).cqTail = (s.ctx c.ctx).cqTail + 1
      ∧ ((s.complete c core start d).ctx c.ctx).sqHead = (freeSlots ((s.ctx c.ctx).freed.length + 1) (s.ctx c.ctx).sqHead (c.slot :: (s.ctx c.ctx).freed)).1
      ∧ (s.complete c core start d).mem = memPutBytes (s.monitor c d).mem (s.recordAddr c.ctx) (bytesOfWords (recordWords c core start s.now d)) := by
  obtain ⟨-, ⟨-, hlen, -⟩, -, hod, -⟩ := hs
  have hr : Undisturbed s (s.recordStored c core start d) := State.recordStored_undisturbed
  rw [State.complete_of_writable h, ← State.recordStored_mem]
  generalize s.recordStored c core start d = t at hr ⊢
  have htl : c.ctx < t.ctxs.length := by rw [hr.ctxs, hlen]; exact hc
  have ht0 : t.odN (0x2200 + c.ctx) 14 = 0 := (hr.odN hod (by omega) (by omega)).trans h0
  have htx : t.ctx c.ctx = s.ctx c.ctx := by unfold State.ctx; rw [hr.ctxs]
  obtain ⟨hq, hsq⟩ := State.slotReturned_ctx (c := c) htl
  have hu : Undisturbed (t.slotReturned c) ((t.slotReturned c).endCounted c d) := State.endCounted_undisturbed
  have hul : c.ctx < ((t.slotReturned c).endCounted c d).ctxs.length := by rw [hu.ctxs, State.slotReturned_ctxs_length]; exact htl
  have hu0 : ((t.slotReturned c).endCounted c d).odN (0x2200 + c.ctx) 14 = 0 := (hu.odN (by rw [State.slotReturned_od]; exact hr.wf hod) (by omega) (by omega)).trans ht0
  have hux : ((t.slotReturned c).endCounted c d).ctx c.ctx = (t.slotReturned c).ctx c.ctx := by unfold State.ctx; rw [hu.ctxs]
  obtain ⟨hvq, hvsq, hvm⟩ := State.announced_of_noStatusWord (d := d) hul hu0
  exact ⟨by rw [hvq, hux, hq, htx], by rw [hvsq, hux, hsq, htx], by rw [hvm, State.endCounted_mem, State.slotReturned_mem]⟩

end

theorem exec_interruptHoldoffEnd_of_held {cc : Nat} {s : State} (h : (s.ctx cc).trigger = true) :
    exec (.interruptHoldoffEnd cc) s = .next (((s.advance ((s.ctx cc).lastMsg.getD 0 + s.odN (0x2200 + cc) 16)).msix (s.odN (0x2200 + cc) 15)).updCtx cc fun y =>
      { y with trigger := false, lastMsg := some (s.advance ((s.ctx cc).lastMsg.getD 0 + s.odN (0x2200 + cc) 16)).now }) := by
  change execInterruptHoldoffEnd cc s = _
  unfold execInterruptHoldoffEnd
  simp only [h, if_true]

/-- Settles O35: the end of a command by `State.complete_of_noStatusWord`, where the ring has an entry, and the end of the holdoff. -/
theorem completionRecordsGoToTheEntryOfCqTail : Obligations.CompletionRecordsGoToTheEntryOfCqTail := by
  constructor
  case left =>
    intro s c core start d hs hc ix a hring hf h0
    have ha : s.recordAddr c.ctx = a := by
      unfold State.recordAddr
      rw [Nat.max_eq_right hring]
    rw [← ha] at hf ⊢
    obtain ⟨hq, hsq, hmem⟩ := State.complete_of_noStatusWord (core := core) (start := start) (d := d) hs hc hf h0
    exact ⟨hq, hsq, hmem, State.monitor_of_unmonitored⟩
  case right => exact fun _ _ h => exec_interruptHoldoffEnd_of_held h

end Sys2Proof.Machine
end

section
/-! PROOFS of the family 05_convolution: ROW_FENCE WAIT and CLEAR (O19). Both rows are the frame of the synchronizing commands (`State.startSync`), which runs the row's body on a command that has started. -/
namespace Sys2Proof.Machine

/-! A synchronizing command of a core that has started. -/

section
variable {s : State} {n : Nat} {e : Exec} {mine : CmdInst → Bool} {checks : CmdInst → Exec → Checks}

theorem State.startSync_of_starts (body : State → Exec → State) (hs : s.starts n e (checks e.cmd e)) (hm : mine e.cmd = true) :
    s.startSync n mine checks body = body s e := by
  obtain ⟨he, hw, hp, hr⟩ := hs
  unfold State.startSync
  simp only [State.execOf_of_mine he hm, hw, hp, hr]
  rfl

end

/-! ROW_FENCE on a command that has started. -/

section
variable {s : State} {n : Nat} {e : Exec}

theorem exec_rowFenceWait_of_starts (hs : s.starts n e (rowFenceChecks e.cmd e)) (hop : e.cmd.op = 0x32) (hsub : e.cmd.sub = 0) :
    exec (.rowFenceWait n) s = .next (if s.rowHolds e.cmd then s.endCore n e {} else s.waitOn n e) := by
  change execRowFenceWait n s = _
  unfold execRowFenceWait
  rw [State.startSync_of_starts _ hs (by simp [hop, hsub])]

theorem exec_rowFenceClear_of_starts (hs : s.starts n e (rowFenceChecks e.cmd e)) (hop : e.cmd.op = 0x32) (hsub : e.cmd.sub = 1) :
    exec (.rowFenceClear n) s = .next ((s.updPart (s.ctxPart e.cmd.ctx) fun x => { x with rows := x.rows.filter fun b => !(rowCovers e.cmd b) }).endCore n e {}) := by
  change execRowFenceClear n s = _
  unfold execRowFenceClear
  rw [State.startSync_of_starts _ hs (by simp [hop, hsub])]

theorem exec_rowFenceWaitComplete_of_rowHolds (he : (s.core n).exec = some e) (hw : e.waiting = true) (hop : e.cmd.op = 0x32) (hsub : e.cmd.sub = 0) (hh : s.rowHolds e.cmd = true) :
    exec (.rowFenceWaitComplete n) s = .next (s.endCore n e {}) := by
  have hmine : s.execOf n (fun c => c.op == 0x32 && c.sub == 0) = some e := State.execOf_of_mine he (by simp [hop, hsub])
  change execRowFenceWaitComplete n s = _
  unfold execRowFenceWaitComplete
  simp only [hmine, hw, hh]
  rfl

end

/-- Settles O19: a WAIT that starts, by whether its covered bits are all set; a CLEAR that starts; and a WAIT that waits when its bits are all set. -/
theorem rowFencesComplete : Obligations.RowFencesComplete := by
  refine ⟨fun n s e hs hop hsub => ⟨fun hset => ?complete, fun hunset => ?wait⟩, fun n s e hs hop hsub => exec_rowFenceClear_of_starts hs hop hsub,
    fun n s e he hw hop hsub hh => exec_rowFenceWaitComplete_of_rowHolds he hw hop hsub hh⟩
  case complete => rw [exec_rowFenceWait_of_starts hs hop hsub, if_pos hset]
  case wait => rw [exec_rowFenceWait_of_starts hs hop hsub, if_neg (by simp [hunset])]

end Sys2Proof.Machine
end

section
/-! PROOFS of the family 06_hbm_and_larder: what memory traffic, recorded faults and the ends of commands leave as it is. -/
namespace Sys2Proof.Machine

/-- From `s` to `t` no core, nothing of the supply and nothing of the Attic changes. -/
structure Beside (s t : State) : Prop where
  cores : t.cores = s.cores
  pwr : t.pwr = s.pwr
  tier : t.tier = s.tier

theorem Beside.refl (s : State) : Beside s s := ⟨rfl, rfl, rfl⟩

theorem Beside.trans {s t u : State} (h : Beside s t) (k : Beside t u) : Beside s u := ⟨k.cores.trans h.cores, k.pwr.trans h.pwr, k.tier.trans h.tier⟩

theorem Beside.ite {c : Prop} [Decidable c] {s t u : State} (ht : Beside s t) (hu : Beside s u) : Beside s (if c then t else u) := by
  split
  · exact ht
  · exact hu

theorem beside_foldl {α : Type} {f : State → α → State} (hf : ∀ s a, Beside s (f s a)) (l : List α) (s : State) : Beside s (l.foldl f s) := by
  induction l generalizing s with
  | nil => exact .refl s
  | cons a l ih => exact (hf s a).trans (ih _)

theorem Reported.beside {s t : State} : Reported s t → Beside s t := by
  rintro ⟨_, _, _, _, _, rfl⟩
  exact ⟨rfl, rfl, rfl⟩

section
variable (s : State)

theorem State.odAdd_beside (ix sub n : Nat) : Beside s (s.odAdd ix sub n) := by
  obtain ⟨od, h⟩ := s.odAdd_eq ix sub n
  rw [h]
  exact ⟨rfl, rfl, rfl⟩

theorem State.odInc_beside (ix sub : Nat) : Beside s (s.odInc ix sub) := s.odAdd_beside ix sub 1

theorem State.withHbm_beside (f : Hbm → Hbm) : Beside s (s.withHbm f) := ⟨rfl, rfl, rfl⟩

theorem State.withDiag_beside (f : Diag → Diag) : Beside s (s.withDiag f) := ⟨rfl, rfl, rfl⟩

theorem State.updCtx_beside (cc : Nat) (f : Context → Context) : Beside s (s.updCtx cc f) := ⟨rfl, rfl, rfl⟩

theorem State.record_beside (r : FaultRec) : Beside s (s.record r) := (s.record_reported r).beside

/-! The Larder, the mesh and the charges. -/

theorem State.passArb_beside (dom k inst : Nat) (part : Option Nat) (units : Nat) : Beside s (s.passArb dom k inst part units) := ⟨rfl, rfl, rfl⟩

theorem State.serve_beside (o : Nat) (part : Option Nat) : Beside s (s.serve o part) := ⟨rfl, rfl, rfl⟩

theorem State.freshSector_beside (o : Nat) : Beside s (s.freshSector o) := ⟨rfl, rfl, rfl⟩

theorem State.cleanCopy_beside (o : Nat) : Beside s (s.cleanCopy o) := ⟨rfl, rfl, rfl⟩

theorem State.dropStale_beside (o : Nat) : Beside s (s.dropStale o) := ⟨rfl, rfl, rfl⟩

theorem State.updLine_beside (d line : Nat) (f : LarderLine → LarderLine) : Beside s (s.updLine d line f) := ⟨rfl, rfl, rfl⟩

theorem State.keepStale_beside (o : Nat) : Beside s (s.keepStale o) := .ite (.refl s) ⟨rfl, rfl, rfl⟩

theorem State.touchLine_beside (d line hint : Nat) : Beside s (s.touchLine d line hint) := .ite (.refl s) ⟨rfl, rfl, rfl⟩

theorem State.corrected_beside (o : Nat) : Beside s (s.corrected o) := s.odInc_beside _ 9

theorem State.crossMesh_beside (a b : Nat) (part : Option Nat) (n : Nat) : Beside s (s.crossMesh a b part n) :=
  beside_foldl (fun t i => t.passArb_beside _ _ i _ _) _ s

theorem State.cross_beside (w : Who) (write : Bool) (a n : Nat) : Beside s (s.cross w write a n) := by
  have routed := Beside.ite (c := write = true) (s.crossMesh_beside w.die (s.dieOf a) w.part n)
    ((s.crossMesh_beside w.die (s.dieOf a) w.part 0).trans (State.crossMesh_beside _ (s.dieOf a) w.die w.part n))
  have carried : ∀ u : State, Beside s u → Beside s (if w.die = dieMedia then u.passArb dieMedia 5 0 w.part (ceilDiv n 64) else u) :=
    fun u hu => .ite (hu.trans (u.passArb_beside _ _ _ _ _)) hu
  unfold State.cross
  dsimp only
  generalize (if write = true then _ else _ : State) = t at routed ⊢
  refine carried _ ?_
  split
  · exact routed.trans (t.passArb_beside _ _ _ _ _)
  · exact routed.trans (t.passArb_beside _ _ _ _ _)
  · exact routed

theorem State.writeBack_beside (x : LarderLine) : Beside s (s.writeBack x) := by
  have written : ∀ (t : State) (o : Nat), Beside t (((t.dropStale o).freshSector o).serve o x.owner) := fun t o =>
    ((t.dropStale_beside o).trans (State.freshSector_beside _ o)).trans (State.serve_beside _ o _)
  unfold State.writeBack
  refine beside_foldl (fun t e => ?_) _ s
  split
  · exact written t e.1
  · exact .refl t

theorem State.evict_beside (x : LarderLine) : Beside s (s.evict x) :=
  have h := (s.writeBack_beside x).trans (beside_foldl State.cleanCopy_beside (s.lineSectors x) _)
  ⟨h.cores, h.pwr, h.tier⟩

variable {s} in
theorem State.allocate_beside {t : State} {o : Nat} {part : Option Nat} {keep : Bool} {secs : List SectorSt} (h : s.allocate o part keep secs = some t) : Beside s t := by
  unfold State.allocate at h
  dsimp only at h
  split at h
  case h_1 => cases h
  case h_2 old _ =>
    obtain rfl := Option.some.inj h
    cases old with
    | none => exact ⟨rfl, rfl, rfl⟩
    | some x => exact ⟨(s.evict_beside x).cores, (s.evict_beside x).pwr, (s.evict_beside x).tier⟩

theorem State.dropSector_beside (o : Nat) : Beside s (s.dropSector o) := by
  have restored : Beside s (match s.larder.stale.find? (fun e => e.1 == o / 32) with
      | some e => { s with mem := memPutBytes s.mem (32 * (o / 32)) e.2 }
      | none => s) := by
    split
    · exact ⟨rfl, rfl, rfl⟩
    · exact .refl s
  have cleaned := restored.trans ((State.dropStale_beside _ o).trans (State.cleanCopy_beside _ o))
  unfold State.dropSector
  split
  · exact .refl s
  · exact .ite ⟨cleaned.cores, cleaned.pwr, cleaned.tier⟩ (cleaned.trans (State.updLine_beside _ _ _ _))

theorem State.fetchHbm_beside (o : Nat) (part : Option Nat) : Beside s (s.fetchHbm o part) :=
  (s.serve_beside o part).trans (.ite ((State.withHbm_beside _ _).trans (State.corrected_beside _ o)) (.refl _))

theorem State.checkCopy_beside (o : Nat) (st : SectorSt) (part : Option Nat) : Beside s (s.checkCopy o st part) :=
  .ite ((s.cleanCopy_beside o).trans (State.corrected_beside _ o))
    (.ite ((s.fetchHbm_beside o part).trans ((State.cleanCopy_beside _ o).trans (State.corrected_beside _ o))) (.refl s))

theorem State.writeHbm_beside (o : Nat) (full : Bool) (part : Option Nat) : Beside s (s.writeHbm o full part) :=
  .ite ((s.freshSector_beside o).trans (State.serve_beside _ o part)) ((s.fetchHbm_beside o part).trans (State.serve_beside _ o part))

theorem State.readSector_beside (o hint : Nat) (part : Option Nat) : Beside s (s.readSector o hint part) := by
  have counted : ∀ n, Beside s (s.odInc (0x3010 + s.homeDie o) n) := fun n => s.odInc_beside _ n
  have fetched := (counted 8).trans (State.fetchHbm_beside _ o part)
  have served : ∀ (t : State) (d l : Nat), Beside s t → Beside s (if hint = 3 then (t.touchLine d l hint).dropSector o else t.touchLine d l hint) := fun t d l ht =>
    (ht.trans (t.touchLine_beside d l hint)).trans (.ite (State.dropSector_beside _ o) (.refl _))
  unfold State.readSector
  dsimp only
  split
  · split
    · exact served _ _ _ ((counted 7).trans (State.checkCopy_beside _ _ _ _))
    · exact served _ _ _ (.ite fetched (fetched.trans (State.updLine_beside _ _ _ _)))
  · split
    · exact fetched
    · split
      case h_1 h => exact ((counted 8).trans (State.allocate_beside h)).trans (beside_foldl (fun t _ => t.fetchHbm_beside _ part) _ _)
      case h_2 => exact fetched

theorem State.writeSector_beside (o hint : Nat) (full : Bool) (part : Option Nat) : Beside s (s.writeSector o hint full part) := by
  have counted : ∀ n, Beside s (s.odInc (0x3010 + s.homeDie o) n) := fun n => s.odInc_beside _ n
  have passed := (counted 8).trans (State.writeHbm_beside _ o full part)
  have fetched : ∀ t : State, Beside t (if full then t else t.fetchHbm o part) := fun t => .ite (.refl t) (t.fetchHbm_beside o part)
  have dirtied : ∀ (t : State) (d l i : Nat), Beside s t → Beside s (((t.keepStale o).updLine d l fun y => { y with sectors := modAt y.sectors i fun _ => .dirty }).touchLine d l hint) :=
    fun t d l i ht => ht.trans (((t.keepStale_beside o).trans (State.updLine_beside _ d l _)).trans (State.touchLine_beside _ d l hint))
  unfold State.writeSector
  dsimp only
  split
  · split
    · exact dirtied _ _ _ _ ((counted 7).trans (.ite (State.cleanCopy_beside _ o) (State.checkCopy_beside _ _ _ _)))
    · exact .ite passed (dirtied _ _ _ _ ((counted 8).trans (fetched _)))
  · split
    · exact passed
    · split
      case h_1 h => exact (((counted 8).trans (State.allocate_beside h)).trans (fetched _)).trans (State.keepStale_beside _ o)
      case h_2 => exact passed

theorem State.charge_beside (w : Who) (dom r inst n : Nat) : Beside s (s.charge w dom r inst n) := by
  have owned : Beside s (match w.part with
      | some p => s.odAdd (0x6000 + p) (r + 1) n
      | none => s.odAdd 0x6010 (r + 1) n) := by
    split <;> exact s.odAdd_beside _ _ _
  have counted : ∀ t : State, Beside t (match w.ctx with
      | some cc => t.odAdd (0x6300 + cc) 4 n
      | none => t) := by
    intro t
    split
    · exact t.odAdd_beside _ _ _
    · exact .refl t
  have h := owned.trans (counted _)
  exact ⟨h.cores, h.pwr, h.tier⟩

theorem State.readCellar_beside (a : Nat) : Beside s (s.readCellar a) := .ite ((s.withHbm_beside _).trans (State.odInc_beside _ 0x3100 2)) (.refl s)

theorem State.readSram_beside (a n : Nat) : Beside s (s.readSram a n) := .ite (.refl s) (s.odAdd_beside _ _ _)

theorem State.backInvalidate_beside (write : Bool) (a n : Nat) : Beside s (s.backInvalidate write a n) := by
  have told : ∀ l : List Nat, Beside s (l.foldl (fun (x : State) l => x.emit (.snoop l write)) s) :=
    fun l => beside_foldl (f := fun (x : State) l => x.emit (.snoop l write)) (fun _ _ => ⟨rfl, rfl, rfl⟩) l s
  exact .ite (.refl s) (.ite ((told _).trans ⟨rfl, rfl, rfl⟩) (told _))

theorem State.touchSector_beside (w : Who) (hint dom r inst a : Nat) : Beside s (s.touchSector w hint dom r inst a) :=
  (s.cross_beside w false a 32).trans (.ite ((State.readSector_beside _ _ _ _).trans (State.charge_beside _ _ _ _ _ _)) (State.readCellar_beside _ a))

theorem State.passSector_beside (w : Who) (hint dom r inst : Nat) (full : Bool) (a : Nat) : Beside s (s.passSector w hint dom r inst full a) :=
  (s.cross_beside w true a 32).trans (.ite ((State.writeSector_beside _ _ _ _ _).trans (State.charge_beside _ _ _ _ _ _)) (.ite (.refl _) (State.readCellar_beside _ a)))

theorem State.touch_beside (w : Who) (hint a n : Nat) : Beside s (s.touch w hint a n) := by
  have crossed := State.cross_beside (s.backInvalidate false a n) w false a n
  unfold State.touch
  refine (s.backInvalidate_beside false a n).trans ?_
  dsimp only
  split
  case h_1 => exact crossed.trans (State.readSram_beside _ a n)
  case h_2 dom r inst _ =>
    have sectors := beside_foldl (fun t x => t.touchSector_beside w hint dom r inst x) (sectorsOf a n) (s.backInvalidate false a n)
    exact .ite sectors (.ite (sectors.trans (State.charge_beside _ _ _ _ _ _)) (crossed.trans (State.charge_beside _ _ _ _ _ _)))

theorem State.passWrite_beside (w : Who) (hint a n : Nat) (sectors : List Nat) (full : Nat → Bool) : Beside s (s.passWrite w hint a n sectors full) := by
  have crossed := s.cross_beside w true a n
  unfold State.passWrite
  split
  case h_1 => exact crossed
  case h_2 dom r inst _ =>
    have passed := beside_foldl (fun t x => t.passSector_beside w hint dom r inst (full x) x) sectors s
    exact .ite passed (.ite (passed.trans (State.charge_beside _ _ _ _ _ _)) (crossed.trans (State.charge_beside _ _ _ _ _ _)))

theorem State.healed_beside (a n : Nat) : Beside s (s.healed a n) := .ite (.refl s) (.ite ⟨rfl, rfl, rfl⟩ ⟨rfl, rfl, rfl⟩)

theorem State.store_beside (w : Who) (hint a : Nat) (bs : List Byte) : Beside s (s.store w hint a bs) :=
  have h := (s.backInvalidate_beside true a bs.length).trans ((State.passWrite_beside _ w hint a bs.length (sectorsOf a bs.length) (covers a bs.length)).trans (State.healed_beside _ a bs.length))
  ⟨h.cores, h.pwr, h.tier⟩

/-! The end of a command. -/

theorem State.setCond_beside (cc : Nat) (c : Cond) : Beside s (s.setCond cc c) :=
  .ite (.refl s) ((s.updCtx_beside cc _).trans (State.flight_reported _ _ _ _ _ _).beside)

theorem State.dirtyLost_beside (o : Nat) : Beside s (s.dirtyLost o) := by
  unfold State.dirtyLost
  exact ((s.dropSector_beside o).trans (State.record_beside _ _)).trans (State.withDiag_beside _ _)

theorem State.countFault_beside (c : Code) (a : Nat) : Beside s (s.countFault c a) := by
  unfold State.countFault State.countUncorrectable
  refine .ite ?_ (.refl s)
  split
  · exact .ite (.ite (s.dirtyLost_beside _) (.refl s)) (.ite (s.odInc_beside _ _) (.refl s))
  · exact s.odInc_beside _ _
  · exact .refl s

theorem State.monitor_beside (c : CmdInst) (d : Fin) : Beside s (s.monitor c d) := by
  have counted : ∀ o : Option (Code × Nat), Beside s (o.elim s fun f => s.countFault f.1 f.2)
    | none => .refl s
    | some f => s.countFault_beside f.1 f.2
  unfold State.monitor
  refine .ite (.refl s) (.ite ((counted _).trans (State.record_beside _ _)) ?_)
  exact ((s.touch_beside _ _ _ _).trans (State.store_beside _ _ _ _ _)).trans (beside_foldl (fun t _ => t.record_beside _) _ _)

theorem State.cacheLine_beside (a : Nat) (dirty : Bool) : Beside s (s.cacheLine a dirty) := .ite ⟨rfl, rfl, rfl⟩ (.refl s)

theorem State.noticed_beside (a n : Nat) : Beside s (s.noticed a n) := ⟨rfl, rfl, rfl⟩

theorem State.freeSlot_beside (cc slot : Nat) : Beside s (s.freeSlot cc slot) := s.updCtx_beside cc _

theorem State.queueFault_beside (cc : Nat) (code : Code) (addr : Nat) : Beside s (s.queueFault cc code addr) :=
  ((s.countFault_beside code addr).trans (State.setCond_beside _ cc .halted)).trans (State.record_beside _ _)

theorem State.trigger_beside (cc : Nat) : Beside s (s.trigger cc) :=
  .ite (.refl s) (.ite ((s.msix_reported _).beside.trans ⟨rfl, rfl, rfl⟩) ⟨rfl, rfl, rfl⟩)

theorem State.statusWord_beside (cc : Nat) : Beside s (s.statusWord cc) := by
  unfold State.statusWord
  refine .ite (.refl s) ?_
  dsimp only
  split
  · exact (s.noticed_beside _ _).trans (State.queueFault_beside _ _ _ _)
  · exact (s.cacheLine_beside _ _).trans (State.store_beside _ _ _ _ _)

theorem State.recordStored_beside (c : CmdInst) (core start : Nat) (d : Fin) : Beside s (s.recordStored c core start d) :=
  ((s.monitor_beside c d).trans (State.cacheLine_beside _ _ _)).trans (State.store_beside _ _ _ _ _)

theorem State.slotReturned_beside (c : CmdInst) : Beside s (s.slotReturned c) := (s.updCtx_beside c.ctx _).trans (State.freeSlot_beside _ _ _)

theorem State.endCounted_beside (c : CmdInst) (d : Fin) : Beside s (s.endCounted c d) :=
  .ite ((s.odInc_beside _ 2).trans (State.odInc_beside _ _ 3)) (s.odInc_beside _ 2)

theorem State.announced_beside (c : CmdInst) (d : Fin) : Beside s (s.announced c d) :=
  .ite ((s.statusWord_beside c.ctx).trans (State.trigger_beside _ c.ctx)) (s.statusWord_beside c.ctx)

theorem State.complete_beside (c : CmdInst) (core start : Nat) (d : Fin) : Beside s (s.complete c core start d) := by
  cases h : s.recordFault (s.whoCtx c.ctx none) (s.recordAddr c.ctx) 128 with
  | none =>
    rw [State.complete_of_writable h]
    exact (((s.recordStored_beside c core start d).trans (State.slotReturned_beside _ c)).trans (State.endCounted_beside _ c d)).trans (State.announced_beside _ c d)
  | some f =>
    unfold State.recordAddr at h
    unfold State.complete
    simp only [h]
    exact ((s.noticed_beside _ _).trans (State.freeSlot_beside _ _ _)).trans (State.queueFault_beside _ _ _ _)

/-- The end of a command changes no core, nothing of the supply and nothing of the Attic. -/
theorem State.finish0_beside (c : CmdInst) (core start : Nat) (d : Fin) : Beside s (s.finish0 c core start d) := by
  have ended : ∀ t : State, Beside s t → Beside s (State.refresh (if (d.status = 1 || d.status = 2) && ((t.complete c core start d).ctx c.ctx).cond != .aborting
      then (t.complete c core start d).setCond c.ctx .halted else t.complete c core start d) c.ctx) := fun t ht =>
    ((ht.trans (t.complete_beside c core start d)).trans (.ite (State.setCond_beside _ _ _) (.refl _))).trans (State.setCond_beside _ _ _)
  unfold State.finish0
  refine ended _ ?_
  split
  · exact (Beside.ite (.refl s) (s.countFault_beside _ _)).trans (State.record_beside _ _)
  · exact .refl s

end

end Sys2Proof.Machine
end

section
/-! PROOFS of the family 06_hbm_and_larder: a LARDER_READ outside the 52 bits of a local address (O50). -/
namespace Sys2Proof.Machine

/-- HBM holds ones beneath sector 0, which is dirty in its Larder; an access reads zeros. -/
def oneDirtySector : State :=
  { State.reset with larder :=
    { lines := [{ die := 0, set := 0, way := 0, line := 0, sectors := [.dirty, .invalid, .invalid, .invalid], owner := none, keep := false, stamp := 0 }]
      stale := [(0, List.replicate 32 1#8)] } }

theorem oneDirtySector_takes : oneDirtySector.larderTakes (2 ^ 52) 3 = true := by decide +kernel

theorem oneDirtySector_readFault : oneDirtySector.readFault { part := none } (32 * (2 ^ 52 / 32)) = none := by decide +kernel

/-- The read ends sector 0 of region 0, whose byte 0 becomes that of HBM. -/
theorem oneDirtySector_readLarder : memGet (oneDirtySector.readLarder (2 ^ 52) 3 none).mem 0 = 1#8 := by decide +kernel

theorem exec_larderRead_of_takes {addr hint : Nat} {part : Option Nat} {s : State} (h : s.larderTakes addr hint = true) :
    exec (.larderRead addr hint part) s = .next (s.readLarder addr hint part) := by
  change execLarderRead addr hint part s = _
  unfold execLarderRead
  rw [if_pos h]

/-- Refutes O50: a local address has 52 bits (R17) and `region` and `offset` look at no more, while the statement speaks of every number. A LAST read of address 2^52 ends the dirty sector of offset 0 and gives back its 32 bytes at address 0, not those of the sector of that number. -/
theorem not_memoryRowsReadAndWrite : ¬ Obligations.MemoryRowsReadAndWrite := by
  rintro ⟨read, -⟩
  obtain ⟨t, ht, -, hmem⟩ := (read (2 ^ 52) 3 none oneDirtySector oneDirtySector_takes).1 oneDirtySector_readFault
  obtain rfl : oneDirtySector.readLarder (2 ^ 52) 3 none = t := Host.Outcome.next.inj ((exec_larderRead_of_takes oneDirtySector_takes).symm.trans ht)
  rcases hmem with hsame | ⟨-, e, he, haddr, -⟩
  · exact absurd (hsame ▸ oneDirtySector_readLarder) (by decide)
  · obtain rfl := List.mem_singleton.1 he
    exact absurd haddr (by decide)

end Sys2Proof.Machine
end

section
/-! PROOFS of the family 06_hbm_and_larder: samples, ceilings and thermal trips (O54). -/
namespace Sys2Proof.Machine

/-! A sample of a sensor. -/

section
variable {s : State} {x y : Int}

theorem junctionSample_ofIsland {i : Nat} (hon : s.pwr.on = true) (hi : i < 43) (hp : (s.island i).power ≠ 0) :
    exec (.junctionSample i x y) s = .next ((s.advance (s.tickOf 50000)).sampleIsland i x y) := by
  change execJunctionSample i x y s = _
  simp [execJunctionSample, hon, hi, hp]

theorem junctionSample_ofNand {k : Nat} (hon : s.pwr.on = true) (hk : k < 8) (hp : (s.island 41).power ≠ 0) :
    exec (.junctionSample (43 + k) x y) s = .next ((s.advance (s.tickOf 50000)).sampleNand k x y) := by
  change execJunctionSample (43 + k) x y s = _
  simp [execJunctionSample, hon, hp, show 43 + k < 51 by omega]

theorem junctionSample_ofUncore {k : Nat} (hon : s.pwr.on = true) (hk : k < 8) (hp : s.uncoreOn k = true) :
    exec (.junctionSample (69 + k) x y) s = .next ((s.advance (s.tickOf 50000)).sampleUncore k x y) := by
  change execJunctionSample (69 + k) x y s = _
  simp [execJunctionSample, hon, hp, show ¬69 + k < 43 by omega, show ¬69 + k < 51 by omega, show 69 + k < 77 by omega]

theorem stackSample_ofOn {st : Nat} (hon : s.pwr.on = true) (hst : st < 16) (hp : (s.island (2 * st)).power ≠ 0 ∨ (s.island (2 * st + 1)).power ≠ 0) :
    exec (.stackSample st x y) s = .next ((s.advance (s.tickOf 50000)).sampleStack st x y) := by
  have hstack : s.stackOn st = true := by simpa [State.stackOn] using hp
  change execStackSample st x y s = _
  simp [execStackSample, hon, hst, hstack]

end

/-! The stop of every partition while no core holds a command. -/

/-- No core executes a command or holds one in its window. -/
def State.CoresEmpty (s : State) : Prop := ∀ n, (s.core n).exec = none ∧ (s.core n).window = []

theorem Beside.coresEmpty {s t : State} (h : Beside s t) (hs : s.CoresEmpty) : t.CoresEmpty := by
  intro n
  unfold State.core
  rw [h.cores]
  exact hs n

/-- Operations that change no core and nothing of the supply and the Attic while no core holds a command, one after another. -/
theorem beside_foldl_ofCoresEmpty {α : Type} {f : State → α → State} (hf : ∀ s a, s.CoresEmpty → Beside s (f s a)) (l : List α) {s : State} (hs : s.CoresEmpty) : Beside s (l.foldl f s) := by
  induction l generalizing s with
  | nil => exact .refl s
  | cons a l ih => exact (hf s a hs).trans (ih ((hf s a hs).coresEmpty hs))

theorem State.setPart_beside (s : State) (p : Nat) (st : PartSt) : Beside s (s.setPart p st) :=
  .ite (.refl s) (Beside.trans (t := s.updPart p fun x => { x with st := st }) ⟨rfl, rfl, rfl⟩ (State.flight_reported _ _ _ _ _ _).beside)

theorem State.abortQueued_beside (s : State) (cs : List CmdInst) : Beside s (s.abortQueued cs) := by
  unfold State.abortQueued
  refine beside_foldl (fun t c => ?_) cs s
  exact t.finish0_beside _ _ _ _

theorem State.abortExecs_beside (s : State) (es : List Exec) : Beside s (s.abortExecs es) := by
  unfold State.abortExecs
  refine beside_foldl (fun t e => ?_) es s
  exact t.finish0_beside _ _ _ _

theorem State.abortRuns_beside (s : State) (rs : List RedRun) : Beside s (s.abortRuns rs) := by
  unfold State.abortRuns
  refine beside_foldl (fun t r => ?_) rs s
  exact t.finish0_beside _ _ _ _

theorem State.withHub_beside (s : State) (l : List Exec) : Beside s { s with hub := l } := ⟨rfl, rfl, rfl⟩

theorem State.updEngine_beside (s : State) (c : Nat) (f : UpdEngine → UpdEngine) : Beside s (s.updEngine c f) := ⟨rfl, rfl, rfl⟩

theorem State.withColl_beside (s : State) (f : Coll → Coll) : Beside s (s.withColl f) := ⟨rfl, rfl, rfl⟩

theorem State.withMedia_beside (s : State) (f : Media → Media) : Beside s (s.withMedia f) := ⟨rfl, rfl, rfl⟩

theorem State.dropTakers_beside (s : State) (pred : Nat → Bool) : Beside s (s.dropTakers pred) := ⟨rfl, rfl, rfl⟩

theorem State.haltPart_beside (s : State) (p : Nat) : Beside s (s.haltPart p) := beside_foldl (fun t cc => .ite (t.setCond_beside cc .halted) (.refl t)) _ s

section
variable {s : State} (hs : s.CoresEmpty)
include hs

theorem State.abortCore_beside (pred : CmdInst → Bool) (discard : Bool) (n : Nat) : Beside s (s.abortCore pred discard n) := by
  obtain ⟨he, hw⟩ := hs n
  have h : s.abortCore pred discard n = s := by simp [State.abortCore, he, hw]
  rw [h]
  exact .refl s

theorem State.abortCtxs_beside (pred : Nat → Bool) (discard : Bool) : Beside s (s.abortCtxs pred discard) := by
  have taken := s.dropTakers_beside pred
  have cores := taken.trans (beside_foldl_ofCoresEmpty (fun _ n ht => State.abortCore_beside ht (fun c => pred c.ctx) discard n) (List.range 384) (taken.coresEmpty hs))
  unfold State.abortCtxs
  dsimp only
  refine Beside.trans (Beside.trans ?collected (State.withMedia_beside _ _)) (State.abortExecs_beside _ _)
  refine (((Beside.trans ?engines (State.withColl_beside _ _)).trans (State.abortQueued_beside _ _)).trans (State.abortRuns_beside _ _)).trans (State.abortExecs_beside _ _)
  refine ((cores.trans (State.withHub_beside _ _)).trans (State.abortExecs_beside _ _)).trans (beside_foldl (fun t c => ?_) _ _)
  exact ((t.updEngine_beside c _).trans (State.abortExecs_beside _ _)).trans (State.abortQueued_beside _ _)

/-- While no core holds a command, a partition's stop changes no core and nothing of the supply (R615). -/
theorem State.stopPart_beside (p : Nat) : Beside s (s.stopPart p) := by
  have set := s.setPart_beside p .stopping
  have ended := set.trans (State.abortCtxs_beside (set.coresEmpty hs) (fun cc => (s.setPart p .stopping).partOfCtx cc == some p && ((s.setPart p .stopping).ctx cc).cond != .aborting) true)
  unfold State.stopPart
  exact .ite ((ended.trans (State.withMedia_beside _ _)).trans (State.haltPart_beside _ p)) (.refl s)

/-- While no core holds a command, the effect of a MODULE fault gives none to a core, and leaves a thermal trip as it is (R852). -/
theorem State.stopModule_coresEmpty : s.stopModule.CoresEmpty ∧ s.stopModule.pwr.tripped = s.pwr.tripped := by
  unfold State.stopModule
  dsimp only
  split
  · have h := (State.flight_reported (((s.alert 3).withDiag fun x => { x with moduleFault := true }).withPwr fun x => { x with stage := 0xFF }) 8 0
      ((s.alert 3).withDiag fun x => { x with moduleFault := true }).pwr.stage 0xFF none).beside
    exact ⟨h.coresEmpty hs, (congrArg Pwr.tripped h.pwr).trans rfl⟩
  · have h := beside_foldl_ofCoresEmpty (s := (s.alert 3).withDiag fun x => { x with moduleFault := true })
      (f := fun t p => if (t.part p).st = .creating then t.updPart p fun x => { x with toStopped := true } else t.stopPart p)
      (fun t p ht => .ite ⟨rfl, rfl, rfl⟩ (State.stopPart_beside ht p)) (List.range 16) hs
    exact ⟨h.coresEmpty hs, (congrArg Pwr.tripped h.pwr).trans rfl⟩

theorem State.raise_coresEmpty {r : FaultRec} (hr : codeScope r.code = .module) : (s.raise r).CoresEmpty ∧ (s.raise r).pwr.tripped = s.pwr.tripped := by
  have recorded := s.record_beside r
  obtain ⟨hc, ht⟩ := State.stopModule_coresEmpty (recorded.coresEmpty hs)
  unfold State.raise
  rw [hr]
  exact ⟨hc, ht.trans (congrArg Pwr.tripped recorded.pwr)⟩

end

/-! A thermal trip (R880). -/

theorem State.darken_cores (s : State) : s.darken.cores = s.loseMemory.dropLinks.cores.map darkCore := by
  unfold State.darken
  dsimp only

theorem State.darken_coresEmpty (s : State) : s.darken.CoresEmpty := by
  intro n
  have h : s.darken.core n = darkCore (s.loseMemory.dropLinks.core n) ∨ s.darken.core n = {} := by
    unfold State.core nth
    rw [s.darken_cores]
    generalize s.loseMemory.dropLinks.cores = l
    by_cases hn : n < l.length
    · exact .inl (by simp [hn])
    · exact .inr (by simp [hn])
  rcases h with h | h <;> rw [h] <;> exact ⟨rfl, rfl⟩

/-- A context's part of `State.haltAll`. -/
def State.haltCtx (s : State) (cc : Nat) : State := if (s.ctx cc).cond == .absent then s else s.setCond cc .halted

theorem State.haltAll_eq_foldl (s : State) : s.haltAll = (List.range 256).foldl State.haltCtx s := rfl

theorem State.haltAll_beside (s : State) : Beside s s.haltAll := by
  rw [State.haltAll_eq_foldl]
  exact beside_foldl (fun t cc => .ite (.refl t) (t.setCond_beside cc .halted)) _ s

/-- A context that is ABSENT or HALTED. -/
def State.Halted (s : State) (cc : Nat) : Prop := (s.ctx cc).cond = .absent ∨ (s.ctx cc).cond = .halted

theorem State.haltCtx_halted_self (s : State) (cc : Nat) : (s.haltCtx cc).Halted cc := by
  unfold State.haltCtx
  split
  case isTrue h => exact .inl (by simpa using h)
  case isFalse h =>
    have hlen : cc < s.ctxs.length := by
      by_contra hlen
      exact h (by rw [State.ctx, nth, List.getD_eq_default _ _ (by omega)]; rfl)
    obtain ⟨_, _, hc⟩ := State.setCond_ctx (c := .halted) hlen
    exact .inr (by rw [hc])

theorem State.haltCtx_halted {s : State} {cc : Nat} (c : Nat) (h : s.Halted cc) : (s.haltCtx c).Halted cc := by
  by_cases hc : cc = c
  · rw [hc]
    exact s.haltCtx_halted_self c
  · unfold State.haltCtx
    split
    · exact h
    · unfold State.Halted
      rw [State.setCond_ctx_other s .halted hc]
      exact h

theorem State.foldl_haltCtx_halted {cc : Nat} (l : List Nat) {s : State} (h : cc ∈ l ∨ s.Halted cc) : (l.foldl State.haltCtx s).Halted cc := by
  induction l generalizing s with
  | nil => exact h.resolve_left List.not_mem_nil
  | cons c l ih =>
    refine ih ?_
    rcases h with h | h
    · rcases List.mem_cons.1 h with rfl | h
      · exact .inr (s.haltCtx_halted_self cc)
      · exact .inl h
    · exact .inr (State.haltCtx_halted c h)

theorem State.haltAll_halted (s : State) {cc : Nat} (h : cc < 256) : s.haltAll.Halted cc := by
  rw [State.haltAll_eq_foldl]
  exact State.foldl_haltCtx_halted _ (.inl (List.mem_range.2 h))

/-- A key that a map does not list reads as its default. -/
theorem mapGet_of_unlisted {β : Type} {d : Nat → β} {m : List (Nat × β)} {k : Nat} (h : ∀ e ∈ m, e.1 ≠ k) : mapGet d m k = d k := by
  induction m with
  | nil => rfl
  | cons e m ih =>
    obtain ⟨he, hm⟩ := List.forall_mem_cons.1 h
    simp [mapGet, Ne.symm he, ih hm]

theorem State.loseAll_pwr (s : State) : s.loseAll.pwr = s.pwr := rfl

theorem State.loseAll_coresEmpty {s : State} (h : s.CoresEmpty) : s.loseAll.CoresEmpty := h

theorem State.loseAll_halted {s : State} {cc : Nat} (h : s.Halted cc) : s.loseAll.Halted cc := h

/-- HBM, the Cellar and the scratchpads hold nothing once their contents are lost (R880; log entry 3). -/
theorem State.loseAll_memGet (s : State) {a : Nat} (h : region a = 0 ∨ region a = 1 ∨ region a = 8) : memGet s.loseAll.mem a = 0#8 := by
  refine mapGet_of_unlisted fun e he hea => ?_
  obtain ⟨he, h8⟩ := List.mem_filter.1 he
  obtain ⟨-, h01⟩ := List.mem_filter.1 he
  rw [hea] at h01 h8
  rcases h with h | h | h <;> simp [h] at h01 h8

/-- After a trip no core holds a command, every context is ABSENT or HALTED, and HBM, the Cellar and the scratchpads are empty. -/
theorem State.trip_effect (s : State) (sensor : Nat) :
    (s.trip sensor).pwr.tripped = true ∧ (s.trip sensor).CoresEmpty ∧ (∀ cc, cc < 256 → (s.trip sensor).Halted cc)
      ∧ ∀ a : Nat, region a = 0 ∨ region a = 1 ∨ region a = 8 → memGet (s.trip sensor).mem a = 0#8 := by
  unfold State.trip
  dsimp only
  have hdark := s.darken_coresEmpty
  generalize s.darken = d at hdark ⊢
  generalize hs1 : (d.withPwr _).alert 0 = s1
  have hempty : s1.CoresEmpty := by rw [← hs1]; exact hdark
  have htrip : s1.pwr.tripped = true := by rw [← hs1]; rfl
  obtain ⟨hc, ht⟩ := State.raise_coresEmpty hempty (r := { code := .pwrThermalTrip, unit := { kind := 13, inst := sensor } }) rfl
  generalize s1.raise { code := .pwrThermalTrip, unit := { kind := 13, inst := sensor } } = s2 at hc ht ⊢
  have hh := s2.haltAll_beside
  refine ⟨?tripped, State.loseAll_coresEmpty (hh.coresEmpty hc), fun cc hcc => State.loseAll_halted (s2.haltAll_halted hcc), fun a ha => State.loseAll_memGet _ ha⟩
  case tripped => rw [State.loseAll_pwr, hh.pwr, ht, htrip]

theorem State.not_ready_of_tripped {s : State} (h : s.pwr.tripped = true) : s.ready = false := by
  simp [State.ready, h]

theorem exec_thermalTrip_of_untripped {s : State} {sensor : Nat} (hon : s.pwr.on = true) (ht : s.pwr.tripped = false) (hs : sensor ≠ 42) : exec (.thermalTrip sensor) s = .next (s.trip sensor) := by
  change execThermalTrip sensor s = _
  simp [execThermalTrip, hon, ht, hs]

theorem exec_thermalTrip_of_tripped {s : State} (sensor : Nat) (ht : s.pwr.tripped = true) : exec (.thermalTrip sensor) s = .next s := by
  change execThermalTrip sensor s = _
  simp [execThermalTrip, ht]

theorem exec_hubThermalTrip_of_on {s : State} (hon : s.pwr.on = true) : exec .hubThermalTrip s = .next (s.off true) := by
  change execHubThermalTrip s = _
  simp [execHubThermalTrip, hon]

/-! The power controller and the coolant. -/

theorem exec_powerControllerTick_of_on {s : State} (avg ma : Nat) (hon : s.pwr.on = true) : exec (.powerControllerTick avg ma) s = .next ((s.advance (s.tickOf 1000000)).powerTick avg ma) := by
  change execPowerControllerTick avg ma s = _
  simp [execPowerControllerTick, hon]

theorem State.raiseLimit_ceiling (s : State) : s.raiseLimit.pwr.ceiling = s.pwr.ceiling := by
  unfold State.raiseLimit
  rw [(State.raise_reported _ (r := { code := .pwrCurrentLimit, unit := { kind := 0, inst := 0 } }) rfl).beside.pwr]
  rfl

/-- Above the limit the module ceiling falls by 25 mV, to 600 mV at least, or stays at 600 mV (R885, R886). -/
theorem State.moveCeiling_above {s : State} {avg limit : Nat} (h : limit < avg) :
    (s.moveCeiling avg limit).pwr.ceiling = max 600 ((if s.pwr.ceiling = 0 then s.topPerf else s.pwr.ceiling) - 25)
      ∨ (s.pwr.ceiling ≠ 0 ∧ s.pwr.ceiling ≤ 600 ∧ (s.moveCeiling avg limit).pwr.ceiling = s.pwr.ceiling) := by
  unfold State.moveCeiling
  dsimp only
  rw [if_pos h]
  by_cases h0 : s.pwr.ceiling = 0
  · rw [if_pos h0, if_pos h0, State.raiseLimit_ceiling]
    exact .inl rfl
  · rw [if_neg h0, if_neg h0]
    by_cases h600 : 600 < s.pwr.ceiling
    · rw [if_pos h600]
      exact .inl rfl
    · rw [if_neg h600]
      refine .inr ⟨h0, Nat.not_lt.1 h600, ?_⟩
      split
      · exact s.raiseLimit_ceiling
      · rfl

/-- Between 95 % of the limit and the limit the module ceiling stays (R885). -/
theorem State.moveCeiling_between {s : State} {avg limit : Nat} (h : avg ≤ limit) (h95 : limit * 95 < avg * 100) : s.moveCeiling avg limit = s := by
  simp [State.moveCeiling, Nat.not_lt.2 h, Nat.not_le.2 h95]

/-- The limit in effect at the end of a millisecond, in mW: that of 0xA000/04, capped at 100 A (R885). -/
def State.powerLimit (s : State) : Nat := min (1000 * s.odN 0xA000 4) (100 * s.pwr.mv)

theorem State.powerTick_above {s : State} {avg : Nat} (ma : Nat) (h : s.powerLimit < avg) :
    (s.powerTick avg ma).pwr.ceiling = max 600 ((if s.pwr.ceiling = 0 then s.topPerf else s.pwr.ceiling) - 25)
      ∨ (s.pwr.ceiling ≠ 0 ∧ s.pwr.ceiling ≤ 600 ∧ (s.powerTick avg ma).pwr.ceiling = s.pwr.ceiling) :=
  State.moveCeiling_above (s := s.withPwr fun x => { x with ma := ma, watts := avg / 1000, limit := s.odN 0xA000 4 }) h

theorem State.powerTick_between {s : State} {avg : Nat} (ma : Nat) (h : avg ≤ s.powerLimit) (h95 : s.powerLimit * 95 < avg * 100) : (s.powerTick avg ma).pwr.ceiling = s.pwr.ceiling := by
  have hm := State.moveCeiling_between (s := s.withPwr fun x => { x with ma := ma, watts := avg / 1000, limit := s.odN 0xA000 4 }) h h95
  exact (congrArg (fun t : State => t.pwr.ceiling) hm).trans rfl

theorem coolantSample_isTaken (x y : Int) {s : State} (hon : s.pwr.on = true) : ∃ t : State, exec (.coolantSample x y) s = .next t ∧ t.pwr.coolIn = x ∧ t.pwr.coolOut = y ∧ t.mem = s.mem := by
  have he : exec (.coolantSample x y) s = .next ((s.advance (s.tickOf 100000000)).coolant x y) := by
    change execCoolantSample x y s = _
    simp [execCoolantSample, hon]
  obtain ⟨od, cores, time, ha⟩ := s.advance_eq (s.tickOf 100000000)
  refine ⟨_, he, ?_⟩
  rw [ha]
  unfold State.coolant
  dsimp only
  split
  · generalize hu : ((State.withPwr _ _).withPwr _).alert 5 = u
    have hr : Reported u (u.raise { code := .pwrCoolant, unit := { kind := 13, inst := if deg 45 < x then 67 else 68 } }) := State.raise_reported _ rfl
    rw [hr.beside.pwr, hr.mem, ← hu]
    exact ⟨rfl, rfl, rfl⟩
  · exact ⟨rfl, rfl, rfl⟩

/-- Settles O54: on a powered module each sample and tick is its row; a trip empties the cores first, and from then on no operation of it, the stop of the partitions included, gives a core a command. -/
theorem temperaturesLowerCeilingsAndTrip : Obligations.TemperaturesLowerCeilingsAndTrip := by
  refine ⟨fun i x y s hon hi hp => junctionSample_ofIsland hon hi hp, fun k x y s hon hk hp => junctionSample_ofNand hon hk hp,
    fun k x y s hon hk hp => junctionSample_ofUncore hon hk hp, fun st x y s hon hst hp => stackSample_ofOn hon hst hp,
    fun sensor s _ hon ht hs => ?trip, fun sensor s ht => exec_thermalTrip_of_tripped sensor ht,
    fun s hon => ⟨exec_hubThermalTrip_of_on hon, rfl, rfl⟩,
    fun avg ma s hon => ⟨exec_powerControllerTick_of_on avg ma hon, fun h => State.powerTick_above ma h, fun h h95 => State.powerTick_between ma h h95⟩,
    fun x y s hon => coolantSample_isTaken x y hon⟩
  case trip =>
    obtain ⟨htripped, hcores, hctxs, hmem⟩ := s.trip_effect sensor
    exact ⟨_, exec_thermalTrip_of_untripped hon ht hs, htripped, State.not_ready_of_tripped htripped, hctxs, fun n _ => hcores n, fun _ => hmem⟩

end Sys2Proof.Machine
end

section
/-! PROOFS of the family 06_hbm_and_larder: the ends of imbalance windows and the relocation of Attic blocks (O51). -/
namespace Sys2Proof.Machine

/-! A recorded fault changes no entry of the object dictionary but the counter of refused flight-recorder entries. -/

theorem State.odN_of_od {s t : State} (ho : t.od = s.od) (ix sub : Nat) : t.odN ix sub = s.odN ix sub := by
  unfold State.odN State.odW
  rw [ho]

section
variable (s : State) {ix sub : Nat} (h : odKey ix sub ≠ odKey 0x8200 3)

theorem State.sendMgmt_od (typ seq : Nat) (payload : List Byte) : (s.sendMgmt typ seq payload).od = s.od := by
  unfold State.sendMgmt
  split <;> rfl

theorem State.queueEvent_od (r : FaultRec) : (s.queueEvent r).1.od = s.od := by
  unfold State.queueEvent
  dsimp only
  split
  · rfl
  · split
    · exact State.sendMgmt_od _ _ _ _
    · split
      · exact State.sendMgmt_od _ _ _ _
      · rfl

include h

theorem State.recordRaw_odN (r : FaultRec) : (s.recordRaw r).odN ix sub = s.odN ix sub := by
  have hf : ∀ body, (State.flight { s with diag := { s.diag with ring := ({ r with time := s.now, seq := s.diag.raised + 1 } :: s.diag.ring).take 4096, raised := s.diag.raised + 1 } } 1 0 0 0 body).odN ix sub = s.odN ix sub :=
    fun body => (State.flight_odN _ _ _ _ _ _ h).trans rfl
  unfold State.recordRaw
  dsimp only
  split
  case h_1 | h_2 | h_3 => exact (State.odN_of_od (State.msix_od _ _) ix sub).trans (hf _)
  case h_4 | h_5 => exact hf _

theorem State.recordLimited_odN (r : FaultRec) (key : Nat) : (s.recordLimited r key).odN ix sub = s.odN ix sub := by
  unfold State.recordLimited
  split
  · split
    · rfl
    · exact (State.odN_of_od (State.queueEvent_od _ _) ix sub).trans (s.recordRaw_odN h _)
  · exact (State.odN_of_od (State.queueEvent_od _ _) ix sub).trans (s.recordRaw_odN h r)

theorem State.record_odN (r : FaultRec) : (s.record r).odN ix sub = s.odN ix sub := by
  have hq := (State.odN_of_od ((s.recordRaw r).queueEvent_od ((s.recordRaw r).diag.ring.headD r)) ix sub).trans (s.recordRaw_odN h r)
  unfold State.record
  dsimp only
  split
  · exact (State.recordLimited_odN _ h _ _).trans hq
  · exact hq

end

/-! The monitor's window. -/

theorem exec_imbalanceWindowEnd_of_lt {d : Nat} (s : State) (hd : d < 8) :
    exec (.imbalanceWindowEnd d) s = .next ((s.advance (nth s.hbm.began d 0 + 1000 * (s.imbMonitor d).1)).endWindow d) := by
  change execImbalanceWindowEnd d s = _
  simp [execImbalanceWindowEnd, hd]

/-- The entries of a sound state stay canonical while time passes. -/
theorem State.advance_wf {s : State} (t : Nat) (h : s.Sound) : mapWf odDefault (s.advance t).od = true :=
  (State.advance_kept t (kept_iff_sound.2 ⟨rfl, h⟩)).od

/-- The counts of a window that begins are zero (R273). -/
theorem State.nextWindow_servedSum (s : State) (d : Nat) : (s.nextWindow d).servedSum d = 0 := by
  have zero : ∀ j, j < 64 → (s.nextWindow d).servedBy (64 * d + j) = 0 := fun j hj =>
    mapGet_of_unlisted fun e he heq => by
      have := (List.mem_filter.1 he).2
      simp only [heq, bne_iff_ne] at this
      omega
  unfold State.servedSum
  rw [List.sum_eq_zero]
  intro x hx
  obtain ⟨j, hj, rfl⟩ := List.mem_map.1 hx
  exact zero j (List.mem_range.1 hj)

theorem State.endWindow_eq_nextWindow (s : State) (d : Nat) : ∃ u : State, s.endWindow d = u.nextWindow d := by
  unfold State.endWindow
  split
  · exact ⟨_, rfl⟩
  · exact ⟨_, rfl⟩

theorem State.endWindow_of_imbalance {s : State} {d r : Nat} (h : s.imbalance d = some r) : s.endWindow d = (s.judge d r).nextWindow d := by
  unfold State.endWindow
  rw [h]

theorem State.endWindow_of_few {s : State} {d : Nat} (h : s.servedSum d < 4096) : s.endWindow d = s.nextWindow d := by
  unfold State.endWindow State.imbalance
  rw [if_pos h]

theorem State.busiest_lt (s : State) (d : Nat) : s.busiest d < 64 := by
  unfold State.busiest
  refine List.foldlRecOn (motive := (· < 64)) (List.range 64) _ (by omega) fun b hb j hj => ?_
  split
  · exact List.mem_range.1 hj
  · exact hb

theorem State.odSetN_odN_same {s : State} (hw : mapWf odDefault s.od = true) (ix sub v : Nat) : (s.odSetN ix sub v).odN ix sub = v % 2 ^ 64 := by
  unfold State.odN State.odW
  rw [State.odSetN_od, mapGet_put _ _ _ _ _ _ hw, if_pos rfl, BitVec.toNat_ofNat]

theorem State.odSetN_odN_other {s : State} (hw : mapWf odDefault s.od = true) {ix sub ix' sub' : Nat} (v : Nat) (h : odKey ix' sub' ≠ odKey ix sub) :
    (s.odSetN ix sub v).odN ix' sub' = s.odN ix' sub' := by
  unfold State.odN State.odW
  rw [State.odSetN_od, mapGet_put _ _ _ _ _ _ hw, if_neg h]

/-- The judgement of a window changes no entry but the two it shows, and the flight recorder's counter (R272). -/
theorem State.judge_odN (s : State) (d r : Nat) {ix sub : Nat} (h : odKey ix sub ≠ odKey 0x8200 3) :
    (s.judge d r).odN ix sub = ((s.odSetN (0x3010 + d) 5 (min r 0xFFFF)).odSetN (0x3010 + d) 6 (s.busiest d)).odN ix sub := by
  unfold State.judge
  dsimp only
  split
  · rfl
  · split
    · exact (State.record_odN _ h _).trans rfl
    · rfl

/-- A judged window shows its ratio and its busiest pseudo-channel (R270, R271). -/
theorem State.judge_shows {s : State} (hw : mapWf odDefault s.od = true) {d : Nat} (hd : d < 8) (r : Nat) :
    (s.judge d r).odN (0x3010 + d) 5 = min r 0xFFFF ∧ (s.judge d r).odN (0x3010 + d) 6 = s.busiest d := by
  have hw5 : mapWf odDefault (s.odSetN (0x3010 + d) 5 (min r 0xFFFF)).od = true := mapWf_put _ _ hw
  have hb := s.busiest_lt d
  refine ⟨?ratio, ?busiest⟩
  case ratio =>
    rw [State.judge_odN _ _ _ (by unfold odKey; omega), State.odSetN_odN_other hw5 _ (by unfold odKey; omega), State.odSetN_odN_same hw]
    omega
  case busiest =>
    rw [State.judge_odN _ _ _ (by unfold odKey; omega), State.odSetN_odN_same hw5]
    omega

/-! Room found for a crate changes no crate. -/

section
variable (s : State)

theorem State.enqueue_crates (b : Nat) : (s.enqueue b).tier.crates = s.tier.crates := by
  unfold State.enqueue
  split <;> rfl

theorem State.condemn_crates (b : Nat) : (s.condemn b).tier.crates = s.tier.crates := State.enqueue_crates _ b

/-- A retired block loses no crate: TIER.WORN, where it is raised, leaves the Attic as it is. -/
theorem State.retire_crates (b : Nat) : (s.retire b).tier.crates = s.tier.crates := by
  unfold State.retire
  dsimp only
  split
  · rw [(State.raise_reported _ (r := { code := .tierWorn, unit := { kind := 7, inst := 0 } }) rfl).beside.tier]
    rfl
  · rfl

theorem State.eraseBlock_crates (b : Nat) : (s.eraseBlock b).tier.crates = s.tier.crates := by
  unfold State.eraseBlock
  split
  · exact s.retire_crates b
  · rfl

theorem State.takeUnits_crates (u b : Nat) : (s.takeUnits u b).tier.crates = s.tier.crates := rfl

theorem State.findPage_crates (n k u : Nat) : (s.findPage n k u).1.tier.crates = s.tier.crates := by
  induction n generalizing s with
  | zero => rfl
  | succ n ih =>
    unfold State.findPage
    split
    case h_1 b _ =>
      split
      · exact (ih _).trans (s.condemn_crates b)
      · exact s.takeUnits_crates u b
    case h_2 =>
      split
      case h_1 => rfl
      case h_2 x _ =>
        have freed : (if x.pages = 0 then s else s.eraseBlock x.block).tier.crates = s.tier.crates := by
          split
          · rfl
          · exact s.eraseBlock_crates x.block
        dsimp only
        generalize (if x.pages = 0 then s else s.eraseBlock x.block) = t at freed ⊢
        refine (ih _).trans ?_
        split
        · exact freed
        · exact freed

theorem State.pageIn_crates (k u : Nat) : (s.pageIn k u).1.tier.crates = s.tier.crates := s.findPage_crates _ k u

/-! A map record. -/

theorem State.programmed_crates (bs : List Byte) : (s.programmed bs).tier.crates = s.tier.crates :=
  congrArg Tier.crates (s.odAdd_beside 0x3300 8 (4096 * crateUnits bs)).tier

theorem State.programRecord_crates (ops : Nat) (r : AtticCrate) : (s.programRecord ops r).tier.crates = s.tier.crates := by
  have programmed : (if (1 ≤ ops && r.units) = true then s.programmed r.bytes else s).tier.crates = s.tier.crates := by
    split
    · exact s.programmed_crates r.bytes
    · rfl
  unfold State.programRecord
  dsimp only
  split <;> split <;> exact programmed

theorem State.applyRecord_crates {r : AtticCrate} (hr : r.units = true) :
    (s.applyRecord r).tier.crates = r :: s.tier.crates.filter fun x => x.index != r.index := by
  simp [State.applyRecord, hr]

end

/-! Relocation loses no crate. -/

/-- The Attic holds a crate of an index. -/
def State.HoldsCrate (s : State) (i : Nat) : Prop := ∃ c ∈ s.tier.crates, c.index = i

/-- The record of an index that is held, applied, loses no index and adds none. -/
theorem State.applyRecord_holdsCrate {s : State} {r : AtticCrate} (hr : r.units = true) (hold : s.HoldsCrate r.index) (i : Nat) :
    (s.applyRecord r).HoldsCrate i ↔ s.HoldsCrate i := by
  unfold State.HoldsCrate
  rw [s.applyRecord_crates hr]
  by_cases hi : i = r.index
  · subst hi
    exact ⟨fun _ => hold, fun _ => ⟨r, List.mem_cons_self, rfl⟩⟩
  · constructor
    · rintro ⟨c, hc, rfl⟩
      rcases List.mem_cons.1 hc with rfl | hc
      · exact absurd rfl hi
      · exact ⟨c, List.mem_of_mem_filter hc, rfl⟩
    · rintro ⟨c, hc, rfl⟩
      exact ⟨c, List.mem_cons_of_mem _ (List.mem_filter.2 ⟨hc, by simpa using hi⟩), rfl⟩

theorem State.holdsCrate_congr {s t : State} (h : t.tier.crates = s.tier.crates) (i : Nat) : t.HoldsCrate i ↔ s.HoldsCrate i := by
  unfold State.HoldsCrate
  rw [h]

/-- A held crate's bytes read, its new record programmed and applied, its bytes written (R337): every index stays. -/
theorem State.rewritten_holdsCrate {s : State} {r : AtticCrate} (hr : r.units = true) (hold : s.HoldsCrate r.index) (w : Who) (n i : Nat) :
    ((((s.charge w 12 2 0 n).programRecord 3 r).applyRecord r).charge w 12 3 0 n).HoldsCrate i ↔ s.HoldsCrate i := by
  have programmed : ((s.charge w 12 2 0 n).programRecord 3 r).tier.crates = s.tier.crates :=
    (State.programRecord_crates _ 3 r).trans (congrArg Tier.crates (s.charge_beside w 12 2 0 n).tier)
  rw [State.holdsCrate_congr (congrArg Tier.crates (State.charge_beside _ w 12 3 0 n).tier),
    State.applyRecord_holdsCrate hr ((State.holdsCrate_congr programmed _).2 hold), State.holdsCrate_congr programmed]

theorem State.relocateOne_holdsCrate {s : State} {c : AtticCrate} (hc : s.HoldsCrate c.index) (i : Nat) : (s.relocateOne c).HoldsCrate i ↔ s.HoldsCrate i := by
  have found := State.holdsCrate_congr (s.pageIn_crates (c.block % 8) (crateUnits c.bytes))
  unfold State.relocateOne
  split
  · exact .rfl
  · split
    case h_1 h =>
      rw [h] at found
      exact found i
    case h_2 h =>
      rw [h] at found
      refine Iff.trans (State.rewritten_holdsCrate ?units ?held _ _ i) (found i)
      case units => rfl
      case held => exact (found c.index).2 hc

/-- Crates that are held, relocated one after another. -/
theorem State.foldl_relocateOne_holdsCrate (l : List AtticCrate) {s : State} (hl : ∀ c ∈ l, s.HoldsCrate c.index) (i : Nat) : (l.foldl State.relocateOne s).HoldsCrate i ↔ s.HoldsCrate i := by
  induction l generalizing s with
  | nil => exact .rfl
  | cons c l ih =>
    obtain ⟨hc, hl⟩ := List.forall_mem_cons.1 hl
    have moved := State.relocateOne_holdsCrate hc
    exact (ih fun x hx => (moved _).2 (hl x hx)).trans (moved i)

theorem State.emptyBlock_holdsCrate (s : State) (b i : Nat) : (s.emptyBlock b).HoldsCrate i ↔ s.HoldsCrate i :=
  State.foldl_relocateOne_holdsCrate (s := s.closeBlock b) _ (fun c hc => ⟨c, List.mem_of_mem_filter hc, rfl⟩) i

theorem State.relocate_holdsCrate (s : State) (b i : Nat) : (s.relocate b).HoldsCrate i ↔ s.HoldsCrate i := by
  refine Iff.trans (State.holdsCrate_congr ?_ i) (s.emptyBlock_holdsCrate b i)
  unfold State.relocate
  dsimp only
  split
  · rfl
  · rw [(State.odInc_beside _ _ _).tier]
    split
    · exact State.retire_crates _ b
    · exact State.eraseBlock_crates _ b

/-! A block whose units have all moved. -/

theorem State.relocate_of_moved {s : State} {b : Nat} (hmoved : ∀ c ∈ (s.emptyBlock b).tier.crates, c.block ≠ b) (hl : (s.block b).leaving = false) :
    s.relocate b = ((s.emptyBlock b).eraseBlock b).odInc 0x3300 7 := by
  have left : ((s.emptyBlock b).tier.crates.filter fun c => c.block == b) = [] :=
    List.filter_eq_nil_iff.2 fun c hc => by simpa using hmoved c hc
  unfold State.relocate
  simp [left, hl]

/-- A block whose erase succeeds leaves the queue, one erase older (R337). -/
theorem State.eraseBlock_erases {s : State} {b : Nat} (hf : (s.block b).failing = false) :
    b ∉ (s.eraseBlock b).tier.queue ∧ ((s.eraseBlock b).block b).erases = (s.block b).erases + 1 := by
  unfold State.eraseBlock
  rw [if_neg (by simp [hf])]
  exact ⟨fun h => by simpa using (List.mem_filter.1 h).2, by simp [State.block, State.putBlock, State.closeBlock]⟩

theorem exec_atticRelocate_of_head {s : State} {b : Nat} (hq : s.tier.queue.head? = some b) (ho : s.tier.offline = false) : exec (.atticRelocate b) s = .next (s.relocate b) := by
  change execAtticRelocate b s = _
  simp [execAtticRelocate, hq, ho]

theorem exec_wearLevelRelocate_of_victim {s : State} {b : Nat} (hv : s.wearVictim = some b) (ho : s.tier.offline = false) : exec .wearLevelRelocate s = .next (s.relocate b) := by
  change execWearLevelRelocate s = _
  simp [execWearLevelRelocate, hv, ho]

theorem exec_imbalanceWindowEnd_shows {d : Nat} {s u : State} (hs : s.Sound) (hd : d < 8) (hu : u = s.advance (nth s.hbm.began d 0 + 1000 * (s.imbMonitor d).1)) :
    ∃ t : State, exec (.imbalanceWindowEnd d) s = .next t ∧ t.servedSum d = 0
      ∧ (∀ r : Nat, u.imbalance d = some r → t.odN (0x3010 + d) 5 = min r 0xFFFF ∧ t.odN (0x3010 + d) 6 = u.busiest d)
      ∧ (u.servedSum d < 4096 → t = u.nextWindow d) := by
  refine ⟨u.endWindow d, hu ▸ exec_imbalanceWindowEnd_of_lt s hd, ?zero, fun r hr => ?shown, fun hfew => State.endWindow_of_few hfew⟩
  case zero =>
    obtain ⟨v, hv⟩ := u.endWindow_eq_nextWindow d
    rw [hv, v.nextWindow_servedSum]
  case shown =>
    rw [State.endWindow_of_imbalance hr]
    exact State.judge_shows (hu ▸ State.advance_wf _ hs) hd r

/-- Settles O51: the window by what its end writes last; a relocation by the indices its one changing operation, the record applied, keeps, and by the erase that follows a block left empty. -/
theorem monitorsAndMaintenanceTakeTheirTurn : Obligations.MonitorsAndMaintenanceTakeTheirTurn := by
  refine ⟨fun d s hs hd => exec_imbalanceWindowEnd_shows hs hd rfl, fun b s hq ho => exec_atticRelocate_of_head hq ho, fun b s hv ho => exec_wearLevelRelocate_of_victim hv ho,
    fun b s => ⟨fun i => (s.relocate_holdsCrate b i).symm, fun hmoved hl hf => ?erased⟩⟩
  case erased =>
    obtain ⟨hq, he⟩ := State.eraseBlock_erases hf
    have same := (((s.emptyBlock b).eraseBlock b).odInc_beside 0x3300 7).tier
    rw [State.relocate_of_moved hmoved hl, State.block, same]
    exact ⟨hq, he⟩

end Sys2Proof.Machine
end

section
/-! PROOFS of the family 07_cellar_attic_and_crates: how a TIER_MOVE that meets no fault ends (O11). Its five rows run one operation, `State.tierMove`, each on the commands of its SUBOP. -/
namespace Sys2Proof.Machine

/-! A TIER_MOVE run by its consumer. -/

section
variable {s : State} {e : Exec} {mine : CmdInst → Bool}

/-- The commands that `State.tierMove` runs for a row: its own TIER_MOVEs of which no crate would go to a paused stack (R879). -/
def State.movable (s : State) (mine : CmdInst → Bool) (c : CmdInst) : Bool := c.op == 0x23 && mine c && decide (c.tmCount ≤ s.unpaused c)

theorem State.movable_of_unpaused {c : CmdInst} (hop : c.op = 0x23) (hm : mine c = true) (hu : c.tmCount ≤ s.unpaused c) : s.movable mine c = true := by
  simp [State.movable, hop, hm, hu]

/-- The run of a TIER_MOVE that a core executes. -/
def State.coreTierRun (s : State) (n : Nat) (e : Exec) : Run := tierRun none s (s.whoExec n e) e

theorem State.tierMove_core_of_starts {n : Nat} (hs : s.starts n e (tierChecks false e.cmd)) (hm : s.movable mine e.cmd = true) :
    s.tierMove (.core n) mine = (s.coreTierRun n e).st.endCore n e (s.coreTierRun n e).fin := by
  obtain ⟨he, -, -, hr⟩ := hs
  change s.runCore n (s.movable mine) (fun c _ => tierChecks false c) State.coreTierRun = _
  exact State.runCore_of_passed State.coreTierRun (State.execOf_of_mine he hm) hr

theorem State.hubExec_of_mine {cc : Nat} (he : s.hub.find? (fun x => x.cmd.ctx == cc) = some e) (hm : mine e.cmd = true) : s.hubExec cc mine = some e := by
  unfold State.hubExec
  rw [he, Option.filter_some, if_pos hm]

/-- The command as the hub die runs it: it starts now, within its own time limit. -/
def State.hubStarted (s : State) (e : Exec) : Exec := { e with start := s.now, limit := s.limitOf e.cmd }

/-- The run of a TIER_MOVE of the hub die's queue, on the attic die's movers (R329). -/
def State.hubTierRun (s : State) (cc : Nat) (e : Exec) : Run := tierRun none s { s.whoCtx cc none with die := dieAttic } (s.hubStarted e)

theorem State.tierMove_hub_of_passed {cc : Nat} (he : s.hub.find? (fun x => x.cmd.ctx == cc) = some e) (hm : s.movable mine e.cmd = true)
    (hready : s.ready = true) (hr : s.rejection e.cmd [] (tierChecks true e.cmd) = none) :
    s.tierMove (.hub cc) mine = (s.hubTierRun cc e).st.endHub (s.hubStarted e) (s.hubTierRun cc e).fin := by
  have hexec : (s.hubExec cc fun c => c.op == 0x23 && mine c && decide (c.tmCount ≤ s.unpaused c)) = some e := State.hubExec_of_mine he hm
  unfold State.tierMove
  simp only [hexec, hready, hr]
  rfl

end

/-! The five rows. -/

/-- The row `i` runs the TIER_MOVEs of a SUBOP (R323). -/
def TierRow (i : Consumer → Instr) (sub : Nat) : Prop :=
  ∃ mine : CmdInst → Bool, (∀ c, c.sub = sub → mine c = true) ∧ ∀ c s, exec (i c) s = .next (s.tierMove c mine)

theorem TierRow.completes {i : Consumer → Instr} {sub : Nat} (h : TierRow i sub) : tierCompletes i sub := by
  obtain ⟨mine, hmine, hexec⟩ := h
  refine ⟨fun n s e hs hop hsub hu => ?core, fun cc s e he hop hsub hu hready hr => ?hub⟩
  case core =>
    intro r hstop
    have hfin := Run.fin_of_complete hstop
    exact ⟨by rw [hexec, State.tierMove_core_of_starts hs (State.movable_of_unpaused hop (hmine _ hsub) hu)]; rfl, by rw [hfin], by rw [hfin]⟩
  case hub =>
    intro e1 r hstop
    have hfin := Run.fin_of_complete hstop
    exact ⟨by rw [hexec, State.tierMove_hub_of_passed he (State.movable_of_unpaused hop (hmine _ hsub) hu) hready hr]; rfl, by rw [hfin], by rw [hfin]⟩

theorem tierMoveMove_tierRow : TierRow .tierMoveMove 0 := ⟨fun c => c.sub == 0 || decide (4 < c.sub), by simp +contextual, fun _ _ => rfl⟩
theorem tierMoveSeal_tierRow : TierRow .tierMoveSeal 1 := ⟨fun c => c.sub == 1, by simp, fun _ _ => rfl⟩
theorem tierMoveStage_tierRow : TierRow .tierMoveStage 2 := ⟨fun c => c.sub == 2, by simp, fun _ _ => rfl⟩
theorem tierMoveDiscard_tierRow : TierRow .tierMoveDiscard 3 := ⟨fun c => c.sub == 3, by simp, fun _ _ => rfl⟩
theorem tierMoveDrop_tierRow : TierRow .tierMoveDrop 4 := ⟨fun c => c.sub == 4, by simp, fun _ _ => rfl⟩

/-- Settles O11: each row runs the TIER_MOVEs of its SUBOP (`TierRow`), and a run without a fault ends COMPLETE with its tiles (`Run.fin_of_complete`). -/
theorem tierMovesComplete : Obligations.TierMovesComplete :=
  ⟨tierMoveMove_tierRow.completes, tierMoveSeal_tierRow.completes, tierMoveStage_tierRow.completes, tierMoveDiscard_tierRow.completes, tierMoveDrop_tierRow.completes⟩

end Sys2Proof.Machine
end

section
/-! PROOFS of the family 08_fabric: a link's control and training (O42), the flits it takes (O43), its replays and its lanes (O44). Each row gets one equation for each of its outcomes. -/
namespace Sys2Proof.Machine

/-! A link by its number: what changes of links, counters and the passing of time leave of it. -/

/-- A field of a link that a change of links leaves as it is. -/
theorem State.updLink_link_field {α : Type} (g : Link → α) (s : State) (l j : Nat) {f : Link → Link} (hf : ∀ k, g (f k) = g k := by intro; rfl) : g ((s.updLink l f).link j) = g (s.link j) := by
  unfold State.link
  by_cases hj : j = l ∧ l < s.links.length
  · obtain ⟨rfl, hl⟩ := hj
    rw [State.updLink_links, nth_modAt_same _ _ _ _ hl, hf]
  · by_cases hl : j = l
    · have hlen : s.links.length ≤ j := by omega
      simp [nth, hlen]
    · rw [State.updLink_links, nth_modAt_other _ _ _ _ _ hl]

theorem State.odAdd_link (s : State) (ix sub n l : Nat) : (s.odAdd ix sub n).link l = s.link l := by
  obtain ⟨od, h⟩ := s.odAdd_eq ix sub n
  rw [h]
  rfl

theorem State.advance_link (s : State) (t l : Nat) : (s.advance t).link l = s.link l := by
  obtain ⟨od, cores, time, h⟩ := s.advance_eq t
  rw [h]
  rfl

/-! CONTROL (R369, R370, R374, R375). -/

/-- The outcome of a write that is accepted: noted in the flight recorder and answered with status 0. -/
theorem answered_accepted (ix sub old new : Nat) (t : State) : answered ix sub old new (t, 0) = .next ((t.flight 7 (ix * 256 + sub) old new none).emit (.status ix sub 0)) := rfl

section
variable {l : Nat} (hl : l < 36) (s : State)
include hl

theorem exec_linkDisable : exec (.linkDisable l) s = answered (0x4100 + l) 1 (s.odN (0x4100 + l) 1) 0 (s.linkControl l 0) := if_pos hl

theorem exec_linkIsolate : exec (.linkIsolate l) s = answered (0x4100 + l) 1 (s.odN (0x4100 + l) 1) 2 (s.linkControl l 2) := if_pos hl

theorem exec_linkEnable : exec (.linkEnable l) s = answered (0x4100 + l) 1 (s.odN (0x4100 + l) 1) 1 (s.linkControl l 1) := if_pos hl

theorem exec_linkHeldRelease : exec (.linkHeldRelease l) s = answered (0x4100 + l) 10 0 1 (s.heldRelease l) := if_pos hl

end

theorem State.linkControl_enabled (s : State) (l : Nat) :
    s.linkControl l 1 =
      (if (s.link l).st = .disabled ∨ (s.link l).st = .isolated ∨ ((s.link l).st = .down ∧ s.odN (0x4100 + l) 1 ≠ 1)
        then ((s.odSetN (0x4100 + l) 1 1).updLink l fun x => { x with bond := s.odN (0x4100 + l) 8 }).setLink l .training else s.odSetN (0x4100 + l) 1 1, 0) := by
  unfold State.linkControl State.linkCtl
  simp only [Nat.one_ne_zero, if_false, if_true, Bool.or_eq_true, Bool.and_eq_true, beq_iff_eq, bne_iff_ne, or_assoc]

/-! Training (R370, R371, R373). -/

theorem State.joinLink_unbonded {s : State} {l : Nat} (h : (s.link l).bond = 0) : s.joinLink l = s.setLink l (if popCount (s.link l).active < 4 then .narrow else .up) := by
  unfold State.joinLink
  simp only [h, if_true, apply_ite (s.setLink l)]

theorem exec_linkTrainRetry_of_training {l : Nat} {s : State} (hl : l < 36) (hctl : s.odN (0x4100 + l) 1 = 1) (hf : s.time.frefOk = true) (hst : (s.link l).st = .training) :
    exec (.linkTrainRetry l) s = .next ((s.updLink l fun x => { x with active := 0, good := 0, spareLane := none }).sendIdentity l) := by
  change execLinkTrainRetry l s = _
  unfold execLinkTrainRetry State.linkCtl
  simp only [hl, hctl, hf, hst]
  rfl

/-- What a training that changes nothing of the BOND value sends of the module (R373). -/
theorem State.updLink_sendIdentity (s : State) (l : Nat) {f : Link → Link} (hf : ∀ k, (f k).bond = k.bond := by intro; rfl) :
    (s.updLink l f).sendIdentity l = (s.updLink l f).emit (.train l (s.odN 0x1000 4) l s.fabric (s.link l).bond) := by
  unfold State.sendIdentity
  rw [State.updLink_link_field Link.bond s l l hf]
  rfl

/-- A link that is enabled and not carrying, with FREF, trains where at least two lanes lock (R371, R373). -/
theorem execLinkTrained_guard {l : Nat} {tr : Training} {s : State} (hl : l < 36) (hctl : s.odN (0x4100 + l) 1 = 1) (hf : s.time.frefOk = true)
    (hst : (s.link l).st = .training ∨ (s.link l).st = .down) (h2 : 2 ≤ (laneOrder tr).length) :
    (decide (l < 36) && s.linkCtl l == 1 && s.time.frefOk && ((s.link l).st == .training || (s.link l).st == .down) && decide (2 ≤ (laneOrder tr).length)) = true := by
  simp [State.linkCtl, hl, hctl, hf, hst, h2]

/-- Settles O42: each write of CONTROL, and each training, by its own equation. -/
theorem linksTrainAndFollowTheirControl : Obligations.LinksTrainAndFollowTheirControl := by
  intro l s hl
  refine ⟨exec_linkDisable hl s, exec_linkIsolate hl s, ?enable, State.joinLink_unbonded, exec_linkHeldRelease hl s, fun hctl hf hst => ?retry, fun tr hctl hf hst h2 => ?trained⟩
  case enable => rw [exec_linkEnable hl, State.linkControl_enabled, answered_accepted]
  case retry =>
    rw [exec_linkTrainRetry_of_training hl hctl hf hst, State.updLink_sendIdentity]
  case trained =>
    have trains := execLinkTrained_guard hl hctl hf hst h2
    change execLinkTrained l tr s = _
    unfold execLinkTrained
    simp only [trains, Bool.not_true, Bool.false_eq_true, if_false, decide_eq_true_eq, Bool.and_eq_true, Bool.or_eq_true, bne_iff_ne]

/-! Flits received (R382). -/

/-- Counting a codeword's corrected symbols changes of a link nothing but the counts of the present second (R379). -/
theorem State.countSymbols_link_field {α : Type} (g : Link → α) (s : State) (l : Nat) (f : Flit) (j : Nat) (hg : ∀ k x, g { k with second := x } = g k := by intros; rfl) :
    g ((s.countSymbols l f).link j) = g (s.link j) := by
  unfold State.countSymbols
  split
  · refine List.foldlRecOn _ _ (motive := fun t : State => g (t.link j) = g (s.link j)) rfl fun t ht e _ => ?_
    split
    · exact ht
    · rw [State.updLink_link_field g _ l j fun k => hg k _, State.odAdd_link, ht]
  · rfl

section
variable {s : State} {l lead : Nat} {f : Flit}

theorem exec_flitReceive_of_hears (h : s.hears l = true) : exec (.flitReceive l f) s = .next ((s.countSymbols l f).takeFlit l (s.leadOf l) f) := congrArg _ (if_pos h)

/-- The answer to a DATA flit that is not accepted: the first is answered with NAK, the others are discarded. -/
def State.refuseFlit (s : State) (lead : Nat) : State := if (s.link lead).nakOut then s else (s.updLink lead fun x => { x with nakOut := true }).nakFlit lead

theorem State.takeFlit_of_bad (h : flitOk f = false) : s.takeFlit l lead f = s.refuseFlit lead := by
  unfold State.takeFlit
  rw [h]
  rfl

theorem State.takeFlit_of_data (h : flitOk f = true) (hk : fld f.words 0 39 36 = 1) :
    s.takeFlit l lead f = if fld f.words 0 63 52 = (s.link lead).rxNext
      then ((s.takeReturns lead f).updLink lead fun x => { x with rxNext := (x.rxNext + 1) % 4096, nakOut := false, rx := x.rx ++ [s.rxFlit f] }).idleFlit lead
      else s.refuseFlit lead := by
  unfold State.takeFlit
  rw [h, hk]
  rfl

/-- After the symbols are counted a flit is refused as by the link before. -/
theorem State.countSymbols_refuseFlit (s : State) (l lead : Nat) (f : Flit) :
    (s.countSymbols l f).refuseFlit lead = if (s.link lead).nakOut then s.countSymbols l f else ((s.countSymbols l f).updLink lead fun x => { x with nakOut := true }).nakFlit lead := by
  unfold State.refuseFlit
  rw [State.countSymbols_link_field Link.nakOut]

theorem flitOk_checks (h : flitOk f = true) :
    f.words.length = 16 ∧ f.errs.sum ≤ 15 ∧ fld f.words 15 63 32 = crc32c (bytesOfWords (f.words.take 15) ++ leBytes 4 (fld f.words 15 31 0)) := by
  unfold flitOk fecOk at h
  simp only [Bool.and_eq_true, decide_eq_true_eq, beq_iff_eq] at h
  obtain ⟨⟨⟨hfec, hlen⟩, hcrc⟩, -⟩ := h
  exact ⟨hlen, hfec, hcrc⟩

end

/-- Settles O43: a flit that fails its checks, or is not next in order, is refused (`State.refuseFlit`); the symbols counted before leave the input buffer and its SEQ as they were. -/
theorem flitsAreAcceptedInOrderOrRefused : Obligations.FlitsAreAcceptedInOrderOrRefused := by
  intro l f s hears h c k
  have next : (c.link h).rxNext = k.rxNext := State.countSymbols_link_field Link.rxNext s l f h
  have held : (c.link h).rx = k.rx := State.countSymbols_link_field Link.rx s l f h
  have refused := s.countSymbols_refuseFlit l h f
  rw [exec_flitReceive_of_hears hears]
  refine ⟨fun hok hdata hseq => ?accepted, fun hok hdata hseq => ?gap, fun hbad => ?bad, flitOk_checks, fun _ => ⟨held, next, ?kept⟩⟩
  case accepted => rw [State.takeFlit_of_data hok hdata, if_pos (hseq.trans next.symm)]
  case gap => rw [State.takeFlit_of_data hok hdata, if_neg (fun hn => hseq (hn.trans next)), refused]
  case bad => rw [State.takeFlit_of_bad hbad, refused]
  case kept => exact (State.updLink_link_field Link.rx c h h).trans held

/-! Replays (R383 to R385). -/

theorem State.replayLink_eq (s : State) (lead : Nat) : s.replayLink lead = if (s.link lead).replayRun < 16 then s.resend lead else s.linkDown lead := by
  unfold State.replayLink
  simp only [← Nat.not_lt, ite_not]

theorem State.takeNak_eq (s : State) (lead ack : Nat) {u : State}
    (hu : u = s.updLink lead fun x => { x with replay := ackReplay ack x.replay, replayRun := if (ackReplay ack x.replay).length < x.replay.length then 0 else x.replayRun }) :
    s.takeNak lead ack = if (u.link lead).replay = [] then u else u.replayLink lead := by
  subst hu
  unfold State.takeNak
  simp only [List.isEmpty_iff]

section
variable {s : State} {l : Nat}

theorem exec_nakReceive_of_hears (ack : Nat) (h : s.hears l = true) : exec (.nakReceive l ack) s = .next (s.takeNak (s.leadOf l) (ack % 4096)) := congrArg _ (if_pos h)

theorem exec_replayTimeout_of_unacknowledged (h : s.hears l = true) (hlead : s.leadOf l = l) (hr : (s.link l).replay ≠ []) :
    exec (.replayTimeout l) s = .next ((s.advance ((s.link l).ackAt + s.odN 0x4000 3)).replayLink l) := by
  refine congrArg _ (if_pos ?_)
  simp [h, hlead, hr]

/-! A signal lost (R386). -/

theorem State.linkLost_of_carrying (h : linkUp (s.link l) = true ∨ (s.link l).st = .narrow) : s.linkLost l = s.linkDown l := by
  unfold State.linkLost
  simp [h]

theorem State.linkLost_of_held (h : (s.link l).st = .held) : s.linkLost l = s.stopLink l .down := by
  unfold State.linkLost linkUp
  simp [h]

theorem exec_linkSignalLoss_of_trained (hl : l < 36) (h : linkUp (s.link l) = true ∨ (s.link l).st = .narrow ∨ (s.link l).st = .held) : exec (.linkSignalLoss l) s = .next (s.linkLost l) := by
  refine congrArg _ (if_pos ?_)
  simp [hl, h, or_assoc]

/-! Lanes (R387 to R390). -/

/-- A second that ends on a lane: its symbols counted, those of the flits to come counted from 0 (R379, R387). -/
def State.secondEnded (s : State) (l lane symbols : Nat) : State := (s.odAdd (0x4100 + l) (13 + lane) symbols).updLink l fun x => { x with second := modAt x.second lane fun _ => 0 }

/-- A second that ends on an active lane whose symbols do not pass the limit, or that has no spare: they are counted, and nothing else happens. -/
theorem exec_laneSubstitute_of_kept {lane : Nat} (symbols : Nat) (hl : l < 36) (hlane : lane < 5) (ha : bit (s.link l).active lane = true)
    (h : (s.link l).spareLane = none ∨ symbols + nth (s.link l).second lane 0 ≤ s.odN 0x4000 7) :
    exec (.laneSubstitute l lane symbols) s = .next (s.secondEnded l lane symbols) := by
  change execLaneSubstitute l lane symbols s = _
  unfold execLaneSubstitute
  simp only [hl, hlane, ha]
  rcases h with h | h
  · rw [h]
    rfl
  · simp only [Nat.not_lt.2 h]
    cases (s.link l).spareLane <;> rfl

theorem exec_laneSubstitute_of_spared {lane symbols sp : Nat} (hl : l < 36) (hlane : lane < 5) (ha : bit (s.link l).active lane = true)
    (hs : (s.link l).spareLane = some sp) (h : s.odN 0x4000 7 < symbols + nth (s.link l).second lane 0) :
    exec (.laneSubstitute l lane symbols) s = .next ((((s.secondEnded l lane symbols).laneFlit (s.leadOf l)).spareIn l lane sp).addRepair 5 (5 * l + lane) 0) := by
  change execLaneSubstitute l lane symbols s = _
  unfold execLaneSubstitute
  simp only [hl, hlane, ha, hs, h]
  rfl

/-- A link with a lane fewer that keeps lock (R387). -/
def State.laneLost (s : State) (l lane : Nat) : State := (s.updLink l fun x => { x with good := setBit x.good lane false }).addRepair 5 (5 * l + lane) 0

/-- The lanes of a link that keep lock. -/
def State.lanesLeft (s : State) (l : Nat) : List Nat := (List.range 5).filter fun i => bit (s.link l).good i

/-- A link without a spare that an active lane has left goes on with two of the lanes left (R390, R395). -/
def State.laneNarrowed (s u : State) (l : Nat) : State :=
  let v := (if (s.link l).lead.isSome then u.leaveBond l else u).updLink l fun x => { x with active := laneMask ((u.lanesLeft l).take 2) }
  if (s.link l).st = .narrow then v else (if (s.link l).st = .held then v else v.setLink l .narrow).record (linkFault .fabLinkNarrow l)

theorem exec_laneLockLoss_of_active {lane : Nat} (hl : l < 36) (hlane : lane < 5) (hg : bit (s.link l).good lane = true) (ha : bit (s.link l).active lane = true) (hs : (s.link l).spareLane ≠ some lane) :
    exec (.laneLockLoss l lane) s = .next (match (s.link l).spareLane with
      | some sp => (s.laneLost l lane).spareIn l lane sp
      | none => if ((s.laneLost l lane).lanesLeft l).length < 2 then (s.laneLost l lane).linkDown l else s.laneNarrowed (s.laneLost l lane) l) := by
  have loses : (decide (l < 36) && decide (lane < 5) && bit (s.link l).good lane) = true := by simp [hl, hlane, hg]
  change execLaneLockLoss l lane s = _
  unfold execLaneLockLoss State.laneNarrowed
  simp only [loses, ha, hs, beq_iff_eq, Bool.not_true, Bool.false_eq_true, if_false]
  cases (s.link l).spareLane <;> rfl

end

/-- Settles O44: a replay goes on while fewer than 16 have run (`State.replayLink_eq`); the other rows by their own equations. -/
theorem linksReplayAndLoseLanes : Obligations.LinksReplayAndLoseLanes := by
  intro l s hl
  refine ⟨fun ack hears => ?nak, fun hears hlead hr => ?timeout, fun h => ?lost, fun h => ?held, fun lane symbols hlane ha => ⟨exec_laneSubstitute_of_kept symbols hl hlane ha, fun sp => exec_laneSubstitute_of_spared hl hlane ha⟩,
    fun lane hlane hg ha hs => ?lock⟩
  case nak =>
    rw [exec_nakReceive_of_hears ack hears, State.takeNak_eq _ _ _ rfl, State.replayLink_eq]
    rfl
  case timeout =>
    rw [exec_replayTimeout_of_unacknowledged hears hlead hr, State.replayLink_eq, State.advance_link]
    rfl
  case lost =>
    rw [exec_linkSignalLoss_of_trained hl (h.imp_right .inl), State.linkLost_of_carrying h]
    rfl
  case held => rw [exec_linkSignalLoss_of_trained hl (.inr (.inr h)), State.linkLost_of_held h]
  case lock =>
    rw [exec_laneLockLoss_of_active hl hlane hg ha hs]
    refine ⟨fun sp hsp => ?spared, fun hsp hleft => ?down, fun hsp hleft => ?narrowed⟩
    case spared => rw [hsp]; rfl
    case down => rw [hsp]; exact congrArg _ (if_pos hleft)
    case narrowed => rw [hsp]; exact congrArg _ (if_neg (Nat.not_lt.2 hleft))

end Sys2Proof.Machine
end

section
/-! PROOFS of the family 08_fabric: packets through the module (O45). A packet that leaves its input buffer meets one of six outcomes; a copy of the routing table is read back entry by entry. -/
namespace Sys2Proof.Machine

/-! A packet taken out of its input buffer (R414, R427). -/

theorem exec_packetRoute_of_whole {l cls vc : Nat} {s : State} {f : RxFlit} {fs : List RxFlit} (hcls : cls < 4) (hvc : vc < 2)
    (hfs : ((s.link l).rx.filter fun x => x.key == cls * 2 + vc) = f :: fs) (hn : packetFlits f.flit ≤ fs.length + 1) {u : State}
    (hu : u = s.updLink l fun x => { x with rx := takeKey (cls * 2 + vc) (packetFlits f.flit) x.rx, freed := modAt x.freed (cls * 2 + vc) (· + packetFlits f.flit), stalled := x.stalled.filter (· != cls) }) :
    exec (.packetRoute l cls vc) s = .next ((if s.hears l then u.idleFlit l else u).routePacket l f.time f.out (parsePacket (flitBytes (((f :: fs).take (packetFlits f.flit)).map RxFlit.flit)))) := by
  have here : (decide ((f :: fs).length < packetFlits f.flit) || decide (3 < cls) || decide (1 < vc)) = false := by
    simp only [List.length_cons, Bool.or_eq_false_iff, decide_eq_false_iff_not]
    omega
  subst hu
  change execPacketRoute l cls vc s = _
  unfold execPacketRoute
  simp only [hfs, here, Bool.false_eq_true, if_false]

/-! What becomes of a packet (R372, R400, R414, R417, R419). -/

section
variable {s : State} {l time : Nat} {out : Option (Nat × Bool)} {p : Packet}

theorem State.routePacket_of_noAddress (hf : s.fabric = 0xFFFF) (hk : p.kind ≠ 3) : s.routePacket l time out p = s := by
  unfold State.routePacket
  simp [hf, hk]

theorem State.routePacket_of_bad (h : s.fabric ≠ 0xFFFF ∨ p.kind = 3) (hb : s.badPacket p = true) :
    s.routePacket l time out p = (s.odInc 0x4000 8).recordLimited { code := .fabBadPacket } 0 := by
  have addressed : ¬(s.fabric = 0xFFFF ∧ p.kind ≠ 3) := by tauto
  unfold State.routePacket
  simp [hb, addressed]

variable (hb : s.badPacket p = false)
include hb

theorem State.routePacket_of_time (hk : p.kind = 3) : s.routePacket l time out p = s.updLink l fun x => { x with timeIn := x.timeIn ++ [(p, time)] } := by
  unfold State.routePacket
  simp [hb, hk]

variable (hf : s.fabric ≠ 0xFFFF) (hk : p.kind ≠ 3)
include hf hk

theorem State.routePacket_of_held (hst : (s.link l).st = .held) : s.routePacket l time out p = s := by
  unfold State.routePacket
  simp [hb, hf, hk, hst]

variable (hst : (s.link l).st ≠ .held)
include hst

theorem State.routePacket_of_own (hd : p.dst = s.fabric) : s.routePacket l time out p = { s with inbox := s.inbox ++ [{ p with die := diePort (l / 9) }] } := by
  unfold State.routePacket
  simp [hb, hf, hk, hst, hd]

theorem State.routePacket_of_other (hd : p.dst ≠ s.fabric) : s.routePacket l time out p = s.passOn (diePort (l / 9)) out p := by
  unfold State.routePacket
  simp [hb, hf, hk, hst, hd]

end

/-- The output a packet is looked up again (R386). -/
def State.lookAgain (s : State) (p : Packet) : Option (Nat × Bool) := (s.chooseSlot p).map fun x => (x.2, bit (s.routeEntry p.dst) (27 + x.1))

section
variable {s : State} {die : Nat} {out : Option (Nat × Bool)} {p : Packet}

theorem State.passOn_of_live {o : Nat × Bool} (ho : out = some o) (hl : s.linkLive o.1 = true) : s.passOn die out p = s.transit die o.1 (if o.2 then { p with vc := 1 } else p) := by
  unfold State.passOn
  simp [ho, hl]

theorem State.passOn_of_again {o o2 : Nat × Bool} (ho : out = some o) (hl : s.linkLive o.1 = false) (ha : s.lookAgain p = some o2) :
    s.passOn die out p = s.transit die o2.1 (if o2.2 then { p with vc := 1 } else p) := by
  unfold State.lookAgain at ha
  unfold State.passOn
  simp only [ho, Option.bind_some, hl, ha]
  rfl

theorem State.passOn_of_lost (h : out = none ∨ ∃ o : Nat × Bool, out = some o ∧ s.linkLive o.1 = false ∧ s.lookAgain p = none) : s.passOn die out p = s.odInc 0x4000 6 := by
  unfold State.passOn
  rcases h with h | ⟨o, ho, hl, ha⟩
  · rw [h]
    rfl
  · unfold State.lookAgain at ha
    simp only [ho, Option.bind_some, hl, ha]
    rfl

end

/-! The routing tables (R416, R417). -/

/-- One entry of the shadow table copied: the value is that of `s`. -/
def State.copyRoute (s t : State) (i : Nat) : State := t.odSet (0x4220 + i / 256) (i % 256) (s.odW (0x4200 + i / 256) (i % 256))

theorem State.copyRoutes_eq_foldl (s : State) : s.copyRoutes = (List.range 4096).foldl s.copyRoute s := rfl

theorem State.odSet_odW {s : State} (hw : mapWf odDefault s.od = true) (ix sub : Nat) (v : Word) (ix' sub' : Nat) :
    (s.odSet ix sub v).odW ix' sub' = if odKey ix' sub' = odKey ix sub then v else s.odW ix' sub' := mapGet_put odDefault s.od 0 _ _ v hw

theorem State.foldl_copyRoute_odW (s : State) (d : Nat) (l : List Nat) {t : State} (hw : mapWf odDefault t.od = true) :
    (l.foldl s.copyRoute t).odW (0x4220 + d / 256) (d % 256) = if d ∈ l then s.odW (0x4200 + d / 256) (d % 256) else t.odW (0x4220 + d / 256) (d % 256) := by
  induction l generalizing t with
  | nil => rw [List.foldl_nil, if_neg List.not_mem_nil]
  | cons i l ih =>
    have key : odKey (0x4220 + d / 256) (d % 256) = odKey (0x4220 + i / 256) (i % 256) ↔ d = i := by
      unfold odKey
      omega
    rw [List.foldl_cons, ih (mapWf_put _ _ hw)]
    unfold State.copyRoute
    simp only [State.odSet_odW hw, key, List.mem_cons]
    by_cases hd : d = i
    · subst hd
      simp
    · simp [hd]

/-- After a copy the active table reads as the shadow table did. -/
theorem State.copyRoutes_routeEntry {s : State} (hw : s.EntriesWf) {d : Nat} (hd : d < 4096) : s.copyRoutes.routeEntry d = s.odN (0x4200 + d / 256) (d % 256) := by
  have row : d / 256 % 16 = d / 256 := Nat.mod_eq_of_lt (by omega)
  unfold State.routeEntry State.odN
  rw [row, State.copyRoutes_eq_foldl, State.foldl_copyRoute_odW s d _ hw.1, if_pos (List.mem_range.2 hd)]

/-! Stalls and tokens (R425, R430). -/

theorem exec_fabStall_of_waiting {l cls at_ : Nat} {s : State} (h : headerAt (s.link l) cls = some at_) (hs : (s.link l).stalled.contains cls = false) :
    exec (.fabStall l cls) s = .next (((s.advance (at_ + s.odN 0x4000 4 * 1000 + 1)).updLink l fun x => { x with stalled := cls :: x.stalled }).record { linkFault .fabStall l with detail0 := cls }) := by
  change execFabStall l cls s = _
  unfold execFabStall
  simp only [h, hs]
  rfl

/-- Settles O45: a packet by the outcomes of `State.routePacket` and `State.passOn`, the copied table by what each entry reads after the copy. -/
theorem packetsAreRoutedByTheActiveTable : Obligations.PacketsAreRoutedByTheActiveTable := by
  refine ⟨fun l cls vc s f fs hcls hvc hfs hn => exec_packetRoute_of_whole hcls hvc hfs hn rfl, fun l time out s p => ?packet, fun t s => rfl, fun t ts s h => ?copied, fun s d hw => State.copyRoutes_routeEntry hw,
    fun l s hw hl => ⟨_, rfl, ?token, fun j hj => nth_modAt_other _ _ _ _ _ hj⟩, fun l cls at_ s => exec_fabStall_of_waiting⟩
  case packet =>
    refine ⟨State.routePacket_of_noAddress, State.routePacket_of_bad, State.routePacket_of_time, fun hf hb hk => ?addressed⟩
    refine ⟨State.routePacket_of_held hb hf hk, State.routePacket_of_own hb hf hk, fun hst hd => ?other⟩
    rw [State.routePacket_of_other hb hf hk hst hd]
    exact ⟨fun o => State.passOn_of_live, fun o o2 => State.passOn_of_again, State.passOn_of_lost⟩
  case copied =>
    change execRoutingTableCopy s = _
    unfold execRoutingTableCopy
    rw [h]
  case token =>
    obtain ⟨-, -, -, -, -, links⟩ := hw
    exact congrArg Link.tokens (nth_modAt_same _ _ _ _ (links ▸ hl))

end Sys2Proof.Machine
end

section
/-! PROOFS of the family 08_fabric: messages and the objects they name (O47). Each receiver takes its oldest packet (`State.onPacket_of_taken`) and hands it to the object's own operation. -/
namespace Sys2Proof.Machine

theorem State.onPacket_of_taken {s : State} {f : Packet → Bool} {q : Packet} {rest : List Packet} {g : State → Packet → State} {t : State}
    (h : takePacket f s.inbox = some (q, rest)) (hg : g { s with inbox := rest } q = t) : s.onPacket f g = t := by
  unfold State.onPacket
  rw [h, ← hg]

section
variable {s : State} {q : Packet} {rest : List Packet} {p n : Nat}

theorem exec_fenceMessageReceive (h : takePacket (messageFor MsgObject.isFence) s.inbox = some (q, rest)) (ho : messageObject q.addr = some (.fence p n)) :
    exec .fenceMessageReceive s = .next (({ s with inbox := rest } : State).fenceMessage q p n) :=
  congrArg _ (State.onPacket_of_taken h (by rw [ho]))

theorem exec_creditMessageReceive (h : takePacket (messageFor MsgObject.isCredit) s.inbox = some (q, rest)) (ho : messageObject q.addr = some (.credit p n)) :
    exec .creditMessageReceive s = .next (({ s with inbox := rest } : State).creditMessage q p n) :=
  congrArg _ (State.onPacket_of_taken h (by rw [ho]))

theorem exec_normMessageReceive (h : takePacket (messageFor MsgObject.isNorm) s.inbox = some (q, rest)) (ho : messageObject q.addr = some (.norm p n)) :
    exec .normMessageReceive s = .next (({ s with inbox := rest } : State).normMessage q p n) :=
  congrArg _ (State.onPacket_of_taken h (by rw [ho]))

theorem exec_barrierMessageReceive (h : takePacket (messageFor MsgObject.isBarrier) s.inbox = some (q, rest)) (ho : messageObject q.addr = some (.barrier p n)) :
    exec .barrierMessageReceive s = .next (({ s with inbox := rest } : State).barrierMessage q p n) :=
  congrArg _ (State.onPacket_of_taken h (by rw [ho]))

theorem exec_reduceCreditReceive (h : takePacket (messageFor MsgObject.isReduce) s.inbox = some (q, rest)) (ho : messageObject q.addr = some (.reduce p)) :
    exec .reduceCreditReceive s = .next (({ s with inbox := rest } : State).reduceCredit q p) :=
  congrArg _ (State.onPacket_of_taken h (by rw [ho]))

/-! What a fence or credit message does to its object (R591, R596). -/

theorem State.fenceMessage_of_add (hg : s.syncGood q p = true) (h : fld (wordsOf 2 q.data) 1 7 0 = 1) : s.fenceMessage q p n = s.fenceAdd p n (fld (wordsOf 2 q.data) 0 63 0) := by
  unfold State.fenceMessage
  simp [hg, h]

theorem State.fenceMessage_of_max (hg : s.syncGood q p = true) (h : fld (wordsOf 2 q.data) 1 7 0 = 2) : s.fenceMessage q p n = s.fenceMax p n (fld (wordsOf 2 q.data) 0 63 0) := by
  unfold State.fenceMessage
  simp [hg, h]

theorem State.fenceMessage_of_stray (h : s.syncGood q p = false ∨ (fld (wordsOf 2 q.data) 1 7 0 ≠ 1 ∧ fld (wordsOf 2 q.data) 1 7 0 ≠ 2)) : s.fenceMessage q p n = s.syncStray p := by
  unfold State.fenceMessage
  rcases h with h | ⟨h1, h2⟩
  · simp [h]
  · simp [h1, h2]

theorem State.creditMessage_of_give (hg : s.syncGood q p = true) (h : fld (wordsOf 2 q.data) 1 7 0 = 1) (hz : fld (wordsOf 2 q.data) 0 63 32 = 0) :
    s.creditMessage q p n = (s.creditAdd p n (fld (wordsOf 2 q.data) 0 31 0)).creditOverflow (s.credits p n) (fld (wordsOf 2 q.data) 0 31 0) p := by
  unfold State.creditMessage
  simp [hg, h, hz]

theorem State.creditMessage_of_stray (h : s.syncGood q p = false ∨ fld (wordsOf 2 q.data) 1 7 0 ≠ 1 ∨ fld (wordsOf 2 q.data) 0 63 32 ≠ 0) : s.creditMessage q p n = s.syncStray p := by
  unfold State.creditMessage
  rcases h with h | h | h <;> simp [h]

end

/-- Settles O47: each receiver hands its packet to the object's operation; a fence and a credit message by what their words ask. -/
theorem messagesReachTheirObjects : Obligations.MessagesReachTheirObjects := by
  intro s q rest p n u ws bad
  refine ⟨fun ht ho => ?fence, fun ht ho => ?credit, exec_normMessageReceive, exec_barrierMessageReceive, exec_reduceCreditReceive⟩
  case fence =>
    rw [exec_fenceMessageReceive ht ho]
    exact ⟨fun hg h => congrArg _ (State.fenceMessage_of_add hg h), fun hg h => congrArg _ (State.fenceMessage_of_max hg h), fun h => congrArg _ (State.fenceMessage_of_stray h)⟩
  case credit =>
    rw [exec_creditMessageReceive ht ho]
    exact ⟨fun hg h hz => congrArg _ (State.creditMessage_of_give hg h hz), fun h => congrArg _ (State.creditMessage_of_stray h)⟩

end Sys2Proof.Machine
end

section
/-! PROOFS of the family 08_fabric: what the traffic of a store can change. Every other field of the state is as it was, the packets in the module and the DONEs that wait among them. -/
namespace Sys2Proof.Machine

/-- From `s` to `t` only memory's traffic has passed: counters, the Larder, HBM, the arbiters and regulators, the diagnosis unit, the host port and what is sent may differ. -/
def Traffic (s t : State) : Prop :=
  t = { s with od := t.od, larder := t.larder, hbm := t.hbm, arbReqs := t.arbReqs, buckets := t.buckets, charged := t.charged, diag := t.diag, host := t.host, out := t.out }

theorem Traffic.refl (s : State) : Traffic s s := rfl

theorem Traffic.trans {s t u : State} (h : Traffic s t) (k : Traffic t u) : Traffic s u := by
  unfold Traffic at h k ⊢
  refine k.trans ?_
  rw [h]

theorem Traffic.ite {c : Prop} [Decidable c] {s t u : State} (ht : Traffic s t) (hu : Traffic s u) : Traffic s (if c then t else u) := by
  split
  · exact ht
  · exact hu

theorem traffic_foldl {α : Type} {f : State → α → State} (hf : ∀ s a, Traffic s (f s a)) (l : List α) (s : State) : Traffic s (l.foldl f s) :=
  List.foldlRecOn l f (motive := Traffic s) (.refl s) fun t ht a _ => ht.trans (hf t a)

section
variable (s : State)

theorem State.odAdd_traffic (ix sub n : Nat) : Traffic s (s.odAdd ix sub n) := by
  obtain ⟨od, h⟩ := s.odAdd_eq ix sub n
  rw [h]
  rfl

/-! The arbiters on the way (R37). -/

theorem State.passArb_traffic (dom k inst : Nat) (part : Option Nat) (units : Nat) : Traffic s (s.passArb dom k inst part units) := rfl

theorem State.crossMesh_traffic (a b : Nat) (part : Option Nat) (n : Nat) : Traffic s (s.crossMesh a b part n) := traffic_foldl (fun t i => t.passArb_traffic _ _ i _ _) _ s

theorem State.cross_traffic (w : Who) (write : Bool) (a n : Nat) : Traffic s (s.cross w write a n) := by
  have there := Traffic.ite (c := write = true) (s.crossMesh_traffic w.die (s.dieOf a) w.part n)
    ((s.crossMesh_traffic w.die (s.dieOf a) w.part 0).trans (State.crossMesh_traffic _ (s.dieOf a) w.die w.part n))
  unfold State.cross
  dsimp only
  refine Traffic.trans ?home (.ite (State.passArb_traffic _ _ _ _ _ _) (.refl _))
  case home => split <;> exact there.trans rfl

/-! The Larder and HBM (R279 to R286, R298 to R302). -/

theorem State.serve_traffic (o : Nat) (part : Option Nat) : Traffic s (s.serve o part) := rfl

theorem State.withHbm_traffic (f : Hbm → Hbm) : Traffic s (s.withHbm f) := rfl

theorem State.cleanCopy_traffic (o : Nat) : Traffic s (s.cleanCopy o) := rfl

theorem State.updLine_traffic (d line : Nat) (f : LarderLine → LarderLine) : Traffic s (s.updLine d line f) := rfl

theorem State.keepStale_traffic (o : Nat) : Traffic s (s.keepStale o) := .ite rfl rfl

theorem State.touchLine_traffic (d line hint : Nat) : Traffic s (s.touchLine d line hint) := .ite rfl rfl

theorem State.writeBack_traffic (x : LarderLine) : Traffic s (s.writeBack x) := by
  unfold State.writeBack
  refine traffic_foldl (fun t e => ?_) _ s
  split <;> rfl

theorem State.evict_traffic (x : LarderLine) : Traffic s (s.evict x) :=
  ((s.writeBack_traffic x).trans (traffic_foldl State.cleanCopy_traffic (s.lineSectors x) _)).trans rfl

variable {s} in
theorem State.allocate_traffic {t : State} {o : Nat} {part : Option Nat} {keep : Bool} {secs : List SectorSt} (h : s.allocate o part keep secs = some t) : Traffic s t := by
  unfold State.allocate at h
  dsimp only at h
  split at h
  case h_1 => cases h
  case h_2 old _ =>
    obtain rfl := Option.some.inj h
    cases old with
    | none => rfl
    | some x => exact (s.evict_traffic x).trans rfl

theorem State.corrected_traffic (o : Nat) : Traffic s (s.corrected o) := s.odAdd_traffic _ _ _

theorem State.fetchHbm_traffic (o : Nat) (part : Option Nat) : Traffic s (s.fetchHbm o part) :=
  (s.serve_traffic o part).trans (.ite ((State.withHbm_traffic _ _).trans (State.corrected_traffic _ o)) (.refl _))

theorem State.checkCopy_traffic (o : Nat) (st : SectorSt) (part : Option Nat) : Traffic s (s.checkCopy o st part) :=
  .ite ((s.cleanCopy_traffic o).trans (State.corrected_traffic _ o)) (.ite ((s.fetchHbm_traffic o part).trans ((State.cleanCopy_traffic _ o).trans (State.corrected_traffic _ o))) (.refl s))

theorem State.writeHbm_traffic (o : Nat) (full : Bool) (part : Option Nat) : Traffic s (s.writeHbm o full part) := .ite rfl ((s.fetchHbm_traffic o part).trans rfl)

theorem State.writeSector_traffic (o hint : Nat) (full : Bool) (part : Option Nat) : Traffic s (s.writeSector o hint full part) := by
  have counted : ∀ n, Traffic s (s.odInc (0x3010 + s.homeDie o) n) := fun n => s.odAdd_traffic _ n 1
  have passed := (counted 8).trans (State.writeHbm_traffic _ o full part)
  have fetched : ∀ t : State, Traffic t (if full then t else t.fetchHbm o part) := fun t => .ite (.refl t) (t.fetchHbm_traffic o part)
  have dirtied : ∀ (t : State) (d l i : Nat), Traffic t (((t.keepStale o).updLine d l fun y => { y with sectors := modAt y.sectors i fun _ => .dirty }).touchLine d l hint) :=
    fun t d l i => ((t.keepStale_traffic o).trans (State.updLine_traffic _ d l _)).trans (State.touchLine_traffic _ d l hint)
  unfold State.writeSector
  dsimp only
  split
  case h_1 =>
    refine .ite ?held (.ite passed ?missed)
    case held => exact (counted 7).trans ((Traffic.ite (State.cleanCopy_traffic _ o) (State.checkCopy_traffic _ _ _ _)).trans (dirtied _ _ _ _))
    case missed => exact (counted 8).trans ((fetched _).trans (dirtied _ _ _ _))
  case h_2 =>
    refine .ite passed ?_
    split
    case h_1 h => exact (((counted 8).trans (State.allocate_traffic h)).trans (fetched _)).trans (State.keepStale_traffic _ o)
    case h_2 => exact passed

/-! A store. -/

theorem State.charge_traffic (w : Who) (dom r inst n : Nat) : Traffic s (s.charge w dom r inst n) := by
  obtain ⟨part, ctx, core, die⟩ := w
  cases part <;> cases ctx
  · exact (s.odAdd_traffic _ _ _).trans rfl
  · exact ((s.odAdd_traffic _ _ _).trans (State.odAdd_traffic _ _ _ _)).trans rfl
  · exact (s.odAdd_traffic _ _ _).trans rfl
  · exact ((s.odAdd_traffic _ _ _).trans (State.odAdd_traffic _ _ _ _)).trans rfl

theorem State.readCellar_traffic (a : Nat) : Traffic s (s.readCellar a) := .ite ((s.withHbm_traffic _).trans (State.odAdd_traffic _ _ _ _)) (.refl s)

theorem State.backInvalidate_traffic (write : Bool) (a n : Nat) : Traffic s (s.backInvalidate write a n) := by
  have told : ∀ l : List Nat, Traffic s (l.foldl (fun (x : State) l => x.emit (.snoop l write)) s) := fun l => traffic_foldl (f := fun (x : State) l => x.emit (.snoop l write)) (fun _ _ => rfl) l s
  exact .ite (.refl s) (.ite ((told _).trans rfl) (told _))

theorem State.passSector_traffic (w : Who) (hint dom r inst : Nat) (full : Bool) (a : Nat) : Traffic s (s.passSector w hint dom r inst full a) :=
  (s.cross_traffic w true a 32).trans (.ite ((State.writeSector_traffic _ _ _ _ _).trans (State.charge_traffic _ _ _ _ _ _)) (.ite (.refl _) (State.readCellar_traffic _ a)))

theorem State.passWrite_traffic (w : Who) (hint a n : Nat) (sectors : List Nat) (full : Nat → Bool) : Traffic s (s.passWrite w hint a n sectors full) := by
  have crossed := s.cross_traffic w true a n
  unfold State.passWrite
  split
  case h_1 => exact crossed
  case h_2 dom r inst _ =>
    have passed := traffic_foldl (fun t x => t.passSector_traffic w hint dom r inst (full x) x) sectors s
    exact .ite passed (.ite (passed.trans (State.charge_traffic _ _ _ _ _ _)) (crossed.trans (State.charge_traffic _ _ _ _ _ _)))

theorem State.healed_traffic (a n : Nat) : Traffic s (s.healed a n) := .ite rfl (.ite rfl rfl)

/-- A store is its bytes in memory and the traffic that carries them there. -/
theorem State.store_traffic (w : Who) (hint a : Nat) (bs : List Byte) : ∃ t : State, Traffic s t ∧ s.store w hint a bs = { t with mem := memPutBytes t.mem a bs } :=
  ⟨_, ((s.backInvalidate_traffic true a bs.length).trans (State.passWrite_traffic _ w hint a bs.length (sectorsOf a bs.length) (covers a bs.length))).trans (State.healed_traffic _ a bs.length), rfl⟩

theorem State.store_dones (w : Who) (hint a : Nat) (bs : List Byte) : (s.store w hint a bs).dones = s.dones := by
  obtain ⟨t, ht, hs⟩ := s.store_traffic w hint a bs
  rw [hs, ht]

theorem State.store_inbox (w : Who) (hint a : Nat) (bs : List Byte) : (s.store w hint a bs).inbox = s.inbox := by
  obtain ⟨t, ht, hs⟩ := s.store_traffic w hint a bs
  rw [hs, ht]

end

end Sys2Proof.Machine
end

section
/-! PROOFS of the family 08_fabric: WRITEs taken, and DONEs sent and taken (O46). -/
namespace Sys2Proof.Machine

/-! A WRITE (R403 to R406, R512). -/

theorem Reported.dones {s t : State} : Reported s t → t.dones = s.dones := by
  rintro ⟨_, _, _, _, _, rfl⟩
  rfl

section
variable {s : State} {q : Packet}

theorem exec_writeReceive_of_taken {rest : List Packet} (h : takePacket (fun x => x.kind == 0) s.inbox = some (q, rest)) :
    exec .writeReceive s = .next (({ s with inbox := rest } : State).takeWrite q) := congrArg _ (State.onPacket_of_taken h rfl)

/-- A WRITE that is accepted has its bytes in memory and awaits DONE; it leaves the packets behind it as they were. -/
theorem State.takeWrite_of_accepted {p : Nat} (h : s.writeCheck q = .ok p) :
    (s.takeWrite q).mem = memPutBytes s.mem q.addr q.data ∧ (s.takeWrite q).dones = noteDone s.now q none s.dones ∧ (s.takeWrite q).inbox = s.inbox := by
  unfold State.takeWrite
  rw [h]
  exact ⟨State.store_mem _ _ _ _ _, congrArg (noteDone s.now q none) (State.store_dones _ _ _ _ _), State.store_inbox _ _ _ _ _⟩

theorem State.takeWrite_of_rejected {c : Code} (h : s.writeCheck q = .error c) :
    s.takeWrite q = { s.writeRejected q c with dones := noteDone s.now q (some (codeNum c, s.globalAddr q.addr)) (s.writeRejected q c).dones } := by
  unfold State.takeWrite
  rw [h]

/-- A WRITE rejected for another cause than an uncorrectable sector is counted and recorded, and nothing else happens. -/
theorem State.writeRejected_reported {c : Code} (hc : c ≠ .memUncorrectable) : Reported s (s.writeRejected q c) := by
  unfold State.writeRejected
  dsimp only
  rw [if_neg hc]
  split
  · exact (s.odInc_reported _ _).trans (State.record_reported _ _)
  · split
    · exact (s.odInc_reported _ _).trans (State.record_reported _ _)
    · exact .refl s

end

/-! A DONE sent (R405). -/

section
variable {s u : State} {src xfer : Nat} {d : PendingDone}

theorem exec_doneSend_of_oldest (h : s.dones.find? (fun x => x.src == src && x.xfer == xfer) = some d) : exec (.doneSend src xfer) s = .next (s.sendDone d) := by
  change execDoneSend src xfer s = _
  unfold execDoneSend
  rw [h]

theorem State.sendDone_of_sent (h : ({ s with dones := s.dones.erase d } : State).send {} (donePacket d) = .ok u) : s.sendDone d = u := by
  unfold State.sendDone
  simp only [h]

theorem State.sendDone_of_lost {c : Code} (h : ({ s with dones := s.dones.erase d } : State).send {} (donePacket d) = .error c) : s.sendDone d = { s with dones := s.dones.erase d } := by
  unfold State.sendDone
  simp only [h]

end

/-! A DONE taken (R407, R411). -/

/-- The core, with its command, whose transfer a DONE acknowledges. -/
def State.doneFor (s : State) (q : Packet) : Option (Nat × Exec) := (List.range 384).findSome? fun n => ((s.core n).exec.filter fun e => e.xfers.any (ofDone q)).map fun e => (n, e)

section
variable {s : State} {q : Packet}

theorem exec_doneReceive_of_taken {rest : List Packet} (h : takePacket (fun x => x.kind == 2) s.inbox = some (q, rest)) :
    exec .doneReceive s = .next (({ s with inbox := rest } : State).takeDone q) := congrArg _ (State.onPacket_of_taken h rfl)

theorem State.doneCore_eq (s : State) (n : Nat) (e : Exec) (q : Packet) {e' : Exec} (he : e' = { e with xfers := e.xfers.map (coverXfer q) }) {v : State} (hv : v = s.updCore n fun k => { k with exec := some e' }) :
    s.doneCore n e q = if (xferFault e'.xfers).isSome ∨ (∀ x ∈ e'.xfers, x.left = 0) then v.sendCovered n e' else v := by
  subst hv he
  unfold State.doneCore
  simp only [Bool.or_eq_true, List.all_eq_true, beq_iff_eq]

theorem State.takeDone_of_core {n : Nat} {e : Exec} (h : s.doneFor q = some (n, e)) : s.takeDone q = s.doneCore n e q := by
  unfold State.doneFor at h
  unfold State.takeDone
  rw [h]

variable (hc : s.doneFor q = none)
include hc

theorem State.takeDone_of_run {r : RedRun} (h : s.coll.runs.find? (fun r => r.units.any fun y => ofDone q y.xfer) = some r) :
    s.takeDone q = s.redCovered { r with units := r.units.map fun y => { y with xfer := coverXfer q y.xfer } } := by
  unfold State.doneFor at hc
  unfold State.takeDone
  simp only [hc, h]

variable (hr : s.coll.runs.find? (fun r => r.units.any fun y => ofDone q y.xfer) = none)
include hr

theorem State.takeDone_of_broadcast {e : Exec} (h : s.coll.broadcasts.find? (fun e => e.xfers.any (ofDone q)) = some e) {e' : Exec} (he : e' = { e with xfers := e.xfers.map (coverXfer q) }) :
    s.takeDone q = (s.withColl fun x => { x with broadcasts := x.broadcasts.map fun y => if y.cmd.isAt e.cmd.ctx e.cmd.slot then e' else y }).castCovered e' := by
  subst he
  unfold State.doneFor at hc
  unfold State.takeDone
  simp only [hc, hr, h]

theorem State.takeDone_of_none (h : s.coll.broadcasts.find? (fun e => e.xfers.any (ofDone q)) = none) : s.takeDone q = s := by
  unfold State.doneFor at hc
  unfold State.takeDone
  simp only [hc, hr, h]

end

/-- Settles O46: an accepted WRITE by what its store writes and leaves (`State.takeWrite_of_accepted`), a DONE by whose transfer it acknowledges. -/
theorem writesAndDonesAreTaken : Obligations.WritesAndDonesAreTaken := by
  refine ⟨fun s q rest h => ?write, fun src xfer s d h => ?send, fun s q rest h => ?done⟩
  case write =>
    rw [exec_writeReceive_of_taken h]
    refine ⟨fun p hp => ⟨_, rfl, State.takeWrite_of_accepted hp⟩, fun c hc => ⟨congrArg _ (State.takeWrite_of_rejected hc), fun hne => ?_⟩⟩
    have noted := State.writeRejected_reported (s := { s with inbox := rest }) (q := q) hne
    exact ⟨noted.mem, noted.dones⟩
  case send =>
    rw [exec_doneSend_of_oldest h]
    exact ⟨fun t ht => congrArg _ (State.sendDone_of_sent ht), fun x hx => congrArg _ (State.sendDone_of_lost hx)⟩
  case done =>
    rw [exec_doneReceive_of_taken h]
    let u : State := { s with inbox := rest }
    exact ⟨fun n e hcore => congrArg _ ((State.takeDone_of_core (s := u) hcore).trans (State.doneCore_eq u n e q rfl rfl)), fun r hcore hrun => congrArg _ (State.takeDone_of_run (s := u) hcore hrun),
      fun e hcore hrun he => congrArg _ (State.takeDone_of_broadcast (s := u) hcore hrun he rfl), fun hcore hrun he => congrArg _ (State.takeDone_of_none (s := u) hcore hrun he)⟩

end Sys2Proof.Machine
end

section
/-! PROOFS of the family 08_fabric: fabric time (O48). A TIME packet by what its data say, a step by the time it ends at, and what is left to slew after an offset is taken. -/
namespace Sys2Proof.Machine

/-! TIME packets (R372, R435 to R437). -/

section
variable {s : State} {l arrival : Nat} {p : Packet}

theorem exec_timeReceive_of_oldest {src : Nat} (hears : s.hears l = true) (h : ((s.link l).timeIn.find? fun x => x.1.src == src) = some (p, arrival)) :
    exec (.timeReceive l src) s = .next ((s.updLink l fun x => { x with timeIn := x.timeIn.erase (p, arrival) }).takeTime l p arrival) := by
  change execTimeReceive l src s = _
  unfold execTimeReceive
  simp only [h, hears, if_true]

theorem State.takeTime_of_request {h : Nat} (hd : timeOfData p.data = some (.request h)) {v : State} (hv : v = (s.updLink l fun x => { x with nbHops := some (h, p.src) }).follow) :
    s.takeTime l p arrival = v.sendTime l (.answer p.stamp arrival v.hopCount) := by
  subst hv
  unfold State.takeTime
  rw [hd]

theorem State.takeTime_of_awaited {t1 t2 h : Nat} (hd : timeOfData p.data = some (.answer t1 t2 h)) (ho : (s.link l).timeOut = true) {v : State}
    (hv : v = (s.updLink l fun x => { x with nbHops := some (h, p.src), timeOut := false, delay := (exchange t1 t2 p.stamp arrival).1.toNat }).follow) :
    s.takeTime l p arrival = if v.isRoot = false ∧ v.time.upstream = some l then v.takeOffset (exchange t1 t2 p.stamp arrival).2 else v := by
  subst hv
  unfold State.takeTime
  simp only [hd, ho, Bool.not_true, Bool.false_eq_true, if_false, Bool.and_eq_true, Bool.not_eq_true', beq_iff_eq]

theorem State.takeTime_of_notAwaited {t1 t2 h : Nat} (hd : timeOfData p.data = some (.answer t1 t2 h)) (ho : (s.link l).timeOut = false) : s.takeTime l p arrival = s := by
  unfold State.takeTime
  simp only [hd, ho]
  rfl

theorem State.takeTime_of_unread (hd : timeOfData p.data = none) : s.takeTime l p arrival = s := by
  unfold State.takeTime
  rw [hd]

end

/-! An offset taken (R438). -/

theorem Reported.time {s t : State} : Reported s t → t.time = s.time := by
  rintro ⟨_, _, _, _, _, rfl⟩
  rfl

theorem State.setTimeSt_slew (s : State) (st : TimeSt) : (s.setTimeSt st).time.slew = s.time.slew := by
  have noted : ((s.withTime fun x => { x with st := st }).flight 9 0 (timeStNum s.time.st) (timeStNum st) none).time.slew = s.time.slew :=
    (congrArg TimeBase.slew (State.flight_reported _ _ _ _ _ _).time).trans rfl
  unfold State.setTimeSt
  dsimp only
  split
  · rfl
  · split
    · exact (congrArg TimeBase.slew (State.record_reported _ _).time).trans noted
    · exact noted

theorem State.takeOffset_slew (s : State) (o : Int) : (s.takeOffset o).time.slew = if 1000 < o then 0 else o := by
  have taken : ∀ (u v : State) (r : FaultRec),
      (if 1000 < o then (u.withTime fun x => { x with slew := 0 }).record r else v.withTime fun x => { x with slew := o }).time.slew = if 1000 < o then 0 else o := by
    intro u v r
    split
    · exact congrArg TimeBase.slew (State.record_reported _ r).time
    · rfl
  unfold State.takeOffset
  dsimp only
  split
  · exact taken _ _ _
  · split <;> exact (State.setTimeSt_slew _ _).trans (taken _ _ _)

/-! Time stepped forward (R438, R440, R655). -/

theorem State.advance_now {s : State} {t : Nat} (h : s.now ≤ t) : (s.advance t).now = t := by
  unfold State.advance
  split
  next hle => exact Nat.le_antisymm h hle
  next => rfl

theorem State.odAdd_time (s : State) (ix sub n : Nat) : (s.odAdd ix sub n).time = s.time := by
  obtain ⟨od, h⟩ := s.odAdd_eq ix sub n
  rw [h]

theorem State.chargeDomain_time (s t : State) (d : Nat) : (s.chargeDomain t d).time = t.time := by
  unfold State.chargeDomain
  dsimp only
  rw [State.odAdd_time, State.odAdd_time]
  refine List.foldlRecOn _ _ (motive := fun u : State => u.time = t.time) rfl fun u hu x _ => ?_
  split
  · exact hu
  · rw [State.odAdd_time, hu]

theorem State.atRegulator_time (s : State) : s.atRegulator.time = s.time :=
  List.foldlRecOn (List.range 59) s.chargeDomain (motive := fun u : State => u.time = s.time) rfl fun u hu d _ => (s.chargeDomain_time u d).trans hu

theorem State.atWindow_time (s : State) (k : Nat) : (s.atWindow k).time = s.time := rfl

/-- A step forward ends at its time, whatever windows it passes. -/
theorem State.stepTime_now {s : State} {t : Nat} (h : s.now ≤ t) : (s.stepTime t).now = t := by
  have windows : ∀ c : Nat → Bool, ((List.range 6).foldl (fun u k => if c k then u.atWindow k else u) (s.advance t)).now = t := by
    intro c
    refine List.foldlRecOn _ _ (motive := fun u : State => u.now = t) (State.advance_now h) fun u hu k _ => ?_
    split
    · exact (congrArg TimeBase.now (u.atWindow_time k)).trans hu
    · exact hu
  unfold State.stepTime
  dsimp only
  split
  · exact (congrArg TimeBase.now (State.atRegulator_time _)).trans (windows _)
  · exact windows _

theorem nextSecond_spec (t : Nat) : nextSecond t % 1000000000 = 0 ∧ t ≤ nextSecond t ∧ nextSecond t < t + 1000000000 := by
  unfold nextSecond
  omega

/-! TPULSE and FREF (R368, R440, R441). -/

section
variable {s : State}

theorem exec_tpulseEdge_of_notRoot (hr : s.isRoot = false) : exec .tpulseEdge s = .next (s.withTime fun x => { x with lastPulse := some s.now }) := by
  change execTpulseEdge s = _
  unfold execTpulseEdge
  simp only [hr]
  rfl

theorem exec_tpulseEdge_of_first (hr : s.isRoot = true) (hp : s.time.pulsed = false) {u : State} (hu : u = (s.stepForward (nextSecond s.now)).withTime fun x => { x with pulsed := true }) :
    exec .tpulseEdge s = .next (u.withTime fun x => { x with lastPulse := some u.now }) := by
  subst hu
  change execTpulseEdge s = _
  unfold execTpulseEdge
  simp only [hr, hp]
  rfl

theorem exec_tpulseEdge_of_later (hr : s.isRoot = true) (hp : s.time.pulsed = true) :
    exec .tpulseEdge s = .next (s.withTime fun x => { x with slew := ((s.now + 500000000) / 1000000000 * 1000000000 : Nat) - (s.now : Int), lastPulse := some s.now }) := by
  change execTpulseEdge s = _
  unfold execTpulseEdge
  simp only [hr, hp, Bool.not_true, Bool.false_eq_true, if_false]
  rfl

theorem exec_frefLoss_of_ok (h : s.time.frefOk = true) :
    exec .frefLoss s = .next (((List.range 36).foldl (fun t l => if (t.link l).st == .down then t else t.linkLost l) ((s.withTime fun x => { x with frefOk := false }).record { code := .fabFrefLost })).setTimeSt .holdover) := by
  change execFrefLoss s = _
  unfold execFrefLoss
  simp only [h, Bool.not_true, Bool.false_eq_true, if_false]

theorem exec_frefRestore_of_lost (h : s.time.frefOk = false) {u : State} (hu : u = s.withTime fun x => { x with frefOk := true }) :
    exec .frefRestore s = .next (if u.isRoot then (u.setTimeSt .acquiring).setTimeSt .locked else u) := by
  subst hu
  change execFrefRestore s = _
  unfold execFrefRestore
  simp only [h]
  rfl

end

/-- Settles O48: a TIME packet by what its data say, an offset by what it leaves to slew, and the other rows by their own equations. -/
theorem fabricTimeIsExchangedAndSteppedForward : Obligations.FabricTimeIsExchangedAndSteppedForward := by
  intro s
  refine ⟨fun l src arrival p hears h => ?packet, s.takeOffset_slew, rfl, exec_tpulseEdge_of_notRoot, fun hr hp => exec_tpulseEdge_of_first hr hp rfl, fun t ht => ⟨State.stepTime_now ht, nextSecond_spec t⟩,
    exec_tpulseEdge_of_later, exec_frefLoss_of_ok, fun h => exec_frefRestore_of_lost h rfl⟩
  case packet =>
    rw [exec_timeReceive_of_oldest hears h]
    exact ⟨fun h hd => congrArg _ (State.takeTime_of_request hd rfl), fun t1 t2 h hd ho => congrArg _ (State.takeTime_of_awaited hd ho rfl), fun t1 t2 h hd ho => congrArg _ (State.takeTime_of_notAwaited hd ho),
      fun hd => congrArg _ (State.takeTime_of_unread hd)⟩

end Sys2Proof.Machine
end

section
/-! PROOFS of the family 09_update_engines: the norm commands (O21) and APPLY (O22). Each row of an update engine is one frame (`State.runUpdate`), which runs the row's body on a command that passes its checks; the body then has one lemma per outcome. -/
namespace Sys2Proof.Machine

/-! An UPDATE that passes its checks runs its row's body on what it has read. -/

section
variable {s : State} {k : Nat} {c : CmdInst} {mine : CmdInst → Bool}

theorem State.nextUpdate_of_mine (h : s.nextUpdate k (fun _ => true) = some c) (hm : mine c = true) : s.nextUpdate k mine = some c := by
  unfold State.nextUpdate at h ⊢
  split at h
  case isTrue hfree =>
    rw [if_pos hfree]
    obtain ⟨hhead, hop⟩ := Option.filter_eq_some_iff.1 h
    rw [Bool.and_true] at hop
    exact Option.filter_eq_some_iff.2 ⟨hhead, by rw [hop, hm]; rfl⟩
  case isFalse => cases h

theorem State.runUpdate_of_starts (body : State → Exec → UpdReads → State) (h : s.updStarts k c) (hm : mine c = true) :
    s.runUpdate k mine body = body (s.updBegun k c) (s.updExec c) (s.updReads (s.whoCtx c.ctx none) c) := by
  obtain ⟨hnext, hpass⟩ := h
  unfold State.runUpdate
  simp only [State.nextUpdate_of_mine hnext hm, hpass]

theorem exec_normPart_of_starts (h : s.updStarts k c) (hsub : c.sub = 0) :
    exec (.normPart k) s = .next ((s.updBegun k c).normPart k (s.updExec c) (s.updReads (s.whoCtx c.ctx none) c) none) :=
  congrArg _ (State.runUpdate_of_starts _ h (by simp [hsub]))

theorem exec_normReduce_of_starts (h : s.updStarts k c) (hsub : c.sub = 1) : exec (.normReduce k) s = .next ((s.updBegun k c).normReduce k (s.updExec c)) :=
  congrArg _ (State.runUpdate_of_starts _ h (by simp [hsub]))

theorem exec_apply_of_starts (h : s.updStarts k c) (hsub : c.sub = 2) :
    exec (.apply k) s = .next ((s.updBegun k c).apply k (s.updExec c) (s.updReads (s.whoCtx c.ctx none) c) none) :=
  congrArg _ (State.runUpdate_of_starts _ h (by simp [hsub]))

theorem exec_normRead_of_starts (h : s.updStarts k c) (hsub : c.sub = 3) : exec (.normRead k) s = .next ((s.updBegun k c).normRead k (s.updExec c)) :=
  congrArg _ (State.runUpdate_of_starts _ h (by simp [hsub]))

theorem exec_normLoad_of_starts (h : s.updStarts k c) (hsub : c.sub = 4) : exec (.normLoad k) s = .next ((s.updBegun k c).normLoad k (s.updExec c)) :=
  congrArg _ (State.runUpdate_of_starts _ h (by simp [hsub]))

end

/-! The bodies of the norm commands (R460 to R465, R469, R491). -/

/-- A slot that a command of step `t` may add to or contribute from: it is free, holds another step, or is gathering (R464). -/
def NormSlot.IsOpen (sl : NormSlot) (t : Nat) : Prop := sl.st = .empty ∨ sl.step ≠ t ∨ sl.st = .gathering

theorem NormSlot.IsOpen.not_closed {sl : NormSlot} {t : Nat} (h : sl.IsOpen t) : (sl.st != .empty && sl.step == t && sl.st != .gathering) = false := by
  obtain h | h | h := h <;> simp [h]

section
variable {s : State} {k : Nat} {e : Exec} {x : UpdReads}

/-- The word that carries the flag in, where A names one, is read without a fault. -/
theorem State.flagFault_none (h : e.cmd.uA = 0 ∨ s.loadFault (s.whoCtx e.cmd.ctx none) e.cmd.uA 8 = none) :
    (if e.cmd.uA = 0 then none else s.loadFault (s.whoCtx e.cmd.ctx none) e.cmd.uA 8) = none :=
  ite_eq_left_iff.2 fun hne => h.resolve_left hne

theorem State.normPart_of_complete {g : Desc} (hg : streamAt x.streams 0x11 = some g) (hslot : (s.slot k (s.ctxPart e.cmd.ctx) e.cmd.uSlot).IsOpen e.cmd.uStep)
    (hflag : e.cmd.uA = 0 ∨ s.loadFault (s.whoCtx e.cmd.ctx none) e.cmd.uA 8 = none)
    {v : State} (hv : v = if e.cmd.uA = 0 then s else s.touch (s.whoUpd k e.cmd.ctx) 0 e.cmd.uA 8)
    {y : PassOne} (hy : y = v.normPasses k e x g none) (hstop : y.run.stop = none) :
    s.normPart k e x none = (y.run.st.updSlot k (s.ctxPart e.cmd.ctx) e.cmd.uSlot fun _ => partSlot (s.slot k (s.ctxPart e.cmd.ctx) e.cmd.uSlot) e.cmd.uStep (fld ((x.hdr.map RecRead.ws).getD []) 0 63 0) g.count y).endUpdate k e
      { y.run.fin with tiles := 0 } := by
  subst hv hy
  unfold State.normPart
  simp only [hg, hslot.not_closed, State.flagFault_none hflag, Option.map_none, hstop, Option.isSome_none, Bool.false_eq_true, if_false]

/-- The words of the record at A: a tree for NORM_REDUCE, a verdict for NORM_LOAD; none where it was not read (R454). -/
def Exec.recordA (e : Exec) : List Word := match e.recs with | .words ws :: _ => ws | _ => []

theorem Exec.recordA_of_read {ws : List Word} (h : e.recs = [.words ws]) : e.recordA = ws := by
  unfold Exec.recordA
  rw [h]

theorem State.normReduce_of_joins (hslot : (s.slot k (s.ctxPart e.cmd.ctx) e.cmd.uSlot).IsOpen e.cmd.uStep) (hsend : s.fabric ≠ 0xFFFF ∨ treeAlone e.recordA = true) :
    s.normReduce k e = State.settleGroup (s.ctxPart e.cmd.ctx) e.cmd.uGroup 12 (s.joinGroup k e) := by
  have hfabric : (decide (s.fabric = 0xFFFF) && !(treeAlone e.recordA)) = false := by
    obtain h | h := hsend <;> simp [h]
  unfold State.normReduce
  simp only [hslot.not_closed, Bool.false_eq_true, if_false]
  exact if_neg (Bool.eq_false_iff.1 hfabric)

theorem State.normRead_of_stored (hstore : s.storeFault (s.whoUpd k e.cmd.ctx) e.cmd.uA 64 = none) {sl : NormSlot} (hsl : sl = s.slot k (s.ctxPart e.cmd.ctx) e.cmd.uSlot) :
    s.normRead k e = (s.store (s.whoUpd k e.cmd.ctx) 0 e.cmd.uA (bytesOfWords (normWords
      { step := sl.step, elems := sl.elems, sumsq := sl.sumsq, lscale := s.lscale (s.ctxPart e.cmd.ctx) e.cmd.uGroup, cause := sl.cause, kind := 1, contrib := 1 }))).endUpdate k e {} := by
  subst hsl
  unfold State.normRead
  simp only [hstore]

/-- A slot that holds the verdict of a record (R464, R491). -/
def NormSlot.withVerdict (sl : NormSlot) (r : NormRec) : NormSlot :=
  { sl with st := if r.kind = 2 then .go else .skip, step := r.step, sumsq := r.sumsq, gnorm := r.gnorm, clip := r.clip, lscale := r.lscale, cause := r.cause }

theorem State.normLoad_of_sets (hslot : ¬((s.slot k (s.ctxPart e.cmd.ctx) e.cmd.uSlot).st = .waiting ∧ (s.slot k (s.ctxPart e.cmd.ctx) e.cmd.uSlot).step = e.cmd.uStep)) :
    s.normLoad k e = (s.updSlot k (s.ctxPart e.cmd.ctx) e.cmd.uSlot (·.withVerdict (normOf e.recordA))).endUpdate k e {} := by
  unfold State.normLoad
  exact if_neg (by simpa using hslot)

end

/-- Settles O21: the row runs its body (`State.runUpdate_of_starts`), and each body's outcome has its own lemma. -/
theorem normCommandsTakeEffect : Obligations.NormCommandsTakeEffect := by
  intro k s c h u e x p sl v
  refine ⟨fun g hsub hg hslot hflag hstop => ⟨?part, ?status⟩, fun hsub hslot hsend => ?reduce, fun hsub hstore => ?read, fun ws hsub hrec hslot => ?load⟩
  case part => exact (exec_normPart_of_starts h hsub).trans (congrArg _ (State.normPart_of_complete (s := u) (e := e) (v := v) hg hslot hflag rfl rfl hstop))
  case status => rw [Run.fin_of_complete hstop]
  case reduce => exact (exec_normReduce_of_starts h hsub).trans (congrArg _ (State.normReduce_of_joins hslot hsend))
  case read => exact (exec_normRead_of_starts h hsub).trans (congrArg _ (State.normRead_of_stored (s := u) (e := e) (sl := sl) hstore rfl))
  case load =>
    obtain rfl : e.recordA = ws := Exec.recordA_of_read hrec
    exact (exec_normLoad_of_starts h hsub).trans (congrArg _ (State.normLoad_of_sets hslot))

/-! The body of APPLY (R459, R464, R480, R484, R486). -/

section
variable {s : State} {k : Nat} {e : Exec} {x : UpdReads} {sl : NormSlot}

/-- The state with the final header written, where the command's FINAL bit asks for it (R459). -/
def State.withFinal (s : State) (k : Nat) (e : Exec) (x : UpdReads) (w : Who) (sl : NormSlot) : State :=
  if fld e.cmd.words 3 23 23 == 1 then s.finalHeader k w e.cmd ((x.hdr.map RecRead.ws).getD []) sl else s

section
variable (hsl : sl = s.slot k (s.ctxPart e.cmd.ctx) e.cmd.uSlot) (hstep : sl.step = e.cmd.uStep) (hhdr : fld ((x.hdr.map RecRead.ws).getD []) 0 63 0 = e.cmd.uStep)
include hsl hstep hhdr

theorem State.apply_of_skip (hskip : sl.st = .skip) : s.apply k e x none = (s.withFinal k e x (s.whoUpd k e.cmd.ctx) sl).endUpdate k e {} := by
  subst hsl
  unfold State.apply State.withFinal
  simp [hstep, hhdr, hskip]

theorem State.apply_of_go (hgo : sl.st = .go) {r : Run} (hr : r = applyRun none s k e x sl) (hstop : r.stop = none) :
    s.apply k e x none = ((r.st.stateNonfinite k e.cmd r).withFinal k e x (s.whoUpd k e.cmd.ctx) sl).endUpdate k e { r.fin with ctrs := r.ctrs.take 5 } := by
  subst hsl hr
  unfold State.apply State.withFinal
  simp [hstep, hhdr, hgo, Run.fin_of_complete hstop]

end

end

/-- Settles O22: the row runs the body of APPLY, whose outcome the slot's verdict decides (`State.apply_of_skip`, `State.apply_of_go`). -/
theorem applyUpdatesOrSkips : Obligations.ApplyUpdatesOrSkips := by
  intro k s c h hsub u e x w sl hd hstep hhdr
  refine ⟨fun hskip => ?skip, fun hgo hstop => ?go⟩
  case skip => exact (exec_apply_of_starts h hsub).trans (congrArg _ (State.apply_of_skip (s := u) (e := e) (x := x) (sl := sl) rfl hstep hhdr hskip))
  case go => exact (exec_apply_of_starts h hsub).trans (congrArg _ (State.apply_of_go (s := u) (e := e) (x := x) (sl := sl) rfl hstep hhdr hgo rfl hstop))

end Sys2Proof.Machine
end

section
/-! PROOFS of the family 10_gradient_reduction: barriers (O20), reductions (O23, O24) and broadcasts (O25). Each row gets one equation for the commands that pass its checks, over the choice that is left: whether a BARRIER may arrive, a REDUCE has its credits, a BROADCAST is held. -/
namespace Sys2Proof.Machine

/-- A command fails with FAB.ADDR_UNSET only in a module without an address, and only where the module `sends` or receives for it (R413). -/
theorem State.addrUnset_false {s : State} {sends : Bool} (h : s.fabric ≠ 0xFFFF ∨ sends = false) : ¬(decide (s.fabric = 0xFFFF) && sends) = true := by
  obtain h | h := h <;> simp [h]

/-! The rows of a BARRIER (R537, R538, R540, R909). -/

section
variable {s : State} {cc : Nat} {e e0 : Exec}

theorem exec_barrierLocal_of_starts (h : s.startable1 cc (fun x => x.sub != 1) = some e0) (hpass : s.rejection e0.cmd [] (barrierChecks e0.cmd []) = none)
    (he : e = { e0 with start := s.now, limit := s.limitOf e0.cmd }) :
    exec (.barrierLocal cc) s = .next (if s.mayArrive e0.cmd then s.endBarrier e {} else (s.putHub { e with phase := 1, waiting := true }).refresh cc) := by
  subst he
  change execBarrierLocal cc s = _
  unfold execBarrierLocal
  simp only [h, hpass]

/-- A tree record that was read, has no reserved field set and passes the checks of R162 rejects no BARRIER. -/
theorem barrierRejection_none {c : CmdInst} {ws : List Word} (hpass : s.rejection c [] (barrierChecks c ws) = none) (hres : treeReserved ws = false) :
    ((barrierRejection s c (.words ws)).orElse fun _ => if treeReserved ws then some (rejectFin .updReserved) else none) = none := by
  unfold barrierRejection
  simp [RecRead.ws, hpass, hres]

theorem exec_barrierStep_of_joins {ws : List Word} (h : s.startable1 cc (fun x => x.sub == 1) = some e0) (htree : s.readRec (s.whoCtx cc none) e0.cmd.bTree 8 = .words ws)
    (hpass : s.rejection e0.cmd [] (barrierChecks e0.cmd ws) = none) (hres : treeReserved ws = false) (hsend : s.fabric ≠ 0xFFFF ∨ treeAlone ws = true)
    (he : e = { e0 with start := s.now, limit := s.limitOf e0.cmd, recs := [.words ws] }) :
    exec (.barrierStep cc) s = .next ((State.settleBarrier (s.ctxPart cc) e0.cmd.bGroup 12 ((s.touchRecord (s.whoCtx cc none) e0.cmd.bTree 64).joinBarrier e)).refresh cc) := by
  subst he
  change execBarrierStep cc s = _
  unfold execBarrierStep
  simp only [h, htree, RecRead.ws, barrierRejection_none hpass hres]
  exact congrArg _ (if_neg (State.addrUnset_false (hsend.imp_right fun halone => by rw [halone]; rfl)))

theorem exec_barrierArrive_of_mayArrive (h : s.hubExec cc CmdInst.isBarrier = some e) (hphase : e.phase = 1) (ha : s.mayArrive e.cmd = true) :
    exec (.barrierArrive cc) s = .next (if e.cmd.sub = 1 then (State.settleBarrier (s.ctxPart cc) e.cmd.bGroup 12 (s.joinBarrier e)).refresh cc else s.endBarrier e {}) := by
  have hfound : ((s.hubExec cc CmdInst.isBarrier).filter fun e => e.phase == 1 && s.mayArrive e.cmd) = some e := by
    rw [h, Option.filter_some]
    simp [hphase, ha]
  change execBarrierArrive cc s = _
  unfold execBarrierArrive
  rw [hfound]

end

/-- Settles O20: each row by its own equation, over whether the BARRIER may arrive and whether it is a STEP. -/
theorem barriersCompleteOnArrival : Obligations.BarriersCompleteOnArrival := by
  refine ⟨?start, ?step, fun cc s e h hphase ha => ⟨fun hsub => ?alone, fun hsub => ?joins⟩⟩
  case start =>
    intro cc s e0 h hpass e
    have hstart := exec_barrierLocal_of_starts (e := e) h hpass rfl
    exact ⟨fun ha => by rw [hstart, if_pos ha], fun ha => by rw [hstart, if_neg (Bool.eq_false_iff.1 ha)]⟩
  case step =>
    intro cc s e0 ws h htree hpass hres hsend e
    exact exec_barrierStep_of_joins h htree hpass hres hsend rfl
  case alone => rw [exec_barrierArrive_of_mayArrive h hphase ha, if_neg hsub]
  case joins => rw [exec_barrierArrive_of_mayArrive h hphase ha, if_pos hsub]

/-! The rows that start a REDUCE and make it locally ready (R494, R498, R502, R590). -/

section
variable {s t q : State} {cc slot : Nat} {c : CmdInst} {r : RedRun}

/-- A REDUCE may take its credits: its counter has no taker before it and holds READY (R590). -/
def State.creditsFree (s : State) (p k n : Nat) : Bool := (s.headTaker p k).isNone && decide (n ≤ s.credits p k)

theorem State.creditsFree_iff {p k n : Nat} : s.creditsFree p k n = true ↔ s.headTaker p k = none ∧ n ≤ s.credits p k := by
  simp [State.creditsFree]

theorem State.creditsFree_false {p k n : Nat} (h : (s.headTaker p k).isSome = true ∨ s.credits p k < n) : s.creditsFree p k n = false := by
  rw [Bool.eq_false_iff, Ne, State.creditsFree_iff]
  rintro ⟨hnone, hle⟩
  obtain h | h := h
  · simp [hnone] at h
  · omega

/-- A plan without inputs whose every chunk is its own neither sends nor receives. -/
theorem planSends_false {ws : List Word} (h : planNin ws = 0 ∧ ∀ k ∈ planChunks ws, k.own = true) : (planNin ws != 0 || (planChunks ws).any fun k => !k.own) = false := by
  obtain ⟨hnin, hown⟩ := h
  simpa [hnin] using hown

theorem exec_reduce_of_starts {rs : List (Option RecRead)} {plan : RecRead} (h : s.collNext cc slot 0x48 = some c)
    (hrs : rs = s.redDescs (s.whoRed cc c.port) c) (hplan : plan = s.readPlan (s.whoRed cc c.port) c.rPlan) (hpass : s.redRejection c rs plan = none)
    (hsend : s.fabric ≠ 0xFFFF ∨ (planNin plan.ws = 0 ∧ ∀ k ∈ planChunks plan.ws, k.own = true))
    (hr : r = { exec := { cmd := c, start := s.now, limit := s.limitOf c, recs := rs.map fun x => x.getD .beyond, waiting := true }, plan := plan.ws })
    (ht : t = (((s.collTake c).touchDescs (s.whoRed cc c.port) cc c.redIndexes).touchRecord (s.whoRed cc c.port) c.rPlan (8 * plan.ws.length)).withColl fun x => { x with runs := x.runs ++ [r] })
    (hq : q = { t with takers := t.takers ++ [(takerKey (s.ctxPart cc) c.rCtr, Consumer.reduction cc, slot)] }) :
    exec (.reduce cc slot) s = .next (if c.rReady = 0 then t.redReady r
      else if s.creditsFree (s.ctxPart cc) c.rCtr c.rReady then (q.takeHead (s.ctxPart cc) c.rCtr c.rReady).redReady r else q.refresh cc) := by
  subst hrs hplan hr ht hq
  change execReduce cc slot s = _
  unfold execReduce
  simp only [h, hpass]
  exact congrArg _ (if_neg (State.addrUnset_false (hsend.imp_right planSends_false)))

theorem exec_reduceLocallyReady_of_head (h : s.findRun cc slot = some r) (hwaits : r.ready = false) (hhead : s.headTaker (s.ctxPart cc) r.exec.cmd.rCtr = some (Consumer.reduction cc, slot))
    (hcredit : r.exec.cmd.rReady ≤ s.credits (s.ctxPart cc) r.exec.cmd.rCtr) :
    exec (.reduceLocallyReady cc slot) s = .next ((s.takeHead (s.ctxPart cc) r.exec.cmd.rCtr r.exec.cmd.rReady).redReady r) := by
  change execReduceLocallyReady cc slot s = _
  unfold execReduceLocallyReady
  rw [h]
  exact congrArg _ (if_pos (by simp [hwaits, hhead, hcredit]))

end

/-- Settles O23: the start by its READY and whether its credits are free (`exec_reduce_of_starts`), and a waiting REDUCE at the head of its counter's order. -/
theorem reductionsStartAndBecomeReady : Obligations.ReductionsStartAndBecomeReady := by
  refine ⟨?_, fun _ _ _ _ => exec_reduceLocallyReady_of_head⟩
  intro cc slot s c h w rs plan hpass hsend r t q
  have hstart := exec_reduce_of_starts (r := r) (t := t) (q := q) h rfl rfl hpass hsend rfl rfl rfl
  refine ⟨fun hzero => ?uncredited, fun hready hnone hle => ?takes, fun hready hlacks => ?waits⟩
  case uncredited => rw [hstart, if_pos hzero]
  case takes => rw [hstart, if_neg hready, if_pos (State.creditsFree_iff.2 ⟨hnone, hle⟩)]
  case waits => rw [hstart, if_neg hready, if_neg (Bool.eq_false_iff.1 (State.creditsFree_false hlacks))]

/-! The rows that send and consume a unit (R510, R511, R514, R515, R518). -/

section
variable {s : State} {cc slot entry : Nat} {r : RedRun} {y : Work}

/-- The REDUCE with what its entry adds before a unit is sent: a chunk with no inputs adds the local blocks only then; another has added as it consumed (R521). -/
def Work.added (x : Work) : Work := if x.chunk.mask = 0 then x.add else x

theorem exec_reduceUnitSend_of_ready (h : s.runAt cc slot entry = some r) (hown : (s.work r).chunk.own = false) (hstart : r.mayStart = true) (hy : y = (s.work r).added)
    (hstop : y.run.stop = none) (hready : y.unitReady = true) : exec (.reduceUnitSend cc slot entry) s = .next y.sendUnit.settle := by
  subst hy
  unfold Work.added at hstop hready ⊢
  change execReduceUnitSend cc slot entry s = _
  unfold execReduceUnitSend
  simp only [h, hown, hstart, hstop, hready, Bool.not_true, Bool.or_self, Option.isSome_none, Bool.false_eq_true, if_false, if_true]

theorem exec_reduceUnitConsume_of_inputs (h : s.runAt cc slot entry = some r) (hmask : (planChunk r.plan entry).mask ≠ 0) : exec (.reduceUnitConsume cc slot entry) s = .next (s.work r).add.settle := by
  change execReduceUnitConsume cc slot entry s = _
  unfold execReduceUnitConsume
  simp only [h, if_neg hmask]

end

/-- Settles O24: a unit sent and a unit consumed, each row by its equation. -/
theorem reductionUnitsMoveOn : Obligations.ReductionUnitsMoveOn :=
  fun _ _ _ _ _ h => ⟨fun hown hstart hstop hready => exec_reduceUnitSend_of_ready h hown hstart rfl hstop hready, exec_reduceUnitConsume_of_inputs h⟩

/-! The rows of a BROADCAST (R544 to R547). -/

section
variable {s t : State} {cc slot : Nat} {c : CmdInst} {e : Exec} {ws : List Word}

/-- A list whose every value is an address of 12 bits has no reserved bit set (R545). -/
theorem castReserved_false {es : List Nat} (h : es.all (fun x => decide (x < 4096)) = true) : es.any (fun x => decide (4096 ≤ x)) = false := by
  simpa using h

theorem exec_broadcast_of_starts (h : s.collNext cc slot 0x49 = some c) (hlist : s.readList (s.whoRed cc c.port) c = .words ws) (haddr : s.fabric ≠ 0xFFFF)
    (he : e = { cmd := c, start := s.now, limit := s.limitOf c, recs := [.words ws], phase := 1 }) (hpass : s.rejection c [] (bcChecks c (castList e)) = none)
    (hes : (castList e).all (fun x => decide (x < 4096)) = true)
    (ht : t = ((s.collTake c).touch (s.whoRed cc c.port) 0 c.bcList (2 * c.bcCount)).withColl fun x => { x with broadcasts := x.broadcasts ++ [e] }) :
    exec (.broadcast cc slot) s = .next (if t.castHeld c then t else t.cast e (castList e)) := by
  subst he ht
  change execBroadcast cc slot s = _
  unfold execBroadcast
  simp only [h, hlist, hpass, castReserved_false hes, haddr, Option.orElse_none, Bool.false_eq_true, if_false]

theorem exec_broadcastSendStart_of_free (h : s.coll.broadcasts.find? (fun x => x.cmd.isAt cc slot && x.phase == 1) = some e) (hfree : s.castHeld e.cmd = false) :
    exec (.broadcastSendStart cc slot) s = .next (s.cast e (castList e)) := by
  change execBroadcastSendStart cc slot s = _
  unfold execBroadcastSendStart
  simp only [h, hfree, Bool.false_eq_true, if_false]

end

/-- Settles O25: a BROADCAST that starts, by whether a command before it holds it back, and one that was held when nothing is left. -/
theorem broadcastsSendWhenNothingIsBefore : Obligations.BroadcastsSendWhenNothingIsBefore := by
  refine ⟨?_, fun _ _ _ _ => exec_broadcastSendStart_of_free⟩
  intro cc slot s c ws h hlist haddr e hpass hes t
  have hstart := exec_broadcast_of_starts (e := e) (t := t) h hlist haddr rfl hpass hes rfl
  exact ⟨fun hfree => by rw [hstart, if_neg (Bool.eq_false_iff.1 hfree)], fun hheld => by rw [hstart, if_pos hheld]⟩

end Sys2Proof.Machine
end

section
/-! PROOFS of the family 12_job_mapping: time that passes (O2), fences (O12, O13, O14), remote updates (O15), SEND (O16) and credits (O17, O18). A step on an empty queue rests on what a hardware error leaves alone (`State.upset_eq`), and the charge of a core on one sum (`chargeCore_counted`); each row of FENCE and CREDIT gets one equation for the commands that have started, over the choice that is left. -/
namespace Sys2Proof.Machine

/-! A step on an empty queue (log entry 1). -/

/-- A hardware error changes no byte of memory, no clock and no queue (R298 to R303, R313, R341, R833). -/
theorem State.upset_eq (s : State) (u : Upset) :
    ∃ larder hbm tier cores diag storeFails, s.upset u = { s with larder := larder, hbm := hbm, tier := tier, cores := cores, diag := diag, storeFails := storeFails } := by
  cases u <;> unfold State.upset <;> dsimp only
  case units | store => exact ⟨_, _, _, _, _, _, rfl⟩
  all_goals
    split
    · exact ⟨_, _, _, _, _, _, rfl⟩
    · exact ⟨_, _, _, _, _, _, rfl⟩

theorem State.tick_passes (s : State) : s.tick.now = s.now + 1 ∧ s.tick.mem = s.mem ∧ s.tick.pending = s.pending := by
  unfold State.tick
  refine List.foldlRecOn _ State.upset (motive := fun t : State => t.now = s.now + 1 ∧ t.mem = s.mem ∧ t.pending = s.pending) ?time fun t ht u _ => ?upset
  case time =>
    refine ⟨State.advance_now (Nat.le_succ _), ?_⟩
    obtain ⟨od, cores, time, h⟩ := s.advance_eq (s.now + 1)
    rw [h]
    exact ⟨rfl, rfl⟩
  case upset =>
    obtain ⟨_, _, _, _, _, _, h⟩ := t.upset_eq u
    rw [h]
    exact ht

/-! The charge of a core (R601, R604). -/

/-- The time a core has been charged: BUSY, UNSCHEDULED and IDLE_0 to IDLE_8 in sum (R604). -/
def Core.counted (c : Core) : Nat := c.busy + c.unsched + c.idle.sum

theorem sum_modAt_add {l : List Nat} {i : Nat} (n : Nat) (h : i < l.length) : (modAt l i (· + n)).sum = l.sum + n := by
  induction l generalizing i with
  | nil => exact absurd h (Nat.not_lt_zero i)
  | cons a l ih =>
    cases i with
    | zero => simp only [modAt, List.sum_cons]; omega
    | succ i => simp only [modAt, List.sum_cons, ih (Nat.lt_of_succ_lt_succ h)]; omega

/-- The busy part of an interval, by the two rates of R602, is no more than the interval. -/
theorem busyPart_le (dt hn hp : Nat) : (if hp ≤ hn then dt else dt * hn / hp) ≤ dt := by
  split
  case isTrue => exact Nat.le_refl dt
  case isFalse h => exact Nat.div_le_of_le_mul (Nat.mul_comm dt hp ▸ Nat.mul_le_mul_left dt (Nat.le_of_not_le h))

section
variable {c : Core} (hidle : c.idle.length = 9)
include hidle

theorem Core.counted_idle {k : Nat} (dt : Nat) (up down : List Nat) (hk : k < 9) : ({ c with idle := modAt c.idle k (· + dt), vsUp := up, vsDown := down } : Core).counted = c.counted + dt := by
  simp only [Core.counted, sum_modAt_add dt (hidle ▸ hk)]
  omega

/-- An interval in which a command runs is split between BUSY and IDLE_6 (R602). -/
theorem Core.counted_busy {b dt : Nat} (hb : b ≤ dt) : ({ c with busy := c.busy + b, idle := modAt c.idle 6 (· + (dt - b)) } : Core).counted = c.counted + dt := by
  simp only [Core.counted, sum_modAt_add (dt - b) (hidle ▸ (by decide : 6 < 9))]
  omega

/-- An interval is charged to a core once, whichever line of R601 applies. -/
theorem chargeCore_counted (dt hn hp : Nat) (behind : Bool) (hcause : ∀ (e : Exec) (cause v : Nat), c.exec = some e → execWait e = some (cause, v) → cause < 9) :
    (chargeCore c dt hn hp behind).counted = c.counted + dt := by
  have idle : ∀ k, k < 9 → ({ c with idle := modAt c.idle k (· + dt) } : Core).counted = c.counted + dt := fun k => Core.counted_idle hidle dt c.vsUp c.vsDown
  unfold chargeCore
  dsimp only
  split
  case h_1 => exact idle 7 (by decide)
  case h_2 | h_3 => exact idle 8 (by decide)
  case h_4 | h_5 | h_6 | h_7 | h_8 =>
    split
    case isTrue => exact idle 5 (by decide)
    case isFalse =>
      split
      case h_1 e he =>
        split
        case h_1 cause v hw => exact Core.counted_idle hidle dt _ _ (hcause e cause v he hw)
        case h_2 =>
          split
          case isTrue => exact idle 0 (by decide)
          case isFalse => exact Core.counted_busy hidle (busyPart_le dt hn hp)
      case h_2 =>
        split
        case isTrue => exact idle 2 (by decide)
        case isFalse => simp only [Core.counted]; omega

end

/-- Each core of a partition is charged for the interval that fabric time moves over. -/
theorem State.advance_core {s : State} {T n : Nat} (hT : s.now < T) (hn : n < s.cores.length) (hp : (s.partOfCore n).isSome = true) :
    (s.advance T).core n = chargeCore (s.core n) (T - s.now) (rateOf (s.island (n / 12)).mv (s.island (n / 12)).temp) (rateOf (s.perfMv (n / 12)) (s.island (n / 12)).temp)
      ((s.core n).exec.isNone && s.behindBarrier n) := by
  have hpart : (s.partOfCore n).isNone = false := by rw [Option.isNone_eq_false_iff]; exact hp
  unfold State.advance State.core nth
  rw [if_neg (Nat.not_le.2 hT)]
  simp only [List.getD_eq_getElem?_getD, List.getElem?_map, List.getElem?_zipIdx, List.getElem?_eq_getElem hn, Option.map_some, Option.getD_some, Nat.zero_add, hpart]
  rfl

theorem State.advance_counted {s : State} {T n : Nat} (hT : s.now ≤ T) (hn : n < s.cores.length) (hp : (s.partOfCore n).isSome = true) (hidle : (s.core n).idle.length = 9)
    (hcause : ∀ (e : Exec) (cause v : Nat), (s.core n).exec = some e → execWait e = some (cause, v) → cause < 9) :
    ((s.advance T).core n).counted = (s.core n).counted + (T - s.now) := by
  obtain hlt | rfl := Nat.lt_or_eq_of_le hT
  · rw [State.advance_core hlt hn hp, chargeCore_counted hidle _ _ _ _ hcause]
  · unfold State.advance
    rw [if_pos (Nat.le_refl _), Nat.sub_self, Nat.add_zero]

/-- Settles O2: a step on an empty queue by what a tick passes on, an interval by its one charge to the core. -/
theorem timePassesAndChargesEachCore : Obligations.TimePassesAndChargesEachCore := by
  refine ⟨fun s hempty => ?step, fun s T n hT hn hp hidle hcause => ⟨State.advance_counted hT hn hp hidle hcause, State.advance_now hT, ?mem⟩⟩
  case step =>
    obtain ⟨hnow, hmem, hpending⟩ := s.tick_passes
    exact ⟨s.tick, step_of_empty hempty, hnow, hmem, hpending.trans hempty⟩
  case mem =>
    obtain ⟨od, cores, time, h⟩ := s.advance_eq T
    rw [h]

/-! What fence objects and credit counters hold (R579, R582, R591). -/

/-- The entries of two objects of one kind, the fence objects or the credit counters. -/
theorem objectKey_ne {base p k q j : Nat} (hk : k < 256) (hj : j < 256) (h : ¬(q = p ∧ j = k)) : odKey (base + q) j ≠ odKey (base + p) k := by
  unfold odKey
  omega

/-- The entries of a fence object and of a credit counter. -/
theorem fenceKey_ne_creditKey {p k q j : Nat} (hq : q < 16) (hk : k < 256) (hj : j < 256) : odKey (0x2D00 + q) j ≠ odKey (0x2D10 + p) k := by
  unfold odKey
  omega

section
variable {s : State} {p k q j : Nat} (v : Nat) (hw : mapWf odDefault s.od = true)
include hw

theorem State.setFence_fence (hv : v < 2 ^ 64) : (s.odSetN (0x2D00 + p) k v).fence p k = v :=
  (State.odSetN_odN_same hw _ _ _).trans (Nat.mod_eq_of_lt hv)

theorem State.setCredits_credits (hv : v < 2 ^ 64) : (s.odSetN (0x2D10 + p) k v).credits p k = v :=
  (State.odSetN_odN_same hw _ _ _).trans (Nat.mod_eq_of_lt hv)

variable (hk : k < 256) (hj : j < 256)
include hk hj

theorem State.setFence_fence_other (h : ¬(q = p ∧ j = k)) : (s.odSetN (0x2D00 + p) k v).fence q j = s.fence q j := State.odSetN_odN_other hw v (objectKey_ne hk hj h)

theorem State.setCredits_credits_other (h : ¬(q = p ∧ j = k)) : (s.odSetN (0x2D10 + p) k v).credits q j = s.credits q j := State.odSetN_odN_other hw v (objectKey_ne hk hj h)

theorem State.setFence_credits (hp : p < 16) : (s.odSetN (0x2D00 + p) k v).credits q j = s.credits q j := State.odSetN_odN_other hw v (fenceKey_ne_creditKey hp hj hk).symm

theorem State.setCredits_fence (hq : q < 16) : (s.odSetN (0x2D10 + p) k v).fence q j = s.fence q j := State.odSetN_odN_other hw v (fenceKey_ne_creditKey hq hk hj)

end

theorem State.fence_lt (s : State) (p k : Nat) : s.fence p k < 2 ^ 64 := BitVec.isLt _

/-- Settles O14: each update sets one entry, which then reads as the value set, and every other entry as before. -/
theorem fenceObjectsHoldWhatTheirUpdatesGive : Obligations.FenceObjectsHoldWhatTheirUpdatesGive := by
  intro s p k v ⟨hw, _⟩ hp hk hv
  refine ⟨State.setFence_fence _ hw (by omega), State.setFence_fence _ hw (Nat.max_lt.2 ⟨s.fence_lt p k, hv⟩), State.setFence_fence _ hw hv, State.setCredits_credits _ hw (by omega),
    fun q j hq hj h => ?others⟩
  case others =>
    exact ⟨State.setFence_fence_other _ hw hk hj h, State.setFence_fence_other _ hw hk hj h, State.setFence_fence_other _ hw hk hj h, State.setCredits_credits_other _ hw hk hj h,
      State.setFence_credits _ hw hk hj hp, State.setCredits_fence _ hw hk hj hq⟩

/-! FENCE WAIT (R582, R593). -/

section
variable {s : State} {n : Nat} {e : Exec}

theorem State.fenceHolds_iff {c : CmdInst} : s.fenceHolds c = true ↔ fld c.words 2 63 0 ≤ s.fence (s.ctxPart c.ctx) c.object := decide_eq_true_iff

theorem exec_fenceWait_of_starts (hs : s.starts n e (fenceChecks e.cmd e)) (hop : e.cmd.op = 0x30) (hsub : e.cmd.sub = 0) :
    exec (.fenceWait n) s = .next (if s.fenceHolds e.cmd then s.endCore n e {} else s.waitOn n e) := by
  change execFenceWait n s = _
  unfold execFenceWait
  rw [State.startSync_of_starts _ hs (by simp [hop, hsub])]

theorem exec_fenceWaitComplete_of_fenceHolds (he : (s.core n).exec = some e) (hw : e.waiting = true) (hop : e.cmd.op = 0x30) (hsub : e.cmd.sub = 0) (hh : s.fenceHolds e.cmd = true) :
    exec (.fenceWaitComplete n) s = .next (s.endCore n e {}) := by
  have hmine : s.execOf n (fun c => c.op == 0x30 && c.sub == 0) = some e := State.execOf_of_mine he (by simp [hop, hsub])
  change execFenceWaitComplete n s = _
  unfold execFenceWaitComplete
  simp only [hmine, hw, hh]
  rfl

end

/-- Settles O12: a WAIT that starts, by whether its condition holds; and a WAIT that waits when it does. -/
theorem fenceWaitCompletesWhenItsConditionHolds : Obligations.FenceWaitCompletesWhenItsConditionHolds := by
  refine ⟨fun n s e hs hop hsub hle => ?complete, fun n s e hs hop hsub hlt => ?wait,
    fun n s e he hw hop hsub hle => exec_fenceWaitComplete_of_fenceHolds he hw hop hsub (State.fenceHolds_iff.2 hle)⟩
  case complete => rw [exec_fenceWait_of_starts hs hop hsub, if_pos (State.fenceHolds_iff.2 hle)]
  case wait => rw [exec_fenceWait_of_starts hs hop hsub, if_neg (mt State.fenceHolds_iff.1 (Nat.not_le.2 hlt))]

/-! FENCE ADD, MAX and SET, and CREDIT GIVE (R582, R591, R594, R595). -/

section
variable {s t : State} {n : Nat} {e : Exec}

theorem State.syncMessage_of_injected {addr op value : Nat} (d : Fin) (h : s.message (s.whoExec n e) e.cmd.module (n / 2) addr (syncData op value) = .ok t) :
    s.syncMessage n e addr op value d = t.endCore n e d := by
  unfold State.syncMessage
  rw [h]

theorem State.fenceUpdate_of_local (op : Nat) (f : State → Nat → Nat → Nat → State) (h : e.cmd.remote = false) :
    s.fenceUpdate n e op f = (f s (s.ctxPart e.cmd.ctx) e.cmd.object (fld e.cmd.words 2 63 0)).endCore n e {} :=
  if_neg (by simp [h])

theorem State.fenceUpdate_of_injected {op : Nat} (f : State → Nat → Nat → Nat → State) (hr : e.cmd.remote = true)
    (h : s.message (s.whoExec n e) e.cmd.module (n / 2) (fenceObj (s.ctxPart e.cmd.ctx) e.cmd.object) (syncData op (fld e.cmd.words 2 63 0)) = .ok t) :
    s.fenceUpdate n e op f = t.endCore n e {} :=
  (if_pos hr).trans (State.syncMessage_of_injected {} h)

section
variable (hs : s.starts n e (fenceChecks e.cmd e)) (hop : e.cmd.op = 0x30)
include hs hop

theorem exec_fenceAdd_of_starts (hsub : e.cmd.sub = 1) : exec (.fenceAdd n) s = .next (s.fenceUpdate n e 1 State.fenceAdd) := by
  change execFenceAdd n s = _
  unfold execFenceAdd
  rw [State.startSync_of_starts _ hs (by simp [hop, hsub])]

theorem exec_fenceMax_of_starts (hsub : e.cmd.sub = 2) : exec (.fenceMax n) s = .next (s.fenceUpdate n e 2 State.fenceMax) := by
  change execFenceMax n s = _
  unfold execFenceMax
  rw [State.startSync_of_starts _ hs (by simp [hop, hsub])]

theorem exec_fenceSet_of_starts (hsub : e.cmd.sub = 3) : exec (.fenceSet n) s = .next (s.fenceUpdate n e 0 State.fenceSet) := by
  change execFenceSet n s = _
  unfold execFenceSet
  rw [State.startSync_of_starts _ hs (by simp [hop, hsub])]

end

theorem exec_creditGive_of_starts (hs : s.starts n e (creditChecks e.cmd e)) (hop : e.cmd.op = 0x31) (hsub : e.cmd.sub = 1) :
    exec (.creditGive n) s = .next (if e.cmd.remote then s.syncMessage n e (creditObj (s.ctxPart e.cmd.ctx) e.cmd.object) 1 e.cmd.amount {}
      else ((s.creditAdd (s.ctxPart e.cmd.ctx) e.cmd.object e.cmd.amount).endCore n e {}).creditOverflow (s.credits (s.ctxPart e.cmd.ctx) e.cmd.object) e.cmd.amount (s.ctxPart e.cmd.ctx)) := by
  change execCreditGive n s = _
  unfold execCreditGive
  rw [State.startSync_of_starts _ hs (by simp [hop, hsub])]

end

/-- Settles O13: each row runs its update, which a local command applies before its end (`State.fenceUpdate_of_local`). -/
theorem fenceUpdatesApplyAndComplete : Obligations.FenceUpdatesApplyAndComplete :=
  fun _ _ _ hs hop hlocal =>
    ⟨fun hsub => (exec_fenceAdd_of_starts hs hop hsub).trans (congrArg _ (State.fenceUpdate_of_local 1 State.fenceAdd hlocal)),
      fun hsub => (exec_fenceMax_of_starts hs hop hsub).trans (congrArg _ (State.fenceUpdate_of_local 2 State.fenceMax hlocal)),
      fun hsub => (exec_fenceSet_of_starts hs hop hsub).trans (congrArg _ (State.fenceUpdate_of_local 0 State.fenceSet hlocal))⟩

/-- Settles O15: each row sends its message, whose injection ends the command (`State.syncMessage_of_injected`). -/
theorem remoteUpdatesCompleteWhenInjected : Obligations.RemoteUpdatesCompleteWhenInjected := by
  intro n s t e hremote p
  refine ⟨fun hs hop hsub hsent => ?add, fun hs hop hsub hsent => ?max, fun hs hop hsub hsent => ?give⟩
  case add => rw [exec_fenceAdd_of_starts hs hop hsub, State.fenceUpdate_of_injected State.fenceAdd hremote hsent]
  case max => rw [exec_fenceMax_of_starts hs hop hsub, State.fenceUpdate_of_injected State.fenceMax hremote hsent]
  case give => rw [exec_creditGive_of_starts hs hop hsub, if_pos hremote, State.syncMessage_of_injected {} hsent]

/-! SEND (R584 to R587). -/

theorem exec_fenceSend_of_local {s : State} {n : Nat} {e : Exec} {r : Run} (hs : s.starts n e (fenceChecks e.cmd e)) (hop : e.cmd.op = 0x30) (hsub : e.cmd.sub = 4) (hlocal : e.cmd.remote = false)
    (hr : r = sendRun none s n e) :
    exec (.fenceSend n) s = .next ((if r.stop.isSome then r.st else r.st.fenceAdd (s.ctxPart e.cmd.ctx) e.cmd.object (fld e.cmd.words 2 63 0)).endCore n e r.fin) := by
  subst hr
  change execFenceSend n s = _
  unfold execFenceSend
  rw [State.startSync_of_starts _ hs (by simp [hop, hsub])]
  exact congrArg _ (if_neg (by simp [hlocal]))

/-- Settles O16: a local SEND by whether its run met a fault; without one it ends COMPLETE (`Run.fin_of_complete`). -/
theorem sendCopiesThenAdds : Obligations.SendCopiesThenAdds := by
  intro n s e hs hop hsub hlocal r
  have hsend := exec_fenceSend_of_local (r := r) hs hop hsub hlocal rfl
  refine ⟨fun hgood => ⟨?adds, ?complete⟩, fun hfault => ?stopped⟩
  case adds => rw [hsend, if_neg (by simp [hgood])]
  case complete => rw [Run.fin_of_complete hgood]
  case stopped => rw [hsend, if_pos hfault]

/-! CREDIT TAKE and SET (R589, R590, R907). -/

/-- The state with a core's command at the end of the order of a counter's takers (R590). -/
def State.queueTaker (s : State) (p k n : Nat) : State := { s with takers := s.takers ++ [(takerKey p k, Consumer.core n, 0)] }

/-- A taker that joined an empty order is its head: it leaves the order as it was, and takes its amount. -/
theorem State.queueTaker_takeHead {s : State} {p k : Nat} (n amount : Nat) (h : s.headTaker p k = none) :
    (s.queueTaker p k n).takeHead p k amount = s.odSetN (0x2D10 + p) k (s.credits p k - amount) := by
  have hnone : ∀ t ∈ s.takers, ¬(t.1 == takerKey p k) = true := List.find?_eq_none.1 (Option.map_eq_none_iff.1 h)
  have horder : (s.takers ++ [(takerKey p k, Consumer.core n, 0)]).eraseP (fun t => t.1 == takerKey p k) = s.takers := by
    rw [List.eraseP_append_right _ hnone, List.eraseP_cons_of_pos (by simp), List.append_nil]
  have hstate : (s.queueTaker p k n).takeHead p k amount =
      { s.odSetN (0x2D10 + p) k (s.credits p k - amount) with takers := (s.takers ++ [(takerKey p k, Consumer.core n, 0)]).eraseP fun t => t.1 == takerKey p k } := rfl
  rw [hstate, horder]
  rfl

section
variable {s : State} {n : Nat} {e : Exec}

theorem exec_creditTake_of_starts (hs : s.starts n e (creditChecks e.cmd e)) (hop : e.cmd.op = 0x31) (hsub : e.cmd.sub = 0) :
    exec (.creditTake n) s = .next (if s.creditsFree (s.ctxPart e.cmd.ctx) e.cmd.object e.cmd.amount
      then ((s.queueTaker (s.ctxPart e.cmd.ctx) e.cmd.object n).takeHead (s.ctxPart e.cmd.ctx) e.cmd.object e.cmd.amount).endCore n e {}
      else (s.queueTaker (s.ctxPart e.cmd.ctx) e.cmd.object n).waitOn n e) := by
  change execCreditTake n s = _
  unfold execCreditTake
  rw [State.startSync_of_starts _ hs (by simp [hop, hsub])]
  rfl

theorem exec_creditTakeComplete_of_head {p k slot : Nat} (hhead : s.headTaker p k = some (Consumer.core n, slot)) (he : (s.core n).exec = some e) (hw : e.waiting = true)
    (hle : e.cmd.amount ≤ s.credits p k) : exec (.creditTakeComplete p k) s = .next ((s.takeHead p k e.cmd.amount).endCore n e {}) := by
  change execCreditTakeComplete p k s = _
  unfold execCreditTakeComplete
  simp only [hhead, he]
  exact congrArg _ (if_pos (by simp [hw, hle]))

theorem exec_creditSet_of_starts (hs : s.starts n e (creditChecks e.cmd e)) (hop : e.cmd.op = 0x31) (hsub : e.cmd.sub = 2) :
    exec (.creditSet n) s = .next ((s.odSetN (0x2D10 + s.ctxPart e.cmd.ctx) e.cmd.object e.cmd.amount).endCore n e {}) := by
  change execCreditSet n s = _
  unfold execCreditSet
  rw [State.startSync_of_starts _ hs (by simp [hop, hsub])]

end

/-- Settles O17: a TAKE whose credits are free, a waiting TAKE at the head of its counter's order, a local GIVE, and SET, each by its row's equation. -/
theorem creditCommandsComplete : Obligations.CreditCommandsComplete := by
  refine ⟨fun n s e hs hop hsub hnone hle => ?take, fun p k n slot s e => exec_creditTakeComplete_of_head, fun n s e hs hop hsub hlocal => ?give, fun n s e => exec_creditSet_of_starts⟩
  case take => rw [exec_creditTake_of_starts hs hop hsub, if_pos (State.creditsFree_iff.2 ⟨hnone, hle⟩), State.queueTaker_takeHead n _ hnone]
  case give =>
    rw [exec_creditGive_of_starts hs hop hsub, if_neg (by simp [hlocal])]
    rfl

/-- Settles O18: a taker before it leaves the credits not free, so the TAKE waits at the end of the order. -/
theorem takersAreServedInOrder : Obligations.TakersAreServedInOrder := by
  intro n s e hs hop hsub p k hhead
  rw [exec_creditTake_of_starts hs hop hsub, if_neg (Bool.eq_false_iff.1 (State.creditsFree_false (.inl hhead)))]
  rfl

end Sys2Proof.Machine
end

section
/-! PROOFS of the families 13 to 17: what a step is (O1), that the queue is taken from its front (O6), and that every command answers a next state (O3). -/
namespace Sys2Proof.Machine

/-- Settles O1, by the definition of a step on a queue with a front. -/
theorem stepRunsFrontCommand : Obligations.StepRunsFrontCommand :=
  fun _ _ _ hp => step_of_front hp

/-- Settles O6: what a step keeps (`step_kept`) names the queue it leaves. -/
theorem commandsAreTakenFirstInFirstOut : Obligations.CommandsAreTakenFirstInFirstOut :=
  fun _ _ hs hz => (kept_iff_sound.1 (step_kept hs hz)).1

/-- A command that applies to some units only, and leaves the state as it is for any other. -/
theorem ite_answered_next (c : Prop) [Decidable c] (ix sub old new : Nat) (r : State × Nat) (s : State) :
    ∃ t : State, (if c then answered ix sub old new r else .next s) = .next t := by
  split
  · exact ⟨_, rfl⟩
  · exact ⟨s, rfl⟩

/-- Settles O3. A link's CONTROL and its release answer for links there are and change nothing for others; every other row is written as a next state. -/
theorem everyCommandAnswersANextState : Obligations.EveryCommandAnswersANextState := by
  intro c s
  cases c
  case linkDisable l | linkEnable l | linkIsolate l | linkHeldRelease l => exact ite_answered_next _ _ _ _ _ _ _
  all_goals exact ⟨_, rfl⟩

end Sys2Proof.Machine
end

section
/-! PROOFS of the family 13_scheduling_and_arbitration: partitions stop, start and are removed (O39), contexts are added, resumed, aborted (O40) and removed (O41). Each write to a CONTROL is its operation with the status it is answered with; one equation for each outcome of an operation. -/
namespace Sys2Proof.Machine

/-! A write to a CONTROL that is answered. -/

theorem answered_refused {ix sub old new st : Nat} {s : State} (h : st ≠ 0) : answered ix sub old new (s, st) = .next (s.emit (.status ix sub st)) := by
  unfold answered State.noteWrite
  rw [if_neg h]

theorem State.emit_ctx (s : State) (o : Out) (cc : Nat) : (s.emit o).ctx cc = s.ctx cc := rfl

/-- What an accepted write to a CONTROL adds to its effect: an entry of the flight recorder and its status. -/
def State.noted (t : State) (ix sub old new : Nat) : State := (t.flight 7 (ix * 256 + sub) old new none).emit (.status ix sub 0)

theorem State.noted_part (t : State) (ix sub old new p : Nat) : (t.noted ix sub old new).part p = t.part p := State.flight_part _ _ _ _ _ _ _
theorem State.noted_ctxs (t : State) (ix sub old new : Nat) : (t.noted ix sub old new).ctxs = t.ctxs := State.flight_ctxs _ _ _ _ _ _
theorem State.noted_ctx (t : State) (ix sub old new cc : Nat) : (t.noted ix sub old new).ctx cc = t.ctx cc := State.flight_ctx _ _ _ _ _ _ _
theorem State.noted_mem (t : State) (ix sub old new : Nat) : (t.noted ix sub old new).mem = t.mem := State.flight_mem _ _ _ _ _ _
theorem State.noted_odN {ix' sub' : Nat} (t : State) (ix sub old new : Nat) (h : odKey ix' sub' ≠ odKey 0x8200 3) : (t.noted ix sub old new).odN ix' sub' = t.odN ix' sub' :=
  State.flight_odN _ _ _ _ _ _ h

/-! The CONTROL of a partition. -/

section
variable {s : State} {p : Nat} (hp : p < 16)
include hp

theorem State.partControl_stop : s.partControl p 2 = s.stopControl p := by
  simp [State.partControl, Nat.not_le.2 hp]

theorem State.partControl_start : s.partControl p 3 = s.startPart p := by
  simp [State.partControl, Nat.not_le.2 hp]

theorem State.partControl_remove : s.partControl p 4 = s.removePart p := by
  simp [State.partControl, Nat.not_le.2 hp]

theorem exec_partitionStop_of_lt : exec (.partitionStop p) s = answered (0x2000 + p) 3 0 2 (s.stopControl p) := by
  change execPartitionStop p s = _
  rw [execPartitionStop, State.partControl_stop hp]

theorem exec_partitionStart_of_lt : exec (.partitionStart p) s = answered (0x2000 + p) 3 0 3 (s.startPart p) := by
  change execPartitionStart p s = _
  rw [execPartitionStart, State.partControl_start hp]

theorem exec_partitionRemove_of_lt : exec (.partitionRemove p) s = answered (0x2000 + p) 3 0 4 (s.removePart p) := by
  change execPartitionRemove p s = _
  rw [execPartitionRemove, State.partControl_remove hp]

end

section
variable {s : State} {p : Nat}

theorem State.setPart_ctxs (st : PartSt) : (s.setPart p st).ctxs = s.ctxs := by
  unfold State.setPart
  dsimp only
  split
  · rfl
  · rw [State.flight_ctxs, State.updPart_ctxs]

theorem State.setPart_parts_length (st : PartSt) : (s.setPart p st).parts.length = s.parts.length := by
  unfold State.setPart
  dsimp only
  split
  · rfl
  · rw [State.flight_parts, State.updPart_parts, modAt_length]

theorem State.stopControl_of_active (h : (s.part p).st = .active) : s.stopControl p = (s.stopPart p, 0) := if_pos h

theorem State.stopControl_of_notActive (h : (s.part p).st ≠ .active) : s.stopControl p = (s, 4) := if_neg h

theorem exec_partitionStopDone_of_quiet (h : (s.part p).st = .stopping) (hq : s.partQuiet p = true) : exec (.partitionStopDone p) s = .next (s.setPart p .stopped) := by
  change execPartitionStopDone p s = _
  simp [execPartitionStopDone, h, hq]

/-- A partition that starts, its STATE not yet written: the quarter-dies added while it was STOPPED are cleared (R611). -/
def State.starting (s : State) (p : Nat) : State := (if (s.part p).added = 0 then s else s.clearQuarters (s.part p).added).updPart p fun x => { x with added := 0 }

theorem State.startPart_of_stopped (h : (s.part p).st = .stopped) (hm : s.diag.moduleFault = false) : s.startPart p = ((s.starting p).setPart p .active, 0) := by
  simp [State.startPart, State.starting, h, hm, stOk]

theorem State.startPart_of_notStopped (h : (s.part p).st ≠ .stopped) : s.startPart p = (s, 4) := by
  simp [State.startPart, h, stState]

theorem State.starting_parts_length : (s.starting p).parts.length = s.parts.length := by
  unfold State.starting
  rw [State.updPart_parts, modAt_length]
  split <;> rfl

theorem State.starting_ctxs : (s.starting p).ctxs = s.ctxs := by
  unfold State.starting
  rw [State.updPart_ctxs]
  split <;> rfl

theorem State.removePart_of_notStopped (h : (s.part p).st ≠ .stopped) : s.removePart p = (s, 4) := by
  simp [State.removePart, h, stState]

end

/-! REMOVE of a partition (R618). -/

/-- The retention of quarter-dies changes islands and cores. -/
theorem State.retainQuarters_eq (s : State) (mask : Nat) : ∃ cores pwr, s.retainQuarters mask = { s with cores := cores, pwr := pwr } := by
  have islands : ∀ (f : Nat → Island → Island) (l : List Nat) (t : State), ∃ pwr, l.foldl (fun (t : State) q => t.updIsland q (f q)) t = { t with pwr := pwr } := by
    intro f l
    induction l with
    | nil => exact fun t => ⟨t.pwr, rfl⟩
    | cons q l ih => exact fun t => ih (t.updIsland q (f q))
  have cores : ∀ (f : Nat → Core → Core) (l : List Nat) (t : State), ∃ cores, l.foldl (fun (t : State) n => t.updCore n (f n)) t = { t with cores := cores } := by
    intro f l
    induction l with
    | nil => exact fun t => ⟨t.cores, rfl⟩
    | cons n l ih => exact fun t => ih (t.updCore n (f n))
  unfold State.retainQuarters
  obtain ⟨pwr, h1⟩ := islands (fun _ x => if x.power = 2 then { x with power := 1, mv := min x.mv 450 } else x) (quartersOf mask) s
  obtain ⟨cs, h2⟩ := cores (fun _ k => if k.st == .unavailable || k.st == .selfTest then k else { k with st := .retention }) (coresOf mask) { s with pwr := pwr }
  exact ⟨cs, pwr, by rw [h1]; exact h2⟩

/-- `t` is `s` with entries written, none of them `ix`/`sub`. -/
structure WroteOthers (ix sub : Nat) (s t : State) : Prop where
  frame : ∃ od, t = { s with od := od }
  wf : mapWf odDefault t.od = true
  odN : t.odN ix sub = s.odN ix sub

theorem WroteOthers.trans {ix sub : Nat} {s t u : State} (h : WroteOthers ix sub s t) (k : WroteOthers ix sub t u) : WroteOthers ix sub s u := by
  obtain ⟨⟨_, rfl⟩, -, hn⟩ := h
  obtain ⟨⟨od, rfl⟩, hw, kn⟩ := k
  exact ⟨⟨od, rfl⟩, hw, kn.trans hn⟩

theorem foldl_odSetN_wroteOthers {α : Type} (ix sub v : α → Nat) {k j : Nat} (l : List α) (hk : ∀ a ∈ l, odKey k j ≠ odKey (ix a) (sub a)) {s : State} (hw : mapWf odDefault s.od = true) :
    WroteOthers k j s (l.foldl (fun (t : State) a => t.odSetN (ix a) (sub a) (v a)) s) := by
  induction l generalizing s with
  | nil => exact ⟨⟨s.od, rfl⟩, hw, rfl⟩
  | cons a l ih =>
    have h1 : WroteOthers k j s (s.odSetN (ix a) (sub a) (v a)) := ⟨⟨_, rfl⟩, mapWf_put _ _ hw, State.odSetN_odN_other hw (v a) (hk a List.mem_cons_self)⟩
    exact h1.trans (ih (fun b hb => hk b (List.mem_cons_of_mem a hb)) h1.wf)

/-- The contexts assigned to a partition. -/
def State.named (s : State) (p : Nat) : List Nat := (List.range 256).filter fun cc => s.partOfCtx cc == some p

/-- The entries of a partition that is removed, as REMOVE leaves them (R618): no quarter-die, no share, no bandwidth, no context. -/
def State.unassign (t : State) (p : Nat) (named : List Nat) : State :=
  named.foldl (fun u cc => u.odSetN (0x2200 + cc) 1 0xFF)
    ((List.range 7).foldl (fun u r => u.odSetN (0x2010 + p) (r + 1) 0) ([6, 7, 8, 9].foldl (fun u i => u.odSetN (0x2000 + p) i 0) ((t.odSetN 0x4500 (p + 1) 0).odSetN (0x2000 + p) 1 0)))

theorem State.unassign_spec {t : State} (hw : mapWf odDefault t.od = true) {p : Nat} (hp : p < 16) {named : List Nat} (hn : ∀ cc ∈ named, cc < 256) :
    (∃ od, t.unassign p named = { t with od := od }) ∧ (t.unassign p named).quarters p = 0 := by
  have hw0 : mapWf odDefault ((t.odSetN 0x4500 (p + 1) 0).odSetN (0x2000 + p) 1 0).od = true := mapWf_put _ _ (mapWf_put _ _ hw)
  have h1 := foldl_odSetN_wroteOthers (fun _ => 0x2000 + p) (fun i => i) (fun _ => 0) (k := 0x2000 + p) (j := 1) [6, 7, 8, 9]
    (by intro i hi; simp only [List.mem_cons, List.not_mem_nil, or_false] at hi; unfold odKey; omega) hw0
  have h2 := h1.trans (foldl_odSetN_wroteOthers (fun _ => 0x2010 + p) (· + 1) (fun _ => 0) (List.range 7)
    (by intro r hr; have := List.mem_range.1 hr; unfold odKey; omega) h1.wf)
  have h3 : WroteOthers (0x2000 + p) 1 ((t.odSetN 0x4500 (p + 1) 0).odSetN (0x2000 + p) 1 0) (t.unassign p named) :=
    h2.trans (foldl_odSetN_wroteOthers (fun cc => 0x2200 + cc) (fun _ => 1) (fun _ => 0xFF) named (by intro cc hcc; have := hn cc hcc; unfold odKey; omega) h2.wf)
  obtain ⟨od, he⟩ := h3.frame
  exact ⟨⟨od, he⟩, h3.odN.trans (State.odSetN_odN_same (mapWf_put _ _ hw) _ _ _)⟩

/-- What a partition that is removed leaves behind before its STATE and its entries are written: its quarter-dies in retention, no crate slots, no buckets, no requester of its own. -/
def State.vacated (s : State) (p : Nat) : State :=
  let s1 := s.retainQuarters (s.quarters p)
  { s1 with
    tier := { s1.tier with slots := s1.tier.slots.filter fun c => c.part != p }
    buckets := s1.buckets.filter (fun b => b.part != p)
    arbReqs := s1.arbReqs.filter fun r => r.who != p || r.cls == 3 }

theorem State.vacated_frame (s : State) (p : Nat) : (s.vacated p).od = s.od ∧ (s.vacated p).parts = s.parts ∧ (s.vacated p).ctxs = s.ctxs ∧ (s.vacated p).mem = s.mem := by
  obtain ⟨cores, pwr, h⟩ := s.retainQuarters_eq (s.quarters p)
  unfold State.vacated
  rw [h]
  exact ⟨rfl, rfl, rfl, rfl⟩

theorem State.removePart_of_stopped {s : State} {p : Nat} (h : (s.part p).st = .stopped) (hn : (s.named p).any (fun cc => (s.ctx cc).cond != .absent) = false) :
    s.removePart p = ((((s.vacated p).unassign p (s.named p)).setPart p .absent).updPart p fun _ => {}, 0) := by
  have hok : ((s.part p).st != .stopped || (s.named p).any fun cc => (s.ctx cc).cond != .absent) = false := by rw [h, hn]; rfl
  exact if_neg (ne_true_of_eq_false hok)

theorem State.named_absent {s : State} {p : Nat} (hc : ∀ cc : Nat, cc < 256 → s.partOfCtx cc = some p → (s.ctx cc).cond = .absent) :
    (s.named p).any (fun cc => (s.ctx cc).cond != .absent) = false := by
  rw [List.any_eq_false]
  intro cc hcc
  obtain ⟨hlt, hp⟩ := List.mem_filter.1 hcc
  simp [hc cc (List.mem_range.1 hlt) (by simpa using hp)]

theorem partitionRemove_makesAbsent {s : State} {p : Nat} (hs : s.Sound) (hp : p < 16) (h : (s.part p).st = .stopped)
    (hc : ∀ cc : Nat, cc < 256 → s.partOfCtx cc = some p → (s.ctx cc).cond = .absent) :
    ∃ t : State, exec (.partitionRemove p) s = .next t ∧ t.part p = {} ∧ t.quarters p = 0 ∧ t.mem = s.mem ∧ t.ctxs = s.ctxs := by
  obtain ⟨-, ⟨hparts, -⟩, -, hod, -⟩ := hs
  obtain ⟨vod, vparts, vctxs, vmem⟩ := s.vacated_frame p
  obtain ⟨⟨od, hu⟩, hq⟩ := State.unassign_spec (t := s.vacated p) (vod ▸ hod) hp (named := s.named p) fun cc hcc => List.mem_range.1 (List.mem_filter.1 hcc).1
  have hkey : odKey (0x2000 + p) 1 ≠ odKey 0x8200 3 := by unfold odKey; omega
  have hlen : p < (((s.vacated p).unassign p (s.named p)).setPart p .absent).parts.length := by
    rw [State.setPart_parts_length, hu]
    exact vparts.symm ▸ hparts.symm ▸ hp
  rw [exec_partitionRemove_of_lt hp, State.removePart_of_stopped h (State.named_absent hc), answered_accepted]
  refine ⟨_, rfl, ?part, ?quarters, ?mem, ?ctxs⟩
  case part => exact (State.noted_part _ (0x2000 + p) 3 0 4 p).trans (State.updPart_part _ hlen)
  case quarters =>
    refine (State.noted_odN _ (0x2000 + p) 3 0 4 hkey).trans ?_
    exact (State.setPart_odN _ p .absent hkey).trans hq
  case mem => exact (State.noted_mem _ (0x2000 + p) 3 0 4).trans ((State.setPart_mem _ p .absent).trans (hu ▸ vmem))
  case ctxs => exact (State.noted_ctxs _ (0x2000 + p) 3 0 4).trans ((State.setPart_ctxs .absent).trans (hu ▸ vctxs))

/-- Settles O39: STOP, its end, START and REMOVE, each with the STATE that its operation asks for. -/
theorem partitionsStopStartAndAreRemoved : Obligations.PartitionsStopStartAndAreRemoved := by
  intro p s hs hp
  have hparts : s.parts.length = 16 := hs.2.1.1
  refine ⟨fun h => ?stop, fun h => ?stopRefused, fun h hq => ?stopDone, fun h hm => ?start, fun h => ⟨?startRefused, ?removeRefused⟩, fun h hc => partitionRemove_makesAbsent hs hp h hc⟩
  case stop => rw [exec_partitionStop_of_lt hp, State.stopControl_of_active h, answered_accepted]
  case stopRefused => rw [exec_partitionStop_of_lt hp, State.stopControl_of_notActive h, answered_refused (by decide)]
  case stopDone =>
    refine ⟨_, exec_partitionStopDone_of_quiet h hq, ?_, State.setPart_mem _ _ _, State.setPart_ctxs _⟩
    rw [State.setPart_part _ (by omega)]
  case start =>
    rw [exec_partitionStart_of_lt hp, State.startPart_of_stopped h hm, answered_accepted]
    refine ⟨_, rfl, ?_, (State.noted_ctxs _ (0x2000 + p) 3 0 3).trans ((State.setPart_ctxs _).trans State.starting_ctxs)⟩
    refine (congrArg Partition.st (State.noted_part _ (0x2000 + p) 3 0 3 p)).trans ?_
    rw [State.setPart_part _ (by rw [State.starting_parts_length]; omega)]
  case startRefused => rw [exec_partitionStart_of_lt hp, State.startPart_of_notStopped h, answered_refused (by decide)]
  case removeRefused => rw [exec_partitionRemove_of_lt hp, State.removePart_of_notStopped h, answered_refused (by decide)]

/-! The CONTROL of a context. -/

section
variable {s : State} {cc : Nat} (hcc : cc < 256)
include hcc

theorem exec_contextAdd_of_lt : exec (.contextAdd cc) s = answered (0x2200 + cc) 6 0 1 (s.addCtx cc) := by
  change execContextAdd cc s = _
  simp [execContextAdd, State.ctxControl, Nat.not_le.2 hcc]

theorem exec_contextResume_of_lt : exec (.contextResume cc) s = answered (0x2200 + cc) 6 0 2 (s.resumeCtx cc) := by
  change execContextResume cc s = _
  simp [execContextResume, State.ctxControl, Nat.not_le.2 hcc]

theorem exec_contextAbort_of_lt : exec (.contextAbort cc) s = answered (0x2200 + cc) 6 0 3 (s.abortCtx cc) := by
  change execContextAbort cc s = _
  simp [execContextAbort, State.ctxControl, Nat.not_le.2 hcc]

theorem exec_contextRemove_of_lt : exec (.contextRemove cc) s = answered (0x2200 + cc) 6 0 4 (s.removeCtx cc) := by
  change execContextRemove cc s = _
  simp [execContextRemove, State.ctxControl, Nat.not_le.2 hcc]

end

section
variable {s : State} {cc : Nat}

/-- A context that ADD takes up, its condition not yet IDLE (R623, R805). -/
def State.adding (s : State) (cc : Nat) (room : Bool) : State := (s.odClear (0x6300 + cc)).updCtx cc fun _ => { resident := room }

theorem State.addCtx_of_absent {p : Nat} (hp : s.partOfCtx cc = some p) (hc : (s.ctx cc).cond = .absent) (ha : (s.part p).st = .active) (hr : s.ringsOk cc = true) :
    s.addCtx cc = ((s.adding cc (decide ((s.residents p).length < s.odN (0x2000 + p) 5))).setCond cc .idle, 0) := by
  simp [State.addCtx, State.adding, hp, hc, ha, hr, stOk]

/-- A condition that changes is timed from now (R621, R632). -/
theorem State.setCond_ctx_of_ne {c : Cond} (h : cc < s.ctxs.length) (hc : (s.ctx cc).cond ≠ c) :
    (s.setCond cc c).ctx cc = { s.ctx cc with cond := c, since := s.now, blockedAt := if c = .blocked then s.now else 0 } := by
  unfold State.setCond
  dsimp only
  rw [if_neg hc, State.flight_ctx, State.updCtx_ctx h]

theorem contextAdd_makesIdle {p : Nat} (hl : cc < s.ctxs.length) (hcc : cc < 256) (hp : s.partOfCtx cc = some p) (hc : (s.ctx cc).cond = .absent) (ha : (s.part p).st = .active) (hr : s.ringsOk cc = true) :
    ∃ t : State, exec (.contextAdd cc) s = .next t ∧ t.ctx cc = { cond := .idle, since := s.now, resident := decide ((s.residents p).length < s.odN (0x2000 + p) 5) } := by
  rw [exec_contextAdd_of_lt hcc, State.addCtx_of_absent hp hc ha hr, answered_accepted]
  refine ⟨_, rfl, (State.noted_ctx _ (0x2200 + cc) 6 0 1 cc).trans ?_⟩
  have hnew : (s.adding cc (decide ((s.residents p).length < s.odN (0x2000 + p) 5))).ctx cc = { resident := decide ((s.residents p).length < s.odN (0x2000 + p) 5) } :=
    State.updCtx_ctx (s := s.odClear (0x6300 + cc)) hl
  rw [State.setCond_ctx_of_ne (by rwa [State.adding, State.updCtx_ctxs, modAt_length]) (by rw [hnew]; nofun), hnew]
  rfl

theorem State.resumeCtx_of_halted {p : Nat} (hp : s.partOfCtx cc = some p) (hc : (s.ctx cc).cond = .halted) (ha : (s.part p).st = .active) :
    s.resumeCtx cc = ((((s.recoverCores cc).setCond cc .idle).refresh cc).preempt cc, 0) := by
  simp [State.resumeCtx, hp, hc, ha, stOk]

theorem State.abortCtx_of_halted (hc : (s.ctx cc).cond = .halted) :
    s.abortCtx cc = ((((s.setCond cc .aborting).abortCtxs (· == cc) false).recoverCores cc).updCtx cc fun x => { x with fetched := [] }, 0) := by
  simp [State.abortCtx, hc, stOk]

theorem State.abortCtx_of_notHalted (hc : (s.ctx cc).cond ≠ .halted) : s.abortCtx cc = (s, 4) := by
  simp [State.abortCtx, hc, stState]

theorem exec_contextAbortDone_of_quiet (hc : (s.ctx cc).cond = .aborting) (hf : s.flyingOf cc = []) : exec (.contextAbortDone cc) s = .next (s.abortDone cc) := by
  change execContextAbortDone cc s = _
  simp [execContextAbortDone, hc, hf]

theorem State.abortDone_ctx (hl : cc < s.ctxs.length) :
    ∃ a b, (s.abortDone cc).ctx cc = { s.ctx cc with cond := .idle, next := (s.ctx cc).sqTail, sqHead := (s.ctx cc).sqTail, again := [], fetched := [], freed := [], since := a, blockedAt := b } := by
  unfold State.abortDone
  obtain ⟨a, b, h⟩ := State.setCond_ctx (s := (s.forgetWithdrawn cc).updCtx cc fun x => { x with next := x.sqTail, sqHead := x.sqTail, again := [], fetched := [], freed := [] }) (cc := cc) (c := .idle)
    (by rw [State.updCtx_ctxs, modAt_length]; exact hl)
  exact ⟨a, b, by rw [h, State.updCtx_ctx (by exact hl)]; rfl⟩

theorem State.abortDone_mem : (s.abortDone cc).mem = s.mem := State.setCond_mem

/-- A context that REMOVE takes out (R624). -/
def State.removed (s : State) (cc : Nat) : State :=
  (((s.recoverCores cc).setCond cc .absent).forgetWithdrawn cc).updCtx cc fun y => { y with resident := false, fetched := [], again := [], freed := [] }

theorem State.removeCtx_of_quiet (hc : (s.ctx cc).cond = .idle ∨ (s.ctx cc).cond = .halted) (hf : s.flyingOf cc = []) : s.removeCtx cc = (s.removed cc, 0) := by
  rcases hc with hc | hc <;> simp [State.removeCtx, State.removed, hc, hf, stOk]

theorem State.removeCtx_of_notQuiet (h : ¬(((s.ctx cc).cond = .idle ∨ (s.ctx cc).cond = .halted) ∧ s.flyingOf cc = [])) : s.removeCtx cc = (s, 4) := by
  unfold State.removeCtx
  exact if_neg (by simpa using h)

theorem State.removed_cond (hl : cc < s.ctxs.length) : ((s.removed cc).ctx cc).cond = .absent := by
  obtain ⟨a, b, h⟩ := State.setCond_ctx (s := s.recoverCores cc) (cc := cc) (c := .absent) hl
  have hlen : cc < (((s.recoverCores cc).setCond cc .absent).forgetWithdrawn cc).ctxs.length := by
    change cc < ((s.recoverCores cc).setCond cc .absent).ctxs.length
    rw [State.setCond_ctxs_length]
    exact hl
  unfold State.removed
  rw [State.updCtx_ctx hlen]
  exact congrArg Context.cond h

theorem State.removed_mem : (s.removed cc).mem = s.mem := State.setCond_mem (s := s.recoverCores cc)

end

/-- Settles O40: ADD, RESUME, ABORT and its end, each by the equation of its operation. -/
theorem contextsAreAddedResumedAndAborted : Obligations.ContextsAreAddedResumedAndAborted := by
  refine ⟨fun cc p s hw hcc hp hc ha hr => ?add, fun cc p s hcc hp hc ha => ?resume, fun cc s hcc hc => ?abort, fun cc s hw hcc hc hf => ?abortDone, fun cc s hcc hc => ?abortRefused⟩
  case add => exact contextAdd_makesIdle (by obtain ⟨-, hctxs, -⟩ := hw; omega) hcc hp hc ha hr
  case resume => rw [exec_contextResume_of_lt hcc, State.resumeCtx_of_halted hp hc ha, answered_accepted]
  case abort => rw [exec_contextAbort_of_lt hcc, State.abortCtx_of_halted hc, answered_accepted]
  case abortDone =>
    obtain ⟨a, b, h⟩ := State.abortDone_ctx (s := s) (cc := cc) (by obtain ⟨-, hctxs, -⟩ := hw; omega)
    exact ⟨_, exec_contextAbortDone_of_quiet hc hf, by rw [h], by rw [h], by rw [h], by rw [h], State.abortDone_mem⟩
  case abortRefused => rw [exec_contextAbort_of_lt hcc, State.abortCtx_of_notHalted hc, answered_refused (by decide)]

/-- Settles O41: REMOVE is accepted of a quiet context and refused of any other. -/
theorem contextsAreRemovedWhenQuiet : Obligations.ContextsAreRemovedWhenQuiet := by
  intro cc s hw hcc
  obtain ⟨-, hctxs, -⟩ := hw
  split
  case isTrue h =>
    obtain ⟨hc, hf⟩ := h
    rw [exec_contextRemove_of_lt hcc, State.removeCtx_of_quiet hc hf, answered_accepted]
    refine ⟨_, rfl, ?_, (State.noted_mem _ (0x2200 + cc) 6 0 4).trans State.removed_mem⟩
    exact (congrArg Context.cond (State.noted_ctx _ (0x2200 + cc) 6 0 4 cc)).trans (State.removed_cond (by omega))
  case isFalse h => rw [exec_contextRemove_of_lt hcc, State.removeCtx_of_notQuiet h, answered_refused (by decide)]

end Sys2Proof.Machine
end

section
/-! PROOFS of the family 13_scheduling_and_arbitration: the credit of the arbiters and the buckets of the regulators (O49). -/
namespace Sys2Proof.Machine

/-! The next boundary of a window. -/

theorem nextBoundary_spec {w : Nat} (hw : 0 < w) (now : Nat) : (now / w + 1) * w % w = 0 ∧ now < (now / w + 1) * w ∧ (now / w + 1) * w ≤ now + w := by
  have hdiv := Nat.div_add_mod now w
  have hlt := Nat.mod_lt now hw
  have hmul : (now / w + 1) * w = w * (now / w) + w := by rw [Nat.add_mul, Nat.one_mul, Nat.mul_comm]
  exact ⟨Nat.mul_mod_left _ _, by omega, by omega⟩

theorem State.advance_arbReqs (s : State) (T : Nat) : (s.advance T).arbReqs = s.arbReqs := by
  obtain ⟨od, cores, time, h⟩ := s.advance_eq T
  rw [h]

theorem State.advance_buckets (s : State) (T : Nat) : (s.advance T).buckets = s.buckets ∧ (s.advance T).parts = s.parts := by
  obtain ⟨od, cores, time, h⟩ := s.advance_eq T
  rw [h]
  exact ⟨rfl, rfl⟩

/-! Settings (R644, R645). -/

theorem State.arbCommit_of_lt {s : State} {mask : Nat} (h : mask < 64) :
    s.arbCommit mask = ({ s with arbPending := s.arbPending.filter (fun x => !((List.range 6).filter (bit mask)).contains x.1) ++ ((List.range 6).filter (bit mask)).map fun k => (k, s.arbShadow k) }, 0) := by
  unfold State.arbCommit
  rw [if_neg (by omega)]

theorem exec_arbiterWindowBoundary_of_lt {s : State} {k : Nat} (hk : k < 6) : exec (.arbiterWindowBoundary k) s = .next ((s.advance ((s.now / (s.arb k).window + 1) * (s.arb k).window)).atWindow k) := by
  change execArbiterWindowBoundary k s = _
  rw [execArbiterWindowBoundary, if_pos hk]

/-- The settings of a class from its next window boundary on: the pending set, if it has one. -/
def State.arbNext (s : State) (k : Nat) : ArbSet := match s.arbPending.find? fun x => x.1 == k with | some x => x.2 | none => s.arb k

theorem State.advance_arbNext (s : State) (T k : Nat) : (s.advance T).arbNext k = s.arbNext k := by
  obtain ⟨od, cores, time, h⟩ := s.advance_eq T
  rw [h]
  rfl

theorem State.atWindow_arbReqs (s : State) (k : Nat) :
    (s.atWindow k).arbReqs = s.arbReqs.map fun r => if r.cls = k then { r with credit := min ((2 * (s.arbNext k).weight k r.who : Nat) : Int) (r.credit + (s.arbNext k).weight k r.who) } else r := rfl

/-! A decision (R647, R648, R649). -/

theorem State.spend_arbReqs (s : State) (k inst : Nat) (r : Request) (units : Nat) : (s.spend k inst r units).arbReqs = s.arbReqs := by
  unfold State.spend
  split
  · rfl
  · dsimp only
    have paid : (if r.spare then s else match r.regClass with
        | some c => { s with buckets := s.buckets.map fun b => if b.part == r.who && b.cls == c && b.inst == r.regInst then { b with level := b.level - 1024 * (ceilDiv r.bytes 32 : Nat) } else b }
        | none => s).arbReqs = s.arbReqs := by
      split
      · rfl
      · split <;> rfl
    split <;> exact paid

theorem State.grant_arbReqs (s : State) (k inst : Nat) (rs : List Request) (who units : Nat) :
    (s.grant k inst rs who units).arbReqs = s.arbReqs.map fun x =>
      if x.cls = k ∧ x.inst = inst then
        (if x.who = who then { x with credit := max (-((s.arb k).burst : Int)) (x.credit - units), losses := 0, quietUntil := 0 }
         else if rs.any (fun y => y.who == x.who) then { x with losses := x.losses + 1, quietUntil := s.now + 8 * 2 ^ min x.losses 10 } else x)
      else x := by
  have hmap : (s.grant k inst rs who units).arbReqs = s.arbReqs.map fun (x : ReqState) =>
      if x.cls = k && x.inst = inst then
        (if x.who = who then { x with credit := max (-((s.arb k).burst : Int)) (x.credit - units), losses := 0, quietUntil := 0 }
         else if x.who != who && rs.any fun r => r.who == x.who then { x with losses := x.losses + 1, quietUntil := s.now + backoff (x.losses + 1) } else x)
      else x := by
    unfold State.grant
    dsimp only
    split <;> rfl
  rw [hmap]
  refine List.map_congr_left fun x _ => ?_
  by_cases hw : x.who = who <;> simp [hw, backoff]

theorem exec_arbiterDecision_of_winner {k inst : Nat} {reqs : List Request} {s : State} {r : Request} {rs : List Request} (hk : k < 6) (hk3 : k ≠ 3) (hi : inst < arbCount k)
    (hrs : rs = (reqs.filterMap s.pastRegulator).filter (s.presents k inst)) (hw : s.winner k inst rs = some r) :
    exec (.arbiterDecision k inst reqs) s = .next ((s.grant k inst rs r.who (s.served k r)).spend k inst r (s.served k r)) := by
  subst hrs
  change execArbiterDecision k inst reqs s = _
  simp [execArbiterDecision, Nat.not_le.2 hk, Nat.not_le.2 hi, hk3, hw]

theorem exec_arbiterDecision_of_link {inst : Nat} (reqs : List Request) {s : State} (hi : inst < arbCount 3) (hl : s.leadOf inst = inst) : exec (.arbiterDecision 3 inst reqs) s = .next (s.decideLink inst) := by
  change execArbiterDecision 3 inst reqs s = _
  simp [execArbiterDecision, Nat.not_le.2 hi, hl]

theorem exec_arbiterBackoffEnd_of_quiet {k inst who : Nat} {s : State} {r : ReqState} (hr : s.findReq k inst who = some r) (hq : r.quietUntil ≠ 0) :
    exec (.arbiterBackoffEnd k inst who) s = .next ((s.advance r.quietUntil).updReq k inst who fun x => { x with quietUntil := 0 }) := by
  change execArbiterBackoffEnd k inst who s = _
  simp [execArbiterBackoffEnd, hr, hq]

/-! Buckets (R638, R639). -/

/-- The bucket of a partition, class and unit as a boundary leaves it. -/
def State.bucketAt (s : State) (p r i : Nat) : Bucket := match findBucket s.buckets p r i with
  | some b => s.gained b
  | none => s.freshBucket p r i

theorem findBucket_key {l : List Bucket} {p r i : Nat} {b : Bucket} (h : findBucket l p r i = some b) : b.part = p ∧ b.cls = r ∧ b.inst = i := by
  have hk := List.find?_some h
  simpa [and_assoc] using hk

theorem State.bucketAt_key (s : State) (p r i : Nat) : (s.bucketAt p r i).part = p ∧ (s.bucketAt p r i).cls = r ∧ (s.bucketAt p r i).inst = i := by
  unfold State.bucketAt
  split
  next b h => exact findBucket_key (b := b) h
  next => exact ⟨rfl, rfl, rfl⟩

theorem State.mem_regBuckets {s : State} {x : Bucket} :
    x ∈ s.regBuckets ↔ ∃ p r i, p < 16 ∧ (s.part p).st ≠ .absent ∧ r < 7 ∧ s.regShare p r ≠ 0 ∧ i < regCount r ∧ s.bucketAt p r i = x := by
  have shared : ∀ p r, x ∈ (if s.regShare p r = 0 then [] else (List.range (regCount r)).map fun i => s.bucketAt p r i) ↔ s.regShare p r ≠ 0 ∧ ∃ i, i < regCount r ∧ s.bucketAt p r i = x := fun p r => by
    by_cases h : s.regShare p r = 0 <;> simp [h]
  change x ∈ ((List.range 16).filter fun p => (s.part p).st != .absent).flatMap (fun p => (List.range 7).flatMap fun r => if s.regShare p r = 0 then [] else (List.range (regCount r)).map fun i => s.bucketAt p r i) ↔ _
  simp only [List.mem_flatMap, List.mem_filter, List.mem_range, shared, bne_iff_ne, ne_eq]
  constructor
  · rintro ⟨p, ⟨hp, hst⟩, r, hr, hshare, i, hi, hx⟩
    exact ⟨p, r, i, hp, hst, hr, hshare, hi, hx⟩
  · rintro ⟨p, r, i, hp, hst, hr, hshare, hi, hx⟩
    exact ⟨p, ⟨hp, hst⟩, r, hr, hshare, i, hi, hx⟩

/-- A list that holds one element that satisfies a test finds it. -/
theorem find?_eq_some_of_unique {α : Type} {f : α → Bool} {l : List α} {x : α} (hx : x ∈ l) (hf : f x = true) (hu : ∀ y ∈ l, f y = true → y = x) : l.find? f = some x := by
  cases h : l.find? f with
  | none => exact absurd hf (by simpa using List.find?_eq_none.1 h x hx)
  | some y => rw [hu y (List.mem_of_find?_eq_some h) (List.find?_some h)]

theorem State.findBucket_regBuckets {s : State} {p r i : Nat} (hp : p < 16) (hst : (s.part p).st ≠ .absent) (hr : r < 7) (hshare : s.regShare p r ≠ 0) (hi : i < regCount r) :
    findBucket s.regBuckets p r i = some (s.bucketAt p r i) := by
  refine find?_eq_some_of_unique (State.mem_regBuckets.2 ⟨p, r, i, hp, hst, hr, hshare, hi, rfl⟩) (by simp [s.bucketAt_key p r i]) fun y hy hk => ?_
  obtain ⟨p', r', i', -, -, -, -, -, rfl⟩ := State.mem_regBuckets.1 hy
  obtain ⟨h1, h2, h3⟩ := s.bucketAt_key p' r' i'
  obtain ⟨rfl, rfl, rfl⟩ : p' = p ∧ r' = r ∧ i' = i := by simpa [h1, h2, h3, and_assoc] using hk
  rfl

theorem State.bucketAt_level {s : State} {p r i : Nat} {b : Bucket} (h : findBucket s.buckets p r i = some b) :
    (s.bucketAt p r i).level = min ((s.odN (0x2010 + p) 9 * s.regGain p r i : Nat) : Int) (b.level + s.regGain p r i) := by
  obtain ⟨rfl, rfl, rfl⟩ := findBucket_key h
  unfold State.bucketAt
  rw [h]
  rfl

/-- Settles O49: commit and refill by the settings of the class; a decision by what its grant does to each requester; a regulator boundary by the one bucket of each partition, class and unit. -/
theorem arbitersRefillAndChargeCredit : Obligations.ArbitersRefillAndChargeCredit := by
  refine ⟨fun mask s hm => ?commit, fun k s hk hw => ?window, fun k inst reqs s r hk hk3 hi => ?decision, fun inst reqs s hi hl => exec_arbiterDecision_of_link reqs hi hl,
    fun k inst who s r hr hq => exec_arbiterBackoffEnd_of_quiet hr hq, fun s => ?regulator⟩
  case commit =>
    change answered 0x2AF0 1 0 mask (s.arbCommit mask) = _
    rw [State.arbCommit_of_lt hm, answered_accepted]
  case window =>
    obtain ⟨hmod, hlt, hle⟩ := nextBoundary_spec hw s.now
    have hnow : ((s.advance ((s.now / (s.arb k).window + 1) * (s.arb k).window)).atWindow k).now = (s.now / (s.arb k).window + 1) * (s.arb k).window := State.advance_now hlt.le
    refine ⟨_, exec_arbiterWindowBoundary_of_lt hk, by rw [hnow]; exact hmod, by rw [hnow]; exact hlt, by rw [hnow]; exact hle, ?_⟩
    rw [State.atWindow_arbReqs, State.advance_arbNext, State.advance_arbReqs]
    rfl
  case decision =>
    intro rs hwin
    exact ⟨_, exec_arbiterDecision_of_winner hk hk3 hi rfl hwin, by rw [State.spend_arbReqs, State.grant_arbReqs]⟩
  case regulator =>
    obtain ⟨hmod, hlt, hle⟩ := nextBoundary_spec (w := 10000) (by decide) s.now
    have hnow : (s.advance ((s.now / 10000 + 1) * 10000)).atRegulator.now = (s.now / 10000 + 1) * 10000 := (congrArg TimeBase.now (State.atRegulator_time _)).trans (State.advance_now hlt.le)
    refine ⟨_, rfl, by rw [hnow]; exact hmod, by rw [hnow]; exact hlt, by rw [hnow]; exact hle, fun p r i b hp hr hi hst hb => ?_⟩
    intro u hshare
    obtain ⟨hbuckets, hparts⟩ := s.advance_buckets ((s.now / 10000 + 1) * 10000)
    have hst' : (u.part p).st ≠ .absent := by unfold State.part; rwa [hparts]
    change (findBucket u.regBuckets p r i).map Bucket.level = _
    rw [State.findBucket_regBuckets hp hst' hr hshare hi, Option.map_some, State.bucketAt_level (hbuckets.symm ▸ hb)]

end Sys2Proof.Machine
end

section
/-! PROOFS of the family 17_management_and_security: node IDs (O59) and the messages of the segment (O60). A message that passes the checks every message meets is handed on (`State.tchioz_of_good`); a fault recorded leaves the management controller but its EVENTs. -/
namespace Sys2Proof.Machine

/-! The checks every message meets (R786, R819). -/

/-- A message of the manager for this module, good and of a level that is not excluded. -/
structure State.Hears (s : State) (typ : Nat) (m : MgmtMsg) : Prop where
  up : s.mgmtUp = true
  manager : ofManager m = true
  mine : s.toMe m = true
  header : headerFault m = none
  level : s.levelOut typ m = false

section
variable {s : State} {typ : Nat} {m : MgmtMsg}

theorem State.tchioz_of_good (f : State → State) (h : s.Hears typ m) : s.tchioz typ m f = f s := by
  obtain ⟨h1, h2, h3, h4, h5⟩ := h
  simp [State.tchioz, h1, h2, h3, h4, h5]

theorem State.tchioz_of_otherSender (f : State → State) (hu : s.mgmtUp = true) (h : ofManager m = false) : s.tchioz typ m f = s.odInc 0x1100 9 := by
  simp [State.tchioz, hu, h]

theorem State.tchioz_of_badHeader {r : Nat} (f : State → State) (hu : s.mgmtUp = true) (hm : ofManager m = true) (h : headerFault m = some r) :
    s.tchioz typ m f = s.sendMgmt 0x1F m.seq [BitVec.ofNat 8 r] := by
  simp [State.tchioz, hu, hm, h]

theorem State.tchioz_of_otherNode (f : State → State) (hu : s.mgmtUp = true) (hm : ofManager m = true) (hh : headerFault m = none) (h : s.toMe m = false) : s.tchioz typ m f = s := by
  simp [State.tchioz, hu, hm, hh, h]

theorem State.notice_of_good (f : State → State) (hb : m.mailbox = false) (h : s.Hears typ m) : s.notice typ m f = f s := by
  unfold State.notice
  rw [hb, State.tchioz_of_good f h]
  rfl

/-- The address messages are heard at every level (R819). -/
theorem State.levelOut_address (h : typ = 0x01 ∨ typ = 0x03 ∨ typ = 0x04) : s.levelOut typ m = false := by
  rcases h with rfl | rfl | rfl <;> simp [State.levelOut]

end

/-! Requests (R785, R787, R803). -/

section
variable {s : State} {typ : Nat} {m : MgmtMsg}

theorem State.request_of_segment (hb : m.mailbox = false) : s.request typ m = s.tchiozRequest typ m := by
  unfold State.request
  rw [hb]
  rfl

theorem State.request_of_mailbox (hb : m.mailbox = true) : s.request typ m = s.mailboxRequest typ m := by
  unfold State.request
  rw [hb]
  rfl

theorem State.tchiozRequest_of_new (h : s.Hears typ m) (hr : (s.mgmt.replies.find? fun x => x.typ == typ && x.seq == m.seq) = none) :
    s.tchiozRequest typ m = (s.serveType typ m.payload).1.reply typ m.seq (s.serveType typ m.payload).2 := by
  unfold State.tchiozRequest
  rw [State.tchioz_of_good _ h, hr]

theorem State.tchiozRequest_of_repeated {x : StoredReply} (h : s.Hears typ m) (hr : (s.mgmt.replies.find? fun x => x.typ == typ && x.seq == m.seq) = some x) (hn : s.mgmt.node ≠ 0) :
    s.tchiozRequest typ m = s.emit (.mgmt (typ + 1) m.seq x.time x.bytes) := by
  unfold State.tchiozRequest
  rw [State.tchioz_of_good _ h, hr]
  exact if_neg hn

end

/-- The four requests, each served by its TYPE (R785). -/
theorem exec_request {i : MgmtMsg → Instr} {typ : Nat} (h : (i, typ) ∈ [(Instr.read, 0x05), (Instr.write, 0x07), (Instr.blob, 0x09), (Instr.dumpReq, 0x0B)]) (m : MgmtMsg) (s : State) :
    exec (i m) s = .next (s.request typ m) := by
  simp only [List.mem_cons, Prod.mk.injEq, List.not_mem_nil, or_false] at h
  rcases h with ⟨rfl, rfl⟩ | ⟨rfl, rfl⟩ | ⟨rfl, rfl⟩ | ⟨rfl, rfl⟩ <;> rfl

/-! Node IDs (R792 to R797). -/

section
variable {s : State} {m : MgmtMsg}

/-- Whether an ASSIGN or a CONFIRM names an ID that there is. -/
theorem nodeId_good {id : Nat} (h1 : 1 ≤ id) (h31 : id ≤ 31) : decide (id = 0) = false ∧ decide (31 < id) = false := by
  simp only [decide_eq_false_iff_not]
  omega

theorem State.takeAssign_of_good (hlen : m.payload.length = 8) (hrest : leNat (m.payload.drop 1) = 0) (h1 : 1 ≤ leNat (m.payload.take 1)) (h31 : leNat (m.payload.take 1) ≤ 31) :
    s.takeAssign m = if s.mgmt.node = 0 ∧ s.mgmt.addrIn = true then (s.withMgmt fun x => { x with node := leNat (m.payload.take 1), confirmed := false }).sendAssignAck m
      else if s.mgmt.node = leNat (m.payload.take 1) ∧ s.mgmt.confirmed = false then s.sendAssignAck m else s := by
  obtain ⟨h0, h32⟩ := nodeId_good h1 h31
  unfold State.takeAssign
  simp only [hlen, hrest, h0, h32, bne_self_eq_false, Bool.or_self, Bool.false_eq_true, if_false, Bool.and_eq_true, decide_eq_true_eq, Bool.not_eq_true']

theorem State.takeConfirm_of_mine (hlen : m.payload.length = 16) (hrest : leNat ((m.payload.drop 1).take 7) = 0) (hn : s.mgmt.node ≠ 0) (h31 : s.mgmt.node ≤ 31)
    (hid : leNat (m.payload.take 1) = s.mgmt.node) (hserial : leNat (m.payload.drop 8) = s.serial) :
    s.takeConfirm m = s.withMgmt fun x => { x with confirmed := true, addrOut := x.addrIn } := by
  obtain ⟨h0, h32⟩ := nodeId_good (Nat.one_le_iff_ne_zero.2 hn) h31
  unfold State.takeConfirm
  simp only [hlen, hrest, hid, hserial, h0, h32, bne_self_eq_false, Bool.or_self, Bool.false_eq_true, if_false, decide_true, Bool.and_self, if_true]

theorem State.takeRelease_of_mine {a b : Nat} (hlen : m.payload.length = 8) (hrest : leNat (m.payload.drop 2) = 0) (ha : a = leNat (m.payload.take 1)) (hb : b = leNat ((m.payload.drop 1).take 1))
    (h1 : 1 ≤ a) (han : a ≤ s.mgmt.node) (hnb : s.mgmt.node ≤ b) (h31 : b ≤ 31) :
    s.takeRelease m = s.withMgmt fun x => { x with node := 0, confirmed := false, addrOut := false } := by
  obtain ⟨ha0, ha32⟩ := nodeId_good h1 (show a ≤ 31 by omega)
  obtain ⟨hb0, hb32⟩ := nodeId_good (show 1 ≤ b by omega) h31
  have hn : s.mgmt.node ≠ 0 := by omega
  unfold State.takeRelease
  rw [← ha, ← hb]
  simp only [hlen, hrest, ha0, ha32, hb0, hb32, hn, han, hnb, bne_self_eq_false, Bool.or_self, Bool.false_eq_true, if_false, decide_true, bne_iff_ne, ne_eq, not_false_eq_true,
    Bool.and_eq_true, and_self, if_true]

end

/-- Settles O59: a good ASSIGN is heard at every level, and its three outcomes are those of `takeAssign`. -/
theorem assignGivesAnUnassignedModuleItsNodeId : Obligations.AssignGivesAnUnassignedModuleItsNodeId := by
  intro m s hu hb hm hme hh hlen hrest h1 h31 ack
  have he : exec (.assign m) s = .next (s.takeAssign m) := by
    change Host.Outcome.next (s.notice 0x01 m fun t => t.takeAssign m) = _
    rw [State.notice_of_good _ hb ⟨hu, hm, hme, hh, State.levelOut_address (.inl rfl)⟩]
  rw [he, State.takeAssign_of_good hlen hrest h1 h31]
  by_cases hfree : s.mgmt.node = 0 ∧ s.mgmt.addrIn = true
  · rw [if_pos hfree, if_pos hfree]
    rfl
  · rw [if_neg hfree, if_neg hfree]
    by_cases hagain : s.mgmt.node = leNat (m.payload.take 1) ∧ s.mgmt.confirmed = false
    · rw [if_pos hagain, if_pos hagain]
      rfl
    · rw [if_neg hagain, if_neg hagain]

/-! A recorded fault and the management controller: its EVENTs only (R825). -/

/-- `t`'s management controller is that of `s` with other EVENTs. -/
def EventsOnly (s t : State) : Prop := ∃ events next, t.mgmt = { s.mgmt with events := events, nextEvent := next }

theorem EventsOnly.of_eq {s t : State} (h : t.mgmt = s.mgmt) : EventsOnly s t := ⟨s.mgmt.events, s.mgmt.nextEvent, h⟩

theorem EventsOnly.trans {s t u : State} : EventsOnly s t → EventsOnly t u → EventsOnly s u := by
  rintro ⟨_, _, h⟩ ⟨events, next, k⟩
  exact ⟨events, next, by rw [k, h]⟩

theorem State.flight_mgmt (s : State) (kind object old new : Nat) (body : Option FaultRec) : (s.flight kind object old new body).mgmt = s.mgmt := by
  unfold State.flight
  split
  · obtain ⟨od, h⟩ := s.odAdd_eq 0x8200 3 1
    unfold State.odInc
    rw [h]
  · rfl

theorem State.msix_mgmt (s : State) (v : Nat) : (s.msix v).mgmt = s.mgmt := by
  obtain ⟨bits, out, h⟩ := s.msix_eq v
  rw [h]

theorem State.sendMgmt_mgmt (s : State) (typ seq : Nat) (payload : List Byte) : (s.sendMgmt typ seq payload).mgmt = s.mgmt := by
  unfold State.sendMgmt
  split <;> rfl

theorem State.recordRaw_mgmt (s : State) (r : FaultRec) : (s.recordRaw r).mgmt = s.mgmt := by
  have flown : ∀ (t : State) body, t.mgmt = s.mgmt → (t.flight 1 0 0 0 body).mgmt = s.mgmt := fun t _ h => (t.flight_mgmt 1 0 0 0 _).trans h
  unfold State.recordRaw
  dsimp only
  split
  case h_1 | h_2 | h_3 => rw [State.msix_mgmt]; exact flown _ _ rfl
  case h_4 | h_5 => exact flown _ _ rfl

theorem State.queueEvent_eventsOnly (s : State) (r : FaultRec) : EventsOnly s (s.queueEvent r).1 := by
  have queued : ∀ (events : List EventRec) (next : Nat) (bs : List Byte), EventsOnly s (State.sendMgmt { s with mgmt := { s.mgmt with events := events, nextEvent := next } } 0x0E 0 bs) :=
    fun events next bs => ⟨events, next, State.sendMgmt_mgmt _ _ _ _⟩
  unfold State.queueEvent
  dsimp only
  split
  · exact .of_eq rfl
  · split
    · exact queued _ _ _
    · split
      · exact queued _ _ _
      · exact .of_eq rfl

theorem State.recordLimited_eventsOnly (s : State) (r : FaultRec) (key : Nat) : EventsOnly s (s.recordLimited r key) := by
  have recorded : ∀ (x : FaultRec) (f : Diag → Diag) (y : FaultRec), EventsOnly s (((s.recordRaw x).withDiag f).queueEvent y).1 :=
    fun x f y => (EventsOnly.of_eq (t := (s.recordRaw x).withDiag f) (s.recordRaw_mgmt x)).trans (State.queueEvent_eventsOnly _ y)
  unfold State.recordLimited
  split
  · split
    · exact .of_eq rfl
    · exact recorded _ (fun d => { d with limits := _ }) _
  · exact recorded _ (fun d => { d with limits := _ }) _

theorem State.record_eventsOnly (s : State) (r : FaultRec) : EventsOnly s (s.record r) := by
  have h := (EventsOnly.of_eq (s.recordRaw_mgmt r)).trans (State.queueEvent_eventsOnly _ ((s.recordRaw r).diag.ring.headD r))
  unfold State.record
  dsimp only
  split
  · exact h.trans (State.recordLimited_eventsOnly _ _ _)
  · exact h

/-- A fault of scope INFO is recorded and stops nothing (R852). -/
theorem State.raise_of_info (s : State) {r : FaultRec} (h : codeScope r.code = .info) : s.raise r = s.record r := by
  unfold State.raise
  rw [h]

/-! ADDR_IN, EVENTs, heartbeats and frames of others (R783, R796, R804, R824, R825). -/

theorem addrInChange_setsAddrOut {level : Bool} {s : State} (h : s.mgmt.addrIn ≠ level) :
    ∃ t : State, exec (.addrInChange level) s = .next t ∧ t.mgmt.addrIn = level ∧ t.mgmt.addrOut = (level && s.mgmt.confirmed) ∧ t.mem = s.mem := by
  have hne : (s.mgmt.addrIn == level) = false := by simpa using h
  change ∃ t : State, execAddrInChange level s = .next t ∧ _
  unfold execAddrInChange
  rw [hne, if_neg Bool.false_ne_true]
  refine ⟨_, rfl, ?_⟩
  dsimp only
  split
  · rw [State.raise_of_info _ rfl]
    obtain ⟨events, next, hm⟩ := State.record_eventsOnly (s.withMgmt fun x => { x with addrIn := level, addrOut := level && x.confirmed }) { code := .mgmtChainBreak, unit := { kind := 12, inst := 0 } }
    exact ⟨by rw [hm]; rfl, by rw [hm]; rfl, (State.record_reported _ _).mem⟩
  · exact ⟨rfl, rfl, rfl⟩

theorem leBytes_length (n x : Nat) : (leBytes n x).length = n := by
  induction n generalizing x with
  | zero => rfl
  | succ n ih => rw [leBytes, List.length_cons, ih]

theorem State.advance_now_max (s : State) (T : Nat) : (s.advance T).now = max s.now T := by
  rcases Nat.le_total s.now T with h | h
  · rw [State.advance_now h, Nat.max_eq_right h]
  · rw [Nat.max_eq_left h]
    unfold State.advance
    rw [if_pos h]

theorem State.advance_mem (s : State) (T : Nat) : (s.advance T).mem = s.mem := by
  obtain ⟨od, cores, time, h⟩ := s.advance_eq T
  rw [h]

theorem State.advance_mgmt (s : State) (T : Nat) : (s.advance T).mgmt = s.mgmt := by
  obtain ⟨od, cores, time, h⟩ := s.advance_eq T
  rw [h]

/-- The payload of a HEARTBEAT (R785): serial number, stage, fault records raised. -/
def State.beat (t : State) : List Byte := leBytes 8 t.serial ++ leBytes 1 t.pwr.stage ++ leBytes 4 t.diag.raised

theorem heartbeat_isSent {s : State} (hu : s.mgmtUp = true) (hi : s.odN 0x1100 6 ≠ 0) :
    ∃ t : State, exec .heartbeat s = .next t ∧ t.mgmt.lastBeat = max s.now (s.mgmt.lastBeat + 1000000 * s.odN 0x1100 6) ∧ t.mem = s.mem
      ∧ (s.mgmt.node ≠ 0 → ∃ b : List Byte, b.length = 13 ∧ t.out.getLast? = some (.mgmt 0x10 0 t.now b)) := by
  have he : ∀ t : State, t = s.advance (s.mgmt.lastBeat + 1000000 * s.odN 0x1100 6) → exec .heartbeat s = .next ((t.sendMgmt 0x10 0 t.beat).withMgmt fun x => { x with lastBeat := t.now }) := by
    rintro t rfl
    change execHeartbeat s = _
    simp [execHeartbeat, State.beat, hu, hi]
  refine ⟨_, he _ rfl, State.advance_now_max _ _, ?_, fun hn => ⟨(s.advance (s.mgmt.lastBeat + 1000000 * s.odN 0x1100 6)).beat, ?_, ?_⟩⟩
  · rw [State.withMgmt_mem]
    unfold State.sendMgmt
    split <;> exact s.advance_mem _
  · simp [State.beat, leBytes_length]
  · unfold State.sendMgmt
    rw [if_neg (by rwa [State.advance_mgmt])]
    simp [State.now]

section
variable {s : State} {ip mac src : Nat} (hu : s.mgmtUp = true) (hn : s.mgmt.node ≠ 0)
include hu hn

theorem exec_arpRequest_of_ownAddress (hip : ip = s.mgmt.base + s.mgmt.node) (h : src ≠ ip ∨ mac = s.macAddress) : exec (.arpRequest true ip mac src) s = .next (s.emit (.arp ip)) := by
  have hno : s.conflict mac src = s := if_neg (by rcases h with h | h <;> simp [← hip, h])
  change execArpRequest true ip mac src s = _
  simp [execArpRequest, hu, hn, hno, ← hip]

theorem exec_arpRequest_of_conflict (arp : Bool) (hip : ip ≠ s.mgmt.base + s.mgmt.node) (h : mac ≠ s.macAddress) :
    exec (.arpRequest arp ip mac (s.mgmt.base + s.mgmt.node)) s = .next (s.raise { code := .mgmtNodeConflict, unit := { kind := 12, inst := 0 } }) := by
  have hc : s.conflict mac (s.mgmt.base + s.mgmt.node) = s.raise { code := .mgmtNodeConflict, unit := { kind := 12, inst := 0 } } := if_pos (by simp [h])
  change execArpRequest arp ip mac (s.mgmt.base + s.mgmt.node) s = _
  simp [execArpRequest, hu, hn, hc, hip]

end

/-- Settles O60: requests by what becomes of each kind of message, the address messages and EVENT_ACK once they are heard, and the controller's own rows. -/
theorem managementMessagesAreServed : Obligations.ManagementMessagesAreServed := by
  refine ⟨fun i typ hi m s hu => ⟨fun hb hm hme hh hl => ⟨fun hr => ?new, fun x hr hn => ?again⟩, fun hb hm => ?otherSender, fun r hb hm hh => ?badHeader, fun hb hm hh hme => ?otherNode, fun hb hbar => ?mailbox⟩,
    fun m s hu hb hm hme hh hl hlen hrest hn h31 hid hserial => ?confirm, fun m s a b hu hb hm hme hh hl hlen hrest ha hb' h1 han hnb h31 => ?release,
    fun level s h => addrInChange_setsAddrOut h, fun m s hu hb hm hme hh hl hlen => ?eventAck, fun s hu => ?eventResend, fun s hu hi => heartbeat_isSent hu hi,
    fun ip mac src s hu hn hip h => exec_arpRequest_of_ownAddress hu hn hip h, fun arp ip mac s hu hn hip h => exec_arpRequest_of_conflict hu hn arp hip h⟩
  case new => rw [exec_request hi, State.request_of_segment hb, State.tchiozRequest_of_new ⟨hu, hm, hme, hh, hl⟩ hr]
  case again => rw [exec_request hi, State.request_of_segment hb, State.tchiozRequest_of_repeated ⟨hu, hm, hme, hh, hl⟩ hr hn]
  case otherSender => rw [exec_request hi, State.request_of_segment hb, State.tchiozRequest, State.tchioz_of_otherSender _ hu hm]
  case badHeader => rw [exec_request hi, State.request_of_segment hb, State.tchiozRequest, State.tchioz_of_badHeader _ hu hm hh]
  case otherNode => rw [exec_request hi, State.request_of_segment hb, State.tchiozRequest, State.tchioz_of_otherNode _ hu hm hh hme]
  case mailbox =>
    rw [exec_request hi, State.request_of_mailbox hb]
    exact ⟨_, rfl, State.mailboxRequest_done typ m hu hbar⟩
  case confirm =>
    change Host.Outcome.next (s.notice 0x03 m fun t => t.takeConfirm m) = _
    rw [State.notice_of_good _ hb ⟨hu, hm, hme, hh, hl⟩, State.takeConfirm_of_mine hlen hrest hn h31 hid hserial]
    rfl
  case release =>
    change Host.Outcome.next (s.notice 0x04 m fun t => t.takeRelease m) = _
    rw [State.notice_of_good _ hb ⟨hu, hm, hme, hh, hl⟩, State.takeRelease_of_mine hlen hrest ha hb' h1 han hnb h31]
    rfl
  case eventAck =>
    change ∃ t : State, Host.Outcome.next (s.notice 0x0F m _) = .next t ∧ _
    rw [State.notice_of_good _ hb ⟨hu, hm, hme, hh, hl⟩, if_neg (by simp [hlen])]
    exact ⟨_, rfl, fun e => by simp, rfl⟩
  case eventResend =>
    change execEventResend s = _
    rw [execEventResend, if_pos hu]

end Sys2Proof.Machine
end

section
/-! PROOFS of the family 19_power_startup_electrical and 18_self_test_and_faults: the voltages of islands (O53) and self-test while the module runs (O52). -/
namespace Sys2Proof.Machine

/-! Islands. -/

theorem State.advance_pwr (s : State) (T : Nat) : (s.advance T).pwr = s.pwr := by
  obtain ⟨od, cores, time, h⟩ := s.advance_eq T
  rw [h]

theorem State.advance_island (s : State) (T i : Nat) : (s.advance T).island i = s.island i := by
  unfold State.island
  rw [State.advance_pwr]

theorem State.updIsland_island {s : State} {i : Nat} {f : Island → Island} (h : i < s.pwr.islands.length) : (s.updIsland i f).island i = f (s.island i) := nth_modAt_same _ _ _ _ h

/-- A step rises by at most 25 mV, and not past the target (R871). -/
theorem stepMv_up {mv target : Nat} (h : mv < target) : mv < stepMv mv target ∧ stepMv mv target ≤ target ∧ stepMv mv target ≤ mv + 25 := by
  unfold stepMv
  rw [if_pos h]
  omega

/-- A step falls by at most 25 mV, and not past the target (R871). -/
theorem stepMv_down {mv target : Nat} (h : target < mv) : stepMv mv target < mv ∧ target ≤ stepMv mv target ∧ mv ≤ stepMv mv target + 25 := by
  unfold stepMv
  rw [if_neg (by omega)]
  omega

/-- The time of an island's next step: at once, or 10 µs after its last (R871). -/
def State.stepTimed (s : State) (i : Nat) : State := if (s.island i).stepAt = 0 then s else s.advance ((s.island i).stepAt + 10000)

theorem State.stepTimed_frame (s : State) (i : Nat) : (s.stepTimed i).pwr = s.pwr ∧ (s.stepTimed i).mem = s.mem := by
  unfold State.stepTimed
  split
  · exact ⟨rfl, rfl⟩
  · exact ⟨s.advance_pwr _, s.advance_mem _⟩

theorem exec_islandVoltageStep_of_away {i : Nat} {s : State} (hi : i < 43) (hp : (s.island i).power = 2) (hmv : (s.island i).mv ≠ s.targetMv i) :
    exec (.islandVoltageStep i) s = .next ((s.stepTimed i).updIsland i fun y => { y with mv := stepMv y.mv (s.targetMv i), stepAt := (s.stepTimed i).now }) := by
  change execIslandVoltageStep i s = _
  simp [execIslandVoltageStep, State.stepTimed, hi, hp, hmv]

theorem islandVoltageStep_stepsToTarget {i : Nat} {s : State} (hi : i < 43) (hl : s.pwr.islands.length = 43) (hp : (s.island i).power = 2) (hmv : (s.island i).mv ≠ s.targetMv i) :
    ∃ t : State, exec (.islandVoltageStep i) s = .next t ∧ t.mem = s.mem ∧ (t.island i).mv = stepMv (s.island i).mv (s.targetMv i) := by
  obtain ⟨hpwr, hmem⟩ := s.stepTimed_frame i
  refine ⟨_, exec_islandVoltageStep_of_away hi hp hmv, hmem, ?_⟩
  rw [State.updIsland_island (by rw [hpwr]; omega)]
  unfold State.island
  rw [hpwr]

/-! Performance states (R875). -/

theorem exec_performanceStateWrite (i mv : Nat) (s : State) : exec (.performanceStateWrite i mv) s = answered (islandIx i) 1 (s.odN (islandIx i) 1) mv (s.writePerf i mv) := rfl

theorem State.writePerf_of_good {s : State} {i mv : Nat} (hi : i < 42) (h600 : 600 ≤ mv) (h850 : mv ≤ 850) (h25 : mv % 25 = 0) : s.writePerf i mv = (s.odSetN (islandIx i) 1 mv, 0) := by
  unfold State.writePerf
  rw [if_neg (by omega), if_neg (by omega), if_neg (by simp [h25]; omega)]

theorem State.writePerf_of_bad {s : State} {i mv : Nat} (hi : i < 42) (h : mv < 600 ∨ 850 < mv ∨ mv % 25 ≠ 0) : s.writePerf i mv = (s, 3) := by
  unfold State.writePerf
  rw [if_neg (by omega), if_neg (by omega), if_pos (by simpa [or_assoc] using h)]

theorem State.perfMv_eq (s : State) {i : Nat} (hi : i < 42) : s.perfMv i = s.odN (islandIx i) 1 := by
  unfold State.perfMv islandIx
  split
  · rfl
  · rw [if_neg (by omega)]

theorem State.flight_out (s : State) (kind object old new : Nat) (body : Option FaultRec) : (s.flight kind object old new body).out = s.out := by
  unfold State.flight
  split
  · obtain ⟨od, h⟩ := s.odAdd_eq 0x8200 3 1
    unfold State.odInc
    rw [h]
  · rfl

theorem State.noted_out (t : State) (ix sub old new : Nat) : (t.noted ix sub old new).out = t.out ++ [.status ix sub 0] := by
  change (t.flight _ _ _ _ _).out ++ _ = _
  rw [State.flight_out]

theorem State.noted_pwr (t : State) (ix sub old new : Nat) : (t.noted ix sub old new).pwr = t.pwr := State.flight_pwr _ _ _ _ _ _

theorem performanceStateWrite_isHeld {i mv : Nat} {s : State} (hod : mapWf odDefault s.od = true) (hi : i < 42) (h600 : 600 ≤ mv) (h850 : mv ≤ 850) (h25 : mv % 25 = 0) :
    ∃ t : State, exec (.performanceStateWrite i mv) s = .next t ∧ t.perfMv i = mv ∧ t.pwr = s.pwr ∧ t.out = s.out ++ [.status (islandIx i) 1 0] := by
  rw [exec_performanceStateWrite, State.writePerf_of_good hi h600 h850 h25, answered_accepted]
  refine ⟨_, rfl, ?_, State.noted_pwr _ (islandIx i) 1 _ mv, State.noted_out _ (islandIx i) 1 _ mv⟩
  have hkey : odKey (islandIx i) 1 ≠ odKey 0x8200 3 := by
    unfold odKey islandIx
    split <;> omega
  rw [State.perfMv_eq _ hi]
  refine (State.noted_odN _ (islandIx i) 1 _ mv hkey).trans ?_
  rw [State.odSetN_odN_same hod]
  exact Nat.mod_eq_of_lt (by omega)

/-! Retention (R876). -/

theorem State.retain_frame (s : State) (q : Nat) : (s.retain q).pwr = (s.updIsland q fun x => { x with power := 1, mv := 450 }).pwr ∧ (s.retain q).mem = s.mem := by
  unfold State.retain
  exact List.foldlRecOn (List.range 12) _ (motive := fun t : State => t.pwr = (s.updIsland q fun x => { x with power := 1, mv := 450 }).pwr ∧ t.mem = s.mem) ⟨rfl, rfl⟩ fun _ h _ _ => h

theorem exec_quarterRetentionEntry_of_quiet {q : Nat} {s : State} (hq : q < 32) (hp : (s.island q).power = 2) (hquiet : s.quarterQuiet q = true) :
    exec (.quarterRetentionEntry q) s = .next ((s.advance (s.lastExecOf q + 1000 * s.odN 0xA000 6)).retain q) := by
  change execQuarterRetentionEntry q s = _
  simp [execQuarterRetentionEntry, hq, hp, hquiet]

/-- Settles O53: a step by its arithmetic, a performance state by the entry that holds it, retention by what it does to the island. -/
theorem voltagesStepTowardTheirTarget : Obligations.VoltagesStepTowardTheirTarget := by
  refine ⟨fun i s hi hl hp hmv => ?step, fun i mv s he hi h600 h850 h25 => performanceStateWrite_isHeld he.1 hi h600 h850 h25, fun i mv s hi h => ?bad, fun mv s => ?hub, fun q s hl hq hp hquiet => ?retention⟩
  case step =>
    obtain ⟨t, he, hmem, hstep⟩ := islandVoltageStep_stepsToTarget hi hl hp hmv
    refine ⟨t, he, hmem, fun h => ?_, fun h => ?_⟩
    · rw [hstep]; exact stepMv_up h
    · rw [hstep]; exact stepMv_down h
  case bad => rw [exec_performanceStateWrite, State.writePerf_of_bad hi h, answered_refused (by decide)]
  case hub => rfl
  case retention =>
    obtain ⟨hpwr, hmem⟩ := (s.advance (s.lastExecOf q + 1000 * s.odN 0xA000 6)).retain_frame q
    have hisl : ((s.advance (s.lastExecOf q + 1000 * s.odN 0xA000 6)).retain q).island q = { s.island q with power := 1, mv := 450 } := by
      have h := State.updIsland_island (s := s.advance (s.lastExecOf q + 1000 * s.odN 0xA000 6)) (i := q) (f := fun x => { x with power := 1, mv := 450 }) (by rw [State.advance_pwr]; omega)
      rw [State.advance_island] at h
      rw [← h]
      exact congrArg (fun p : Pwr => nth p.islands q {}) hpwr
    exact ⟨_, exec_quarterRetentionEntry_of_quiet hq hp hquiet, by rw [hisl], by rw [hisl], hmem.trans (s.advance_mem _)⟩

/-! Slices (R827, R828, R830). -/

theorem exec_sliceStart_of_may {u : TestUnit} {s : State} (h : s.sliceMay u = true) : exec (.sliceStart u) s = .next (s.startSlice u) := by
  change execSliceStart u s = _
  rw [execSliceStart, if_pos h]

theorem exec_sliceEnd_of_begun {u : TestUnit} (r : SliceResult) {s : State} (h : (s.diag.slices.any fun x => x.1 == u) = true) :
    exec (.sliceEnd u r) s = .next (((s.leaveSlice u).sliceResult u r).raiseOverdue) := by
  change execSliceEnd u r s = _
  rw [execSliceEnd, if_pos h]

/-- A core that may be tested is one that there is. -/
theorem State.sliceMay_core_lt {u : TestUnit} {s : State} (h : s.sliceMay u = true) (hk : u.kind = 1) : u.inst < 384 := by
  unfold State.sliceMay at h
  simp only [Bool.and_eq_true] at h
  obtain ⟨⟨⟨⟨⟨-, hunit⟩, -⟩, -⟩, -⟩, -⟩ := h
  unfold sliceUnit at hunit
  rw [if_pos hk] at hunit
  exact of_decide_eq_true hunit

theorem State.updCore_core {s : State} {n : Nat} {f : Core → Core} (h : n < s.cores.length) : (s.updCore n f).core n = f (s.core n) := nth_modAt_same _ _ _ _ h

theorem State.wake_cores (s : State) (q : Nat) : (s.wake q).cores = s.cores := by
  unfold State.wake
  split <;> rfl

theorem State.beginPass_eq (s : State) (u : TestUnit) : ∃ passes, s.beginPass u = s.withDiag fun d => { d with passes := passes } := by
  unfold State.beginPass
  split
  · exact ⟨s.diag.passes, rfl⟩
  · exact ⟨_, rfl⟩

theorem State.startSlice_selfTest {u : TestUnit} {s : State} (hl : u.inst < s.cores.length) (hk : u.kind = 1) : ((s.startSlice u).core u.inst).st = .selfTest := by
  obtain ⟨passes, hb⟩ := (s.withDiag fun d => { d with slices := d.slices ++ [(u, s.now)] }).beginPass_eq u
  unfold State.startSlice
  dsimp only
  rw [if_pos hk, State.updCore_core (by rw [State.wake_cores, hb]; exact hl)]

/-- A unit out of its slice: no byte and no fault record changes, the slice is forgotten. -/
theorem State.leaveSlice_frame (s : State) (u : TestUnit) :
    (s.leaveSlice u).mem = s.mem ∧ (s.leaveSlice u).diag.ring = s.diag.ring ∧ (s.leaveSlice u).diag.slices = s.diag.slices.filter fun x => x.1 != u := by
  unfold State.leaveSlice
  dsimp only
  split
  · exact ⟨rfl, rfl, rfl⟩
  · split
    · exact ⟨rfl, rfl, rfl⟩
    · split <;> exact ⟨rfl, rfl, rfl⟩

theorem State.leaveSlice_core {s : State} {n : Nat} (hl : n < s.cores.length) (hst : (s.core n).st = .selfTest) : ((s.leaveSlice { kind := 1, inst := n }).core n).st = .idle := by
  unfold State.leaveSlice
  dsimp only
  rw [if_pos rfl, State.updCore_core (by exact hl)]
  change (if (s.core n).st == .selfTest then CoreSt.idle else (s.core n).st) = .idle
  rw [hst]
  rfl

/-- An entry of the flight recorder changes no record of a fault and no slice under way. -/
theorem State.flight_diag (s : State) (kind object old new : Nat) (body : Option FaultRec) :
    (s.flight kind object old new body).diag.ring = s.diag.ring ∧ (s.flight kind object old new body).diag.slices = s.diag.slices := by
  unfold State.flight
  split
  · obtain ⟨od, h⟩ := s.odAdd_eq 0x8200 3 1
    unfold State.odInc
    rw [h]
    exact ⟨rfl, rfl⟩
  · exact ⟨rfl, rfl⟩

theorem State.flight_cores (s : State) (kind object old new : Nat) (body : Option FaultRec) : (s.flight kind object old new body).cores = s.cores := by
  unfold State.flight
  split
  · obtain ⟨od, h⟩ := s.odAdd_eq 0x8200 3 1
    unfold State.odInc
    rw [h]
  · rfl

/-- A pass that ends adds what it covered, and no fault record (R828). -/
theorem State.sliceResult_pass (s : State) (u : TestUnit) (covered : Nat) :
    (s.sliceResult u (.pass covered)).mem = s.mem ∧ (s.sliceResult u (.pass covered)).diag.ring = s.diag.ring := by
  obtain ⟨hring, -⟩ := s.flight_diag 6 (s.sliceObject u) (unitClass u.kind) 0 none
  exact ⟨State.flight_mem _ _ _ _ _ _, hring⟩

theorem exec_sliceAbandon_of_called {n : Nat} {s : State} (hs : (s.diag.slices.any fun x => x.1 == { kind := 1, inst := n }) = true) (hc : s.calledFor n = true) :
    exec (.sliceAbandon n) s = .next (((s.leaveSlice { kind := 1, inst := n }).odInc 0x8010 5).flight 6 (s.sliceObject { kind := 1, inst := n }) 0 2 none) := by
  change execSliceAbandon n s = _
  simp [execSliceAbandon, hs, hc]

theorem sliceAbandon_leavesTheCore {n : Nat} {s : State} (hl : n < s.cores.length) (hs : (s.diag.slices.any fun x => x.1 == { kind := 1, inst := n }) = true) (hc : s.calledFor n = true)
    (hst : (s.core n).st = .selfTest) :
    ∃ t : State, exec (.sliceAbandon n) s = .next t ∧ (t.core n).st = .idle ∧ (t.diag.slices.any fun x => x.1 == { kind := 1, inst := n }) = false ∧ t.mem = s.mem := by
  obtain ⟨hmem, -, hslices⟩ := s.leaveSlice_frame { kind := 1, inst := n }
  obtain ⟨od, hod⟩ := (s.leaveSlice { kind := 1, inst := n }).odAdd_eq 0x8010 5 1
  have hinc : (s.leaveSlice { kind := 1, inst := n }).odInc 0x8010 5 = { s.leaveSlice { kind := 1, inst := n } with od := od } := hod
  obtain ⟨-, hflown⟩ := ((s.leaveSlice { kind := 1, inst := n }).odInc 0x8010 5).flight_diag 6 (s.sliceObject { kind := 1, inst := n }) 0 2 none
  refine ⟨_, exec_sliceAbandon_of_called hs hc, ?_, ?_, ?_⟩
  · unfold State.core
    rw [State.flight_cores, hinc]
    exact State.leaveSlice_core hl hst
  · rw [hflown, hinc]
    change (s.leaveSlice { kind := 1, inst := n }).diag.slices.any _ = false
    rw [hslices]
    simp
  · rw [State.flight_mem, hinc]
    exact hmem

/-! HBM windows and spare lanes (R835, R838). -/

theorem exec_hbmWindowMove_of_on {pc : Nat} (r : SliceResult) {s : State} (hr : s.ready = true) (hc : s.classOn 1 = true) (hpc : pc < 512) (hon : s.channelOn pc = true) :
    exec (.hbmWindowMove pc r) s = .next (((s.moveWindow pc).windowResult pc r).raiseOverdue) := by
  change execHbmWindowMove pc r s = _
  simp [execHbmWindowMove, hr, hc, hpc, hon]

/-- The window that a move makes the reserve (log entry 55). -/
def nextReserve : Option Nat → Nat
  | some x => (x + 1) % 538
  | none => 0

theorem State.moveWindow_eq (s : State) (pc : Nat) :
    s.moveWindow pc = (s.withDiag fun d => { d with windows := (pc, nextReserve (s.reserve pc)) :: d.windows.filter fun x => x.1 != pc }).beginPass { kind := 4, inst := pc } := by
  unfold State.moveWindow nextReserve
  cases s.reserve pc <;> rfl

theorem State.moveWindow_spec (s : State) (pc : Nat) : (s.moveWindow pc).mem = s.mem ∧ (s.moveWindow pc).reserve pc = some (nextReserve (s.reserve pc)) := by
  rw [State.moveWindow_eq]
  obtain ⟨passes, hb⟩ := (s.withDiag fun d => { d with windows := (pc, nextReserve (s.reserve pc)) :: d.windows.filter fun x => x.1 != pc }).beginPass_eq { kind := 4, inst := pc }
  rw [hb]
  refine ⟨rfl, ?_⟩
  unfold State.reserve
  simp only [State.withDiag, List.find?_cons, beq_self_eq_true, Option.map_some]

theorem exec_laneLoopback_of_due {l k : Nat} {s : State} (hr : s.ready = true) (hc : s.classOn 2 = true) (hl : l < 36) (hk : (s.link l).spareLane = some k)
    (ho : s.unitOut { kind := 10, inst := 5 * l + k } = false) (hd : s.laneDue { kind := 10, inst := 5 * l + k } = true) :
    exec (.laneLoopback l) s = .next (s.startLoopback l { kind := 10, inst := 5 * l + k }) := by
  change execLaneLoopback l s = _
  simp [execLaneLoopback, hr, hc, hl, hk, ho, hd]

theorem exec_repairEntryCommit_of_found {w : Word} {l : List Word} {s : State} (h : s.diag.repairNew = w :: l) :
    exec .repairEntryCommit s = .next (s.withDiag fun d => { d with repair := d.repair ++ [w], repairNew := l }) := by
  change execRepairEntryCommit s = _
  unfold execRepairEntryCommit
  rw [h]

/-- Settles O52: a slice by how it starts, ends and is abandoned; a window, a lane and a repair entry by what each changes. -/
theorem selfTestSlicesLeaveNoTrace : Obligations.SelfTestSlicesLeaveNoTrace := by
  refine ⟨fun u s h => ⟨exec_sliceStart_of_may h, fun hw hk => ?started⟩, fun u r s h => ⟨exec_sliceEnd_of_begun r h, fun covered hr => ?passed⟩, fun n s hw hn hs hc hst => ?abandoned,
    fun pc r s hr hc hpc hon => ⟨exec_hbmWindowMove_of_on r hr hc hpc hon, ?window⟩, fun l k s hw hr hc hl hk ho hd => ⟨_, exec_laneLoopback_of_due hr hc hl hk ho hd, ?looped, rfl⟩,
    fun w l s h => ⟨_, exec_repairEntryCommit_of_found h, rfl, rfl, rfl⟩⟩
  case started =>
    obtain ⟨-, -, hcores, -⟩ := hw
    exact State.startSlice_selfTest (hcores.symm ▸ State.sliceMay_core_lt h hk) hk
  case passed =>
    subst hr
    obtain ⟨hmem, hring, -⟩ := s.leaveSlice_frame u
    obtain ⟨hmem', hring'⟩ := (s.leaveSlice u).sliceResult_pass u covered
    exact ⟨hmem'.trans hmem, hring'.trans hring⟩
  case abandoned =>
    obtain ⟨-, -, hcores, -⟩ := hw
    exact sliceAbandon_leavesTheCore (hcores.symm ▸ hn) hs hc hst
  case window =>
    obtain ⟨hmem, hres⟩ := s.moveWindow_spec pc
    refine ⟨hmem, hres.trans (congrArg some ?_)⟩
    cases s.reserve pc <;> rfl
  case looped =>
    obtain ⟨-, -, -, -, -, hlinks⟩ := hw
    have h : ((s.updLink l fun x => { x with loopback := true }).link l).loopback = true := congrArg Link.loopback (nth_modAt_same _ _ _ _ (hlinks.symm ▸ hl))
    exact h

end Sys2Proof.Machine
end

section
/-! PROOFS of the family 14_images_audio_batches (O26, O27): one rule for a command that passes its checks, then its row. -/
namespace Sys2Proof.Machine

/-! A command of the media die that starts. -/

/-- The words of a list that a command read; none where it reads no list. -/
def listWords : Option RecRead → List Word
  | some (.words ws) => ws
  | _ => []

/-- The command the media die takes next of a context is the same for a narrower choice that it satisfies. -/
theorem State.mediaNext_of_mine {s : State} {cc : Nat} {e0 : Exec} (h : s.mediaNext cc (fun _ => true) = some e0) {mine : CmdInst → Bool} (hm : mine e0.cmd = true) :
    s.mediaNext cc mine = some e0 := by
  unfold State.mediaNext at h ⊢
  split at h
  · nomatch h
  · rw [if_neg ‹_›, Option.filter_eq_some_iff]
    exact ⟨(Option.filter_eq_some_iff.1 h).1, hm⟩

/-- A command that starts and belongs to a row runs that row's body on what it read. -/
theorem State.runMedia_of_starts {s : State} {cc op sub : Nat} {e : Exec} {rs : List RecRead} {list : Option RecRead} {k : Checks} (h : s.mediaStarts cc op sub e rs list k)
    {mine : CmdInst → Bool} {recs : State → CmdInst → List RecRead} {lst : State → CmdInst → Option RecRead} {checks : CmdInst → List RecRead → Checks} (body : State → Exec → List RecRead → List Word → State)
    (hm : mine e.cmd = true) (hr : recs s e.cmd = rs) (hl : lst s e.cmd = list) (hk : checks e.cmd rs = k) :
    s.runMedia cc mine recs lst checks body = body s e rs (listWords list) := by
  obtain ⟨⟨e0, h0, rfl⟩, -, -, hf, hj⟩ := h
  simp only [State.runMedia, State.mediaNext_of_mine h0 hm]
  subst hr hl hk
  simp only [hf, hj]
  rfl

/-! Batches. -/

/-- Settles O26: the row of each SUBOP runs its body, whose tests the statement's conditions decide. -/
theorem batchCommandsComplete : Obligations.BatchCommandsComplete := by
  refine ⟨?opened, ?added, ?closed⟩
  case opened =>
    intro cc s e tensor h hd t hmap hfree
    have hmine : (e.cmd.op == 0x50 && (e.cmd.sub == 0 || decide (2 < e.cmd.sub))) = true := by simp [h.2.1, h.2.2.1]
    have hrun : exec (.mediaOpen cc) s = _ := congrArg Host.Outcome.next (State.runMedia_of_starts h _ hmine (by simp only [hd]) rfl rfl)
    refine hrun.trans ?_
    simp [descs, RecRead.desc, t, hmap, hfree]
  case added =>
    intro cc s e list h hl n b rs hroom hgood
    have hmine : (e.cmd.op == 0x50 && e.cmd.sub == 1 && s.tableRoom (s.ctxPart cc) n) = true := by simp [h.2.1, h.2.2.1, hroom]
    have hrun : exec (.mediaAdd cc) s = _ := congrArg Host.Outcome.next (State.runMedia_of_starts h _ hmine rfl (by rw [hl]) rfl)
    refine hrun.trans ?_
    simp only [listWords]
    rw [hgood]
  case closed =>
    intro cc s e h b
    have hmine : (e.cmd.op == 0x50 && e.cmd.sub == 2) = true := by simp [h.2.1, h.2.2.1]
    have hrun : exec (.mediaClose cc) s = _ := congrArg Host.Outcome.next (State.runMedia_of_starts h _ hmine rfl rfl rfl)
    refine ⟨fun hb => hrun.trans ?_, fun x hb hp => hrun.trans ?_, fun x hb hp => hrun.trans ?_⟩
    · simp [b, hb]
    · simp [b, hb, hp]
    · simp [b, hb, hp]

/-! Samples and their slots. -/

/-- The batch a handle names does not depend on the present time. -/
theorem State.advance_batch (s : State) (t b : Nat) : (s.advance t).batch b = s.batch b := by
  obtain ⟨od, cores, time, h⟩ := s.advance_eq t
  rw [h]
  rfl

/-- A slot brought up to a time before its deadline is as it was. -/
theorem State.bringSlot_of_le {s : State} {b sl : Nat} {x : Batch} (h : s.batch b = some x) (hd : s.now ≤ (x.slot sl).deadline) : s.bringSlot b sl = s := by
  simp [State.bringSlot, h, Nat.not_lt.2 hd]

/-- A slot brought up to a time past its deadline has met it. -/
theorem State.bringSlot_of_lt {s : State} {b sl : Nat} {x : Batch} (h : s.batch b = some x) (hd : (x.slot sl).deadline < s.now) : s.bringSlot b sl = s.passDeadline b sl := by
  simp [State.bringSlot, h, hd]

/-- The outcome of a sample is applied to its slot, once that has been brought up to the present time. -/
theorem State.sampleDone_of_admitted {s : State} {b sl : Nat} {x : Batch} (f : State → Batch → BatchSlot → State) (h : (s.bringSlot b sl).batch b = some x)
    (ha : (x.slot sl).res = .admitted) (hs : (x.slot sl).stream = none) : s.sampleDone b sl f = f (s.bringSlot b sl) x (x.slot sl) := by
  simp [State.sampleDone, h, ha, hs]

/-- A MASK slot that meets its deadline unresolved is PASSED and resolves LATE. -/
theorem State.passDeadline_mask {s : State} {b sl : Nat} {x : Batch} (h : s.batch b = some x) (hl : sl < x.slots.length) (hr : (x.slot sl).resolved = false)
    (hp : (x.slot sl).passed = false) (hw : (x.slot sl).wait = false) :
    s.passDeadline b sl = (s.putBatch (x.updSlot sl fun z => { z with passed := true })).resolve b sl .late (if (x.slot sl).res == .empty then 6 else 0) := by
  simp [State.passDeadline, h, hl, hr, hp, hw]

/-- A WAIT slot that meets its deadline unresolved is PASSED, counted and reported. -/
theorem State.passDeadline_wait {s : State} {b sl : Nat} {x : Batch} (h : s.batch b = some x) (hl : sl < x.slots.length) (hr : (x.slot sl).resolved = false)
    (hp : (x.slot sl).passed = false) (hw : (x.slot sl).wait = true) :
    s.passDeadline b sl = ((s.putBatch (x.updSlot sl fun z => { z with passed := true })).odInc (0x5010 + x.part) 4).recordLimited { code := .mediaWaitPast, part := some x.part, ctx := some x.ctx, unit := { kind := 16, inst := x.part } } x.part := by
  simp [State.passDeadline, h, hl, hr, hp, hw]

/-- A slot not resolved and not past its deadline meets it at that time. -/
theorem exec_slotDeadline_next {s : State} {b sl : Nat} {x : Batch} (h : s.batch b = some x) (hl : sl < x.slots.length) (hr : (x.slot sl).resolved = false)
    (hp : (x.slot sl).passed = false) : exec (.slotDeadline b sl) s = .next ((s.advance (x.slot sl).deadline).passDeadline b sl) := by
  simp [exec, execSlotDeadline, h, hl, hr, hp]

/-- Settles O27: each clause is its row's branch under the statement's conditions. -/
theorem samplesAreDecodedAndResolved : Obligations.SamplesAreDecodedAndResolved := by
  refine ⟨?started, ?brought, ?valid, ?invalid, ?deadline, ?completed⟩
  case started =>
    intro engine inst s b i y x hin hbusy hout hready hfirst hb
    have hrun : exec (.sampleDecodeStart engine inst) s = _ := congrArg Host.Outcome.next (if_neg (by simp [hin, hbusy, hout, hready]))
    refine ⟨fun hy => hrun.trans ?_, fun hy hk => hrun.trans ?_, fun hy hk hl => hrun.trans ?_, fun f hy hk hl => hrun.trans ?_⟩
    · simp [hfirst, hb, hy]
    · subst hk
      simp [hfirst, hb, hy]
    · simp [hfirst, hb, hy, hk, hl]
    · simp [hfirst, hb, hy, hk, hl]
  case brought =>
    exact fun b sl s x h => ⟨State.bringSlot_of_le h, State.bringSlot_of_lt h⟩
  case valid =>
    intro b sl s x t h ha hs hph hfit es
    have hrun : exec (.sampleValid b sl) s = _ := congrArg Host.Outcome.next (State.sampleDone_of_admitted _ h ha hs)
    refine ⟨fun hw => hrun.trans ?_, fun hw => hrun.trans ?_⟩
    · simp [hph, t, hfit, State.fillSlot, es, hw]
    · simp [hph, t, hfit, State.fillSlot, es, hw]
  case invalid =>
    intro b sl reason s x t h ha hs hph hreason
    have hrun : exec (.sampleInvalid b sl reason) s = _ := congrArg Host.Outcome.next (State.sampleDone_of_admitted _ h ha hs)
    refine hrun.trans (congrArg Host.Outcome.next (if_pos ?_))
    obtain h3 | ⟨rfl, hk, hm⟩ := hreason
    · have h123 : reason = 1 ∨ reason = 2 ∨ reason = 3 := by omega
      simp [hph, h123, or_assoc]
    · simp [hph, hk, hm]
  case deadline =>
    intro b sl s x h hl hr hp u
    have hb : (s.advance (x.slot sl).deadline).batch b = some x := (State.advance_batch _ _ _).trans h
    refine ⟨fun hw => ?_, fun hw => ?_⟩
    · rw [exec_slotDeadline_next h hl hr hp, State.passDeadline_mask hb hl hr hp hw]
    · rw [exec_slotDeadline_next h hl hr hp, State.passDeadline_wait hb hl hr hp hw]
  case completed =>
    intro b s x hb hall m n t u
    simp [exec, execBatchComplete, hb, hall, u, t, m, n]

end Sys2Proof.Machine
end

section
/-! PROOFS of the family 15_video (O28, O29, O30). -/
namespace Sys2Proof.Machine

/-! The first of a list in an order of work. -/

/-- What a choice keeps of two: the one whose key comes before the other's. -/
structure Chooses {α : Type} (key : α → List Nat) (f : Option α → α → Option α) : Prop where
  first : ∀ z, f none z = some z
  sooner : ∀ y z, key z < key y → f (some y) z = some z
  later : ∀ y z, ¬key z < key y → f (some y) z = some y

/-- One step of a choice keeps what it held or takes what it met. -/
theorem Chooses.step_eq {α : Type} {key : α → List Nat} {f : Option α → α → Option α} (hf : Chooses key f) (m : Option α) (z : α) : f m z = some z ∨ f m z = m := by
  cases m with
  | none => exact .inl (hf.first z)
  | some y =>
    by_cases h : key z < key y
    · exact .inl (hf.sooner y z h)
    · exact .inr (hf.later y z h)

/-- One step of a choice that holds the least, or meets it, holds the least: every other comes after it. -/
theorem Chooses.step_least {α : Type} {key : α → List Nat} {f : Option α → α → Option α} (hf : Chooses key f) {a z : α} {m : Option α}
    (hm : ∀ y ∈ m, y ≠ a → key a < key y) (hz : z ≠ a → key a < key z) (h : z = a ∨ m = some a) : f m z = some a := by
  cases m with
  | none => exact (h.resolve_right nofun) ▸ hf.first z
  | some y =>
    by_cases hza : z = a
    · subst hza
      by_cases hya : y = z
      · exact hya ▸ hf.later y y (List.lt_irrefl _)
      · exact hf.sooner y z (hm y rfl hya)
    · obtain rfl : y = a := by simpa [hza] using h
      exact hf.later y z (List.lt_asymm (hz hza))

/-- A choice along a list ends with the least, which it holds or has still to meet. -/
theorem Chooses.foldl_least {α : Type} {key : α → List Nat} {f : Option α → α → Option α} (hf : Chooses key f) {a : α} :
    ∀ (l : List α) (m : Option α), (∀ y ∈ m, y ≠ a → key a < key y) → (∀ y ∈ l, y ≠ a → key a < key y) → a ∈ l ∨ m = some a → l.foldl f m = some a := by
  intro l
  induction l with
  | nil => exact fun m _ _ h => h.resolve_left List.not_mem_nil
  | cons z l ih =>
    intro m hm hl ha
    have hz : z ≠ a → key a < key z := hl z (List.mem_cons_self ..)
    refine ih (f m z) ?good (fun y hy => hl y (List.mem_cons_of_mem _ hy)) ?held
    case good =>
      obtain h | h := hf.step_eq m z
      · rw [h]
        simpa using hz
      · exact h.symm ▸ hm
    case held =>
      obtain ha | ha := ha
      · obtain h | h := List.mem_cons.1 ha
        · exact .inr (hf.step_least hm hz (.inl h.symm))
        · exact .inl h
      · exact .inr (hf.step_least hm hz (.inr ha))

/-! Decode contexts. -/

/-- Settles O28: the row of each SUBOP runs its body, whose tests the statement's conditions decide. -/
theorem streamCommandsComplete : Obligations.StreamCommandsComplete := by
  refine ⟨?opened, ?fed, ?failed, ?routed, ?closed⟩
  case opened =>
    intro cc s e h hfree harea
    have hmine : (e.cmd.op == 0x51 && (e.cmd.sub == 0 || decide (3 < e.cmd.sub))) = true := by simp [h.2.1, h.2.2.1]
    have hrun : exec (.sopen cc) s = _ := congrArg Host.Outcome.next (State.runMedia_of_starts h _ hmine rfl rfl rfl)
    refine hrun.trans ?_
    simp [hfree, harea]
  case fed =>
    intro cc s e x h hx hpaused hst hmap
    have hmine : (e.cmd.op == 0x51 && e.cmd.sub == 1 && !(((s.decodeCtx (s.ctxPart cc) (fld e.cmd.words 3 39 32)).map s.paused) == some true)) = true := by
      simp [h.2.1, h.2.2.1, hx, hpaused]
    have hrun : exec (.streamData cc) s = _ := congrArg Host.Outcome.next (State.runMedia_of_starts h _ hmine rfl rfl rfl)
    refine hrun.trans ?_
    simp only [hx, hst, hmap]
    rfl
  case failed =>
    intro cc s e x h hx hpaused hst
    have hmine : (e.cmd.op == 0x51 && e.cmd.sub == 1 && !(((s.decodeCtx (s.ctxPart cc) (fld e.cmd.words 3 39 32)).map s.paused) == some true)) = true := by
      simp [h.2.1, h.2.2.1, hx, hpaused]
    have hrun : exec (.streamData cc) s = _ := congrArg Host.Outcome.next (State.runMedia_of_starts h _ hmine rfl rfl rfl)
    refine hrun.trans ?_
    simp [hx, hst]
  case routed =>
    intro cc s e list x h hl n rs hroom hx hgood
    have hmine : (e.cmd.op == 0x51 && e.cmd.sub == 2 && s.tableRoom (s.ctxPart cc) n) = true := by simp [h.2.1, h.2.2.1, hroom]
    have hrun : exec (.route cc) s = _ := congrArg Host.Outcome.next (State.runMedia_of_starts h _ hmine rfl (by rw [hl]) rfl)
    refine hrun.trans ?_
    simp only [hx, listWords]
    rw [hgood]
  case closed =>
    intro cc s e x h hx
    have hmine : (e.cmd.op == 0x51 && e.cmd.sub == 3) = true := by simp [h.2.1, h.2.2.1]
    have hrun : exec (.sclose cc) s = _ := congrArg Host.Outcome.next (State.runMedia_of_starts h _ hmine rfl rfl rfl)
    refine hrun.trans ?_
    simp [hx]

/-! Encode contexts. -/

/-- Settles O30: the row of each SUBOP runs its body, whose tests the statement's conditions decide. -/
theorem encodeCommandsComplete : Obligations.EncodeCommandsComplete := by
  refine ⟨?opened, ?coded, ?closed⟩
  case opened =>
    intro cc s e h hfree harea
    have hmine : (e.cmd.op == 0x52 && (e.cmd.sub == 0 || decide (2 < e.cmd.sub))) = true := by simp [h.2.1, h.2.2.1]
    have hrun : exec (.eopen cc) s = _ := congrArg Host.Outcome.next (State.runMedia_of_starts h _ hmine rfl rfl rfl)
    refine hrun.trans ?_
    simp [hfree, harea]
  case coded =>
    intro cc s e x h hx w k refs t hin href hout hres
    have hmine : (e.cmd.op == 0x52 && e.cmd.sub == 1) = true := by simp [h.2.1, h.2.2.1]
    have hrun : exec (.encodePicture cc) s = _ := congrArg Host.Outcome.next (State.runMedia_of_starts h _ hmine rfl rfl rfl)
    have hread : ((inputRuns x e.cmd.words).findSome? (s.pictureFault w false)).orElse (fun _ => s.areaFault w refs) = none := by rw [hin]; exact href
    have hwrite : (t.pictureFault w true (fld e.cmd.words 5 51 0, k.written.length)).orElse (fun _ => t.pictureFault w true (fld e.cmd.words 7 51 0, 64)) = none := by rw [hout]; exact hres
    refine hrun.trans ?_
    simp only [hx]
    rw [hread]
    dsimp only
    rw [hwrite]
  case closed =>
    intro cc s e x h hx
    have hmine : (e.cmd.op == 0x52 && e.cmd.sub == 2) = true := by simp [h.2.1, h.2.2.1]
    have hrun : exec (.eclose cc) s = _ := congrArg Host.Outcome.next (State.runMedia_of_starts h _ hmine rfl rfl rfl)
    refine hrun.trans ?_
    simp [hx]

/-! Pictures. -/

/-- An error met in the reference area, if any, counted. -/
def State.countLost (s : State) (lost : Option (Code × Nat)) : State :=
  match lost with
  | some f => s.countFault f.1 f.2
  | none => s

/-- A context after its picture `pic` has been reconstructed, broken for reason `b`. -/
def Stream.reconstructed (x : Stream) (pic b : Nat) : Stream :=
  { x with pics := x.pics.map fun q => if q.n == pic then { q with phase := 2, broken := b } else q, lastFail := if b == 1 || b == 3 then some pic else x.lastFail }

/-- A parsed picture whose earlier pictures are reconstructed is reconstructed; `lost` is the error met in the reference area, `b` the reason for which it is broken. -/
theorem exec_pictureReconstruct_next {s : State} {sc pic b : Nat} {x : Stream} {p : Pic} {lost : Option (Code × Nat)} (hx : s.stream sc = some x)
    (hp : x.pics.find? (fun q => q.n == pic) = some p) (hph : p.phase = 1) (hst : x.st ≠ .failed) (hbefore : ∀ q ∈ x.pics, q.n < pic → 2 ≤ q.phase)
    (hlost : ((s.areaFault x.who (x.refRuns p)).orElse fun _ => s.storeFault x.who (x.keptAt p) (x.kept p).length) = lost)
    (hb : (if (x.brokenOf p = 0 ∨ x.brokenOf p = 7) ∧ lost ≠ none then 3 else x.brokenOf p) = b) :
    let t := (((s.putStream (x.reconstructed pic b)).readArea x.who (x.refRuns p)).keepPicture x p).countLost lost
    exec (.pictureReconstruct sc pic) s = .next (((if b = 0 then t else (t.odInc (0x5300 + sc) 4).streamFault x .mediaStreamError).settle sc).stopOwed) := by
  have hall : (x.pics.all fun q => decide (pic ≤ q.n) || decide (2 ≤ q.phase)) = true := by
    rw [List.all_eq_true]
    intro q hq
    by_cases hqn : q.n < pic
    · simp [hbefore q hq hqn]
    · simp [Nat.not_lt.1 hqn]
  have hreason : (if ((x.brokenOf p == 0 || x.brokenOf p == 7) && lost.isSome) = true then 3 else x.brokenOf p) = b := by
    simpa only [Bool.and_eq_true, Bool.or_eq_true, beq_iff_eq, Option.isSome_iff_ne_none] using hb
  have hgo : (p.phase != 1 || !(x.pics.all fun q => decide (pic ≤ q.n) || decide (2 ≤ q.phase)) || x.st == .failed) = false := by simp [hph, hall, hst]
  simp only [exec, execPictureReconstruct, hx, hp, hgo, hlost, hreason]
  rfl

/-- Settles O29: each clause is its row's branch under the statement's conditions; the picture an entropy engine takes is the least of the order of work. -/
theorem picturesAreDecodedShapedAndDropped : Obligations.PicturesAreDecodedShapedAndDropped := by
  refine ⟨?taken, ?reconstructed, ?shaped, ?late⟩
  case taken =>
    intro engine s x p hengine hout hready hmem hleast
    have hrun : exec (.pictureEntropyStart engine) s = _ := congrArg Host.Outcome.next (if_neg (by simp [Nat.not_le.2 hengine, hout, hready]))
    refine hrun.trans ?_
    dsimp only
    rw [Chooses.foldl_least (key := fun z => s.pictureKey z.1 z.2) (a := (x, p)) ⟨fun _ => rfl, fun _ _ h => if_pos h, fun _ _ h => if_neg h⟩ s.entropyReady none nofun hleast (.inl hmem)]
  case reconstructed =>
    intro sc pic s x p hx hp hph hst hbefore lost b y t
    have hrun := exec_pictureReconstruct_next hx hp hph hst hbefore (lost := lost) (b := b) rfl rfl
    have hbroken : lost ≠ none → b ≠ 0 := by
      intro hl h0
      by_cases hr : x.brokenOf p = 0 ∨ x.brokenOf p = 7
      · exact absurd ((if_pos ⟨hr, hl⟩).symm.trans h0) (by decide)
      · exact hr (.inl ((if_neg fun h => hr h.1).symm.trans h0))
    refine ⟨fun h0 => hrun.trans ?_, fun h0 hl => hrun.trans ?_, fun f hl => hrun.trans ?_⟩
    · rw [if_pos h0, of_not_not (mt hbroken (not_not.2 h0))]
      rfl
    · rw [if_neg h0, hl]
      rfl
    · rw [if_neg (hbroken (by simp [hl])), hl]
      rfl
  case shaped =>
    intro sc pic s x p y hx hp hsh hbusy hfirst hy t
    have hgo : (!p.toShape || s.engineBusy 2 0 || !(((firstSample (s.waitingFor 2)).map fun y => (s.routesTo sc p).contains y) == some true)) = false := by simp [hsh, hbusy, hfirst, hy]
    refine ⟨fun hf => ?_, fun f hf => ?_⟩
    · simp only [exec, execRoutedPictureShape, hx, hp, hgo, hf]
      rfl
    · simp only [exec, execRoutedPictureShape, hx, hp, hgo, hf]
      rfl
  case late =>
    intro sc pic s x p hx hp hlive hsh hph hst u t
    have hgo : (!x.live || p.shaped || p.phase == 3 || (x.st != .decoding && x.st != .ended)) = false := by
      obtain h | h := hst <;> simp [hlive, hsh, hph, h]
    have hrun : exec (.livePictureDeadline sc pic) s = .next (if p.f 2 = 0 && p.phase == 0 then (((t.updPic sc pic fun q => { q with phase := 3 }).odInc (0x5300 + sc) 5).streamFault x .mediaFrameDropped).settle sc else t) := by
      simp only [exec, execLivePictureDeadline, hx, hp, hgo]
      rfl
    refine ⟨fun h => hrun.trans ?_, fun h => hrun.trans ?_⟩
    · rw [if_pos (by simp [h])]
    · rw [if_neg (by simpa using h)]

end Sys2Proof.Machine
end

section
/-! PROOFS of the family 16_host_interface: doorbells (O31), and a window read that changes memory (O57). -/
namespace Sys2Proof.Machine

/-! Counts of 32 bits (R753). -/

/-- A difference of two counts, as the front end forms it. -/
theorem toNat_ofNat_sub (v k : Nat) : (BitVec.ofNat 32 v - BitVec.ofNat 32 k).toNat = (v % 2 ^ 32 + 2 ^ 32 - k % 2 ^ 32) % 2 ^ 32 := by
  rw [BitVec.toNat_sub, BitVec.toNat_ofNat, BitVec.toNat_ofNat]
  omega

/-- A count moved on by its difference to a value reads as that value. -/
theorem ofNat_add_toNat_sub (k : Nat) (n : BitVec 32) : BitVec.ofNat 32 (k + (n - BitVec.ofNat 32 k).toNat) = n := by
  rw [BitVec.ofNat_add, BitVec.ofNat_toNat, BitVec.setWidth_eq]
  bv_omega

/-- Whether a write of SQ_TAIL is applied, by the differences of the counts. -/
theorem sqTailOk_iff (head tail slots v : Nat) :
    sqTailOk head tail slots (v % 2 ^ 32) = true ↔
      (BitVec.ofNat 32 v - BitVec.ofNat 32 head).toNat ≤ slots ∧ (BitVec.ofNat 32 v - BitVec.ofNat 32 tail).toNat ≤ (BitVec.ofNat 32 v - BitVec.ofNat 32 head).toNat := by
  simp only [sqTailOk, toNat_ofNat_sub, Bool.and_eq_true, decide_eq_true_eq]

/-- Whether a write of CQ_HEAD is applied, by the differences of the counts. -/
theorem cqHeadOk_iff (head tail v : Nat) :
    cqHeadOk head (tail % 2 ^ 32) (v % 2 ^ 32) = true ↔
      (BitVec.ofNat 32 v - BitVec.ofNat 32 head).toNat ≤ (BitVec.ofNat 32 tail - BitVec.ofNat 32 head).toNat := by
  simp only [cqHeadOk, toNat_ofNat_sub, decide_eq_true_eq]

/-! Doorbells. -/

/-- A doorbell write dropped leaves every context. -/
theorem State.dropDoorbell_ctxs (s : State) (cc : Nat) : (s.dropDoorbell cc).ctxs = s.ctxs := by
  rw [State.dropDoorbell, State.recordLimited_ctxs, State.odInc_ctxs]

/-- A write of SQ_TAIL is applied or dropped, by the differences of the counts' 32 bits. -/
theorem State.ringSqTail_eq (s : State) (cc v : Nat) :
    let n := BitVec.ofNat 32 v
    s.ringSqTail cc v = if (s.ctx cc).cond ≠ .absent ∧ (n - BitVec.ofNat 32 (s.ctx cc).sqHead).toNat ≤ s.odN (0x2200 + cc) 10 ∧ (n - BitVec.ofNat 32 (s.ctx cc).sqTail).toNat ≤ (n - BitVec.ofNat 32 (s.ctx cc).sqHead).toNat
      then ((s.updCtx cc fun y => { y with sqTail := y.sqHead + (n - BitVec.ofNat 32 y.sqHead).toNat }).refresh cc).preempt cc else s.dropDoorbell cc := by
  intro n
  unfold State.ringSqTail
  simp only [sqTailOk_iff, n, toNat_ofNat_sub, Bool.or_eq_true, decide_eq_true_eq, Bool.not_eq_true', ← Bool.not_eq_true]
  rw [← ite_not]
  simp only [not_or, not_not, ne_eq]

/-- A write of CQ_HEAD is applied or dropped, by the differences of the counts' 32 bits. -/
theorem State.ringCqHead_eq (s : State) (cc v : Nat) :
    let n := BitVec.ofNat 32 v
    s.ringCqHead cc v = if (s.ctx cc).cond ≠ .absent ∧ (n - BitVec.ofNat 32 (s.ctx cc).cqHead).toNat ≤ (BitVec.ofNat 32 (s.ctx cc).cqTail - BitVec.ofNat 32 (s.ctx cc).cqHead).toNat
      then s.updCtx cc fun y => { y with cqHead := y.cqHead + (n - BitVec.ofNat 32 y.cqHead).toNat } else s.dropDoorbell cc := by
  intro n
  unfold State.ringCqHead
  simp only [cqHeadOk_iff, n, toNat_ofNat_sub, Bool.or_eq_true, decide_eq_true_eq, Bool.not_eq_true', ← Bool.not_eq_true]
  rw [← ite_not]
  simp only [not_or, not_not, ne_eq]

/-- A context's condition worked out again, and cores put into Stopping for it, leave its counts and the memory. -/
theorem State.refresh_preempt_keeps {s : State} {cc : Nat} (h : cc < s.ctxs.length) :
    (((s.refresh cc).preempt cc).ctx cc).sqTail = (s.ctx cc).sqTail ∧ (((s.refresh cc).preempt cc).ctx cc).sqHead = (s.ctx cc).sqHead ∧ ((s.refresh cc).preempt cc).mem = s.mem := by
  obtain ⟨hctxs, hmem⟩ := (s.refresh cc).preempt_keeps cc
  obtain ⟨since, blocked, hctx⟩ := State.setCond_ctx (c := s.condNow cc) h
  have hx : ((s.refresh cc).preempt cc).ctx cc = { s.ctx cc with cond := s.condNow cc, since := since, blockedAt := blocked } := by
    rw [← hctx]
    unfold State.ctx
    rw [hctxs]
    rfl
  exact ⟨by rw [hx], by rw [hx], hmem.trans State.setCond_mem⟩

/-- A function applied at an index of a list depends only on what it makes of the element there. -/
theorem modAt_congr {α : Type} {f g : α → α} (d : α) : ∀ (l : List α) (i : Nat), f (nth l i d) = g (nth l i d) → modAt l i f = modAt l i g
  | [], _, _ => rfl
  | _ :: l, 0, h => congrArg (· :: l) h
  | a :: l, i + 1, h => congrArg (a :: ·) (modAt_congr d l i h)

/-- Changes of a context that agree on what it is are the same. -/
theorem State.updCtx_congr {s : State} {cc : Nat} {f g : Context → Context} (h : f (s.ctx cc) = g (s.ctx cc)) : s.updCtx cc f = s.updCtx cc g := by
  unfold State.updCtx
  rw [modAt_congr {} s.ctxs cc h]

/-- Settles O31: the differences the front end forms are those of the counts' 32 bits. -/
theorem doorbellWritesAreAppliedOrDropped : Obligations.DoorbellWritesAreAppliedOrDropped := by
  intro cc v s hwhole hcc hreach x n b dropped
  have hlen : cc < s.ctxs.length := by rw [hwhole.2.1]; exact hcc
  have htail : exec (.doorbellSqTail cc v) s = .next _ := congrArg Host.Outcome.next ((if_pos (by simp [hcc, hreach])).trans (s.ringSqTail_eq cc v))
  have hhead : exec (.doorbellCqHead cc v) s = .next _ := congrArg Host.Outcome.next ((if_pos (by simp [hcc, hreach])).trans (s.ringCqHead_eq cc v))
  constructor
  · split
    next h =>
      let u := s.updCtx cc fun y => { y with sqTail := y.sqHead + (n - b y.sqHead).toNat }
      have hu : u.ctx cc = { x with sqTail := x.sqHead + (n - b x.sqHead).toNat } := State.updCtx_ctx hlen
      obtain ⟨ht, hh, hm⟩ := State.refresh_preempt_keeps (s := u) (cc := cc) (by simpa [u] using hlen)
      rw [hu] at ht hh
      refine ⟨_, htail.trans (congrArg _ (if_pos h)), ?_, ht, hh, hm⟩
      exact (congrArg b ht).trans (ofNat_add_toNat_sub _ _)
    next h => exact ⟨htail.trans (congrArg _ (if_neg h)), s.dropDoorbell_ctxs cc⟩
  · split
    next h =>
      let u := s.updCtx cc fun y => { y with cqHead := y.cqHead + (n - b y.cqHead).toNat }
      have hu : u.ctx cc = { x with cqHead := x.cqHead + (n - b x.cqHead).toNat } := State.updCtx_ctx hlen
      refine ⟨u, hhead.trans (congrArg _ (if_pos h)), ?_, State.updCtx_congr rfl⟩
      rw [hu]
      exact ofNat_add_toNat_sub _ _
    next h => exact hhead.trans (congrArg _ (if_neg h))

/-! A window read of a line whose dirty sector is lost. -/

/-- The first line of the HBM window: its first sector is dirty in the Larder with an error beyond correction, over ones in HBM. -/
def lostWindowLine : State :=
  { oneDirtySector with larder := { oneDirtySector.larder with bad := [0] }, host := { up := true, link := 4, winHbm := 2 ^ 34 } }

/-- The read drops the sector, whose byte 0 becomes that of HBM. -/
theorem lostWindowLine_readWindow : memGet (lostWindowLine.readWindow 0 0).mem 0 = 1#8 := by decide +kernel

/-- Refutes O57: its first clause has a window read change no byte, but one that meets a dirty sector beyond correction loses it (R303, R772), and the bytes HBM holds beneath are read from then on. -/
theorem not_hostAccessesReachTheWindows : ¬ Obligations.HostAccessesReachTheWindows := by
  rintro ⟨read, -⟩
  have hreach : lostWindowLine.hostReach = true := by decide +kernel
  have hwindow : lostWindowLine.windowAddr (0 / 64 * 64) = some 0 := by decide +kernel
  have hrun : exec (.hostWindowRead 0) lostWindowLine = .next (lostWindowLine.readWindow 0 0) := by
    change execHostWindowRead 0 lostWindowLine = _
    simp only [execHostWindowRead, hreach, hwindow, if_pos]
  obtain ⟨t, ht, hmem, -⟩ := read 0 0 lostWindowLine hreach hwindow
  obtain rfl : lostWindowLine.readWindow 0 0 = t := Host.Outcome.next.inj (hrun.symm.trans ht)
  exact absurd (hmem ▸ lostWindowLine_readWindow) (by decide)

end Sys2Proof.Machine
end

section
/-! PROOFS of the family 17_management_and_security: writes to the object dictionary, firmware and debug tokens (O58). -/
namespace Sys2Proof.Machine

/-! What is recorded and reported leaves the keys and the store. -/

theorem Reported.sec {s t : State} : Reported s t → t.sec = s.sec := by rintro ⟨_, _, _, _, _, rfl⟩; rfl

theorem Reported.nv {s t : State} : Reported s t → t.nv = s.nv := by rintro ⟨_, _, _, _, _, rfl⟩; rfl

theorem Reported.fw {s t : State} (h : Reported s t) (k : Nat) : t.fw k = s.fw k := by
  unfold State.fw
  rw [h.sec]

/-- A fault of scope INFO is recorded and stops nothing (R852). -/
theorem State.raise_info_reported (s : State) {r : FaultRec} (h : codeScope r.code = .info) : Reported s (s.raise r) :=
  s.raise_of_info h ▸ s.record_reported r

theorem State.updFw_fw {s : State} {k : Nat} (f : Firmware → Firmware) (h : k - 1 < s.sec.fw.length) : (s.updFw k f).fw k = f (s.fw k) :=
  nth_modAt_same _ _ _ _ h

theorem State.noted_reported (t : State) (ix sub old new : Nat) : Reported t (t.noted ix sub old new) :=
  (t.flight_reported _ _ _ _ _).trans (State.emit_reported _ _)

/-- The status is the last that is sent. -/
theorem State.emit_getLast? (s : State) (o : Out) : (s.emit o).out.getLast? = some o := List.getLast?_concat

/-! Entries. -/

/-- Every row of the object dictionary has 8-bit subindices. -/
theorem odTable_hi_lt : ∀ r ∈ odTable, r.hi < 256 := by decide +kernel

theorem odFind_sub_lt {ix sub : Nat} {r : OdRow} (h : odFind ix sub = some r) : sub < 256 := by
  have hhas := List.find?_some h
  have hhi := odTable_hi_lt r (List.mem_of_find?_eq_some h)
  simp only [odHas, Bool.and_eq_true, decide_eq_true_eq] at hhas
  omega

/-- The count of flight-recorder entries refused is not an entry that is written. -/
theorem odKey_ne_recorderRefused {ix sub : Nat} {r : OdRow} (h : odFind ix sub = some r) (hrc : r.acc ≠ .rc) : odKey ix sub ≠ odKey 0x8200 3 := by
  intro hkey
  have hsub := odFind_sub_lt h
  unfold odKey at hkey
  obtain ⟨rfl, rfl⟩ : ix = 0x8200 ∧ sub = 3 := by omega
  rw [odFind_recorderRefused] at h
  exact hrc (Option.some.inj h ▸ rfl)

/-- What a write does besides setting the entry leaves the entries. -/
theorem State.beforeWrite_od (s : State) (ix sub v : Nat) : (s.beforeWrite ix sub v).od = s.od := by
  have leave : ∀ p mask, (s.leaveQuarters p mask).od = s.od := by
    intro p mask
    unfold State.leaveQuarters State.retainQuarters
    refine List.foldlRecOn (motive := fun t : State => t.od = s.od) _ _ ?_ fun t ht n _ => ht
    refine List.foldlRecOn (motive := fun t : State => t.od = s.od) _ _ ?_ fun t ht q _ => ht
    exact List.foldlRecOn (motive := fun t : State => t.od = s.od) _ _ rfl fun t ht n _ => ht
  unfold State.beforeWrite State.changeQuarters
  split
  · split
    · exact leave _ _
    · rfl
  · split <;> rfl

/-- An entry set holds its value, and still does once that is noted. -/
theorem State.setEntry_noted_held {s : State} (hw : mapWf odDefault s.od = true) {ix sub : Nat} (hkey : odKey ix sub ≠ odKey 0x8200 3) (r : OdRow) (v old new : Nat) :
    mapGet odDefault ((s.setEntry r ix sub v).noted ix sub old new).od (odKey ix sub) = s.heldAs r ix sub v := by
  have hod : (s.setEntry r ix sub v).od = mapPut odDefault s.od (odKey ix sub) (s.heldAs r ix sub v) := by
    unfold State.setEntry
    dsimp only
    split <;> exact congrArg (mapPut odDefault · _ _) (s.beforeWrite_od ix sub v)
  refine (BitVec.eq_of_toNat_eq (State.noted_odN _ ix sub old new hkey)).trans ?_
  unfold State.odW
  rw [hod, mapGet_put _ _ _ _ _ _ hw, if_pos rfl]

/-! A write to the object dictionary, by the checks in their order (R901). -/

section
variable {s : State} {ix sub v : Nat}

theorem exec_odWrite_answered (hup : s.mgmtUp = true) (hne : ix ≠ 0x8000 ∨ sub ≠ 5) :
    exec (.odWrite ix sub v) s = answered ix sub (s.shown ix sub) v (s.odWrite ix sub v) := by
  have hno : ¬(ix = 0x8000 && sub = 5 && v = 0xA5) = true := by
    simp only [Bool.and_eq_true, decide_eq_true_eq]
    omega
  change execOdWrite ix sub v s = _
  simp only [execOdWrite, if_pos hup, State.odWriteNoted, if_neg hno, answered]

theorem State.odWrite_of_absent (h : odFind ix sub = none) : s.odWrite ix sub v = (s, 1) := by
  simp only [State.odWrite, h]

variable {r : OdRow} (h : odFind ix sub = some r)
include h

theorem State.odWrite_of_readOnly (ha : r.acc = .ro ∨ r.acc = .rc ∨ refusesAll ix sub = true) : s.odWrite ix sub v = (s, 2) := by
  simp only [State.odWrite, h]
  exact if_pos (by simpa [or_assoc] using ha)

variable (hro : r.acc ≠ .ro) (hrc : r.acc ≠ .rc) (hall : refusesAll ix sub = false)
include hro hrc hall

theorem State.odWrite_of_outOfRange (hrange : s.rangeOk r ix sub v = false) : s.odWrite ix sub v = (s, 3) := by
  simp [State.odWrite, h, hro, hrc, hall, hrange]

variable (hrange : s.rangeOk r ix sub v = true) (hcontrol : s.controlWrite ix sub v = none)
include hrange hcontrol

theorem State.odWrite_of_excluded (hstate : s.stateOk ix sub = false) : s.odWrite ix sub v = (s, 4) := by
  simp [State.odWrite, h, hro, hrc, hall, hrange, hcontrol, hstate]

theorem State.odWrite_of_sumBroken (hstate : s.stateOk ix sub = true) (hsum : s.sumOk r ix sub v = false) : s.odWrite ix sub v = (s, 5) := by
  simp [State.odWrite, h, hro, hrc, hall, hrange, hcontrol, hstate, hsum]

theorem State.odWrite_of_good (hstate : s.stateOk ix sub = true) (hsum : s.sumOk r ix sub v = true) : s.odWrite ix sub v = s.commitEntry r ix sub v := by
  simp [State.odWrite, h, hro, hrc, hall, hrange, hcontrol, hstate, hsum]

end

/-- A write that nothing refuses: the entry holds the value, or the store does not commit it and the entry stays. -/
theorem State.commitEntry_answered {s : State} (hw : mapWf odDefault s.od = true) {ix sub : Nat} {r : OdRow} (hkey : odKey ix sub ≠ odKey 0x8200 3) (old new v : Nat) :
    ∃ t : State, answered ix sub old new (s.commitEntry r ix sub v) = .next t
      ∧ (r.pers = false ∨ s.storeFails = 0 → t.out.getLast? = some (.status ix sub 0) ∧ mapGet odDefault t.od (odKey ix sub) = s.heldAs r ix sub v)
      ∧ (r.pers = true → s.storeFails ≠ 0 → t.out.getLast? = some (.status ix sub 7) ∧ t.nv = s.nv ∧ mapGet odDefault t.od (odKey ix sub) = mapGet odDefault s.od (odKey ix sub)) := by
  by_cases hfail : r.pers = true ∧ s.storeFails ≠ 0
  · let u : State := { s with storeFails := s.storeFails - 1 }
    let f : FaultRec := { code := .mgmtStoreFail, unit := { kind := 12, inst := 0 } }
    have hcommit : s.commitEntry r ix sub v = (u.raise f, 7) := if_pos (by simpa using hfail)
    have hraise : u.raise f = u.record f := rfl
    refine ⟨(u.raise f).emit (.status ix sub 7), ?_, fun hok => ?_, fun _ _ => ⟨State.emit_getLast? _ _, ?_, ?_⟩⟩
    · rw [hcommit, answered_refused (by omega)]
    · exact absurd hok (by simpa using hfail)
    · exact (u.raise_reported (r := f) rfl).nv
    · exact BitVec.eq_of_toNat_eq (hraise ▸ u.record_odN hkey f)
  · have hcommit : s.commitEntry r ix sub v = (s.setEntry r ix sub v, 0) := if_neg (by simpa using hfail)
    refine ⟨(s.setEntry r ix sub v).noted ix sub old new, ?_, fun _ => ⟨State.emit_getLast? _ _, State.setEntry_noted_held hw hkey r v old new⟩, fun hp hs => absurd ⟨hp, hs⟩ hfail⟩
    rw [hcommit, answered_accepted]
    rfl

/-! Firmware. -/

section
variable {s : State} {k : Nat}

theorem exec_firmwareCommit_eq (h1 : 1 ≤ k) (h5 : k ≤ 5) : exec (.firmwareCommit k) s = answered (0x9010 + k) 6 0 1 (s.fwCommit k) := by
  change answered _ _ _ _ (s.fwControl k 1) = _
  simp [State.fwControl, show k ≠ 0 by omega, show ¬6 ≤ k by omega]

theorem exec_firmwareAdvance_eq (h1 : 1 ≤ k) (h5 : k ≤ 5) : exec (.firmwareAdvance k) s = answered (0x9010 + k) 6 0 2 (s.fwAdvance k) := by
  change answered _ _ _ _ (s.fwControl k 2) = _
  simp [State.fwControl, show k ≠ 0 by omega, show ¬6 ≤ k by omega]

/-- COMMIT of a staging slot whose image verifies makes it the preferred one. -/
theorem exec_firmwareCommit_of_good (h1 : 1 ≤ k) (h5 : k ≤ 5) (hlen : s.sec.fw.length = 5) (hst : (s.fw k).staging = .receiving) (hgood : slotGood (s.fw k) k (!(s.fw k).runningB) = true) :
    ∃ t : State, exec (.firmwareCommit k) s = .next t ∧ (t.fw k).staging = .committed ∧ (t.fw k).preferB = !(s.fw k).runningB ∧ t.out.getLast? = some (.status (0x9010 + k) 6 0) := by
  let u := s.updFw k fun x => { x with staging := .committed, preferB := !x.runningB }
  have hcommit : s.fwCommit k = (u, 0) := if_pos (by simp [hst, hgood])
  have hu : u.fw k = { s.fw k with staging := .committed, preferB := !(s.fw k).runningB } := State.updFw_fw _ (by omega)
  have ht := ((u.noted_reported (0x9010 + k) 6 0 1).fw k).trans hu
  refine ⟨u.noted (0x9010 + k) 6 0 1, ?_, by rw [ht], by rw [ht], State.emit_getLast? _ _⟩
  rw [exec_firmwareCommit_eq h1 h5, hcommit, answered_accepted]
  rfl

/-- COMMIT of any other is FAILED. -/
theorem exec_firmwareCommit_of_bad (h1 : 1 ≤ k) (h5 : k ≤ 5) (hlen : s.sec.fw.length = 5) (hbad : (s.fw k).staging ≠ .receiving ∨ slotGood (s.fw k) k (!(s.fw k).runningB) = false) :
    ∃ t : State, exec (.firmwareCommit k) s = .next t ∧ (t.fw k).staging = .failed ∧ t.out.getLast? = some (.status (0x9010 + k) 6 4) := by
  let u := s.updFw k fun x => { x with staging := .failed }
  let f : FaultRec := { code := .secImageVerify, unit := { kind := 12, inst := 0 } }
  have hcommit : s.fwCommit k = (u.raise f, 4) := if_neg (by
    simp only [Bool.and_eq_true, decide_eq_true_eq, not_and, Bool.not_eq_true]
    exact fun hst => hbad.resolve_left (not_not.2 hst))
  have hu : u.fw k = { s.fw k with staging := .failed } := State.updFw_fw _ (by omega)
  have ht := ((u.raise_info_reported (r := f) rfl).trans (State.emit_reported _ (.status (0x9010 + k) 6 4))).fw k |>.trans hu
  refine ⟨(u.raise f).emit (.status (0x9010 + k) 6 4), ?_, by rw [ht], State.emit_getLast? _ _⟩
  rw [exec_firmwareCommit_eq h1 h5, hcommit, answered_refused (by omega)]

/-- ADVANCE raises the fuse counter to the running image's SVN. -/
theorem exec_firmwareAdvance_of_lt (h1 : 1 ≤ k) (h5 : k ≤ 5) (hlen : s.sec.fw.length = 5) (h : (s.fw k).fuse < (s.fw k).svn) :
    ∃ t : State, exec (.firmwareAdvance k) s = .next t ∧ (t.fw k).fuse = (s.fw k).svn ∧ t.out.getLast? = some (.status (0x9010 + k) 6 0) := by
  let u := s.updFw k fun x => { x with fuse := x.svn }
  have hadvance : s.fwAdvance k = (u, 0) := if_pos h
  have hu : u.fw k = { s.fw k with fuse := (s.fw k).svn } := State.updFw_fw _ (by omega)
  have ht := ((u.noted_reported (0x9010 + k) 6 0 2).fw k).trans hu
  refine ⟨u.noted (0x9010 + k) 6 0 2, ?_, by rw [ht], State.emit_getLast? _ _⟩
  rw [exec_firmwareAdvance_eq h1 h5, hadvance, answered_accepted]
  rfl

/-- ADVANCE without a higher SVN is refused. -/
theorem exec_firmwareAdvance_of_le (h1 : 1 ≤ k) (h5 : k ≤ 5) (h : (s.fw k).svn ≤ (s.fw k).fuse) : exec (.firmwareAdvance k) s = .next (s.emit (.status (0x9010 + k) 6 4)) := by
  have hadvance : s.fwAdvance k = (s, 4) := if_neg (Nat.not_lt.2 h)
  rw [exec_firmwareAdvance_eq h1 h5, hadvance, answered_refused (by omega)]

end

/-! Debug tokens. -/

/-- A token that is accepted unlocks its levels. -/
theorem exec_debugTokenSubmit_of_good {s : State} (h : s.tokenGood = true) :
    ∃ t : State, exec .debugTokenSubmit s = .next t ∧ t.sec = { s.sec with levels := s.sec.levels ||| fld (headWords s.sec.token) 0 2 0, outcome := 1, accepted := s.sec.token, nonces := s.sec.nonces + 1 }
      ∧ t.mem = s.mem ∧ t.out.getLast? = some (.status 0x9300 2 0) := by
  let u := s.withSec fun x => { x with levels := x.levels ||| fld (headWords x.token) 0 2 0, outcome := 1, accepted := x.token, nonces := x.nonces + 1 }
  let f : FaultRec := { code := .secDebugUnlocked, unit := { kind := 12, inst := 0 } }
  have hsubmit : s.submitToken = (u.raise f, 0) := if_pos h
  have ht : Reported u ((u.raise f).noted 0x9300 2 0 1) := (u.raise_reported (r := f) rfl).trans (State.noted_reported _ _ _ _ _)
  refine ⟨(u.raise f).noted 0x9300 2 0 1, ?_, ht.sec, ht.mem, State.emit_getLast? _ _⟩
  change answered _ _ _ _ s.submitToken = _
  rw [hsubmit, answered_accepted]
  rfl

/-- A token that is refused unlocks nothing. -/
theorem exec_debugTokenSubmit_of_bad {s : State} (h : s.tokenGood = false) :
    ∃ t : State, exec .debugTokenSubmit s = .next t ∧ t.sec = { s.sec with outcome := 2, nonces := s.sec.nonces + 1 } ∧ t.mem = s.mem ∧ t.out.getLast? = some (.status 0x9300 2 4) := by
  let u := s.withSec fun x => { x with outcome := 2, nonces := x.nonces + 1 }
  let f : FaultRec := { code := .secTokenReject, unit := { kind := 12, inst := 0 } }
  have hsubmit : s.submitToken = (u.raise f, 4) := if_neg (by simp [h])
  have ht : Reported u ((u.raise f).emit (.status 0x9300 2 4)) := (u.raise_info_reported (r := f) rfl).trans (State.emit_reported _ _)
  refine ⟨_, ?_, ht.sec, ht.mem, State.emit_getLast? _ _⟩
  change answered _ _ _ _ s.submitToken = _
  rw [hsubmit, answered_refused (by omega)]

/-- Settles O58: the checks of R901 in their order, then the store; the firmware entries and the debug token by the branch each takes. -/
theorem entriesAndFirmwareAreWritten : Obligations.EntriesAndFirmwareAreWritten := by
  refine ⟨?entries, ?firmware, ?token⟩
  case entries =>
    intro ix sub v s hup hne
    have hrun : exec (.odWrite ix sub v) s = _ := exec_odWrite_answered hup hne
    refine ⟨fun h => ?_, fun r h => ⟨fun ha => ?_, fun hro hrc hall => ⟨fun hrange => ?_, fun hrange hcontrol => ⟨fun hstate => ?_, fun hstate hsum => ?_, fun hwf hstate hsum => ?_⟩⟩⟩⟩
    · rw [hrun, State.odWrite_of_absent h, answered_refused (by omega)]
    · rw [hrun, State.odWrite_of_readOnly h ha, answered_refused (by omega)]
    · rw [hrun, State.odWrite_of_outOfRange h hro hrc hall hrange, answered_refused (by omega)]
    · rw [hrun, State.odWrite_of_excluded h hro hrc hall hrange hcontrol hstate, answered_refused (by omega)]
    · rw [hrun, State.odWrite_of_sumBroken h hro hrc hall hrange hcontrol hstate hsum, answered_refused (by omega)]
    · rw [hrun, State.odWrite_of_good h hro hrc hall hrange hcontrol hstate hsum]
      have hheld : s.heldAs r ix sub v = if ix = 0x6020 ∧ sub = 2 then BitVec.ofNat 64 (max v s.flying.length) else BitVec.ofInt 64 ((writtenAs r v).getD 0) := by
        simp only [State.heldAs, Bool.and_eq_true, decide_eq_true_eq]
      rw [← hheld]
      exact State.commitEntry_answered hwf.1 (odKey_ne_recorderRefused h hrc) _ _ _
  case firmware =>
    intro k s hlen h1 h5
    exact ⟨exec_firmwareCommit_of_good h1 h5 hlen, exec_firmwareCommit_of_bad h1 h5 hlen, exec_firmwareAdvance_of_lt h1 h5 hlen, exec_firmwareAdvance_of_le h1 h5⟩
  case token =>
    intro s
    cases hgood : s.tokenGood with
    | true =>
      obtain ⟨t, ht, hsec, hmem, hout⟩ := exec_debugTokenSubmit_of_good hgood
      exact ⟨t, ht, by rw [hsec], hmem, fun _ => ⟨by rw [hsec], by rw [hsec], hout⟩, nofun⟩
    | false =>
      obtain ⟨t, ht, hsec, hmem, hout⟩ := exec_debugTokenSubmit_of_bad hgood
      exact ⟨t, ht, by rw [hsec], hmem, nofun, fun _ => ⟨by rw [hsec], by rw [hsec], hout⟩⟩

end Sys2Proof.Machine
end

section
/-! PROOFS of the family 19_power_startup_electrical: what a module reset leaves of the Attic (O55). -/
namespace Sys2Proof.Machine

/-! An Attic write cut short. -/

section
variable {s : State} {w : Who} {c : CmdInst} {bs : List Byte}

/-- A write that would not be taken leaves the Attic as it is. -/
theorem State.cutWrite_of_fault {code : Code} (hsub : c.sub = 0) (hr : (s.readCrate w c 0).2 = .ok bs)
    (hf : s.atticPutFault (s.ctxPart c.ctx) (c.tmDst % 2 ^ 40) bs = some code) : s.cutWrite w c = s := by
  have hbs : (if c.sub = 1 then sealCrate bs else bs) = bs := if_neg (by omega)
  unfold State.cutWrite
  split
  · generalize s.readCrate w c 0 = r at hr
    obtain ⟨u, _ | _⟩ := r
    · rfl
    · cases hr
      simp only [hbs]
      rw [hf]
      rfl
  · rfl

/-- A write that would be taken has its block, and as many operations of flash as had been made. -/
theorem State.cutWrite_of_room {b : Nat} (hc : (c.op = 0x23 && decide (c.sub < 2) && isAttic c.tmDst) = true) (hsub : c.sub = 0) (hr : (s.readCrate w c 0).2 = .ok bs)
    (hf : s.atticPutFault (s.ctxPart c.ctx) (c.tmDst % 2 ^ 40) bs = none) (hb : (s.placeNext (crateUnits bs)).2 = some b) :
    ∃ (ops : Nat) (r : AtticCrate), s.cutWrite w c = (s.placeNext (crateUnits bs)).1.programRecord ops r := by
  have hbs : (if c.sub = 1 then sealCrate bs else bs) = bs := if_neg (by omega)
  unfold State.cutWrite
  rw [if_pos hc]
  generalize s.readCrate w c 0 = r at hr
  obtain ⟨u, _ | _⟩ := r
  · cases hr
  · cases hr
    generalize hp : s.placeNext (crateUnits bs) = q at hb
    obtain ⟨t, o⟩ := q
    cases hb
    simp only [hbs, hp]
    rw [hf]
    exact ⟨_, _, rfl⟩

end

/-- A record marked bad stays among the records while another is programmed. -/
theorem State.programRecord_anyBad {s : State} (h : s.tier.records.any AtticCrate.bad = true) (ops : Nat) (r : AtticCrate) :
    (s.programRecord ops r).tier.records.any AtticCrate.bad = true := by
  have counted : ∀ bs, (s.programmed bs).tier = s.tier := by
    intro bs
    obtain ⟨od, ho⟩ := s.odAdd_eq 0x3300 8 (4096 * crateUnits bs)
    unfold State.programmed
    rw [ho]
    rfl
  have body : ∀ t : State, t.tier.records.any AtticCrate.bad = true → (t.writeBody r).tier.records.any AtticCrate.bad = true := by
    intro t ht
    exact List.any_cons.trans (by rw [ht, Bool.or_true])
  have commit : ∀ t : State, t.tier.records.any AtticCrate.bad = true → (t.writeCommit r.gen).tier.records.any AtticCrate.bad = true := by
    intro t ht
    refine List.any_map.trans (Eq.trans (congrArg t.tier.records.any ?_) ht)
    funext x
    dsimp only [Function.comp]
    split <;> rfl
  have h1 : (if 1 ≤ ops && r.units then s.programmed r.bytes else s).tier.records.any AtticCrate.bad = true := by
    split
    · rw [counted]
      exact h
    · exact h
  unfold State.programRecord
  dsimp only
  split <;> split
  · exact commit _ (body _ h1)
  · exact commit _ h1
  · exact body _ h1
  · exact h1

/-- The records a reset keeps are those of the Attic with the writes under way cut short. -/
theorem State.restarted_records (s : State) (cause : Nat) : (s.restarted cause).tier.records = s.cutWrites.tier.records := by
  obtain ⟨_, _, _, _, _, h⟩ := (s.restart cause).flight_reported 8 0 s.pwr.stage 3 none
  unfold State.restarted
  rw [h]
  rfl

/-! A pool that the count of refused flight-recorder entries bounds. -/

/-- A sealed crate of one BF16 element (R316, R317). -/
def crateOfOne : List Byte := sealCrate (bytesOfWords [BitVec.ofNat 64 (5 + 2 ^ 8), BitVec.ofNat 64 (2 ^ 20), 0#64, 0#64, 0#64, 0#64, 0#64, 0#64] ++ [0x80#8, 0x3F#8])

/-- The hub die moves a crate from the first byte of the Cellar to the Attic's index 5. -/
def moveToAttic : Exec := { cmd := { ctx := 0, slot := 0, target := 390, words := [0x23#64, 0#64, BitVec.ofNat 64 (2 ^ 44), BitVec.ofNat 64 (2 * 2 ^ 44 + 5), 0#64, 0#64, 0#64, 0#64] }, start := 0 }

/-- The move's context names partition 0x4E00, whose Attic pool (0x3400 + 0x4E00, 03) is the count of refused flight-recorder entries; the recorder is frozen, and the block that is taken next holds a record no longer needed. -/
def poolOfRefused : State :=
  { State.reset.odSetN 0x2200 1 0x4E00 with
    mem := memPutBytes [] (2 ^ 44) crateOfOne
    hub := [moveToAttic]
    pwr := { State.reset.pwr with stage := 10 }
    diag := { State.reset.diag with frozen := true }
    tier := { State.reset.tier with records := [{ index := 7, bytes := crateOfOne, part := 0, ctx := none, gen := 0 }], blocks := [{ block := 0, pages := 1 }] } }

/-- The state with the entry of the reset refused, which the recorder counts. -/
def poolOfRefusedNoted : State := State.noteWrite 0x8000 5 0 0xA5 (poolOfRefused, 0)

theorem poolOfRefused_readCrate : (poolOfRefused.readCrate { ctx := some moveToAttic.cmd.ctx } moveToAttic.cmd 0).2 = .ok crateOfOne := by decide +kernel

theorem poolOfRefusedNoted_readCrate : (poolOfRefusedNoted.readCrate { ctx := some moveToAttic.cmd.ctx } moveToAttic.cmd 0).2 = .ok crateOfOne := by decide +kernel

theorem poolOfRefused_full : poolOfRefused.atticPutFault (poolOfRefused.ctxPart moveToAttic.cmd.ctx) (moveToAttic.cmd.tmDst % 2 ^ 40) crateOfOne = some .tierPoolFull := by decide +kernel

theorem poolOfRefusedNoted_room : poolOfRefusedNoted.atticPutFault (poolOfRefusedNoted.ctxPart moveToAttic.cmd.ctx) (moveToAttic.cmd.tmDst % 2 ^ 40) crateOfOne = none := by decide +kernel

/-- The block is erased for the crate, which marks its record bad. -/
theorem poolOfRefusedNoted_placeNext :
    (poolOfRefusedNoted.placeNext (crateUnits crateOfOne)).2 = some 0 ∧ (poolOfRefusedNoted.placeNext (crateUnits crateOfOne)).1.tier.records.any AtticCrate.bad = true := by decide +kernel

theorem poolOfRefused_noneBad : poolOfRefused.tier.records.any AtticCrate.bad = false := by decide +kernel

theorem poolOfRefused_cutWrites : poolOfRefused.cutWrites = poolOfRefused := by
  have hcores : (poolOfRefused.cores.filterMap fun k => k.exec.map Exec.cmd) = [] := by decide +kernel
  have hhub : poolOfRefused.hub = [moveToAttic] := by decide +kernel
  unfold State.cutWrites
  rw [hcores, hhub, List.foldl_nil, List.foldl_cons, List.foldl_nil]
  exact State.cutWrite_of_fault (by decide +kernel) poolOfRefused_readCrate poolOfRefused_full

theorem poolOfRefusedNoted_cutWrites : poolOfRefusedNoted.cutWrites.tier.records.any AtticCrate.bad = true := by
  have hcores : (poolOfRefusedNoted.cores.filterMap fun k => k.exec.map Exec.cmd) = [] := by decide +kernel
  have hhub : poolOfRefusedNoted.hub = [moveToAttic] := by decide +kernel
  obtain ⟨hplace, hbad⟩ := poolOfRefusedNoted_placeNext
  obtain ⟨ops, r, hcut⟩ := State.cutWrite_of_room (w := { ctx := some moveToAttic.cmd.ctx }) (by decide +kernel) (by decide +kernel) poolOfRefusedNoted_readCrate poolOfRefusedNoted_room hplace
  unfold State.cutWrites
  rw [hcores, hhub, List.foldl_nil, List.foldl_cons, List.foldl_nil]
  rw [hcut]
  exact State.programRecord_anyBad hbad ops r

/-- Refutes O55: its clause of a module reset compares the records of the Attic with those cut short before the reset is noted, for every state. Where the recorder is frozen the note raises the count of refused entries, and that count is the Attic pool of a context whose entry names partition 0x4E00: the crate finds room only after the note, and its block is erased. -/
theorem not_startUpRunsStageByStage : ¬ Obligations.StartUpRunsStageByStage := by
  rintro ⟨-, -, -, -, -, -, -, -, -, -, reset, -⟩
  obtain ⟨⟨t, ht, -, -, -, -, -, hrecords⟩, -⟩ := reset poolOfRefused (by decide +kernel)
  have hrun : exec .moduleReset poolOfRefused = .next ((poolOfRefusedNoted.restarted 2).emit (.status 0x8000 5 0)) := by
    change execModuleReset poolOfRefused = _
    unfold execModuleReset
    rw [if_pos (by decide +kernel)]
    rfl
  obtain rfl := Host.Outcome.next.inj (hrun.symm.trans ht)
  rw [State.emit_tier, State.restarted_records, poolOfRefused_cutWrites] at hrecords
  exact Bool.false_ne_true (poolOfRefused_noneBad.symm.trans (hrecords ▸ poolOfRefusedNoted_cutWrites))

end Sys2Proof.Machine
end
